-- ==== Sys2Proof/Word.lean ====
section
/-! DEFINITION. The word types of the Vrelzin AVZ-4096 (R2: bit 0 is the least significant bit). -/

namespace Sys2Proof

/-- A byte of memory. -/
abbrev Byte := BitVec 8

/-- A value on a port, in a global register or in a mailbox: 64 bits (R97). -/
abbrev W := BitVec 64

/-- A control-instruction word: 32 bits (R67). -/
abbrev Word32 := BitVec 32

end Sys2Proof
end

