-- ==== Sys2Proof/Config.lean ====
section
/-! DEFINITION. What an implementation of the architecture fixes, and the free values. The sizes are those of R11
and R12. A constant with no body is a value the spec leaves open: nothing can be proved of it, so a statement that
mentions one holds whatever it is. -/

namespace Sys2Proof

/-- What an SPDM answer says, as far as R405 gives it: the versions; whether certificates, challenges and measurements are served; the
hash and the asymmetric algorithm, and whether that is an extended one; digests and chains by slot; a signature; measurements by
index. -/
inductive SpdmAnswer where
  | version (known : List (Nat × Nat))
  | capabilities (certs challenges measurements : Bool)
  | algorithms (hash sign : String) (extended : Bool)
  | digests (slots : List (Nat × List Byte))
  | certificate (slot : Nat) (chain : List Byte)
  | challengeAuth (signature : List Byte)
  | measurements (found : List (Nat × List Byte))
  deriving DecidableEq, Repr

end Sys2Proof

namespace Sys2Proof.Config

/-- Clusters per die (R11). -/
def clustersPerDie : Nat := 64
/-- Dies of the package (R11). -/
def dies : Nat := 4
/-- Pages per cluster (R11). -/
def pagesPerCluster : Nat := 16
/-- Control threads per cluster (R11). -/
def threadsPerCluster : Nat := 16
/-- Bytes of a page bank (R11). -/
def bankBytes : Nat := 32768
/-- Bytes of a reorder granule (R11, R233). -/
def granule : Nat := 4096
/-- Entries of the return-address store (R115). -/
def rasDepth : Nat := 16
/-- Starts a channel queues (R134). -/
def startQueue : Nat := 4
/-- Launches a queue holds (R282). -/
def launchQueue : Nat := 16
/-- Collective contexts of a die (R304). -/
def collContexts : Nat := 16
/-- Entries of the proofing table (R287). -/
def proofEntries : Nat := 1024
/-- Entries of a crew's staging table (R361). -/
def stagingEntries : Nat := 64
/-- The quantum floor in cycles (R362). -/
def quantumFloor : Nat := 75000
/-- Sectors of one copy outstanding at most (R269). -/
def sectorWindow : Nat := 8
/-- Tokens an edge without a store holds before its producer waits (R53). DESIGN CHOICE: timing only, log 1. -/
def linkCredit : Nat := 4
/-- Fraction bits with which the transcendental functions of R42 are computed before the one rounding. DEDUCED, log 6. -/
def transcBits : Nat := 360

/-- The byte that memory which nothing has written reads as. DESIGN CHOICE, log 4 (unsafe). -/
def freshByte : Byte := 0

/-- SHA-384 of a byte list (R404, R405): the standard's function, not restated by the spec. Free value, log 7. -/
opaque sha384 : List Byte → List Byte

/-- Whether an ECDSA signature over brainpoolP384r1 verifies: key, message digest, signature (R404). Free value, log 7. -/
opaque ecdsaVerify : List Byte → List Byte → List Byte → Bool

/-- The signature that the device identity key gives (R405). Free value, log 7. -/
opaque ecdsaSign : List Byte → List Byte

/-- The bytes of an SPDM answer on the wire: another standard's, which the spec does not restate (R405). Free value, log 7. -/
opaque spdmBytes : SpdmAnswer → List Byte

/-- The certificate chain in slot 0 (R405). Free value, log 7. -/
opaque certChain : List Byte

/-- The element codes that a block of a collective's payload carries where its ue8m0 byte is 0xFF (R307 gives the block a NaN and
states no q), by place. Free value, log 42. -/
opaque nanBlockElem : Nat → Nat

end Sys2Proof.Config
end

