-- ==== Sys2Proof/Syntax.lean ====
section
/-! DEFINITION. The instructions of the machine: one constructor per row of spec/opcode_table.json. The first
109 are the control instructions (R77), whose operands are the fields of their 32-bit word: `t` is target T0, `v` is
target T1, `p` the firing condition PM, `w` the width W, `s` the signedness XOP[2] (the scale shift in LEA), `i` the
immediate, `n` a register number, `m` IMM9, `l` the LSID, `e` the exit, `f` OFF20, `q` the queue, `g` the register
group. The other 133 are the steps of the device that spec/95_what_each_step_holds.md lists: they have no encoding,
and their operands name the unit that takes the step, or carry what the outside world brings. -/

namespace Sys2Proof

/-- PORT of a target field (R73). -/
inductive TPort where
  | none | l | r | x
  deriving DecidableEq, Repr

/-- A target: SLOT and PORT (R73). -/
structure Target where
  slot : BitVec 7
  port : TPort
  deriving DecidableEq, Repr

/-- PM, the firing condition (R74). -/
inductive Pm where
  | none | three | onFalse | onTrue
  deriving DecidableEq, Repr

/-- W, the operation width (R78). -/
inductive Width where
  | w64 | w32 | w16 | w8
  deriving DecidableEq, Repr

/-- Privilege levels (R325). -/
inductive Level where
  | user | super | mgmt
  deriving DecidableEq, Repr

/-- A writer of a circular buffer: channel `ch` of engine set `e`, or node `n` of cell `c` (R189). -/
inductive FifoWriter where
  | channel (e ch : Nat)
  | node (c n : Nat)
  deriving DecidableEq, Repr

/-- A party of the mire-probe chain (R296, R322). -/
inductive Party where
  | thread (t : Nat)
  | node (c n : Nat)
  | channel (e ch : Nat)
  | coll (h : Nat)
  deriving DecidableEq, Repr

/-- Who asks for a pre-emption (R356). -/
inductive PreemptWhy where
  | scheduler | allocator | merge | save
  deriving DecidableEq, Repr

/-- The registers among which a write names one: a group of a thread's system registers, by index (R327), or the BAR0 of a function, by
offset (R400). -/
inductive RegBank where
  | group (t : Nat) (g : BitVec 4)
  | bar0 (f : Nat)
  deriving DecidableEq, Repr

/-- What the platform controller reads over the I3C sideband (R406). -/
inductive SideReg where
  | therm | grant | checks | devinfo
  deriving DecidableEq, Repr

/-- A register that is read from outside: an offset of a function's BAR0 (R400), or one of the sideband, for the partition of a function
(R406). -/
inductive ReadName where
  | bar0 (f off : Nat)
  | side (f : Nat) (r : SideReg)
  deriving DecidableEq, Repr

/-- The instructions and machine steps. -/
inductive Instr where
  /-- ADD (R99). Adds ports L and R at width W and delivers the wrapped, extended result to T0 and T1. -/
  | add (v : Target) (t : Target) (w : Width) (p : Pm)
  /-- SUB (R99). Subtracts R from L at width W and delivers the wrapped result. -/
  | sub (v : Target) (t : Target) (w : Width) (p : Pm)
  /-- MUL (R99). Multiplies L by R at width W and delivers the low W bits. -/
  | mul (v : Target) (t : Target) (w : Width) (p : Pm)
  /-- MULH (R99). Delivers the high W bits of the signed or natural product of L and R. -/
  | mulh (v : Target) (t : Target) (s : Bool) (w : Width) (p : Pm)
  /-- DIV (R99). Divides L by R, truncating toward zero, with all ones and DZ on a zero divisor. -/
  | div (v : Target) (t : Target) (s : Bool) (w : Width) (p : Pm)
  /-- REM (R99). Delivers the remainder of L by R, with the dividend and DZ on a zero divisor. -/
  | rem (v : Target) (t : Target) (s : Bool) (w : Width) (p : Pm)
  /-- AND (R99). Delivers the bitwise AND of L and R at width W. -/
  | and (v : Target) (t : Target) (w : Width) (p : Pm)
  /-- OR (R99). Delivers the bitwise OR of L and R at width W. -/
  | or (v : Target) (t : Target) (w : Width) (p : Pm)
  /-- XOR (R99). Delivers the bitwise XOR of L and R at width W. -/
  | xor (v : Target) (t : Target) (w : Width) (p : Pm)
  /-- SHL (R99). Shifts L left by R modulo W. -/
  | shl (v : Target) (t : Target) (w : Width) (p : Pm)
  /-- SHR (R99). Shifts the natural W-bit value of L right by R modulo W. -/
  | shr (v : Target) (t : Target) (s : Bool) (w : Width) (p : Pm)
  /-- SRA (R99). Shifts L arithmetically right by R modulo W and sign-extends the result. -/
  | sra (v : Target) (t : Target) (w : Width) (p : Pm)
  /-- MIN (R99). Delivers the lesser of L and R by the selected signedness. -/
  | min (v : Target) (t : Target) (s : Bool) (w : Width) (p : Pm)
  /-- MAX (R99). Delivers the greater of L and R by the selected signedness. -/
  | max (v : Target) (t : Target) (s : Bool) (w : Width) (p : Pm)
  /-- EXT (R103). Delivers the low 32 bits of L to T0 and the high 32 bits to T1, zero-extended. -/
  | ext (v : Target) (t : Target) (p : Pm)
  /-- INS (R103). Inserts a field of R into L at the position and length that X gives. -/
  | ins (v : Target) (t : Target)
  /-- ADDI (R101). Adds the sign-extended immediate to L. -/
  | addi (t : Target) (i : BitVec 14) (p : Pm)
  /-- MULI (R101). Multiplies L by the sign-extended immediate, low 64 bits. -/
  | muli (t : Target) (i : BitVec 14) (p : Pm)
  /-- ANDI (R101). ANDs L with the sign-extended immediate. -/
  | andi (t : Target) (i : BitVec 14) (p : Pm)
  /-- ORI (R101). ORs L with the sign-extended immediate. -/
  | ori (t : Target) (i : BitVec 14) (p : Pm)
  /-- XORI (R101). XORs L with the sign-extended immediate. -/
  | xori (t : Target) (i : BitVec 14) (p : Pm)
  /-- SHLI (R101). Shifts L left by the immediate count. -/
  | shli (t : Target) (i : BitVec 14) (p : Pm)
  /-- SHRI (R101). Shifts L logically right by the immediate count. -/
  | shri (t : Target) (i : BitVec 14) (p : Pm)
  /-- SRAI (R101). Shifts L arithmetically right by the immediate count. -/
  | srai (t : Target) (i : BitVec 14) (p : Pm)
  /-- MOVI (R101). Delivers the sign-extended immediate. -/
  | movi (t : Target) (i : BitVec 14) (p : Pm)
  /-- MOVHI (R101). Shifts L left by 14 and ORs in the natural 14-bit immediate. -/
  | movhi (t : Target) (i : BitVec 14) (p : Pm)
  /-- TAG (R102). Replaces the address-space tag of L with R[3:0]. -/
  | tag (v : Target) (t : Target) (p : Pm)
  /-- LEA (R102). Adds R shifted by s to the 60-bit offset of L, keeping the tag. -/
  | lea (v : Target) (t : Target) (s : BitVec 2) (p : Pm)
  /-- CLZ (R103). Counts the leading zero bits of L at width W. -/
  | clz (v : Target) (t : Target) (w : Width) (p : Pm)
  /-- POPC (R103). Counts the one bits of L at width W. -/
  | popc (v : Target) (t : Target) (w : Width) (p : Pm)
  /-- MOV (R103). Delivers L to both targets. -/
  | mov (v : Target) (t : Target) (p : Pm)
  /-- CMPEQ (R104). Delivers 1 if the W-bit patterns of L and R are equal. -/
  | cmpeq (v : Target) (t : Target) (w : Width) (p : Pm)
  /-- CMPNE (R104). Delivers 1 if the W-bit patterns of L and R differ. -/
  | cmpne (v : Target) (t : Target) (w : Width) (p : Pm)
  /-- CMPLT (R104). Delivers 1 if L is less than R by the selected signedness. -/
  | cmplt (v : Target) (t : Target) (s : Bool) (w : Width) (p : Pm)
  /-- CMPLE (R104). Delivers 1 if L is at most R by the selected signedness. -/
  | cmple (v : Target) (t : Target) (s : Bool) (w : Width) (p : Pm)
  /-- CMPEQI (R101). Delivers 1 if L equals the sign-extended immediate. -/
  | cmpeqi (t : Target) (i : BitVec 14) (p : Pm)
  /-- CMPNEI (R101). Delivers 1 if L differs from the sign-extended immediate. -/
  | cmpnei (t : Target) (i : BitVec 14) (p : Pm)
  /-- CMPLTI (R101). Delivers 1 if L is signed-less than the immediate. -/
  | cmplti (t : Target) (i : BitVec 14) (p : Pm)
  /-- CMPLEI (R101). Delivers 1 if L is signed-at-most the immediate. -/
  | cmplei (t : Target) (i : BitVec 14) (p : Pm)
  /-- PAND (R105). Delivers the AND of bit 0 of L and R. -/
  | pand (v : Target) (t : Target) (p : Pm)
  /-- POR (R105). Delivers the OR of bit 0 of L and R. -/
  | por (v : Target) (t : Target) (p : Pm)
  /-- PNOT (R105). Delivers 1 minus bit 0 of L. -/
  | pnot (v : Target) (t : Target) (p : Pm)
  /-- SEL (R105). Delivers L if bit 0 of X is 1, else R. -/
  | sel (v : Target) (t : Target)
  /-- TST (R104). Delivers 1 if L AND R is nonzero at width W. -/
  | tst (v : Target) (t : Target) (w : Width) (p : Pm)
  /-- GRD (R106). Delivers the snapshot value of a global register. -/
  | grd (t : Target) (n : BitVec 6) (p : Pm)
  /-- GWR (R106). Writes L to a global register at commit. -/
  | gwr (n : BitVec 6) (p : Pm)
  /-- MRD (R107). Delivers a mailbox's snapshot value and clears its full bit at commit unless a later write landed. -/
  | mrd (t : Target) (n : BitVec 4) (p : Pm)
  /-- MWR (R107). Writes L to a mailbox and sets its full bit at commit. -/
  | mwr (n : BitVec 4) (p : Pm)
  /-- MWAIT (R126). Holds the block before its snapshot until every named mailbox is full, then reads and clears it as MRD. -/
  | mwait (t : Target) (n : BitVec 4)
  /-- MFULL (R107). Delivers 1 if the mailbox was full in the snapshot. -/
  | mfull (t : Target) (n : BitVec 4) (p : Pm)
  /-- BR (R114). Makes the block at the current address plus OFF20 times 16 the next block. -/
  | br (f : BitVec 20) (e : BitVec 3) (p : Pm)
  /-- BRX (R114). Makes the block at address L the next block. -/
  | brx (e : BitVec 3) (p : Pm)
  /-- CALL (R114). Pushes the return address and branches to the relative target. -/
  | call (f : BitVec 20) (e : BitVec 3) (p : Pm)
  /-- CALLX (R114). Pushes the return address and branches to address L. -/
  | callx (e : BitVec 3) (p : Pm)
  /-- RET (R114). Pops a return address, refilling from the spill area if needed, and branches to it. -/
  | ret (e : BitVec 3) (p : Pm)
  /-- STOP (R114). Halts the thread after the block commits. -/
  | stop (e : BitVec 3) (p : Pm)
  /-- LD8 (R120). Loads one byte, zero-extended, in the block's memory event. -/
  | ld8 (t : Target) (m : BitVec 9) (l : BitVec 5) (p : Pm)
  /-- LD16 (R120). Loads two bytes, zero-extended. -/
  | ld16 (t : Target) (m : BitVec 9) (l : BitVec 5) (p : Pm)
  /-- LD32 (R120). Loads four bytes, zero-extended. -/
  | ld32 (t : Target) (m : BitVec 9) (l : BitVec 5) (p : Pm)
  /-- LD64 (R120). Loads eight bytes, or reads a channel status word from an engine aperture. -/
  | ld64 (t : Target) (m : BitVec 9) (l : BitVec 5) (p : Pm)
  /-- LDS8 (R120). Loads one byte, sign-extended. -/
  | lds8 (t : Target) (m : BitVec 9) (l : BitVec 5) (p : Pm)
  /-- LDS16 (R120). Loads two bytes, sign-extended. -/
  | lds16 (t : Target) (m : BitVec 9) (l : BitVec 5) (p : Pm)
  /-- LDS32 (R120). Loads four bytes, sign-extended. -/
  | lds32 (t : Target) (m : BitVec 9) (l : BitVec 5) (p : Pm)
  /-- ST8 (R120). Stores the low byte of R in the block's memory event. -/
  | st8 (m : BitVec 9) (l : BitVec 5) (p : Pm)
  /-- ST16 (R120). Stores the low two bytes of R. -/
  | st16 (m : BitVec 9) (l : BitVec 5) (p : Pm)
  /-- ST32 (R120). Stores the low four bytes of R. -/
  | st32 (m : BitVec 9) (l : BitVec 5) (p : Pm)
  /-- ST64 (R120). Stores eight bytes, or starts a copy when the address is an engine aperture. -/
  | st64 (m : BitVec 9) (l : BitVec 5) (p : Pm)
  /-- AADD (R121). Atomically adds R and delivers the old value. -/
  | aadd (t : Target) (m : BitVec 9) (l : BitVec 5) (p : Pm)
  /-- AAND (R121). Atomically ANDs R and delivers the old value. -/
  | aand (t : Target) (m : BitVec 9) (l : BitVec 5) (p : Pm)
  /-- AOR (R121). Atomically ORs R and delivers the old value. -/
  | aor (t : Target) (m : BitVec 9) (l : BitVec 5) (p : Pm)
  /-- AXOR (R121). Atomically XORs R and delivers the old value. -/
  | axor (t : Target) (m : BitVec 9) (l : BitVec 5) (p : Pm)
  /-- AMIN (R121). Atomically writes the signed lesser of old and R. -/
  | amin (t : Target) (m : BitVec 9) (l : BitVec 5) (p : Pm)
  /-- AMAX (R121). Atomically writes the signed greater of old and R. -/
  | amax (t : Target) (m : BitVec 9) (l : BitVec 5) (p : Pm)
  /-- ASWP (R121). Atomically swaps in R and delivers the old value. -/
  | aswp (t : Target) (m : BitVec 9) (l : BitVec 5) (p : Pm)
  /-- ACAS (R121). Atomically writes R if old equals X, else rewrites old, and delivers old. -/
  | acas (t : Target) (m : BitVec 9) (l : BitVec 5)
  /-- CFG (R131). Gates until the cell is drained and pages are free, checks the graph block and places it at commit. -/
  | cfg (p : Pm)
  /-- STRM (R132). Gates on the node's previous END, checks the stream-start record and starts an AGEN stream after commit. -/
  | strm (p : Pm)
  /-- DRAIN_CELL (R133). Injects a sluice at the sources of one cell and waits trailing until it reaches every sink. -/
  | drainCell (p : Pm)
  /-- DRAIN_ALL (R133). Injects a sluice into every cell the thread configured and waits trailing for completion. -/
  | drainAll (p : Pm)
  /-- TMPL (R135). Reads and checks a copy template and writes it into a template slot at commit. -/
  | tmpl (p : Pm)
  /-- EVX_TERM (R139). Sets a crossbar term's line mask and clears its latched pulses at commit. -/
  | evxTerm (p : Pm)
  /-- EVX_CNT (R139). Resets a crossbar counter and loads its counter word at commit. -/
  | evxCnt (p : Pm)
  /-- EVX_TGT (R139). Binds a term to a channel with an aperture data word at commit. -/
  | evxTgt (p : Pm)
  /-- EVX_PULSE (R139). Pulses a software event line 48 to 63 at commit. -/
  | evxPulse (p : Pm)
  /-- PUB (R141). Gates until the buffer's shadow writes complete, then swaps its visible copy in the commit event. -/
  | pub (p : Pm)
  /-- COLL_START (R304). Checks a collective template, creates or advances its collective context and begins a step after commit. -/
  | collStart (p : Pm)
  /-- COLL_WAIT (R305). Gates until the collective context has completed the given step. -/
  | collWait (p : Pm)
  /-- COLL_END (R305). Gates until every started step completes and releases the collective context at commit. -/
  | collEnd (p : Pm)
  /-- WAITC (R136). Gates until a channel's completion count reaches the given count, then delivers it. -/
  | waitc (v : Target) (t : Target) (p : Pm)
  /-- WAITE (R140). Gates until a crossbar counter reaches the given value, then delivers it. -/
  | waite (v : Target) (t : Target) (p : Pm)
  /-- LAUNCH (R143). Reads and checks a launch record, delivers a launch ID and enters the launch in a queue after commit. -/
  | launch (t : Target) (q : BitVec 3) (p : Pm)
  /-- SHAPE (R144). Delivers the true extent E to a proofed launch after commit. -/
  | shape (p : Pm)
  /-- TAKE (R146). Takes up to L indices from the work range and serves a pending steal request at commit. -/
  | take (v : Target) (t : Target) (p : Pm)
  /-- STEAL (R147). Sends a steal request to a victim and waits trailing for the reply. -/
  | steal (p : Pm)
  /-- YIELD (R148). Delays the thread's next block until every other ready thread of the cluster has started one. -/
  | yield (p : Pm)
  /-- CPTAG (R149). Sets the thread's path tag at commit. -/
  | cptag (p : Pm)
  /-- CPMARK (R149). Records a MARK edge and starts the critical-path walker at commit. -/
  | cpmark (p : Pm)
  /-- MSEND (R130). Sends R to mailbox n of the destination after commit. -/
  | msend (n : BitVec 4) (p : Pm)
  /-- MSENDW (R130). Sends R to mailbox n, landing only when empty, with a trailing wait for the landing. -/
  | msendw (n : BitVec 4) (p : Pm)
  /-- MBCAST (R130). Sends R to mailbox n of each thread selected by TMASK in a cluster. -/
  | mbcast (n : BitVec 4) (p : Pm)
  /-- SYSRD (R327). Delivers the snapshot value of a system register after a privilege check. -/
  | sysrd (t : Target) (g : BitVec 4) (n : BitVec 6) (p : Pm)
  /-- SYSWR (R327). Writes L to a system register field by field at commit after privilege and write checks. -/
  | syswr (g : BitVec 4) (n : BitVec 6) (p : Pm)
  /-- TRET (R348). Returns from a trap to TRAPPC, restoring PRIV and clearing INTRAP, or halts if TRAPPC is 0. -/
  | tret (e : BitVec 3) (p : Pm)
  /-- TLBI_ADDR (R337). Drops the translations of an ASID that cover an address and waits trailing. -/
  | tlbiAddr (p : Pm)
  /-- TLBI_ASID (R337). Drops every translation of an ASID and waits trailing. -/
  | tlbiAsid (p : Pm)
  /-- TLBI_ALL (R337). Drops every translation of the partition at MGMT level and waits trailing. -/
  | tlbiAll (p : Pm)
  /-- CTXSAVE (R365). Pre-empts every region of a context and writes its image, waiting trailing. -/
  | ctxsave (p : Pm)
  /-- CTXLOAD (R365). Checks a saved image and restores the context onto free units, waiting trailing. -/
  | ctxload (p : Pm)
  /-- TRAP (R347). Lets the block commit and then takes SOFT with the sign-extended immediate. -/
  | trap (i : BitVec 14) (p : Pm)
  /-- BLOCK_FETCH (R109). The control processor starts a ready thread's block: it fetches and load-checks the block and takes the snapshot. -/
  | blockFetch (t : Nat)
  /-- BLOCK_COMMIT (R110). A completed block commits its stores, register writes, flags, return-address change and next block as one event. -/
  | blockCommit (t : Nat)
  /-- MWAIT_SATISFIED (R126). A block held at MWAIT takes its snapshot once every named mailbox is full. -/
  | mwaitSatisfied (t : Nat)
  /-- CFG_GATE_OPEN (R131). A held CFG proceeds once the cell is drained and the crew has enough free pages. -/
  | cfgGateOpen (t : Nat) (k : Nat)
  /-- STRM_GATE_OPEN (R132). A held STRM proceeds once the node's previous stream has issued its END. -/
  | strmGateOpen (t : Nat) (k : Nat)
  /-- PUB_GATE_OPEN (R141). A held PUB proceeds once every counted shadow write to the buffer has completed. -/
  | pubGateOpen (t : Nat) (k : Nat)
  /-- WAITC_SATISFIED (R136). A held WAITC proceeds when the channel's CCNT reaches the count. -/
  | waitcSatisfied (t : Nat) (k : Nat)
  /-- WAITE_SATISFIED (R140). A held WAITE proceeds when the counter reaches the value. -/
  | waiteSatisfied (t : Nat) (k : Nat)
  /-- APERTURE_QUEUE_ROOM (R134). A block whose aperture store met a full start queue proceeds when the queue has room. -/
  | apertureQueueRoom (t : Nat) (k : Nat)
  /-- LAUNCH_QUEUE_ROOM (R282). A LAUNCH held on a full launch queue proceeds when the queue has room. -/
  | launchQueueRoom (t : Nat) (k : Nat)
  /-- COLL_WAIT_SATISFIED (R305). A held COLL.WAIT proceeds when CSTEP reaches the step and records a COLL edge. -/
  | collWaitSatisfied (t : Nat) (k : Nat)
  /-- COLL_END_SATISFIED (R305). A held COLL.END proceeds when CSTEP equals LSTEP. -/
  | collEndSatisfied (t : Nat) (k : Nat)
  /-- ENGINE_SET_RELEASED (R137). A resident thread's held engine access proceeds when the launch crew's placement ends. -/
  | engineSetReleased (t : Nat) (k : Nat)
  /-- DRAIN_COMPLETE (R133). The sluice reaches every sink, the cell's flags and counts commit and the trailing wait ends. -/
  | drainComplete (t : Nat)
  /-- YIELD_END (R148). A yielding thread becomes ready once every thread ready at its commit has started a block. -/
  | yieldEnd (t : Nat)
  /-- TLBI_COMPLETE (R337). The TLBI wait ends once every die has dropped the entries and every access using them has performed. -/
  | tlbiComplete (t : Nat)
  /-- CTXSAVE_COMPLETE (R365). The image or a too-small header is written and CTXSAVE's trailing wait ends. -/
  | ctxsaveComplete (t : Nat)
  /-- CTXLOAD_COMPLETE (R365). The context is restored or the image refused, RESULT is written and CTXLOAD's wait ends. -/
  | ctxloadComplete (t : Nat)
  /-- MAILBOX_WRITE_LAND (R127). An engine, link, launch or collective write lands in a mailbox, setting it full or recording an overrun. -/
  | mailboxWriteLand (k : Nat)
  /-- MESSAGE_LAND (R130). A message from MSEND, MSENDW or MBCAST lands in the destination mailbox, MSENDW only on an empty one. -/
  | messageLand (k : Nat)
  /-- HOST_MAILBOX_LAND (R129). A message to the host lands in HMB, setting FULL or OVR, and signals MSI-X vector 0. -/
  | hostMailboxLand (k : Nat)
  /-- STEAL_REQUEST_LAND (R146). A steal request lands at the victim and waits to be served or is refused if the victim is halted or empty. -/
  | stealRequestLand (k : Nat)
  /-- STEAL_REPLY_LAND (R147). A steal grant or refusal lands at the thief, setting its range on a grant, and ends the wait. -/
  | stealReplyLand (k : Nat)
  /-- AGEN_EMIT (R180). An AGEN node emits the address of the next position of its stream, with LEN and END. -/
  | agenEmit (c : Nat) (n : Nat)
  /-- MAP_FIRE (R162). A MAP node computes one beat of its mode over its lockstep and replicate inputs. -/
  | mapFire (c : Nat) (n : Nat)
  /-- TRANSC_FIRE (R165). A TRANSC node computes a special function over one beat. -/
  | transcFire (c : Nat) (n : Nat)
  /-- CONV_CVT (R166). A CONV node converts each valid lane of a beat to TYPE, optionally scaled. -/
  | convCvt (c : Nat) (n : Nat)
  /-- CONV_WIDTH (R167). A CONV node splits or packs elements by reinterpreting their bits. -/
  | convWidth (c : Nat) (n : Nat)
  /-- LPACK (R168). A CONV node packs 8-bit elements into laminate planes. -/
  | lpack (c : Nat) (n : Nat)
  /-- LUNPACK (R169). A CONV node unpacks laminate planes into 8-bit values. -/
  | lunpack (c : Nat) (n : Nat)
  /-- FILTER_FIRE (R170). A FILTER splits a beat's lanes between its outputs by the predicate. -/
  | filterFire (c : Nat) (n : Nat)
  /-- MERGE_ORDERED (R171). A MERGE ORDERED node joins lockstep beats lane by lane. -/
  | mergeOrdered (c : Nat) (n : Nat)
  /-- MERGE_RROBIN (R172). A MERGE RROBIN node emits a beat from the first ready port at or after its pointer. -/
  | mergeRrobin (c : Nat) (n : Nat)
  /-- MERGE_CONCAT (R172). A MERGE CONCAT node emits every beat of A, then B, then C. -/
  | mergeConcat (c : Nat) (n : Nat)
  /-- LOOP_CYCLE (R174). A LOOP node takes a return or admits a beat, recirculates lanes and emits completed entries. -/
  | loopCycle (c : Nat) (n : Nat)
  /-- MMA_PASS (R203). An MMA pass accumulates one pair of full operand tiles into its accumulator tile. -/
  | mmaPass (c : Nat) (n : Nat)
  /-- MMA_EMIT (R205). An MMA emits a draining tile as an output stream and returns it to LIVE or EMPTY at its END. -/
  | mmaEmit (c : Nat) (n : Nat)
  /-- PERM_TABLE (R216). A PERM node permutes a beat's lanes by PTAB. -/
  | permTable (c : Nat) (n : Nat)
  /-- PERM_RANK (R217). A PERM node ranks a code beat by stable counting sort and permutes its COLS data beats. -/
  | permRank (c : Nat) (n : Nat)
  /-- PERM_TRANSPOSE (R218). A PERM node emits a transposed block once it has arrived whole. -/
  | permTranspose (c : Nat) (n : Nat)
  /-- SCAN_BEAT (R220). A SCAN SUM, SEGSUM or MAX node updates its running registers from one beat. -/
  | scanBeat (c : Nat) (n : Nat)
  /-- SCAN_BOUNDARY (R221). A SCAN BOUNDARY node emits the boundary sums of one column beat. -/
  | scanBoundary (c : Nat) (n : Nat)
  /-- RED_BEAT (R222). A RED SUM, MAX, MIN or ARGMAX node reduces one beat to one element. -/
  | redBeat (c : Nat) (n : Nat)
  /-- RED_DACC_COLUMN (R224). A RED DACC node computes one column's difference-accumulate and adds it to ACC, emitting each completed row. -/
  | redDaccColumn (c : Nat) (n : Nat)
  /-- MEM_LOAD (R184). A MEM LOAD node performs element loads by its class and emits the data. -/
  | memLoad (c : Nat) (n : Nat) (e : Nat)
  /-- MEM_STORE (R184). A MEM STORE node performs element stores by its class. -/
  | memStore (c : Nat) (n : Nat) (e : Nat)
  /-- MEM_RMW (R185). A MEM RMW node applies its operation atomically to each valid lane and emits old values. -/
  | memRmw (c : Nat) (n : Nat) (e : Nat)
  /-- DONE_EMIT (R182). A MEM node emits DONE and END once every access of a stream has performed. -/
  | doneEmit (c : Nat) (n : Nat)
  /-- REMOTE_ACK (R248). An acknowledgement from the peer or host completes a remote write. -/
  | remoteAck (k : Nat)
  /-- LINKIN_RECEIVE (R187). A LINKIN emits a token received on its channel. -/
  | linkinReceive (c : Nat) (n : Nat)
  /-- LINKIN_DESCRIPTOR_RECEIVE (R241). A LINKIN compares the arriving descriptor with its own and poisons each stream on a mismatch. -/
  | linkinDescriptorReceive (c : Nat) (n : Nat)
  /-- LINKOUT_SEND (R187). A LINKOUT sends a token it receives over its channel. -/
  | linkoutSend (c : Nat) (n : Nat)
  /-- INCOMING_PEER_ACCESS (R244). A device-link port performs a peer's access to this device's memory. -/
  | incomingPeerAccess (k : Nat)
  /-- SLUICE_FORWARD (R159). A node forwards a sluice once every read port holds one, recording a DRAIN edge at a join. -/
  | sluiceForward (c : Nat) (n : Nat)
  /-- SNAP_ALIGN (R160). A join forwards a SNAP once a SNAP of the epoch has arrived on every port. -/
  | snapAlign (c : Nat) (n : Nat)
  /-- SNAP_ALIGN_TIMEOUT (R160). After CKP.ALIGN cycles a join forwards the SNAP and logs tokens of the late ports. -/
  | snapAlignTimeout (c : Nat) (n : Nat)
  /-- POISON_FORWARD (R157). A node forwards a received POISON unchanged on every output. -/
  | poisonForward (c : Nat) (n : Nat) (p : Nat)
  /-- SINK_HALT (R158). A sink accepting POISON gates its cell's clock and writes a trap record. -/
  | sinkHalt (c : Nat) (n : Nat) (p : Nat)
  /-- REORDER_STORE_ACCEPT (R231). A reorder store takes a producer beat into its input register and granules. -/
  | reorderStoreAccept (c : Nat) (n : Nat) (p : Nat)
  /-- REORDER_STORE_EMIT (R231). A reorder store emits the next consumer beat once all its positions have entered. -/
  | reorderStoreEmit (c : Nat) (n : Nat) (p : Nat)
  /-- REORDER_LEN_CHECK (R237). A store whose LEN comes from elsewhere checks it and poisons the stream on RAGGED_OVER. -/
  | reorderLenCheck (c : Nat) (n : Nat) (p : Nat)
  /-- FIFO_WRITER_ACQUIRE (R189). A waiting writer acquires slot TAIL when FREE is above zero. -/
  | fifoWriterAcquire (w : FifoWriter)
  /-- FIFO_READER_ACQUIRE (R189). A waiting POP reader acquires slot HEAD when FILLED is above zero. -/
  | fifoReaderAcquire (c : Nat) (n : Nat)
  /-- FIFO_SLOT_FILL (R189). A completed slot with no incomplete slot before it becomes filled. -/
  | fifoSlotFill (c : Nat) (b : Nat)
  /-- PAGE_WALK_COMPLETE (R332). A translation walk ends with a TLB fill, a miss or a malformed-entry fault. -/
  | pageWalkComplete (a : Nat) (va : W)
  /-- TERM_FIRE (R139). A crossbar term whose masked lines have all been latched starts a copy on its bound channel. -/
  | termFire (e : Nat) (i : Nat)
  /-- COUNTER_THRESHOLD (R139). A crossbar counter reaching THRESH pulses its line and subtracts THRESH under AUTO. -/
  | counterThreshold (e : Nat) (i : Nat)
  /-- COPY_BEGIN (R266). A channel begins its next queued copy after the previous completion is sent. -/
  | copyBegin (e : Nat) (ch : Nat)
  /-- COPY_SECTOR (R269). A channel performs one destination sector of a copy as one event. -/
  | copySector (e : Nat) (ch : Nat) (j : Nat)
  /-- COPY_COMPLETE (R275). An ended copy writes its completion record, advances CCNT, pulses its line and writes its mailbox. -/
  | copyComplete (e : Nat) (ch : Nat)
  /-- COLL_PAYLOAD_ARRIVE (R309). A collective payload arrives, is matched to a collective context or kept, or raises a group mismatch. -/
  | collPayloadArrive (k : Nat)
  /-- COLL_LEVEL_COMBINE (R306). A level with every needed term combines them in rank order and records a COLL edge. -/
  | collLevelCombine (h : Nat)
  /-- COLL_STEP_COMPLETE (R310). A step writes its state and result, publishes, advances CSTEP and writes its completion word. -/
  | collStepComplete (h : Nat)
  /-- COLL_ABORT_ARRIVE (R312). A received abort ends the member's step with LINK SUB 4 and propagates the abort. -/
  | collAbortArrive (k : Nat)
  /-- LAUNCH_PLACE (R283). An eligible launch at the head of its queue is placed whole with its threads, pages and engine sets. -/
  | launchPlace (a : Nat) (id : Nat)
  /-- LAUNCH_COMPLETE (R286). A launch whose threads have halted and cells drained publishes, merges flags and writes its completion mailbox. -/
  | launchComplete (a : Nat) (id : Nat)
  /-- SHAPE_ARRIVE (R290). SHAPE(E) confirms, trims or retires each crew, releases holds and adds a tail. -/
  | shapeArrive (k : Nat)
  /-- LAUNCH_AGE_TARGET (R371). A launch eligible for PART.AGE cycles has its target dies and clusters fixed. -/
  | launchAgeTarget (a : Nat) (id : Nat)
  /-- MIRE_PROBE_SEND (R296). A party blocked for THRESH/2 cycles sends a mire probe along its link. -/
  | mireProbeSend (q : Party)
  /-- MIRE_PROBE_FORWARD (R296). A blocked party receiving a probe forwards it along its own link. -/
  | mireProbeForward (k : Nat)
  /-- DEADLOCK (R298). A probe returning to its origin reports the cycle to its lowest party as DEADLOCK or POISON. -/
  | deadlock (k : Nat)
  /-- WALKER_FETCH (R320). The path walker fetches an edge record and appends it or ends the report. -/
  | walkerFetch (k : Nat)
  /-- REMOTE_WALKER_FETCH (R320). A device's walker serves an edge-table read requested by another device. -/
  | remoteWalkerFetch (k : Nat)
  /-- FRAME_RECEIVE (R403). A FAR port receives a frame, checks its integrity and replay window and acknowledges in order. -/
  | frameReceive (k : Nat)
  /-- FRAME_ACK (R403). An acknowledgement frees a frame from the retry window. -/
  | frameAck (q : Nat) (n : Nat)
  /-- FRAME_RESEND (R403). An unacknowledged frame is resent from the retry window. -/
  | frameResend (q : Nat) (n : Nat)
  /-- PORT_DOWN (R313). A port whose retries, signal or keys fail goes down and reports every unacknowledged operation as failed. -/
  | portDown (q : Nat) (cause : Nat)
  /-- PREEMPT_REQUEST (R356). The scheduler, allocator, a merge or CTXSAVE requests pre-emption of a region. -/
  | preemptRequest (a : Nat) (cl : Nat) (why : PreemptWhy)
  /-- REGION_GATE (R357). A region's clock is gated at a cycle boundary, resolving work in progress and switching register sets. -/
  | regionGate (a : Nat) (cl : Nat)
  /-- READOUT (R356). A gated region's state is carried into the context's image. -/
  | readout (a : Nat) (cl : Nat)
  /-- RESTORE (R356). A context's state is written into free units and switched in. -/
  | restore (a : Nat) (cl : Nat) (dst : Nat)
  /-- QUANTUM_FLOOR_EXPIRE (R362). The 75,000-cycle floor after a restore passes and held scheduler requests proceed. -/
  | quantumFloorExpire (a : Nat) (cl : Nat)
  /-- SLICE_EXPIRE (R372). A region's time slice runs out and it may be pre-empted for another context. -/
  | sliceExpire (a : Nat) (cl : Nat)
  /-- CELL_MOVE (R376). The allocator moves a cell or region to compact pages or clusters. -/
  | cellMove (c : Nat)
  /-- MERGE_START (R381). A write of PART.MERGE.GO starts the quiesce handshake or refuses with REASON 4. -/
  | mergeStart (k : Nat)
  /-- MERGE_QUIESCE_TIMEOUT (R382). QWAIT cycles pass with a launch still queued and the merge is refused. -/
  | mergeQuiesceTimeout (k : Nat)
  /-- MERGE_COMPLETE (R381). Quiesced partitions have their interleave, boundary and dies rewritten and translations dropped. -/
  | mergeComplete (k : Nat)
  /-- COUNTER_OVERFLOW (R388). A PMC counter wraps, sets its OVF bit and optionally writes an OVERFLOW record. -/
  | counterOverflow (a : Nat) (k : Nat)
  /-- SAMPLE_TIMER (R390). Every SPER cycles a SAMPLE record is written for each crew. -/
  | sampleTimer (a : Nat)
  /-- CHECKPOINT_EPOCH (R396). Every period a new epoch begins with a CKPT record, thread REGIONs and injected SNAPs. -/
  | checkpointEpoch (a : Nat)
  /-- EPOCH_END (R396). An END record closes an epoch once all its REGIONs are written. -/
  | epochEnd (a : Nat)
  /-- REPLAY_END (R398). The last ORDER record is consumed and REPLAY clears. -/
  | replayEnd (a : Nat)
  /-- COMPRESSION_IDLE_EXPIRE (R192). A hot unit idle for CMP.IDLE cycles becomes eligible for compression again. -/
  | compressionIdleExpire (u : Nat)
  /-- XLAT_RESUME_WRITE (R342). A write releases the accesses stalled on a page request or on all requests. -/
  | xlatResumeWrite (a : Nat) (v : W)
  /-- FMT_WCTL_WRITE (R352). A write enabling or disabling a format window checks it or drops its decoded lines. -/
  | fmtWctlWrite (a : Nat) (v : W)
  /-- PBLEN_VALID_CLEAR (R339). Clearing a publishable-buffer entry's VALID waits for every lease to end. -/
  | pblenValidClear (a : Nat) (v : W)
  /-- KEY_INSTALL (R402). A KCTL INSTALL write installs the staged SAK under AN and clears the staging. -/
  | keyInstall (v : W)
  /-- LINK_MODE_WRITE (R401). A PCTL MODE write sets a port OFF, NEAR or FAR after its checks. -/
  | linkModeWrite (v : W)
  /-- PMC_SBASE_WRITE (R386). A write of SBASE sets the sample ring and resets WR and RD. -/
  | pmcSbaseWrite (a : Nat) (v : W)
  /-- CTX_SLICE_WRITE (R374). A write of CTX.SLICE clamps short values to the floor and sets SLCLAMP. -/
  | ctxSliceWrite (a : Nat) (v : W)
  /-- CTX_NBV_WRITE (R330). A write of CTX.NBV sets the numeric version or raises NBV for 0. -/
  | ctxNbvWrite (t : Nat) (v : W)
  /-- CTX_ASID_WRITE (R331). A MGMT write of CTX.ASID sets the context's ASID unless it is live elsewhere. -/
  | ctxAsidWrite (t : Nat) (v : W)
  /-- PWR_WRITE (R406). A MGMT write of PWR.MODE or PWR.CAP sets the budget limit after its range check. -/
  | pwrWrite (i : Nat) (v : W)
  /-- REGISTER_WRITE (R5). A write to any other register field takes effect by its access type. -/
  | registerWrite (b : RegBank) (place size : Nat) (v : W)
  /-- DMB_WRITE (R400). A host 8-byte write to DMB lands in a dispatcher mailbox. -/
  | dmbWrite (f : Nat) (n : Nat) (size : Nat) (v : W)
  /-- HMB_READ (R400). A host read of HMB returns the value and clears FULL. The reads of other registers from outside stand here too. -/
  | hmbRead (r : ReadName)
  /-- HOST_RESUME_WRITE (R400). A host write of RESUME is passed to XLAT.RESUME of the named context. -/
  | hostResumeWrite (f : Nat) (v : W)
  /-- HOST_BAR2_READ (R255). A host read through BAR2 performs as a PACKAGE event after earlier writes on the link. -/
  | hostBar2Read (f : Nat) (off : Nat) (len : Nat)
  /-- HOST_BAR2_WRITE (R255). A host write through BAR2 performs as one event per line in arrival order. -/
  | hostBar2Write (f : Nat) (off : Nat) (bytes : List Byte)
  /-- POWER_INTERVAL (R406). Each 1 µs interval the arbiter divides the energy budget among the dies. -/
  | powerInterval (d0 : Nat) (d1 : Nat) (d2 : Nat) (d3 : Nat)
  /-- COOLANT_LIMIT_CHANGE (R406). Coolant telemetry crossing its limit or lost for 100 ms sets or clears THROT and halves the budget. -/
  | coolantLimitChange (inlet : BitVec 8) (hot : Bool)
  /-- MACHINE_CHECK (R407). An uncorrectable error writes a machine-check record and signals MSI-X vector 2. -/
  | machineCheck (kind : Nat) (die : Nat) (pa : W) (asid : Nat)
  /-- COLD_RESET (R408). Cold reset runs bring-up from firmware checks to a running dispatcher. -/
  | coldReset
  /-- GET_VERSION (R405). An SPDM GET_VERSION request is answered. -/
  | getVersion (f : Nat)
  /-- GET_CAPABILITIES (R405). An SPDM GET_CAPABILITIES request is answered. -/
  | getCapabilities (f : Nat)
  /-- NEGOTIATE_ALGORITHMS (R405). An SPDM NEGOTIATE_ALGORITHMS request is answered with SHA-384 and brainpoolP384r1. -/
  | negotiateAlgorithms (f : Nat)
  /-- GET_DIGESTS (R405). An SPDM GET_DIGESTS request is answered. -/
  | getDigests (f : Nat)
  /-- GET_CERTIFICATE (R405). An SPDM GET_CERTIFICATE request returns the slot 0 chain. -/
  | getCertificate (f : Nat)
  /-- CHALLENGE (R405). An SPDM CHALLENGE is signed with the device identity key. -/
  | challenge (f : Nat) (nonce : List Byte)
  /-- GET_MEASUREMENTS (R405). An SPDM GET_MEASUREMENTS request returns the five measurements. -/
  | getMeasurements (f : Nat)
  /-- PORT_UP (R402). A device-link port whose training and keys are in place becomes up and sets PCTL.UP. -/
  | portUp (q : Nat)
  /-- REMOTE_LOAD_REPLY (R123). The value of a load at PEER or HOST scope, from a control thread or a RANDOM MEM node, returns from the remote end. -/
  | remoteLoadReply (k : Nat) (v : W)
  /-- MANAGEMENT_THREAD_START (R114). The management processor starts a control thread outside any launch, such as a MGMT thread or a halted resident thread. -/
  | managementThreadStart (a : Nat) (entry : W) (level : Level) (cl : Nat) (slot : Nat) (gs : List W)
  deriving DecidableEq, Repr

end Sys2Proof
end

