-- ==== Sys2Proof/WellFormed.lean ====
section
/-! DEFINITION. When a control instruction is one that R72 to R78 assign: what its word alone can break. What a word
breaks only inside its block (R73's slots, R76) is checked at block load. A machine step has no word and is always
well formed. -/

namespace Sys2Proof

/-- With PORT none, SLOT must be 0 (R73). -/
def Target.ok (t : Target) : Bool :=
  match t.port with
  | .none => t.slot == 0
  | _ => true

/-- PM of an instruction that does not read X as data (R74). -/
def Pm.plain (p : Pm) : Bool :=
  match p with
  | .three => false
  | _ => true

/-- How many registers a system-register group has (R75, R328, R379, R386, R394, R395, R402, R406). -/
def sysRegCount (g : BitVec 4) : Nat :=
  match g.toNat with
  | 0 => 18
  | 1 => 10
  | 2 => 4
  | 3 => 1
  | 4 => 8
  | 5 => 31
  | 6 => 8
  | 7 => 8
  | 8 => 12
  | 9 => 4
  | _ => 0

/-- The selector names a register of its group (R75). -/
def sysRegOk (g : BitVec 4) (n : BitVec 6) : Bool := decide (n.toNat < sysRegCount g)

/-- A shift immediate lies in 0 to 63 (R101). -/
def shiftImmOk (i : BitVec 14) : Bool := decide (i.toNat < 64)

/-- The instruction is one the encoding chapter assigns. -/
def WellFormed (i : Instr) : Bool :=
  match i with
  | .add v t _ p | .sub v t _ p | .mul v t _ p | .and v t _ p | .or v t _ p | .xor v t _ p
  | .shl v t _ p | .sra v t _ p | .cmpeq v t _ p | .cmpne v t _ p | .tst v t _ p
  | .clz v t _ p | .popc v t _ p => v.ok && t.ok && p.plain
  | .mulh v t _ _ p | .div v t _ _ p | .rem v t _ _ p | .shr v t _ _ p | .min v t _ _ p | .max v t _ _ p
  | .cmplt v t _ _ p | .cmple v t _ _ p => v.ok && t.ok && p.plain
  | .ext v t p | .tag v t p | .mov v t p | .pand v t p | .por v t p | .pnot v t p
  | .waitc v t p | .waite v t p | .take v t p => v.ok && t.ok && p.plain
  | .lea v t _ p => v.ok && t.ok && p.plain
  | .ins v t | .sel v t => v.ok && t.ok
  | .shli t i p | .shri t i p | .srai t i p => t.ok && p.plain && shiftImmOk i
  | .addi t _ p | .muli t _ p | .andi t _ p | .ori t _ p | .xori t _ p | .movi t _ p | .movhi t _ p
  | .cmpeqi t _ p | .cmpnei t _ p | .cmplti t _ p | .cmplei t _ p => t.ok && p.plain
  | .grd t _ p | .mrd t _ p | .mfull t _ p => t.ok && p.plain
  | .mwait t _ => t.ok
  | .gwr _ p | .mwr _ p => p.plain
  | .br _ _ p | .call _ _ p => p.plain
  | .brx _ p | .callx _ p | .ret _ p | .stop _ p | .tret _ p => p.plain
  | .ld8 t _ _ p | .ld16 t _ _ p | .ld32 t _ _ p | .ld64 t _ _ p | .lds8 t _ _ p | .lds16 t _ _ p
  | .lds32 t _ _ p | .aadd t _ _ p | .aand t _ _ p | .aor t _ _ p | .axor t _ _ p | .amin t _ _ p
  | .amax t _ _ p | .aswp t _ _ p => t.ok && p.plain
  | .acas t _ _ => t.ok
  | .st8 _ _ p | .st16 _ _ p | .st32 _ _ p | .st64 _ _ p => p.plain
  | .cfg p | .strm p | .drainCell p | .drainAll p | .tmpl p | .evxTerm p | .evxCnt p | .evxTgt p | .evxPulse p
  | .pub p | .collStart p | .collWait p | .collEnd p | .shape p | .steal p | .yield p | .cptag p | .cpmark p
  | .tlbiAddr p | .tlbiAsid p | .tlbiAll p | .ctxsave p | .ctxload p => p.plain
  | .launch t _ p => t.ok && p.plain
  | .msend n p | .msendw n p | .mbcast n p => p.plain && decide (n.toNat < 15)
  | .sysrd t g n p => t.ok && p.plain && sysRegOk g n
  | .syswr g n p => p.plain && sysRegOk g n
  | .trap _ p => p.plain
  | _ => true

end Sys2Proof
end

