-- ==== Sys2Proof/Decode.lean ====
section
/-! DEFINITION. Decoding and encoding a control-instruction word (R72 to R78, R101, R126, R130, R151, R303, R327,
R337, R347, R348, R365). Decoding is total on every 32-bit word and refuses by name what the encoding chapter does not
assign (R82). -/

namespace Sys2Proof

/-- Why a word is no instruction; each raises DECODE at block load (R82). -/
inductive Reject where
  | unassignedOp | badXop | badPm | badTarget | badReserved | badSelector | badImmediate | badOffset
  deriving DecidableEq, Repr

/-- PORT as its two bits (R73). -/
def TPort.bits (p : TPort) : BitVec 2 :=
  match p with
  | .none => 0
  | .l => 1
  | .r => 2
  | .x => 3

/-- The port that two bits name (R73). -/
def TPort.ofBits (b : BitVec 2) : TPort :=
  if b = 0 then .none else if b = 1 then .l else if b = 2 then .r else .x

/-- A target field: SLOT in bits 8..2, PORT in bits 1..0 (R73). -/
def Target.bits (t : Target) : BitVec 9 := t.slot ++ t.port.bits

/-- The target of a 9-bit field (R73). -/
def Target.ofBits (b : BitVec 9) : Target := ⟨b.extractLsb' 2 7, TPort.ofBits (b.extractLsb' 0 2)⟩

/-- PM as its two bits (R74). -/
def Pm.bits (p : Pm) : BitVec 2 :=
  match p with
  | .none => 0
  | .three => 1
  | .onFalse => 2
  | .onTrue => 3

/-- The firing condition that two bits name (R74). -/
def Pm.ofBits (b : BitVec 2) : Pm :=
  if b = 0 then .none else if b = 1 then .three else if b = 2 then .onFalse else .onTrue

/-- W as its two bits: 0b00 is 64, 0b01 is 32, 0b10 is 16, 0b11 is 8 (R78). -/
def Width.bits (w : Width) : BitVec 2 :=
  match w with
  | .w64 => 0
  | .w32 => 1
  | .w16 => 2
  | .w8 => 3

/-- The width that two bits name (R78). -/
def Width.ofBits (b : BitVec 2) : Width :=
  if b = 0 then .w64 else if b = 1 then .w32 else if b = 2 then .w16 else .w8

/-- One bit as a vector. -/
def ofBool (b : Bool) : BitVec 1 := if b then 1 else 0

/-- The fields of a word (R72). -/
def fOp (w : Word32) : BitVec 7 := w.extractLsb' 0 7
/-- PM, bits 8..7 of every format (R72). -/
def fPm (w : Word32) : BitVec 2 := w.extractLsb' 7 2
/-- XOP of format G, bits 13..9. -/
def fXop (w : Word32) : BitVec 5 := w.extractLsb' 9 5
/-- T0 of format G, bits 22..14. -/
def fT0 (w : Word32) : BitVec 9 := w.extractLsb' 14 9
/-- Bits 31..23: T1 of format G, T0 of formats I, M and S. -/
def fTop (w : Word32) : BitVec 9 := w.extractLsb' 23 9
/-- IMM14 of format I, bits 22..9. -/
def fImm14 (w : Word32) : BitVec 14 := w.extractLsb' 9 14
/-- IMM9 of format M, bits 22..14. -/
def fImm9 (w : Word32) : BitVec 9 := w.extractLsb' 14 9
/-- LSID of format M, bits 13..9. -/
def fLsid (w : Word32) : BitVec 5 := w.extractLsb' 9 5
/-- EXIT of format B, bits 11..9. -/
def fExit (w : Word32) : BitVec 3 := w.extractLsb' 9 3
/-- OFF20 of format B, bits 31..12. -/
def fOff (w : Word32) : BitVec 20 := w.extractLsb' 12 20
/-- SEL12 of format S, bits 20..9. -/
def fSel (w : Word32) : BitVec 12 := w.extractLsb' 9 12
/-- Bits 22..21 of format S, reserved. -/
def fRes (w : Word32) : BitVec 2 := w.extractLsb' 21 2

/-- Read a target, refusing one that R73 does not allow of its own bits. -/
def takeTarget (b : BitVec 9) : Except Reject Target :=
  if (Target.ofBits b).ok then .ok (Target.ofBits b) else .error .badTarget

/-- Read PM of an instruction that does not read X as data (R74). -/
def takePm (w : Word32) : Except Reject Pm :=
  if (Pm.ofBits (fPm w)).plain then .ok (Pm.ofBits (fPm w)) else .error .badPm

/-- Format G with W in XOP[1:0] and XOP[4:2] = 0 (R78). -/
def decW (k : Target → Target → Width → Pm → Instr) (w : Word32) : Except Reject Instr :=
  if (fXop w).extractLsb' 2 3 = 0 then do
    let t ← takeTarget (fT0 w)
    let v ← takeTarget (fTop w)
    let p ← takePm w
    return k v t (Width.ofBits ((fXop w).extractLsb' 0 2)) p
  else .error .badXop

/-- Format G with W in XOP[1:0], signedness in XOP[2] and XOP[4:3] = 0 (R78). -/
def decSW (k : Target → Target → Bool → Width → Pm → Instr) (w : Word32) : Except Reject Instr :=
  if (fXop w).extractLsb' 3 2 = 0 then do
    let t ← takeTarget (fT0 w)
    let v ← takeTarget (fTop w)
    let p ← takePm w
    return k v t ((fXop w).getLsbD 2) (Width.ofBits ((fXop w).extractLsb' 0 2)) p
  else .error .badXop

/-- Format G with XOP 0 and two targets (R78, R151). -/
def decTT (k : Target → Target → Pm → Instr) (w : Word32) : Except Reject Instr :=
  if fXop w = 0 then do
    let t ← takeTarget (fT0 w)
    let v ← takeTarget (fTop w)
    let p ← takePm w
    return k v t p
  else .error .badXop

/-- LEA: the scale shift in XOP[1:0], XOP[4:2] = 0 (R78). -/
def decLea (k : Target → Target → BitVec 2 → Pm → Instr) (w : Word32) : Except Reject Instr :=
  if (fXop w).extractLsb' 2 3 = 0 then do
    let t ← takeTarget (fT0 w)
    let v ← takeTarget (fTop w)
    let p ← takePm w
    return k v t ((fXop w).extractLsb' 0 2) p
  else .error .badXop

/-- INS and SEL: XOP 0 and PM 0b01 (R74, R103, R105). -/
def decThree (k : Target → Target → Instr) (w : Word32) : Except Reject Instr :=
  if fXop w = 0 then
    if fPm w = 1 then do
      let t ← takeTarget (fT0 w)
      let v ← takeTarget (fTop w)
      return k v t
    else .error .badPm
  else .error .badXop

/-- Format G with both targets none; XOP has been read (R151). -/
def decNoT (k : Pm → Instr) (w : Word32) : Except Reject Instr :=
  if fT0 w = 0 ∧ fTop w = 0 then do
    let p ← takePm w
    return k p
  else .error .badTarget

/-- Format G with XOP 0 and both targets none (R151). -/
def decXop0 (k : Pm → Instr) (w : Word32) : Except Reject Instr :=
  if fXop w = 0 then decNoT k w else .error .badXop

/-- LAUNCH: the queue in XOP[2:0], XOP[4:3] = 0, T1 none (R143, R151). -/
def decQueue (k : Target → BitVec 3 → Pm → Instr) (w : Word32) : Except Reject Instr :=
  if (fXop w).extractLsb' 3 2 = 0 then
    if fTop w = 0 then do
      let t ← takeTarget (fT0 w)
      let p ← takePm w
      return k t ((fXop w).extractLsb' 0 3) p
    else .error .badTarget
  else .error .badXop

/-- MSEND, MSENDW, MBCAST: the mailbox 0 to 14 in XOP[3:0], XOP[4] = 0 (R130). -/
def decMsg (k : BitVec 4 → Pm → Instr) (w : Word32) : Except Reject Instr :=
  if (fXop w).extractLsb' 4 1 = 0 ∧ ((fXop w).extractLsb' 0 4).toNat < 15 then
    decNoT (k ((fXop w).extractLsb' 0 4)) w
  else .error .badXop

/-- Format I with a target (R101). -/
def decI (k : Target → BitVec 14 → Pm → Instr) (w : Word32) : Except Reject Instr := do
  let t ← takeTarget (fTop w)
  let p ← takePm w
  return k t (fImm14 w) p

/-- SHLI, SHRI, SRAI: an immediate of 0 to 63 (R101). -/
def decShift (k : Target → BitVec 14 → Pm → Instr) (w : Word32) : Except Reject Instr :=
  if shiftImmOk (fImm14 w) then decI k w else .error .badImmediate

/-- TRAP: format I with T0 none (R347). -/
def decImm (k : BitVec 14 → Pm → Instr) (w : Word32) : Except Reject Instr :=
  if fTop w = 0 then do
    let p ← takePm w
    return k (fImm14 w) p
  else .error .badTarget

/-- Format M with a target (R120, R121). -/
def decM (k : Target → BitVec 9 → BitVec 5 → Pm → Instr) (w : Word32) : Except Reject Instr := do
  let t ← takeTarget (fTop w)
  let p ← takePm w
  return k t (fImm9 w) (fLsid w) p

/-- A store: format M with T0 none (R120). -/
def decSt (k : BitVec 9 → BitVec 5 → Pm → Instr) (w : Word32) : Except Reject Instr :=
  if fTop w = 0 then do
    let p ← takePm w
    return k (fImm9 w) (fLsid w) p
  else .error .badTarget

/-- ACAS: format M with PM 0b01 (R121). -/
def decCas (k : Target → BitVec 9 → BitVec 5 → Instr) (w : Word32) : Except Reject Instr :=
  if fPm w = 1 then do
    let t ← takeTarget (fTop w)
    return k t (fImm9 w) (fLsid w)
  else .error .badPm

/-- BR and CALL: format B with an offset (R113). -/
def decB (k : BitVec 20 → BitVec 3 → Pm → Instr) (w : Word32) : Except Reject Instr := do
  let p ← takePm w
  return k (fOff w) (fExit w) p

/-- BRX, CALLX, RET, STOP, TRET: OFF20 must be 0 (R77). -/
def decB0 (k : BitVec 3 → Pm → Instr) (w : Word32) : Except Reject Instr :=
  if fOff w = 0 then do
    let p ← takePm w
    return k (fExit w) p
  else .error .badOffset

/-- GRD: space 0b00, SEL12[9:6] = 0 (R75, R106). -/
def decGR (k : Target → BitVec 6 → Pm → Instr) (w : Word32) : Except Reject Instr :=
  if fRes w = 0 then
    if (fSel w).extractLsb' 6 6 = 0 then do
      let t ← takeTarget (fTop w)
      let p ← takePm w
      return k t ((fSel w).extractLsb' 0 6) p
    else .error .badSelector
  else .error .badReserved

/-- GWR: as GRD, with T0 none (R106). -/
def decGW (k : BitVec 6 → Pm → Instr) (w : Word32) : Except Reject Instr :=
  if fRes w = 0 then
    if (fSel w).extractLsb' 6 6 = 0 then
      if fTop w = 0 then do
        let p ← takePm w
        return k ((fSel w).extractLsb' 0 6) p
      else .error .badTarget
    else .error .badSelector
  else .error .badReserved

/-- MRD, MFULL: space 0b01, SEL12[9:4] = 0 (R75, R107). -/
def decMR (k : Target → BitVec 4 → Pm → Instr) (w : Word32) : Except Reject Instr :=
  if fRes w = 0 then
    if (fSel w).extractLsb' 4 8 = 0x40#8 then do
      let t ← takeTarget (fTop w)
      let p ← takePm w
      return k t ((fSel w).extractLsb' 0 4) p
    else .error .badSelector
  else .error .badReserved

/-- MWR: as MRD, with T0 none (R107). -/
def decMW (k : BitVec 4 → Pm → Instr) (w : Word32) : Except Reject Instr :=
  if fRes w = 0 then
    if (fSel w).extractLsb' 4 8 = 0x40#8 then
      if fTop w = 0 then do
        let p ← takePm w
        return k ((fSel w).extractLsb' 0 4) p
      else .error .badTarget
    else .error .badSelector
  else .error .badReserved

/-- MWAIT: as MRD, with PM 0b00 (R126). -/
def decMWait (k : Target → BitVec 4 → Instr) (w : Word32) : Except Reject Instr :=
  if fRes w = 0 then
    if (fSel w).extractLsb' 4 8 = 0x40#8 then
      if fPm w = 0 then do
        let t ← takeTarget (fTop w)
        return k t ((fSel w).extractLsb' 0 4)
      else .error .badPm
    else .error .badSelector
  else .error .badReserved

/-- SYSRD: space 0b10, a register of its group (R75, R327). -/
def decSysR (k : Target → BitVec 4 → BitVec 6 → Pm → Instr) (w : Word32) : Except Reject Instr :=
  if fRes w = 0 then
    if (fSel w).extractLsb' 10 2 = 2 ∧ sysRegOk ((fSel w).extractLsb' 6 4) ((fSel w).extractLsb' 0 6) then do
      let t ← takeTarget (fTop w)
      let p ← takePm w
      return k t ((fSel w).extractLsb' 6 4) ((fSel w).extractLsb' 0 6) p
    else .error .badSelector
  else .error .badReserved

/-- SYSWR: as SYSRD, with T0 none (R327). -/
def decSysW (k : BitVec 4 → BitVec 6 → Pm → Instr) (w : Word32) : Except Reject Instr :=
  if fRes w = 0 then
    if (fSel w).extractLsb' 10 2 = 2 ∧ sysRegOk ((fSel w).extractLsb' 6 4) ((fSel w).extractLsb' 0 6) then
      if fTop w = 0 then do
        let p ← takePm w
        return k ((fSel w).extractLsb' 6 4) ((fSel w).extractLsb' 0 6) p
      else .error .badTarget
    else .error .badSelector
  else .error .badReserved

/-- The instruction of a word, or the name of what is wrong with it (R77, R78, R82). -/
def decode (w : Word32) : Except Reject Instr :=
  match (fOp w).toNat with
  | 0x00 => decW .add w
  | 0x01 => decW .sub w
  | 0x02 => decW .mul w
  | 0x03 => decSW .mulh w
  | 0x04 => decSW .div w
  | 0x05 => decSW .rem w
  | 0x06 => decW .and w
  | 0x07 => decW .or w
  | 0x08 => decW .xor w
  | 0x09 => decW .shl w
  | 0x0a => decSW .shr w
  | 0x0b => decW .sra w
  | 0x0c => decSW .min w
  | 0x0d => decSW .max w
  | 0x0e => decTT .ext w
  | 0x0f => decThree .ins w
  | 0x10 => decI .addi w
  | 0x11 => decI .muli w
  | 0x12 => decI .andi w
  | 0x13 => decI .ori w
  | 0x14 => decI .xori w
  | 0x15 => decShift .shli w
  | 0x16 => decShift .shri w
  | 0x17 => decShift .srai w
  | 0x18 => decI .movi w
  | 0x19 => decI .movhi w
  | 0x1a => decTT .tag w
  | 0x1b => decLea .lea w
  | 0x1c => decW .clz w
  | 0x1d => decW .popc w
  | 0x1e => decTT .mov w
  | 0x20 => decW .cmpeq w
  | 0x21 => decW .cmpne w
  | 0x22 => decSW .cmplt w
  | 0x23 => decSW .cmple w
  | 0x24 => decI .cmpeqi w
  | 0x25 => decI .cmpnei w
  | 0x26 => decI .cmplti w
  | 0x27 => decI .cmplei w
  | 0x28 => decTT .pand w
  | 0x29 => decTT .por w
  | 0x2a => decTT .pnot w
  | 0x2b => decThree .sel w
  | 0x2c => decW .tst w
  | 0x30 => decGR .grd w
  | 0x31 => decGW .gwr w
  | 0x32 => decMR .mrd w
  | 0x33 => decMW .mwr w
  | 0x34 => decMWait .mwait w
  | 0x35 => decMR .mfull w
  | 0x38 => decB .br w
  | 0x39 => decB0 .brx w
  | 0x3a => decB .call w
  | 0x3b => decB0 .callx w
  | 0x3c => decB0 .ret w
  | 0x3d => decB0 .stop w
  | 0x40 => decM .ld8 w
  | 0x41 => decM .ld16 w
  | 0x42 => decM .ld32 w
  | 0x43 => decM .ld64 w
  | 0x44 => decM .lds8 w
  | 0x45 => decM .lds16 w
  | 0x46 => decM .lds32 w
  | 0x48 => decSt .st8 w
  | 0x49 => decSt .st16 w
  | 0x4a => decSt .st32 w
  | 0x4b => decSt .st64 w
  | 0x50 => decM .aadd w
  | 0x51 => decM .aand w
  | 0x52 => decM .aor w
  | 0x53 => decM .axor w
  | 0x54 => decM .amin w
  | 0x55 => decM .amax w
  | 0x56 => decM .aswp w
  | 0x57 => decCas .acas w
  | 0x58 => decXop0 .cfg w
  | 0x59 => decXop0 .strm w
  | 0x5a => (match (fXop w).toNat with | 0 => decNoT .drainCell w | 1 => decNoT .drainAll w | _ => .error .badXop)
  | 0x5b => decXop0 .tmpl w
  | 0x5c => (match (fXop w).toNat with | 0 => decNoT .evxTerm w | 1 => decNoT .evxCnt w | 2 => decNoT .evxTgt w | 3 => decNoT .evxPulse w | _ => .error .badXop)
  | 0x5d => decXop0 .pub w
  | 0x5e => (match (fXop w).toNat with | 0 => decNoT .collStart w | 1 => decNoT .collWait w | 2 => decNoT .collEnd w | _ => .error .badXop)
  | 0x5f => decTT .waitc w
  | 0x60 => decTT .waite w
  | 0x68 => decQueue .launch w
  | 0x69 => decXop0 .shape w
  | 0x6a => decTT .take w
  | 0x6b => decXop0 .steal w
  | 0x6c => decXop0 .yield w
  | 0x6d => decXop0 .cptag w
  | 0x6e => decXop0 .cpmark w
  | 0x70 => decMsg .msend w
  | 0x71 => decMsg .msendw w
  | 0x72 => decMsg .mbcast w
  | 0x78 => decSysR .sysrd w
  | 0x79 => decSysW .syswr w
  | 0x7a => decB0 .tret w
  | 0x7b => (match (fXop w).toNat with | 0 => decNoT .tlbiAddr w | 1 => decNoT .tlbiAsid w | 2 => decNoT .tlbiAll w | _ => .error .badXop)
  | 0x7c => decXop0 .ctxsave w
  | 0x7d => decXop0 .ctxload w
  | 0x7e => decImm .trap w
  | _ => .error .unassignedOp

/-- Format G (R72). -/
def encG (op : BitVec 7) (pm : BitVec 2) (xop : BitVec 5) (t0 t1 : BitVec 9) : Word32 := t1 ++ t0 ++ xop ++ pm ++ op
/-- Format I (R72). -/
def encI (op : BitVec 7) (pm : BitVec 2) (imm : BitVec 14) (t0 : BitVec 9) : Word32 := t0 ++ imm ++ pm ++ op
/-- Format M (R72). -/
def encM (op : BitVec 7) (pm : BitVec 2) (lsid : BitVec 5) (imm : BitVec 9) (t0 : BitVec 9) : Word32 :=
  t0 ++ imm ++ lsid ++ pm ++ op
/-- Format B (R72). -/
def encB (op : BitVec 7) (pm : BitVec 2) (exit : BitVec 3) (off : BitVec 20) : Word32 := off ++ exit ++ pm ++ op
/-- Format S (R72): bits 22..21 are reserved. -/
def encS (op : BitVec 7) (pm : BitVec 2) (sel : BitVec 12) (t0 : BitVec 9) : Word32 := t0 ++ 0#2 ++ sel ++ pm ++ op

/-- The word of a control instruction; a machine step has none. -/
def encode (i : Instr) : Option Word32 :=
  match i with
  | .add v t w p => some (encG 0x00#7 p.bits (0#3 ++ w.bits) t.bits v.bits)
  | .sub v t w p => some (encG 0x01#7 p.bits (0#3 ++ w.bits) t.bits v.bits)
  | .mul v t w p => some (encG 0x02#7 p.bits (0#3 ++ w.bits) t.bits v.bits)
  | .mulh v t s w p => some (encG 0x03#7 p.bits (0#2 ++ ofBool s ++ w.bits) t.bits v.bits)
  | .div v t s w p => some (encG 0x04#7 p.bits (0#2 ++ ofBool s ++ w.bits) t.bits v.bits)
  | .rem v t s w p => some (encG 0x05#7 p.bits (0#2 ++ ofBool s ++ w.bits) t.bits v.bits)
  | .and v t w p => some (encG 0x06#7 p.bits (0#3 ++ w.bits) t.bits v.bits)
  | .or v t w p => some (encG 0x07#7 p.bits (0#3 ++ w.bits) t.bits v.bits)
  | .xor v t w p => some (encG 0x08#7 p.bits (0#3 ++ w.bits) t.bits v.bits)
  | .shl v t w p => some (encG 0x09#7 p.bits (0#3 ++ w.bits) t.bits v.bits)
  | .shr v t s w p => some (encG 0x0a#7 p.bits (0#2 ++ ofBool s ++ w.bits) t.bits v.bits)
  | .sra v t w p => some (encG 0x0b#7 p.bits (0#3 ++ w.bits) t.bits v.bits)
  | .min v t s w p => some (encG 0x0c#7 p.bits (0#2 ++ ofBool s ++ w.bits) t.bits v.bits)
  | .max v t s w p => some (encG 0x0d#7 p.bits (0#2 ++ ofBool s ++ w.bits) t.bits v.bits)
  | .ext v t p => some (encG 0x0e#7 p.bits (0#5) t.bits v.bits)
  | .ins v t => some (encG 0x0f#7 1#2 (0#5) t.bits v.bits)
  | .addi t i p => some (encI 0x10#7 p.bits i t.bits)
  | .muli t i p => some (encI 0x11#7 p.bits i t.bits)
  | .andi t i p => some (encI 0x12#7 p.bits i t.bits)
  | .ori t i p => some (encI 0x13#7 p.bits i t.bits)
  | .xori t i p => some (encI 0x14#7 p.bits i t.bits)
  | .shli t i p => some (encI 0x15#7 p.bits i t.bits)
  | .shri t i p => some (encI 0x16#7 p.bits i t.bits)
  | .srai t i p => some (encI 0x17#7 p.bits i t.bits)
  | .movi t i p => some (encI 0x18#7 p.bits i t.bits)
  | .movhi t i p => some (encI 0x19#7 p.bits i t.bits)
  | .tag v t p => some (encG 0x1a#7 p.bits (0#5) t.bits v.bits)
  | .lea v t s p => some (encG 0x1b#7 p.bits (0#3 ++ s) t.bits v.bits)
  | .clz v t w p => some (encG 0x1c#7 p.bits (0#3 ++ w.bits) t.bits v.bits)
  | .popc v t w p => some (encG 0x1d#7 p.bits (0#3 ++ w.bits) t.bits v.bits)
  | .mov v t p => some (encG 0x1e#7 p.bits (0#5) t.bits v.bits)
  | .cmpeq v t w p => some (encG 0x20#7 p.bits (0#3 ++ w.bits) t.bits v.bits)
  | .cmpne v t w p => some (encG 0x21#7 p.bits (0#3 ++ w.bits) t.bits v.bits)
  | .cmplt v t s w p => some (encG 0x22#7 p.bits (0#2 ++ ofBool s ++ w.bits) t.bits v.bits)
  | .cmple v t s w p => some (encG 0x23#7 p.bits (0#2 ++ ofBool s ++ w.bits) t.bits v.bits)
  | .cmpeqi t i p => some (encI 0x24#7 p.bits i t.bits)
  | .cmpnei t i p => some (encI 0x25#7 p.bits i t.bits)
  | .cmplti t i p => some (encI 0x26#7 p.bits i t.bits)
  | .cmplei t i p => some (encI 0x27#7 p.bits i t.bits)
  | .pand v t p => some (encG 0x28#7 p.bits (0#5) t.bits v.bits)
  | .por v t p => some (encG 0x29#7 p.bits (0#5) t.bits v.bits)
  | .pnot v t p => some (encG 0x2a#7 p.bits (0#5) t.bits v.bits)
  | .sel v t => some (encG 0x2b#7 1#2 (0#5) t.bits v.bits)
  | .tst v t w p => some (encG 0x2c#7 p.bits (0#3 ++ w.bits) t.bits v.bits)
  | .grd t n p => some (encS 0x30#7 p.bits (0#6 ++ n) t.bits)
  | .gwr n p => some (encS 0x31#7 p.bits (0#6 ++ n) 0#9)
  | .mrd t n p => some (encS 0x32#7 p.bits (1#2 ++ 0#6 ++ n) t.bits)
  | .mwr n p => some (encS 0x33#7 p.bits (1#2 ++ 0#6 ++ n) 0#9)
  | .mwait t n => some (encS 0x34#7 0#2 (1#2 ++ 0#6 ++ n) t.bits)
  | .mfull t n p => some (encS 0x35#7 p.bits (1#2 ++ 0#6 ++ n) t.bits)
  | .br f e p => some (encB 0x38#7 p.bits e f)
  | .brx e p => some (encB 0x39#7 p.bits e 0#20)
  | .call f e p => some (encB 0x3a#7 p.bits e f)
  | .callx e p => some (encB 0x3b#7 p.bits e 0#20)
  | .ret e p => some (encB 0x3c#7 p.bits e 0#20)
  | .stop e p => some (encB 0x3d#7 p.bits e 0#20)
  | .ld8 t m l p => some (encM 0x40#7 p.bits l m t.bits)
  | .ld16 t m l p => some (encM 0x41#7 p.bits l m t.bits)
  | .ld32 t m l p => some (encM 0x42#7 p.bits l m t.bits)
  | .ld64 t m l p => some (encM 0x43#7 p.bits l m t.bits)
  | .lds8 t m l p => some (encM 0x44#7 p.bits l m t.bits)
  | .lds16 t m l p => some (encM 0x45#7 p.bits l m t.bits)
  | .lds32 t m l p => some (encM 0x46#7 p.bits l m t.bits)
  | .st8 m l p => some (encM 0x48#7 p.bits l m 0#9)
  | .st16 m l p => some (encM 0x49#7 p.bits l m 0#9)
  | .st32 m l p => some (encM 0x4a#7 p.bits l m 0#9)
  | .st64 m l p => some (encM 0x4b#7 p.bits l m 0#9)
  | .aadd t m l p => some (encM 0x50#7 p.bits l m t.bits)
  | .aand t m l p => some (encM 0x51#7 p.bits l m t.bits)
  | .aor t m l p => some (encM 0x52#7 p.bits l m t.bits)
  | .axor t m l p => some (encM 0x53#7 p.bits l m t.bits)
  | .amin t m l p => some (encM 0x54#7 p.bits l m t.bits)
  | .amax t m l p => some (encM 0x55#7 p.bits l m t.bits)
  | .aswp t m l p => some (encM 0x56#7 p.bits l m t.bits)
  | .acas t m l => some (encM 0x57#7 1#2 l m t.bits)
  | .cfg p => some (encG 0x58#7 p.bits (0#5) 0#9 0#9)
  | .strm p => some (encG 0x59#7 p.bits (0#5) 0#9 0#9)
  | .drainCell p => some (encG 0x5a#7 p.bits (0#5) 0#9 0#9)
  | .drainAll p => some (encG 0x5a#7 p.bits (1#5) 0#9 0#9)
  | .tmpl p => some (encG 0x5b#7 p.bits (0#5) 0#9 0#9)
  | .evxTerm p => some (encG 0x5c#7 p.bits (0#5) 0#9 0#9)
  | .evxCnt p => some (encG 0x5c#7 p.bits (1#5) 0#9 0#9)
  | .evxTgt p => some (encG 0x5c#7 p.bits (2#5) 0#9 0#9)
  | .evxPulse p => some (encG 0x5c#7 p.bits (3#5) 0#9 0#9)
  | .pub p => some (encG 0x5d#7 p.bits (0#5) 0#9 0#9)
  | .collStart p => some (encG 0x5e#7 p.bits (0#5) 0#9 0#9)
  | .collWait p => some (encG 0x5e#7 p.bits (1#5) 0#9 0#9)
  | .collEnd p => some (encG 0x5e#7 p.bits (2#5) 0#9 0#9)
  | .waitc v t p => some (encG 0x5f#7 p.bits (0#5) t.bits v.bits)
  | .waite v t p => some (encG 0x60#7 p.bits (0#5) t.bits v.bits)
  | .launch t q p => some (encG 0x68#7 p.bits (0#2 ++ q) t.bits 0#9)
  | .shape p => some (encG 0x69#7 p.bits (0#5) 0#9 0#9)
  | .take v t p => some (encG 0x6a#7 p.bits (0#5) t.bits v.bits)
  | .steal p => some (encG 0x6b#7 p.bits (0#5) 0#9 0#9)
  | .yield p => some (encG 0x6c#7 p.bits (0#5) 0#9 0#9)
  | .cptag p => some (encG 0x6d#7 p.bits (0#5) 0#9 0#9)
  | .cpmark p => some (encG 0x6e#7 p.bits (0#5) 0#9 0#9)
  | .msend n p => some (encG 0x70#7 p.bits (0#1 ++ n) 0#9 0#9)
  | .msendw n p => some (encG 0x71#7 p.bits (0#1 ++ n) 0#9 0#9)
  | .mbcast n p => some (encG 0x72#7 p.bits (0#1 ++ n) 0#9 0#9)
  | .sysrd t g n p => some (encS 0x78#7 p.bits (2#2 ++ g ++ n) t.bits)
  | .syswr g n p => some (encS 0x79#7 p.bits (2#2 ++ g ++ n) 0#9)
  | .tret e p => some (encB 0x7a#7 p.bits e 0#20)
  | .tlbiAddr p => some (encG 0x7b#7 p.bits (0#5) 0#9 0#9)
  | .tlbiAsid p => some (encG 0x7b#7 p.bits (1#5) 0#9 0#9)
  | .tlbiAll p => some (encG 0x7b#7 p.bits (2#5) 0#9 0#9)
  | .ctxsave p => some (encG 0x7c#7 p.bits (0#5) 0#9 0#9)
  | .ctxload p => some (encG 0x7d#7 p.bits (0#5) 0#9 0#9)
  | .trap i p => some (encI 0x7e#7 p.bits i 0#9)
  | .blockFetch _ => none
  | .blockCommit _ => none
  | .mwaitSatisfied _ => none
  | .cfgGateOpen _ _ => none
  | .strmGateOpen _ _ => none
  | .pubGateOpen _ _ => none
  | .waitcSatisfied _ _ => none
  | .waiteSatisfied _ _ => none
  | .apertureQueueRoom _ _ => none
  | .launchQueueRoom _ _ => none
  | .collWaitSatisfied _ _ => none
  | .collEndSatisfied _ _ => none
  | .engineSetReleased _ _ => none
  | .drainComplete _ => none
  | .yieldEnd _ => none
  | .tlbiComplete _ => none
  | .ctxsaveComplete _ => none
  | .ctxloadComplete _ => none
  | .mailboxWriteLand _ => none
  | .messageLand _ => none
  | .hostMailboxLand _ => none
  | .stealRequestLand _ => none
  | .stealReplyLand _ => none
  | .agenEmit _ _ => none
  | .mapFire _ _ => none
  | .transcFire _ _ => none
  | .convCvt _ _ => none
  | .convWidth _ _ => none
  | .lpack _ _ => none
  | .lunpack _ _ => none
  | .filterFire _ _ => none
  | .mergeOrdered _ _ => none
  | .mergeRrobin _ _ => none
  | .mergeConcat _ _ => none
  | .loopCycle _ _ => none
  | .mmaPass _ _ => none
  | .mmaEmit _ _ => none
  | .permTable _ _ => none
  | .permRank _ _ => none
  | .permTranspose _ _ => none
  | .scanBeat _ _ => none
  | .scanBoundary _ _ => none
  | .redBeat _ _ => none
  | .redDaccColumn _ _ => none
  | .memLoad _ _ _ => none
  | .memStore _ _ _ => none
  | .memRmw _ _ _ => none
  | .doneEmit _ _ => none
  | .remoteAck _ => none
  | .linkinReceive _ _ => none
  | .linkinDescriptorReceive _ _ => none
  | .linkoutSend _ _ => none
  | .incomingPeerAccess _ => none
  | .sluiceForward _ _ => none
  | .snapAlign _ _ => none
  | .snapAlignTimeout _ _ => none
  | .poisonForward _ _ _ => none
  | .sinkHalt _ _ _ => none
  | .reorderStoreAccept _ _ _ => none
  | .reorderStoreEmit _ _ _ => none
  | .reorderLenCheck _ _ _ => none
  | .fifoWriterAcquire _ => none
  | .fifoReaderAcquire _ _ => none
  | .fifoSlotFill _ _ => none
  | .pageWalkComplete _ _ => none
  | .termFire _ _ => none
  | .counterThreshold _ _ => none
  | .copyBegin _ _ => none
  | .copySector _ _ _ => none
  | .copyComplete _ _ => none
  | .collPayloadArrive _ => none
  | .collLevelCombine _ => none
  | .collStepComplete _ => none
  | .collAbortArrive _ => none
  | .launchPlace _ _ => none
  | .launchComplete _ _ => none
  | .shapeArrive _ => none
  | .launchAgeTarget _ _ => none
  | .mireProbeSend _ => none
  | .mireProbeForward _ => none
  | .deadlock _ => none
  | .walkerFetch _ => none
  | .remoteWalkerFetch _ => none
  | .frameReceive _ => none
  | .frameAck _ _ => none
  | .frameResend _ _ => none
  | .portDown _ _ => none
  | .preemptRequest _ _ _ => none
  | .regionGate _ _ => none
  | .readout _ _ => none
  | .restore _ _ _ => none
  | .quantumFloorExpire _ _ => none
  | .sliceExpire _ _ => none
  | .cellMove _ => none
  | .mergeStart _ => none
  | .mergeQuiesceTimeout _ => none
  | .mergeComplete _ => none
  | .counterOverflow _ _ => none
  | .sampleTimer _ => none
  | .checkpointEpoch _ => none
  | .epochEnd _ => none
  | .replayEnd _ => none
  | .compressionIdleExpire _ => none
  | .xlatResumeWrite _ _ => none
  | .fmtWctlWrite _ _ => none
  | .pblenValidClear _ _ => none
  | .keyInstall _ => none
  | .linkModeWrite _ => none
  | .pmcSbaseWrite _ _ => none
  | .ctxSliceWrite _ _ => none
  | .ctxNbvWrite _ _ => none
  | .ctxAsidWrite _ _ => none
  | .pwrWrite _ _ => none
  | .registerWrite _ _ _ _ => none
  | .dmbWrite _ _ _ _ => none
  | .hmbRead _ => none
  | .hostResumeWrite _ _ => none
  | .hostBar2Read _ _ _ => none
  | .hostBar2Write _ _ _ => none
  | .powerInterval _ _ _ _ => none
  | .coolantLimitChange _ _ => none
  | .machineCheck _ _ _ _ => none
  | .coldReset => none
  | .getVersion _ => none
  | .getCapabilities _ => none
  | .negotiateAlgorithms _ => none
  | .getDigests _ => none
  | .getCertificate _ => none
  | .challenge _ _ => none
  | .getMeasurements _ => none
  | .portUp _ => none
  | .remoteLoadReply _ _ => none
  | .managementThreadStart _ _ _ _ _ _ => none

/-- The instruction the decoder reads from an instruction of `nbits` bits whose bits are `w`: a control instruction is
one 32-bit little-endian word (R2, R67), so bit k of the table's numbering is bit k of the word; a row of any other
length is no word of this machine. -/
def decodeTableWord (nbits w : Nat) : Option Instr :=
  if nbits ≤ 32 then
    match decode (BitVec.ofNat 32 (w % 2 ^ nbits)) with
    | .ok i => some i
    | .error _ => none
  else none

end Sys2Proof
end

