-- ==== Sys2Proof/Machine/State.lean ====
section
/-! DEFINITION. The state of the machine as plain data: everything spec/ gives the device, from the package's memory
down to the tokens in flight, the reasons a step can stop, and the state after reset. Units are named by handles
(natural numbers that index a sorted association list); where a unit stands physically is a field of it (R14). -/

namespace Sys2Proof.Machine

/-- Why the machine stops with a fault. No rule of spec/ stops the device, so no meaning raises one today. -/
inductive Fault where
  /-- An access named a physical address that R335 and R380 say does not exist, by a path to which the spec gives no
  fault of its own. Raised by nobody at present. Safe: the machine stops where no behaviour is claimed. -/
  | absentAddress (pa : Nat)
  deriving DecidableEq, Repr

/-- Why the model refuses an instruction. -/
inductive Refusal where
  /-- Raised only by the arms of Dispatch.lean that have no meaning yet. Safe: nothing is claimed of them. -/
  | notModelled (mnemonic : String)
  deriving DecidableEq, Repr

/-! ### Labels, tokens and streams -/

/-- A critical-path label as an agent holds it (R314): PATH and EDGE, the busy cycles since the label last changed,
and the cycle since which a thread has been busy. -/
structure Label where
  path : Nat
  edge : BitVec 32
  busy : Nat
  since : Nat
  deriving DecidableEq, Repr

/-- A label as a signal carries it (R314, R315): PATH and EDGE when sent, the cycle of the stamp, the latency of the device link
that it crossed, and the sender's pts, for the joins of R247. -/
structure Sig where
  path : Nat
  edge : BitVec 32
  stamp : Nat
  lat : Nat
  pts : Nat
  deriving DecidableEq, Repr

/-- The fields of a POISON token (R64). -/
structure Poison where
  code : BitVec 8
  sub : BitVec 8
  node : BitVec 7
  origin : BitVec 32
  record : BitVec 64
  deriving DecidableEq, Repr

/-- A token (R50 to R52). A lane is the bit pattern of its element, or none where the lane is not valid; a SCALE
carries its scale bytes and how far inside the next beat of its consumer its first position lies (R62, R229). -/
inductive Token where
  | data (lanes : List (Option Nat))
  | scale (off : Nat) (bytes : List Nat)
  | len (e0 e1 e2 e3 : Nat)
  | fin (count : Nat) (lb : Sig)
  | sluice (sid : Nat) (lb : Sig)
  | snap (epoch : Nat)
  | poison (p : Poison)
  | done (count : Nat) (lb : Sig)
  deriving DecidableEq, Repr

/-- An order type as its 128-bit entry says (R56): step k of the walk is (dim, block log2). -/
structure Order where
  raw : BitVec 128
  ebytes : Nat
  pad : Nat
  ragged : Nat
  lanesLog : Nat
  walk : List (Nat × Nat)
  ext : List Nat
  deriving DecidableEq, Repr

/-- A reorder store (R230 to R234): its granules, the ends' order types, the elements in the granules and in the input
register by consumer position, the producer positions taken, the consumer beats left, the stream's LEN, the tokens that wait behind elements with the positions
they wait for, whether the stream is discarded, its label. -/
structure Store where
  granules : List Nat
  prod : Order
  cons : Order
  held : List (Nat × Option Nat)
  reg : List (Nat × Option Nat)
  ppos : Nat
  cbeat : Nat
  len : Option (List Nat)
  tail : List (Token × List Nat)
  dropping : Bool
  label : Label
  deriving DecidableEq, Repr

/-- A read port of a node. Its edge: the producer, whether it is a replicate edge or one whose positions are not checked
(DONE streams, circulating streams: R182, R173), the producer's and consumer's LANES, the order type and element type that
the port expects, the tokens before the reorder store, the lane-width adapter's rest, positions and LEN (R229), the store.
The port: the tokens that wait at it, the positions and LEN of the current stream (R65), whether the stream has ended while
its partners have not, whether POISON was met in it, the scalar latched and the scalars seen (R63), and the scale bytes in
effect with the position where they begin (R62). -/
structure Port where
  fed : Bool
  src : Nat
  rep : Bool
  free : Bool
  lp : Nat
  le : Nat
  exp : Order
  elem : Nat
  link : List Token
  rest : List (Option Nat)
  sent : Nat
  alen : Option (List Nat)
  store : Option Store
  q : List Token
  pos : Nat
  begun : Bool
  len : Option (List Nat)
  ended : Bool
  poisoned : Bool
  scalar : Option (Option Nat)
  nscal : Nat
  scBase : Nat
  scBytes : List Nat
  deriving DecidableEq, Repr

/-! ### Nodes and cells -/

/-- A graph node word decoded (R79). A target is (port, node) with port 1, 2, 3 for A, B, C. -/
structure NodeWord where
  kind : Nat
  mode : Nat
  type : Nat
  ord : Nat
  outA : Option (Nat × Nat)
  outB : Option (Nat × Nat)
  ctrl : Bool
  repl : Bool
  mclass : Nat
  prm : Nat
  prmlen : Nat
  flags : BitVec 8
  deriving DecidableEq, Repr

/-- The state of an accumulator tile (R201). -/
inductive TileState where
  | empty | live | draining
  deriving DecidableEq, Repr

/-- An operand tile of an MMA (R202): the k-steps that it has, each the 64 elements with the scale of each position, and
whether its stream's END has come. -/
structure OpTile where
  cols : List (List (Option (Nat × Option Nat)))
  last : Bool
  deriving DecidableEq, Repr

/-- An operand path of an MMA: its staged operand tiles, the first the oldest, the elements that do not make a whole k-step
yet, and the planes of a laminate block as they arrive. -/
structure OpPath where
  tiles : List OpTile
  part : List (Option (Nat × Option Nat))
  planes : List Nat
  deriving DecidableEq, Repr

/-- One entry of a LOOP beat table (R174): its value, its continuing mask, its trips, and its place in the order in which
the body's beats were sent, 0 where it is not in the body. -/
structure LoopEntry where
  value : List (Option Nat)
  cont : List Bool
  trips : Nat
  sent : Nat
  deriving DecidableEq, Repr

/-- The state of an MMA node (R200 to R211): tiles with their contents, operand paths, the product stream in progress (its
number, whether its prelude is done, its latched decay scalar, whether POISON hit it), emissions to send (tile, next
position), the stationary B with its number and uses, the near-bank unit with its pts and its label as an agent of R244, whether POISON hit the stream on port B, and the
elements (tile, position) that hold a NaN made of operands none of which was one (R47). -/
structure MmaState where
  tiles : List (TileState × List Nat)
  a : OpPath
  b : OpPath
  s : Nat
  begun : Bool
  decay : Option (Option Nat)
  ksteps : Nat
  emits : List (Nat × Nat)
  statB : Option OpTile
  j : Nat
  used : Nat
  unit : Option Nat
  upts : Nat
  ulabel : Label
  drop : Bool
  dropB : Bool
  made : List (Nat × Nat)
  deriving DecidableEq, Repr

/-- What the loads of a STREAM see (R184, R250): the bytes, the poisoned units and lines, the packed bits of every page store's
banks, the visible copy of each publishable buffer and the labels of tracked lines, as they are at the stream's point of the memory
order. -/
structure StreamImage where
  bytes : List Host.Cell
  poisoned : List Nat
  badLines : List Nat
  packed : List (Nat × List (BitVec 32))
  vis : List Bool
  track : List (Nat × Sig)
  deriving DecidableEq, Repr

/-- The state of a MEM or AGEN node: streams started and not yet emitted (base, second base, LEN, timestamp of the STRM),
sluices that wait behind a number of streams, the streams begun or emitted, whether the current one has begun, positions
done in it, DONE tokens consumed, accesses performed, the slot held of a circular buffer, what a STREAM snapshot sees,
operations sent and not acknowledged by position, values that have come back, the LINKIN's descriptor with the device-link
port it came over, the POISON that replaces the streams of a broken link, and the signal of the last END that an AGEN issued. -/
structure MemState where
  starts : List (BitVec 64 × BitVec 64 × List Nat × Nat)
  sluices : List (Nat × Nat)
  streams : Nat
  begun : Bool
  cur : Nat
  dones : Nat
  count : Nat
  slot : Option Nat
  image : Option StreamImage
  ts : Nat
  out : List (Nat × Option Nat)
  desc : Option (BitVec 128 × Nat × Bool × Option Nat)
  broken : Option Poison
  endSig : Sig
  deriving DecidableEq, Repr

/-- The state of a PERM, SCAN or RED node (R215 to R226): PTAB, RS with its stream-start state, the beats of a group still
due, the codes of the group, the transpose buffer, LTAB, column, group, ACC, whether the row is skipped, outputs that wait
to fill a beat. -/
structure RowState where
  ptab : List Nat
  rs : List Int
  started : List Bool
  due : Nat
  codes : List (Option Nat)
  buf : List (List (Option Nat))
  ltab : List Nat
  col : Nat
  grp : Nat
  acc : List (Option Nat)
  skip : Bool
  out : List (Option Nat)
  deriving DecidableEq, Repr

/-- What the kinds keep beside their ports: CONV keeps elements that wait to fill a beat and its input elements; MERGE its
pointer, whether its LEN has been sent and the beats emitted; LOOP its table and whether its END or a marker is in the
body. -/
inductive NodeState where
  | plain
  | conv (inp : List (Option Nat)) (out : List (Option Nat)) (warned : Bool)
  | merge (ptr : Nat) (sentLen : Bool)
  | loop (tab : List LoopEntry) (ended : Bool) (sluice : Bool)
  | mma (m : MmaState)
  | row (r : RowState)
  | mem (m : MemState)
  deriving DecidableEq, Repr

/-- Cycle classes of R384 counted in a configuration interval (R385). -/
structure ClassCount where
  busy : Nat
  starved : Nat
  blocked : Nat
  idle : Nat
  deriving DecidableEq, Repr

/-- Flags and exception counts that have not been committed (R45 to R48). -/
structure ExcCount where
  flags : BitVec 6
  nan : Nat
  sat : Nat
  ovf : Nat
  unf : Nat
  deriving DecidableEq, Repr

/-- None. -/
def ExcCount.zero : ExcCount := ⟨0, 0, 0, 0, 0⟩

/-- A node of a configured cell: its word, parameter record and output order type, ports A, B and C, the state of its
kind, positions emitted on its two outputs in the current stream, whether it discards after a mismatch (R154), its label and
pts, the cycle since which it is held for proof or waits for a slot, its SNAP alignment (epoch, cycle of the first arrival,
ports that delivered it) and the ports whose SNAP is late (R160), the cycle in which it last fired, and the tokens that it has
formed and not sent yet on OUTA and on OUTB: one of each leaves in a cycle (R152). `exc` has its flags and counts that its cell has not
committed. -/
structure Node where
  word : NodeWord
  params : List (BitVec 128)
  ord : Order
  ports : List Port
  st : NodeState
  outPosA : Nat
  outPosB : Nat
  failing : Bool
  label : Label
  pts : Nat
  held : Option Nat
  snap : Option (Nat × Nat × List Nat)
  late : List (Nat × Nat)
  lastFire : Nat
  probed : Bool
  cnt : ClassCount
  pendA : List Token
  pendB : List Token
  exc : ExcCount
  deriving DecidableEq, Repr

/-- The mode of a page bank (R176, R177). -/
inductive BankMode where
  | cache | scratch | fifo | reorder | spill
  deriving DecidableEq, Repr

/-- The circular buffer that a first FIFO bank keeps (R188, R189): counters, and the state of each slot (0 free,
1 being written, 2 written, 3 filled, 4 being read) with the writer that took it. -/
structure FifoRun where
  tail : Nat
  head : Nat
  free : Nat
  filled : Nat
  slots : List (Nat × Option FifoWriter)
  reader : Option (Nat × Nat)
  deriving DecidableEq, Repr

/-- A page bank: mode, CONT, SLOTLOG, packed bits (R193) and, in the first bank of a FIFO run, its counters. -/
structure Bank where
  mode : BankMode
  cont : Bool
  slotlog : Nat
  packed : BitVec 32
  fifo : Option FifoRun
  deriving DecidableEq, Repr

/-- A page that a cell holds: the cluster's page it stands on, the place of its contents in memory, its role (0 AG,
1 compute, 2 reducer) and its eight banks. -/
structure Page where
  phys : Nat
  store : Nat
  role : Nat
  banks : List Bank
  deriving DecidableEq, Repr

/-- A crew: the context, the launch (0 outside any launch) and the crew's number in it (shard × 64 + crew), or the
cluster for the threads outside any launch (R118). -/
structure CrewId where
  asid : Nat
  launch : Nat
  crew : Nat
  deriving DecidableEq, Repr

/-- A sluice in a cell (R133): its identifier, the sinks that it has not reached, what had entered the cell before it, the sink that it
reached last, and that sink's signal, with the largest pts of the sinks that it has reached (R150, R247). -/
structure Sluice where
  sid : Nat
  left : List Nat
  entered : Nat
  last : Nat
  sig : Sig
  deriving DecidableEq, Repr

/-- What a cell was configured with (R69, R70) and by whom. -/
structure CellConfig where
  block : BitVec 64
  check : BitVec 32
  sntid : BitVec 32
  npages : Nat
  orders : List Order
  params : List (BitVec 128)
  nbv : BitVec 2
  thread : Nat
  level : BitVec 2
  index : Nat
  stage : Nat
  since : Nat
  deriving DecidableEq, Repr

/-- A configured cell. `entered` counts the tokens sources have let in since the CFG (R133); `drainSig` is the signal of the last sink of the
last sluice that completed, with the largest pts of its sinks (R150, R247). -/
structure Cell where
  crew : CrewId
  cluster : Nat
  cfg : CellConfig
  pages : List Page
  nodes : List Node
  halted : Bool
  gated : Bool
  sluices : List Sluice
  entered : Nat
  drainedAt : Nat
  lastSink : Nat
  drainSig : Sig
  movedAt : Nat
  deferred : List (BitVec 64)
  deriving DecidableEq, Repr

/-! ### Engine sets -/

/-- A started copy: its template (eight words), data word, starting thread, level and label (R264, R266), and the handle that its
start took, so that what was started earlier has a lower one (R141). -/
structure CopyStart where
  tmpl : List (BitVec 64)
  word : BitVec 64
  thread : Nat
  level : BitVec 2
  sig : Sig
  born : Nat
  deriving DecidableEq, Repr

/-- What a sector of a copy has added to the copy's results (R274). -/
structure SectorCount where
  sector : Nat
  flags : BitVec 6
  nsat : Nat
  elems : Nat
  pbytes : Nat
  deriving DecidableEq, Repr

/-- A running copy (R269, R278): performed sectors, index snapshot, the 8-byte words that have come from a peer or the
host, FIFO slot, whether it waits on FREE, the sectors that wait for a page, whether it still stands in its queue for its proof
hold, what each performed sector has added, the fault that ends it (sector, status, sub, address) with the fault sequence number
that it took at a gate, whether its completion record has been sent to a peer or the host, how that failed and with which sequence
number, and whether its FIFO slot has been completed. -/
structure CopyRun where
  start : CopyStart
  perf : List Nat
  index : List Nat
  image : List (Nat × Nat)
  slot : Option Nat
  waiting : Bool
  stalls : List Nat
  parked : Bool
  counts : List SectorCount
  fault : Option (Nat × Nat × Nat × BitVec 64)
  seq : Option (BitVec 32)
  recSent : Bool
  recFail : Option (Nat × Nat × BitVec 64)
  recSeq : Option (BitVec 32)
  slotDone : Bool
  deriving DecidableEq, Repr

/-- A channel (R261, R263). `held` is the cycle since which its next copy is held for proof (R289) or its running copy
waits on FREE (R273); `recSig` is the signal of its last completion record. -/
structure Channel where
  queue : List CopyStart
  cur : Option CopyRun
  ccnt : BitVec 32
  lastcode : BitVec 8
  slot : BitVec 6
  label : Label
  pts : Nat
  recSig : Sig
  held : Option Nat
  lastAct : Nat
  probed : Bool
  deriving DecidableEq, Repr

/-- A crossbar term (R139): mask, latches, the channel, word, thread and level it is bound to, the starts that wait in it
for room, and the label of its last pulse. -/
structure Term where
  mask : BitVec 64
  latch : BitVec 64
  bound : Option (Nat × BitVec 64 × Nat × BitVec 2)
  fired : List (Nat × CopyStart)
  sig : Sig
  deriving DecidableEq, Repr

/-- A crossbar counter (R139). -/
structure Counter where
  count : Nat
  thresh : Nat
  src : Nat
  auto : Bool
  due : Bool
  sig : Sig
  deriving DecidableEq, Repr

/-- An entry of the staging table (R361): the copy, its channel, the granules (memory addresses) that it staged, and whether the
copy has ended with STATUS 0: its granules are staged from then on. -/
structure Staged where
  start : CopyStart
  chan : Nat
  granules : List Nat
  ended : Bool
  deriving DecidableEq, Repr

/-- The engine-set state of one holder (R137, R261). -/
structure EngineSet where
  crew : CrewId
  cluster : Nat
  slots : List (Option (List (BitVec 64)))
  channels : List Channel
  terms : List Term
  counters : List Counter
  staged : List Staged
  deriving DecidableEq, Repr

/-! ### Control threads -/

/-- The system registers held per thread (R329). -/
structure ThreadRegs where
  tflag : BitVec 6
  gflag : BitVec 6
  nancnt : BitVec 16
  satcnt : BitVec 16
  ofcnt : BitVec 16
  ufcnt : BitVec 16
  csize : BitVec 7
  spc : BitVec 20
  ovfptr : BitVec 64
  mbovr : BitVec 16
  irNext : BitVec 32
  irEnd : BitVec 32
  nbv : BitVec 2
  priv : BitVec 2
  ppriv : BitVec 2
  intrap : Bool
  trapinfo : BitVec 64
  trapaddr : BitVec 64
  trappc : BitVec 64
  deriving DecidableEq, Repr

/-- A trap that an instruction, a fetch or a wait raises (R346). -/
structure TrapReq where
  code : BitVec 8
  sub : BitVec 8
  slot : BitVec 7
  hdr : Bool
  addr : BitVec 64
  deriving DecidableEq, Repr

/-- The kind of a memory access (R120, R121). -/
inductive AccessKind where
  | load (signed : Bool)
  | store
  | add | and | or | xor | min | max | swap
  | cas (cmp : BitVec 64)
  deriving DecidableEq, Repr

/-- Where an address leads: an address of the memory list, a byte of a format-window view, a peer's physical address,
a host bus address, the status word of an engine channel. -/
inductive Loc where
  | mem (a : Nat)
  | view (w off : Nat)
  | peer (idx pa : Nat)
  | host (a : Nat)
  | aper (ch : Nat)
  deriving DecidableEq, Repr

/-- A memory access of a block that has fired (R122): where it goes, its datum and the value it delivered. A spill
load of RET stands behind every LSID (R115). -/
structure Access where
  slot : Nat
  lsid : Nat
  kind : AccessKind
  size : Nat
  addr : BitVec 64
  loc : Loc
  data : BitVec 64
  value : BitVec 64
  deriving DecidableEq, Repr

/-- How far a slot of a block has come. `remote` waits for a PEER or HOST value, `ordered` for a
lower-LSID load before it is sent (R123). -/
inductive Phase where
  | waiting | fired | skipped | gated | ordered | remote (op : Nat)
  deriving DecidableEq, Repr

/-- A slot of a block in flight: its word, its ports and its phase. -/
structure Slot where
  word : Word32
  l : Option (BitVec 64)
  r : Option (BitVec 64)
  x : Option (BitVec 64)
  phase : Phase
  deriving DecidableEq, Repr

/-- What a branch chose (R114, R348). -/
inductive Choice where
  | jump (a : BitVec 64)
  | call (a : BitVec 64)
  | ret (a : BitVec 64) (spilled : Bool)
  | stop
  | tret (a : BitVec 64)
  deriving DecidableEq, Repr

/-- What a fired instruction leaves for the commit event, or for just after it (R110). `n` is its slot. -/
inductive Eff where
  | gwr (g : BitVec 6) (v : BitVec 64)
  | mwr (m : BitVec 4) (v : BitVec 64)
  | mclr (m : BitVec 4)
  | sysw (g : BitVec 4) (i : BitVec 6) (v : BitVec 64)
  | cfg (slot : Nat) (addr desc : BitVec 64) (graph : List Byte)
  | strm (cell node : Nat) (b0 b1 : BitVec 64) (len : List Nat)
  | drain (all : Bool) (cell sid : Nat)
  | aperture (ch : Nat) (word : BitVec 64)
  | tmpl (slot : Nat) (words : List (BitVec 64))
  | term (i : Nat) (mask : BitVec 64)
  | count (i : Nat) (word : BitVec 64)
  | bind (i ch : Nat) (word : BitVec 64)
  | pulse (line : Nat)
  | publish (buf : Nat)
  | collStart (addr : BitVec 64) (words : List (BitVec 64)) (step : BitVec 32)
  | collEnd (addr : BitVec 64)
  | launch (q id : Nat) (words : List (BitVec 64))
  | shape (id : Nat) (e : BitVec 32)
  | take (n : BitVec 32)
  | steal (victim : Nat)
  | yield
  | cptag (tag : BitVec 32)
  | cpmark (step : BitVec 32)
  | send (m : BitVec 4) (dst v : BitVec 64) (wait : Bool)
  | bcast (m : BitVec 4) (dst v : BitVec 64)
  | tlbi (kind : Nat) (va : BitVec 64) (asid : Nat)
  | ctxsave (asid limit : Nat) (img : BitVec 64)
  | ctxload (asid : Nat) (img : BitVec 64)
  | remoteStore (lsid : Nat) (addr data : BitVec 64) (size : Nat)
  | soft (slot : Nat) (imm : BitVec 64)
  deriving DecidableEq, Repr

/-- A block in flight (R109): its header, slots, snapshot, what has fired, and what it raised. `landed` marks the
mailboxes written since the snapshot (R107, R111); `effBy` names the slot of each effect; `regs` are the thread's registers at
the snapshot, and `born` the first handle not in use then, so that what was started before it is known by a lower one (R141). -/
structure Block where
  addr : BitVec 64
  hdr : BitVec 128
  slots : List Slot
  gs : Vector (BitVec 64) 64
  ms : Vector (BitVec 64) 16
  mfull : BitVec 16
  sys : List (BitVec 10 × BitVec 64)
  irange : BitVec 64
  regs : ThreadRegs
  born : Nat
  landed : BitVec 16
  accs : List Access
  predicted : List Access
  recs : List (Loc × List Byte)
  effs : List Eff
  effBy : List Nat
  choice : Option Choice
  branches : Nat
  dz : Bool
  faults : List TrapReq
  gateAt : Nat
  deriving DecidableEq, Repr

/-- A trailing wait (R125, R368). -/
inductive Waiting where
  | drain (cells : List (Nat × Nat)) (sid : Nat)
  | steal (victim : Nat)
  | yield (left : List Nat)
  | msendw (msg : Nat)
  | tlbi (kind : Nat) (va : BitVec 64) (asid before : Nat)
  | ctxsave (asid limit : Nat) (img : BitVec 64)
  | ctxload (asid : Nat) (img : BitVec 64)
  deriving DecidableEq, Repr

/-- What follows the trailing waits of a block: the thread's next block, the halt of its STOP, or the SOFT of its TRAP with its
slot, its datum and the next block's address (log 16). -/
inductive AfterWait where
  | next
  | halt
  | soft (slot : Nat) (v pc : BitVec 64)
  deriving DecidableEq, Repr

/-- What a thread does between blocks (R377). `halted` is by STOP (R114), `fallen` by a trap that no handler took (R346). -/
inductive Mode where
  | ready
  | mwait
  | trailing (ws : List Waiting) (after : AfterWait)
  | proofHeld (tr : Option TrapReq)
  | halted
  | fallen
  deriving DecidableEq, Repr

/-- Where a thread stands and whose it is: cluster (die × 64 + cluster), thread slot, crew, engine set, helper number,
coordinate (R13), and whether it is its partition's dispatcher. -/
structure Home where
  cluster : Nat
  slot : Nat
  crew : CrewId
  eset : Nat
  helper : Nat
  shard : BitVec 8
  crewNo : BitVec 8
  dispatcher : Bool
  deriving DecidableEq, Repr

/-- A control thread (R20). The return-address store lists its live entries, the bottom first. `exit` is the EXIT of the branch that its
last block took (R113), `seq` the fault sequence number that a gate gave to the fault of an abandoned block (R358). -/
structure Thread where
  home : Home
  pc : BitVec 64
  gs : Vector (BitVec 64) 64
  ms : Vector (BitVec 64) 16
  mfull : BitVec 16
  ras : List (BitVec 64)
  regs : ThreadRegs
  mode : Mode
  block : Option Block
  label : Label
  tag : BitVec 32
  exit : BitVec 3
  pts : Nat
  waitAt : Nat
  thieves : List (Nat × Bool)
  mbSig : List (Nat × Sig × BitVec 64 × Bool)
  brkSkip : Option (BitVec 64)
  probed : Bool
  seq : Option (BitVec 32)
  deriving DecidableEq, Repr

/-! ### Contexts -/

/-- A publishable-buffer entry (R338), with the timestamp of its last PUB (R251) and the last unit to write its shadow, as a
signal and its unit word (R150). -/
structure PubBuf where
  va : BitVec 64
  len : Nat
  vis : Bool
  valid : Bool
  pa0 : BitVec 64
  pa1 : BitVec 64
  ts : Nat
  writer : Option (Sig × BitVec 64)
  deriving DecidableEq, Repr

/-- A format window (R350, R351). -/
structure Window where
  store : BitVec 64
  scale : BitVec 64
  ctl : BitVec 64
  deriving DecidableEq, Repr

/-- XLAT and FMT registers (R333, R338 to R342, R350). -/
structure XlatRegs where
  root : BitVec 64
  demand : Bool
  prq : BitVec 64
  prqcnt : BitVec 32
  resume : BitVec 64
  pbsel : BitVec 6
  bufs : List PubBuf
  wsel : BitVec 64
  windows : List (Nat × Window)
  deriving DecidableEq, Repr

/-- PMC registers (R386). `wrote` keeps, of each counter whose CNT or EVT has been written in this cycle, the value and the event from before:
an increment of the cycle no longer reaches the counter, but it may still overflow (R388). `setNow` has the OVF bits that this cycle has
set. -/
structure PmcRegs where
  ctl : BitVec 3
  evt : List (BitVec 9)
  cnt : List (BitVec 48)
  ovf : BitVec 8
  sbase : BitVec 64
  swr : BitVec 64
  srd : BitVec 64
  sper : BitVec 32
  lost : BitVec 32
  brk : List (BitVec 64)
  sampledAt : Nat
  wrote : List (Nat × BitVec 48 × BitVec 9)
  setNow : BitVec 8
  deriving DecidableEq, Repr

/-- The CTX registers held per context (R329) and the save area (R379). -/
structure CtxRegs where
  probe : BitVec 32
  trapvec : BitVec 64
  traplog : BitVec 64
  tlcnt : BitVec 32
  slice : BitVec 32
  slclamp : Bool
  savebase : BitVec 64
  savelen : BitVec 28
  nosave : Bool
  fseq : BitVec 32
  deriving DecidableEq, Repr

/-- A crew of a placed launch (R283, R288). -/
structure CrewState where
  crew : Nat
  cluster : Nat
  eset : Nat
  threads : List Nat
  reserve : Nat
  spill : Option Page
  lo : Nat
  hi : Nat
  confirmed : Bool
  retired : Bool
  deriving DecidableEq, Repr

/-- A launch from its commit to its completion (R280 to R293). `target` has the clusters that R371 and R372 fix for it. -/
structure Launch where
  words : List (BitVec 64)
  thread : Nat
  nbv : BitVec 2
  priv : BitVec 2
  q : Nat
  queued : Bool
  telig : Option Nat
  target : Option (List Nat)
  prio : Nat
  placedAt : Nat
  rows : Nat
  shape : Option (BitVec 32)
  crews : List CrewState
  lastHalt : Nat
  lineMet : Bool
  deriving DecidableEq, Repr

/-- An entry of the proofing table (R287), most recent extents first. -/
structure ProofEntry where
  key : BitVec 32
  extents : List (BitVec 32)
  deriving DecidableEq, Repr

/-- An outstanding page request (R341), with the accesses that are stalled on it: whose they are, and their addresses. -/
structure PageReq where
  page : Nat
  seq : BitVec 32
  stalled : List (Party × BitVec 64)
  deriving DecidableEq, Repr

/-- Where a region stands in a pre-emption (R356). -/
inductive RegionPhase where
  | running | gated | readOut
  deriving DecidableEq, Repr

/-- A region (R354): requests pending, the quantum floor's end (R362), when it started to run, its slice,
the cycle of its gate, and the requests that the gate met. -/
structure Region where
  asid : Nat
  cluster : Nat
  phase : RegionPhase
  requests : List PreemptWhy
  floor : Nat
  ranAt : Nat
  slice : Nat
  gatedAt : Nat
  why : List PreemptWhy
  deriving DecidableEq, Repr

/-- What the device keeps of a context beside its units (R360), and where its regions stand. -/
structure CtxSave where
  xlat : XlatRegs
  traplog : BitVec 64
  tlcnt : BitVec 32
  nextLaunch : Nat
  queues : List (List Nat)
  proof : List ProofEntry
  reqs : List PageReq
  regions : List Region
  deriving DecidableEq, Repr

/-- What a section of an image stands for (R360, R367, log 33): the device keeps the contents of the sections whose layout is its own, and the
part of a thread that the words of a THREAD section do not hold. A cell and a launch come with the contents of their pages. -/
inductive Saved where
  | ctx (k : CtxSave)
  | thread (t : Nat) (th : Thread)
  | cell (c : Nat) (x : Cell) (sram : List Host.Cell)
  | eset (e : Nat) (x : EngineSet)
  | launch (id : Nat) (l : Launch) (sram : List Host.Cell)
  deriving DecidableEq, Repr

/-- What a checkpoint keeps of one unit (R396): what it found as the epoch began; and from the time of the SNAP a node without what stood
behind the SNAP, the store of a port, a channel. -/
inductive UnitSnap where
  | saved (u : Saved)
  | node (c n : Nat) (nd : Node)
  | store (c n p : Nat) (q : Port)
  | chan (e ch : Nat) (k : Channel)
  deriving DecidableEq, Repr

/-- An epoch that has begun and has no END yet (R396): the threads and nodes whose REGION record is owed, and whether a record was lost. -/
structure Epoch where
  number : Nat
  threads : List Nat
  nodes : List (Nat × Nat)
  lost : Bool
  deriving DecidableEq, Repr

/-- CPR and CKP registers (R394, R395), the cycle at which the last epoch began, the epochs without END, and the lines that the last
epoch has logged (R396). `snaps` holds by epoch what the REGION records of nodes, stores and channels stand for. -/
structure LogRegs where
  rbase : BitVec 64
  rwr : BitVec 64
  rrd : BitVec 64
  rdrop : BitVec 32
  ckctl : BitVec 2
  period : BitVec 16
  align : BitVec 32
  lbase : BitVec 64
  llen : BitVec 64
  lwr : BitVec 64
  lrd : BitVec 64
  epoch : BitVec 32
  epochAt : Nat
  epochs : List Epoch
  undone : List Nat
  orderAt : Nat
  replay : List (List (BitVec 64))
  replaying : Bool
  snaps : List (Nat × UnitSnap)
  deriving DecidableEq, Repr

/-- A context (R329, R360). Of a context that CTXSAVE has saved, `image` says where its image lies: in whose address space, as
seen from which die, at which address (R359, R365); `kept` names what the device's own sections of the last image that it wrote stand for
(log 33). -/
structure Context where
  part : Nat
  regs : CtxRegs
  xlat : XlatRegs
  pmc : PmcRegs
  log : LogRegs
  nextLaunch : Nat
  launches : List (Nat × Launch)
  queues : List (List Nat)
  proof : List ProofEntry
  reqs : List PageReq
  saved : Bool
  image : Option (Nat × Nat × BitVec 64)
  kept : List Nat
  stopped : Bool
  merging : Bool
  deriving DecidableEq, Repr

/-! ### What is in flight -/

/-- A mailbox write on its way to a thread of this device (R127). `ends`: its landing ends this trailing wait of the thread, on
a message or steal that failed (R129, R313). -/
structure MbWrite where
  thread : Nat
  n : BitVec 4
  v : BitVec 64
  sig : Sig
  unit : BitVec 64
  launch : Bool
  ends : Option Waiting
  deriving DecidableEq, Repr

/-- A message on its way (R130). `host` names a partition's host mailbox (R129). -/
structure Msg where
  id : Nat
  src : Nat
  asid : Nat
  host : Option Nat
  dst : Nat
  n : BitVec 4
  v : BitVec 64
  wait : Bool
  sig : Sig
  deriving DecidableEq, Repr

/-- A steal request or its reply (R147). -/
structure Steal where
  thief : Nat
  victim : Nat
  reply : Bool
  grant : Option (BitVec 32 × BitVec 32)
  sig : Sig
  deriving DecidableEq, Repr

/-- A SHAPE on its way to its launch (R290). -/
structure ShapeMsg where
  asid : Nat
  id : Nat
  e : BitVec 32
  thread : Nat
  sig : Sig
  deriving DecidableEq, Repr

/-- Who issued an operation that left over a link (R313). -/
inductive Issuer where
  | threadLoad (t slot : Nat)
  | threadRec (t slot : Nat) (l : Loc)
  | threadStore (t slot : Nat) (addr : BitVec 64)
  | message (t id slot : Nat) (addr : BitVec 64)
  | nodeLoad (c n pos : Nat)
  | nodeStore (c n pos : Nat)
  | copy (e ch j : Nat) (va : BitVec 64)
  | linkout (c n pos : Nat)
  | coll (h step : Nat)
  | walk (w : Nat)
  | device
  deriving DecidableEq, Repr

/-- An operation sent over a device link or to the host and not acknowledged (R248, R313). `host` operations travel
over PCIe. `rest` holds the further runs of bytes of a write that leaves gaps in its line and is one event (R249). -/
structure RemoteOp where
  id : Nat
  issuer : Issuer
  peer : Nat
  port : Option Nat
  write : Bool
  addr : BitVec 64
  bytes : List Byte
  rest : List (BitVec 64 × List Byte)
  deriving DecidableEq, Repr

/-- A collective payload (R306, R307, R309): who sent it, what it is for, and the elements of the wire payload in order: f32 or
bf16 patterns, or for a block codec each block's ue8m0 byte and its element patterns. -/
structure Payload where
  asid : Nat
  group : BitVec 32
  level : Nat
  step : BitVec 32
  rank : Nat
  count : Nat
  type : Nat
  op : Nat
  codec : Nat
  memm1 : Nat
  vals : List Nat
  sig : Sig
  unit : BitVec 64
  deriving DecidableEq, Repr

/-- Where a mire probe goes or has been: a party of this device, or one of another device, by the peer entry that leads to it (0: a
partner that no cell of this device has yet), a channel or a group, and its rank among the parties of a cycle where it has one. -/
inductive Site where
  | here (q : Party)
  | away (peer what : Nat) (rank : Option (Nat × Nat × Nat))
  deriving DecidableEq, Repr

/-- A mire probe in flight (R296): its origin, the parties it has reached, the link kinds it followed, the party it is
going to. -/
structure Probe where
  origin : Site
  path : List (Site × Nat × BitVec 64)
  target : Site
  deriving DecidableEq, Repr

/-- What another device sends (R240 to R242, R244, R309, R312, R320, R129). An access names the agent that issued it by its unit
word, and the FAR port and sequence number of the frame that brought it. An answer to a message names the thread that sent it and the
message: a refusal with the slot and the block that sent it, a landing with the thread that had emptied the mailbox. `down` stands
where a port that has gone down delivers nothing further of a channel (R53, R313). -/
inductive Inbound where
  | access (write : Bool) (pa : Nat) (bytes : List Byte) (len : Nat) (unit : BitVec 64) (via : Option (Nat × Nat))
  | payload (p : Payload)
  | abort (asid : Nat) (group step : BitVec 32)
  | token (asid chan : Nat) (t : Token)
  | descriptor (asid chan : Nat) (ord : BitVec 128) (type : Nat) (ctrl : Bool) (port : Option Nat)
  | fetch (edge : BitVec 32)
  | fetched (w : Nat) (rec : Option (List (BitVec 64)))
  | message (asid : Nat) (word : BitVec 64) (n : BitVec 4) (v : BitVec 64) (wait : Bool) (sig : Sig) (unit : BitVec 64)
  | refused (t id slot : Nat) (addr : BitVec 64)
  | landed (t id : Nat) (sig : Sig) (unit : BitVec 64)
  | down (asid chan : Nat)
  | probe (p : Probe)
  deriving DecidableEq, Repr

/-- A frame that a FAR port receives (R403): whether its integrity check holds, its packet and sequence numbers, the
association number of its key and what it carries. -/
structure Frame where
  port : Nat
  ok : Bool
  an : BitVec 2
  pn : Nat
  seq : Nat
  body : Inbound
  deriving DecidableEq, Repr

/-- A frame in a retry window (R403): its sequence number, the operation, the bytes of the window that it takes, and how often it has
been sent again. -/
structure SentFrame where
  seq : Nat
  op : Nat
  size : Nat
  resent : Nat
  deriving DecidableEq, Repr

/-- What leaves the device: answers to the host, to peers, to an SPDM requester, MSI-X signals. -/
inductive Outbound where
  | msix (part vector : Nat)
  | hostRead (part : Nat) (bytes : List Byte)
  | hmb (part : Nat) (v : BitVec 64)
  | bar0 (part off : Nat) (v : BitVec 64)
  | side (part : Nat) (r : SideReg) (ws : List (BitVec 64))
  | unsupported (part : Nat)
  | ack (port seq : Nat)
  | peerReply (bytes : List Byte)
  | peerSent (peer : Nat) (body : Inbound)
  | walkReply (rec : List (BitVec 64))
  | refusedMsg (asid : Nat) (word : BitVec 64)
  | landedMsg (asid : Nat) (word : BitVec 64) (sig : Sig) (unit : BitVec 64)
  | spdm (part : Nat) (answer : SpdmAnswer)
  deriving DecidableEq, Repr

/-- A walk of the path walker (R320). -/
structure Walk where
  id : Nat
  asid : Nat
  die : Nat
  mark : BitVec 32
  cur : BitVec 32
  recs : List (List (BitVec 64))
  step : BitVec 32
  waiter : BitVec 64
  deriving DecidableEq, Repr

/-- A step of a collective in progress (R306): the level it is at, its running values, the payload it encoded at this
level, flags, staleness, the residuals and last values to be written, the 8-byte words that have come from a peer or the
host, the fault that ends it, and whether its EBASE writes have been sent (R310). -/
structure CollRun where
  step : BitVec 32
  level : Nat
  v : List Nat
  dq : List Nat
  sent : Bool
  flags : BitVec 6
  maxlag : Nat
  writes : List (Nat × List Nat)
  image : List (Nat × Nat)
  fault : Option (Nat × Nat)
  sentState : Bool
  born : Nat
  deriving DecidableEq, Repr

/-- A collective context (R304). `doneSig` is the signal of its last completion. -/
structure Coll where
  die : Nat
  asid : Nat
  addr : BitVec 64
  tmpl : List (BitVec 64)
  lstep : BitVec 32
  cstep : BitVec 32
  begun : Bool
  some_ : Bool
  cur : Option CollRun
  kept : List Payload
  label : Label
  pts : Nat
  starter : Nat
  level : BitVec 2
  eset : Nat
  aborted : List (BitVec 32)
  lastAct : Nat
  probed : Bool
  doneSig : Sig
  deriving DecidableEq, Repr

/-! ### Links, partitions, management -/

/-- An installed key of a port (R402): its association number, the words of the key, and the least packet number of a frame under it
that is new (R401). -/
structure LinkKey where
  an : BitVec 2
  sak : List (BitVec 64)
  rxPn : Nat
  deriving DecidableEq, Repr

/-- A device-link port (R401 to R403), with its pts and label as an agent of R244. Keys stand newest first. `window` holds the frames
that have been sent and not acknowledged, `waiting` the operations for which the window has no room yet; `txPn` is the packet number
of the sending key. -/
structure LinkPort where
  lat : BitVec 32
  retryMax : BitVec 16
  cause : BitVec 3
  up : Bool
  mode : BitVec 2
  wbase : BitVec 64
  wlen : BitVec 17
  ssci : BitVec 32
  an : BitVec 2
  staging : List (BitVec 64)
  keys : List LinkKey
  window : List SentFrame
  waiting : List Nat
  txSeq : Nat
  txPn : Nat
  rxSeq : Nat
  pts : Nat
  label : Label
  deriving DecidableEq, Repr

/-- A peer entry (R402). -/
structure Peer where
  valid : Bool
  host : Bool
  ports : BitVec 16
  devid : BitVec 14
  deriving DecidableEq, Repr

/-- PART.MERGE and QWAIT (R379), with the handshake's start. -/
structure MergeRegs where
  reason : BitVec 4
  state : BitVec 2
  go : Bool
  other : BitVec 4
  qwait : BitVec 32
  since : Nat
  deriving DecidableEq, Repr

/-- A hard partition and its host function (R379, R399, R400), with the pts and the label of its host link as an agent of
R244. -/
structure Partition where
  dies : BitVec 4
  gran : BitVec 4
  hbm : BitVec 8
  linkDies : BitVec 4
  age : BitVec 32
  merge : MergeRegs
  idle : BitVec 32
  live : Bool
  barsOpen : Bool
  dieslost : Bool
  hmb : BitVec 64
  full : Bool
  ovr : Bool
  hmbSig : Sig
  dispatcher : Nat
  spdm : List SpdmAnswer
  pts : Nat
  label : Label
  deriving DecidableEq, Repr

/-- The PWR group (R406). -/
structure PwrRegs where
  mode : BitVec 2
  cap : BitVec 12
  grant : List Nat
  throt : Bool
  inlet : BitVec 8
  deriving DecidableEq, Repr

/-- A stage of the management firmware (R404): its image with its signature, the key that verifies it, and its version. -/
structure Firmware where
  bytes : List Byte
  signature : List Byte
  pubkey : List Byte
  version : Nat
  deriving DecidableEq, Repr

/-- What the platform sets a device-link port to (R402, R408): its mode, its retry window, and the words of its key where it has one. -/
structure BootPort where
  mode : BitVec 2
  wbase : BitVec 64
  wlen : BitVec 17
  sak : List (BitVec 64)
  deriving DecidableEq, Repr

/-- What the platform gives the package at bring-up (R408): log 5. The partitions it configures, each with the entry of
its dispatcher and the image that `fyload` places, the fuses, the stages of the firmware in the order in which they run, and the boot
fields. -/
structure Platform where
  firmware : List Firmware
  fusedKey : List Byte
  rollback : Nat
  romDigest : List Byte
  parts : List (BitVec 4 × BitVec 4 × BitVec 8 × BitVec 64)
  image : List (Nat × List Byte)
  roots : List (BitVec 64)
  devid : BitVec 14
  lat : List (BitVec 32)
  etab : List (BitVec 64)
  pwrMode : BitVec 2
  ports : List BootPort
  deriving DecidableEq, Repr

/-- The management plane and the package registers (R394, R402, R404 to R408). -/
structure Package where
  booted : Nat
  devinfo : Bool
  measure : List (List Byte)
  psel : BitVec 4
  peersel : BitVec 16
  peers : List (Nat × Peer)
  ports : List LinkPort
  pwr : PwrRegs
  etab : List (BitVec 64)
  edgeIx : List Nat
  devid : BitVec 14
  checks : List (List (BitVec 64))
  corrected : Nat
  deriving DecidableEq, Repr

/-- A cached translation (R336): the die, the ASID, the first virtual page, the number of 4 KiB pages and the leaf. -/
structure TlbEntry where
  die : Nat
  asid : Nat
  page : Nat
  npages : Nat
  leaf : BitVec 64
  deriving DecidableEq, Repr

/-- The memory system: contents (R245), line timestamps (R246), tracking labels (R316), poisoned and hot units (R192),
poisoned lines (R407), units whose metadata fetch fails at their next partial write (R192), the lines of poisoned units that have
been written whole since (R253), the latest point of a STREAM snapshot, to which every line is leased (R250), cached translations,
the entries of page tables that lead to other tables, as the walk caches hold them (R336), and the context that wrote each line last
(R397).
A hot unit keeps the cycle of its last atomic and the idle count that began with it (R353), and by whom it was touched since it
became hot: context and cluster of each region (R359). -/
structure Memory where
  bytes : List Host.Cell
  lines : List (Nat × Nat × Nat)
  track : List (Nat × Sig)
  poisoned : List Nat
  badLines : List Nat
  metaErr : List Nat
  fresh : List Nat
  floor : Nat
  hot : List (Nat × Nat × Nat)
  hotBy : List (Nat × List (Nat × Nat))
  tlb : List TlbEntry
  dirs : List TlbEntry
  writers : List (Nat × Nat)
  deriving DecidableEq, Repr

/-- A configuration that a cell's configuration cache holds (R70): the cell by its crew and index, the ASID, block address and
CHECK that it is keyed by, and the graph block. -/
structure CachedGraph where
  crew : CrewId
  index : Nat
  addr : BitVec 64
  check : BitVec 32
  graph : List Byte
  deriving DecidableEq, Repr

/-- Everything that is on its way between units. `unmatched` holds collective payloads that have found no context, `ended` the
groups of released collective contexts with their last step (R305, R309). -/
structure Flight where
  writes : List MbWrite
  msgs : List Msg
  steals : List Steal
  shapes : List ShapeMsg
  ops : List RemoteOp
  inbound : List Inbound
  frames : List Frame
  probes : List Probe
  walks : List Walk
  unmatched : List Payload
  ended : List (Nat × BitVec 32 × BitVec 32)
  out : List Outbound
  deriving DecidableEq, Repr

/-- The state of the machine. `vault` holds what sections of images stand for (R367, log 33). `released` has, for each cluster, the last configuration to give back pages there, as a signal and a
unit word (R150). `agenda`, `cur` and `nextId` are the model's own: the steps that the outside world and
arbitration choose next (log 1), the thread and slot whose instruction is firing, and the next unused handle. -/
structure State where
  cycle : Nat
  agenda : List Instr
  cur : Nat × Nat
  nextId : Nat
  mem : Memory
  threads : List (Nat × Thread)
  lastStarted : List (Nat × Nat)
  cells : List (Nat × Cell)
  cache : List CachedGraph
  released : List (Nat × Sig × BitVec 64)
  esets : List (Nat × EngineSet)
  ctxs : List (Nat × Context)
  regions : List Region
  colls : List (Nat × Coll)
  parts : List (Nat × Partition)
  pkg : Package
  fl : Flight
  platform : Platform
  vault : List Saved
  deriving DecidableEq, Repr

/-! ### Reset -/

/-- A label that nothing has set (R314). -/
def Label.zero : Label := ⟨0, 0, 0, 0⟩

/-- A signal that carries no edge. -/
def Sig.zero : Sig := ⟨0, 0, 0, 0, 0⟩

/-- The thread registers at their reset values (R5, R46, R47, R116, R117, R128, R145, R284, R326, R330, R345). PRIV is set
when a thread is started (R284, R408). -/
def ThreadRegs.reset : ThreadRegs :=
  { tflag := 0, gflag := 0, nancnt := 0, satcnt := 0, ofcnt := 0, ufcnt := 0, csize := 0, spc := 0, ovfptr := 0,
    mbovr := 0, irNext := 0, irEnd := 0, nbv := 3, priv := 0, ppriv := 0, intrap := false, trapinfo := 0,
    trapaddr := 0, trappc := 0 }

/-- The per-context CTX registers at reset (R297, R326, R345, R349, R374, R379). -/
def CtxRegs.reset : CtxRegs :=
  { probe := 0x000124F8, trapvec := 0, traplog := 0, tlcnt := 0, slice := 0x000493E0, slclamp := false, savebase := 0,
    savelen := 0, nosave := false, fseq := 0 }

/-- An unused publishable-buffer entry (R338). -/
def PubBuf.reset : PubBuf := ⟨0, 0, false, false, 0, 0, 0, none⟩

/-- XLAT and FMT at reset (R333, R338 to R342, R350, R351). ROOT and PBSEL: log 3. -/
def XlatRegs.reset : XlatRegs :=
  { root := 0, demand := false, prq := 0, prqcnt := 0, resume := 0, pbsel := 0, bufs := List.replicate 64 PubBuf.reset,
    wsel := 0, windows := [] }

/-- PMC at reset (R386). -/
def PmcRegs.reset : PmcRegs :=
  { ctl := 0, evt := List.replicate 8 0, cnt := List.replicate 8 0, ovf := 0, sbase := 0, swr := 0, srd := 0, sper := 0,
    lost := 0, brk := List.replicate 8 0, sampledAt := 0, wrote := [], setNow := 0 }

/-- CPR and CKP at reset (R394, R395). -/
def LogRegs.reset : LogRegs :=
  { rbase := 0, rwr := 0, rrd := 0, rdrop := 0, ckctl := 0, period := 10, align := 15000, lbase := 0, llen := 0, lwr := 0,
    lrd := 0, epoch := 0, epochAt := 0, epochs := [], undone := [], orderAt := 0,
    replay := [], replaying := false, snaps := [] }

/-- A new context of a partition: launch IDs start at 1 (R282), queues and tables are empty. -/
def Context.fresh (part : Nat) : Context :=
  { part := part, regs := CtxRegs.reset, xlat := XlatRegs.reset, pmc := PmcRegs.reset, log := LogRegs.reset,
    nextLaunch := 1, launches := [], queues := List.replicate 8 [], proof := [], reqs := [], saved := false, image := none, kept := [],
    stopped := false, merging := false }

/-- An idle channel (R261, R263). -/
def Channel.reset : Channel :=
  { queue := [], cur := none, ccnt := 0, lastcode := 0, slot := 0, label := Label.zero, pts := 0, recSig := Sig.zero, held := none,
    lastAct := 0, probed := false }

/-- A disabled term (R139). -/
def Term.reset : Term := ⟨0, 0, none, [], Sig.zero⟩

/-- A disabled counter (R139). -/
def Counter.reset : Counter := ⟨0, 0, 0, false, false, Sig.zero⟩

/-- An engine set as a holder first finds it (R137, R261): slots empty, crossbar disabled (log 3). -/
def EngineSet.fresh (crew : CrewId) (cluster : Nat) : EngineSet :=
  { crew := crew, cluster := cluster, slots := List.replicate 64 none, channels := List.replicate 16 Channel.reset,
    terms := List.replicate 32 Term.reset, counters := List.replicate 16 Counter.reset, staged := [] }

/-- A thread as it is started (R284, R408): entry, home, level and NBV; everything else zero or empty. -/
def Thread.fresh (home : Home) (pc : BitVec 64) (priv nbv : BitVec 2) : Thread :=
  { home := home, pc := pc, gs := Vector.replicate 64 0, ms := Vector.replicate 16 0, mfull := 0, ras := [],
    regs := { ThreadRegs.reset with priv := priv, nbv := nbv }, mode := .ready, block := none,
    label := Label.zero, tag := 0, exit := 0, pts := 0, waitAt := 0, thieves := [], mbSig := [], brkSkip := none,
    probed := false, seq := none }

/-- A device-link port at reset (R402). -/
def LinkPort.reset : LinkPort :=
  { lat := 0, retryMax := 0x10, cause := 0, up := false, mode := 0, wbase := 0, wlen := 0, ssci := 0, an := 0,
    staging := List.replicate 4 0, keys := [], window := [], waiting := [], txSeq := 0, txPn := 0, rxSeq := 0,
    pts := 0, label := Label.zero }

/-- PART.MERGE and QWAIT at reset (R379). -/
def MergeRegs.reset : MergeRegs := ⟨0, 0, false, 0, 0x0016E360, 0⟩

/-- A partition as bring-up creates it (R379, R400, R408). -/
def Partition.fresh (dies gran : BitVec 4) (hbm : BitVec 8) : Partition :=
  { dies := dies, gran := gran, hbm := hbm, linkDies := dies, age := 0x000124F8, merge := MergeRegs.reset, idle := 0x1000,
    live := true, barsOpen := true, dieslost := false, hmb := 0, full := false, ovr := false, hmbSig := Sig.zero,
    dispatcher := 0, spdm := [], pts := 0, label := Label.zero }

/-- The package registers at reset (R394, R402, R406). -/
def Package.reset : Package :=
  { booted := 0, devinfo := false, measure := List.replicate 5 [], psel := 0, peersel := 0, peers := [],
    ports := List.replicate 16 LinkPort.reset, pwr := ⟨0, 0x960, [0, 0, 0, 0], false, 0⟩, etab := List.replicate 4 0,
    edgeIx := List.replicate 4 0, devid := 0, checks := [], corrected := 0 }

/-- Memory with nothing listed (log 4). -/
def Memory.reset : Memory := ⟨[], [], [], [], [], [], [], 0, [], [], [], [], []⟩

/-- Nothing in flight. -/
def Flight.empty : Flight := ⟨[], [], [], [], [], [], [], [], [], [], [], []⟩

/-- The platform that the model presumes (R408, log 5): one partition of the four dies and eight stacks with 4 KiB
interleave, an empty image, and a firmware image whose signature and version the boot checks of R404 decide. -/
def Platform.reset : Platform :=
  { firmware := [⟨[], [], [], 0⟩], fusedKey := [], rollback := 0, romDigest := [],
    parts := [(0xF, 12, 0xFF, 0)], image := [], roots := [0], devid := 1, lat := List.replicate 16 0,
    etab := [0x010000000000, 0x012000000000, 0x014000000000, 0x016000000000], pwrMode := 0, ports := [] }

/-- The machine right after a cold reset: nothing runs, memory lists nothing, and bring-up is the step that comes next
(R408). -/
def State.reset : State :=
  { cycle := 0, agenda := [.coldReset], cur := (0, 0), nextId := 1, mem := Memory.reset, threads := [],
    lastStarted := [], cells := [], cache := [], released := [], esets := [], ctxs := [], regions := [], colls := [], parts := [],
    pkg := Package.reset, fl := Flight.empty, platform := Platform.reset, vault := [] }

end Sys2Proof.Machine
end

