-- ==== Sys2Proof/Machine/Mem.lean ====
section
/-! DEFINITION. Association lists by handle, and memory: bytes in one canonical list, little-endian access (R2), line
timestamps (R246). -/

namespace Sys2Proof.Machine

/-! ### Lists by handle -/

/-- The entry of a handle. -/
def aget {α : Type} (l : List (Nat × α)) (k : Nat) : Option α :=
  match l with
  | [] => none
  | (j, v) :: t => if j = k then some v else aget t k

/-- Put an entry, in ascending order of handles. -/
def aset {α : Type} (l : List (Nat × α)) (k : Nat) (v : α) : List (Nat × α) :=
  match l with
  | [] => [(k, v)]
  | (j, w) :: t => if k < j then (k, v) :: (j, w) :: t else if j = k then (k, v) :: t else (j, w) :: aset t k v

/-- Remove an entry. -/
def adel {α : Type} (l : List (Nat × α)) (k : Nat) : List (Nat × α) := l.filter (fun e => e.1 != k)

/-- The list without its k-th member. -/
def dropAt {α : Type} (l : List α) (k : Nat) : List α := l.take k ++ l.drop (k + 1)

/-! ### Bytes -/

/-- The byte at an address: the one listed, or what memory that nothing has written reads as (log 4). -/
def cellsGet (l : List Host.Cell) (a : Nat) : Byte :=
  match l with
  | [] => Config.freshByte
  | (k, v) :: t => if a < k then Config.freshByte else if a = k then v else cellsGet t a

/-- Write one byte, keeping the list sorted and free of bytes equal to what an unlisted address reads as. -/
def cellsSet (l : List Host.Cell) (a : Nat) (v : Byte) : List Host.Cell :=
  match l with
  | [] => if v = Config.freshByte then [] else [(a, v)]
  | (k, w) :: t =>
    if a < k then (if v = Config.freshByte then (k, w) :: t else (a, v) :: (k, w) :: t)
    else if a = k then (if v = Config.freshByte then t else (a, v) :: t)
    else (k, w) :: cellsSet t a v

/-- Every address of the list is above `lo`, they rise, and no entry equals what an unlisted address reads as. -/
def cellsWf : Nat → List Host.Cell → Bool
  | _, [] => true
  | lo, (k, v) :: t => decide (lo ≤ k) && v != Config.freshByte && cellsWf (k + 1) t

/-- The canonical form of memory. -/
def Memory.wf (m : Memory) : Bool := cellsWf 0 m.bytes

/-- Write a list of bytes from an address upward. -/
def cellsPut (l : List Host.Cell) (a : Nat) (bs : List Byte) : List Host.Cell :=
  match bs with
  | [] => l
  | b :: t => cellsPut (cellsSet l a b) (a + 1) t

/-- The n bytes from an address upward. -/
def cellsTake (l : List Host.Cell) (a : Nat) : Nat → List Byte
  | 0 => []
  | n + 1 => cellsGet l a :: cellsTake l (a + 1) n

/-- The natural number of a little-endian byte list (R2). -/
def leVal (bs : List Byte) : Nat :=
  match bs with
  | [] => 0
  | b :: t => b.toNat + 256 * leVal t

/-- The n little-endian bytes of a number (R2). -/
def leBytes : Nat → Nat → List Byte
  | 0, _ => []
  | n + 1, v => BitVec.ofNat 8 v :: leBytes n (v / 256)

/-- The byte at an address. -/
def Memory.byte (m : Memory) (a : Nat) : Byte := cellsGet m.bytes a

/-- The little-endian number in the n bytes at an address. -/
def Memory.num (m : Memory) (a n : Nat) : Nat := leVal (cellsTake m.bytes a n)

/-- The 64-bit word at an address. -/
def Memory.word (m : Memory) (a : Nat) : BitVec 64 := BitVec.ofNat 64 (m.num a 8)

/-- The n 64-bit words from an address upward. -/
def Memory.words (m : Memory) (a : Nat) : Nat → List (BitVec 64)
  | 0 => []
  | n + 1 => m.word a :: m.words (a + 8) n

/-- The bytes of a list of 64-bit words. -/
def wordBytes (ws : List (BitVec 64)) : List Byte :=
  match ws with
  | [] => []
  | w :: t => leBytes 8 w.toNat ++ wordBytes t

/-! ### Where memory lies in the list -/

/-- Where the contents of page store `p`, bank `b` begin: above every package address. -/
def sramKey (p b off : Nat) : Nat := 2 ^ 48 + (p * 8 + b) * 32768 + off

/-- The address lies in page SRAM. -/
def isSram (a : Nat) : Bool := decide (2 ^ 48 ≤ a)

/-- Bytes a to a + n − 1 back to what a bank reads when it is newly placed: zero (R178). -/
def clearBytes (l : List Host.Cell) (a n : Nat) : List Host.Cell :=
  l.filter (fun c => decide (c.1 < a) || decide (a + n ≤ c.1))

/-! ### Timestamps (R246) -/

/-- wts and rts of a line. -/
def Memory.stamp (m : Memory) (line : Nat) : Nat × Nat := (aget m.lines line).getD (0, 0)

/-- The lines that n bytes at an address touch. -/
def linesOf (a n : Nat) : List Nat := (List.range ((a + n - 1) / 64 - a / 64 + 1)).map (· + a / 64)

/-- The least timestamp at which a load of these bytes may perform. -/
def Memory.loadTs (m : Memory) (pts a n : Nat) : Nat := (linesOf a n).foldl (fun t k => max t (m.stamp k).1) pts

/-- The least timestamp at which a store to these bytes may perform: past the lease of each line. A STREAM snapshot leases every line
to its point, for it may read any (R250, log 43). -/
def Memory.storeTs (m : Memory) (pts a n : Nat) : Nat :=
  (linesOf a n).foldl (fun t k => max t ((m.stamp k).2 + 1)) (if m.floor = 0 then pts else max pts (m.floor + 1))

/-- A load at ts: each line's rts becomes at least ts. -/
def Memory.leased (m : Memory) (ts a n : Nat) : Memory :=
  { m with lines := (linesOf a n).foldl (fun l k => let w := (aget l k).getD (0, 0); aset l k (w.1, max w.2 ts)) m.lines }

/-- A store at ts: each line's wts and rts become ts. -/
def Memory.stamped (m : Memory) (ts a n : Nat) : Memory :=
  { m with lines := (linesOf a n).foldl (fun l k => aset l k (ts, ts)) m.lines }

/-! ### Poison (R192, R253) -/

/-- A byte of these is in a poisoned unit or a poisoned line. -/
def Memory.isPoisoned (m : Memory) (a n : Nat) : Bool :=
  m.poisoned.any (fun u => decide (u * 512 < a + n) && decide (a < (u + 1) * 512)) ||
  m.badLines.any (fun u => decide (u * 64 < a + n) && decide (a < (u + 1) * 64))

/-- The lines of a unit. -/
def unitLines (u : Nat) : List Nat := (List.range 8).map (fun j => u * 8 + j)

/-- The lines of poisoned units that have been written whole, after one more write (R253). -/
def Memory.freshLines (m : Memory) (a n : Nat) : List Nat :=
  m.fresh ++ (m.poisoned.flatMap unitLines).filter (fun l => decide (a ≤ l * 64) && decide ((l + 1) * 64 ≤ a + n) && !m.fresh.contains l)

/-- A write that covers a whole poisoned line clears it; a poisoned unit is clear once writes of whole lines have covered all of it,
for an engine or the host writes it line by line (R249, R253, R255). -/
def Memory.unpoison (m : Memory) (a n : Nat) : Memory :=
  if m.poisoned.isEmpty && m.badLines.isEmpty then m
  else
    let f := m.freshLines a n
    let whole (u : Nat) : Bool := (unitLines u).all f.contains
    { m with
      poisoned := m.poisoned.filter (fun u => !whole u), fresh := f.filter (fun l => !whole (l / 8)),
      badLines := m.badLines.filter (fun u => !(decide (a ≤ u * 64) && decide ((u + 1) * 64 ≤ a + n))) }

end Sys2Proof.Machine
end

