-- ==== Sys2Proof/Machine/Num.lean ====
section
/-! DEFINITION. Element types and exact arithmetic (R21 to R36, R42 to R45): a floating-point value is an exact dyadic
number, an infinity or a NaN; every operation is computed exactly and rounded once. -/

namespace Sys2Proof.Machine

/-- The sticky flags in the bit order of R46. -/
def fNV : BitVec 6 := 1
/-- Division by zero. -/
def fDZ : BitVec 6 := 2
/-- Overflow. -/
def fOF : BitVec 6 := 4
/-- Underflow. -/
def fUF : BitVec 6 := 8
/-- Inexact. -/
def fNX : BitVec 6 := 16
/-- Saturation. -/
def fSAT : BitVec 6 := 32

/-- Storage width in bits of a type code (R21); a laminate element is a plane of 256 bits (R57). -/
def typeBits (c : Nat) : Nat :=
  match c with
  | 1 | 2 | 12 | 13 | 15 | 32 => 8
  | 3 | 4 | 9 | 10 => 16
  | 5 | 6 | 11 | 33 => 32
  | 7 | 8 | 34 => 64
  | 14 | 31 => 4
  | 16 | 17 | 18 | 19 | 20 | 21 | 22 | 24 | 25 | 26 | 27 | 28 | 29 | 30 => 256
  | _ => 0

/-- The code is assigned (R21). -/
def typeOk (c : Nat) : Bool := decide (0 < typeBits c)

/-- Signed integer types. -/
def isSInt (c : Nat) : Bool := c == 1 || c == 3 || c == 5 || c == 7
/-- Natural integer types; .index is one (R22). -/
def isNInt (c : Nat) : Bool := c == 2 || c == 4 || c == 6 || c == 8 || c == 33
/-- Integer types. -/
def isInt (c : Nat) : Bool := isSInt c || isNInt c
/-- Floating-point types with a sign bit. -/
def isFloat (c : Nat) : Bool := c == 9 || c == 10 || c == 11 || c == 12 || c == 13 || c == 14
/-- f32, f16 and bf16, the types that FTZ acts on (R26). -/
def isWide (c : Nat) : Bool := c == 9 || c == 10 || c == 11
/-- Laminate types. -/
def isLam (c : Nat) : Bool := typeBits c == 256
/-- Planes K that a laminate type stores (R21). -/
def lamPlanes (c : Nat) : Nat := if c < 24 then c - 14 else c - 22
/-- The laminate type is signed. -/
def lamSigned (c : Nat) : Bool := c < 24

/-- MB of R23 (R25 for ue8m0). -/
def mbits (c : Nat) : Nat :=
  match c with
  | 9 => 10 | 10 => 7 | 11 => 23 | 12 => 3 | 13 => 2 | 14 => 1 | _ => 0
/-- Exponent bits. -/
def ebits (c : Nat) : Nat :=
  match c with
  | 9 => 5 | 10 => 8 | 11 => 8 | 12 => 4 | 13 => 5 | 14 => 2 | _ => 8
/-- Bias of R23. -/
def bias (c : Nat) : Int :=
  match c with
  | 9 => 15 | 10 => 127 | 11 => 127 | 12 => 7 | 13 => 15 | 14 => 1 | _ => 127
/-- EMIN of R23. -/
def emin (c : Nat) : Int :=
  match c with
  | 9 => -14 | 10 => -126 | 11 => -126 | 12 => -6 | 13 => -14 | 14 => 0 | _ => -127
/-- The pattern of the largest finite value, without its sign (R23). -/
def maxPat (c : Nat) : Nat :=
  match c with
  | 9 => 0x7BFF | 10 => 0x7F7F | 11 => 0x7F7FFFFF | 12 => 0x7E | 13 => 0x7B | 14 => 0x7 | _ => 0xFE
/-- The pattern of +∞ where the format has one. -/
def infPat (c : Nat) : Nat :=
  match c with
  | 9 => 0x7C00 | 10 => 0x7F80 | 11 => 0x7F800000 | 13 => 0x7C | _ => 0
/-- The canonical NaN (R23). -/
def nanPat (c : Nat) : Nat :=
  match c with
  | 9 => 0x7E00 | 10 => 0x7FC0 | 11 => 0x7FC00000 | 12 => 0x7F | 13 => 0x7E | 15 => 0xFF | _ => 0
/-- The format has infinities. -/
def hasInf (c : Nat) : Bool := c == 9 || c == 10 || c == 11 || c == 13

/-- A floating-point value: NaN, an infinity, or the exact number ±m × 2^e (m = 0: a signed zero). -/
inductive Fl where
  | nan
  | inf (neg : Bool)
  | fin (neg : Bool) (m : Nat) (e : Int)
  deriving DecidableEq, Repr

/-- The value is NaN. -/
def Fl.isNan (x : Fl) : Bool := match x with | .nan => true | _ => false
/-- The value is a zero of either sign. -/
def Fl.isZero (x : Fl) : Bool := match x with | .fin _ 0 _ => true | _ => false
/-- The sign bit. -/
def Fl.neg (x : Fl) : Bool := match x with | .nan => false | .inf s => s | .fin s _ _ => s
/-- The negated value. -/
def Fl.negate (x : Fl) : Fl := match x with | .nan => .nan | .inf s => .inf (!s) | .fin s m e => .fin (!s) m e
/-- The value is finite. -/
def Fl.finite (x : Fl) : Bool := match x with | .fin _ _ _ => true | _ => false

/-- 2^k for a natural k. -/
def pow2 (k : Nat) : Nat := 1 <<< k

/-- The value of a pattern (R23 to R25). -/
def decodeF (c pat : Nat) : Fl :=
  if c = 15 then (if pat % 256 = 255 then .nan else .fin false 1 ((pat % 256 : Nat) - 127))
  else
    let mb := mbits c
    let eb := ebits c
    let m := pat % pow2 mb
    let e := (pat >>> mb) % pow2 eb
    let s := (pat >>> (mb + eb)) % 2 == 1
    if hasInf c && e == pow2 eb - 1 then (if m = 0 then .inf s else .nan)
    else if c == 12 && e == 15 && m == 7 then .nan
    else if e = 0 then .fin s m (1 - bias c - mb)
    else .fin s (m + pow2 mb) ((e : Int) - bias c - mb)

/-- Rounding modes (R32): 0 RNE, 1 RZ, 2 RU, 3 RD. `up` says whether the magnitude k, with remainder r of 2^s, grows. -/
def roundsUp (rm : Nat) (neg : Bool) (k r half : Nat) : Bool :=
  match rm with
  | 0 => decide (half < r) || (r == half && k % 2 == 1)
  | 1 => false
  | 2 => !neg && decide (0 < r)
  | _ => neg && decide (0 < r)

/-- RoundTo of R33 on a nonzero magnitude m × 2^e: the integer k, its exponent and the flags NX and UF. -/
def roundMag (c rm : Nat) (neg : Bool) (m : Nat) (e : Int) : Nat × Int × BitVec 6 :=
  let ex := max ((Nat.log2 m : Int) + e) (emin c)
  let qe := ex - mbits c
  if qe ≤ e then (m <<< (e - qe).toNat, qe, 0)
  else
    let s := (qe - e).toNat
    let k := m >>> s
    let r := m - (k <<< s)
    let k' := if roundsUp rm neg k (2 * r) (pow2 s) then k + 1 else k
    if r = 0 then (k, qe, 0)
    else (k', qe, if qe = emin c - mbits c ∧ k' < pow2 (mbits c) then fNX ||| fUF else fNX)

/-- The pattern of ±k × 2^qe that fits the format, with k at most 2^(MB+1). -/
def packF (c : Nat) (neg : Bool) (k : Nat) (qe : Int) : Nat :=
  let mb := mbits c
  let sg := if neg then pow2 (mb + ebits c) else 0
  if k < pow2 mb then sg + k
  else
    let k2 := if k = pow2 (mb + 1) then pow2 mb else k
    let q2 := if k = pow2 (mb + 1) then qe + 1 else qe
    sg + ((q2 + mb + bias c).toNat <<< mb) + (k2 - pow2 mb)

/-- The pattern of ±max. -/
def maxOf (c : Nat) (neg : Bool) : Nat := maxPat c + (if neg then pow2 (mbits c + ebits c) else 0)
/-- The pattern of ±∞. -/
def infOf (c : Nat) (neg : Bool) : Nat := infPat c + (if neg then pow2 (mbits c + ebits c) else 0)
/-- The pattern of ±0. -/
def zeroOf (c : Nat) (neg : Bool) : Nat := if neg then pow2 (mbits c + ebits c) else 0

/-- What a rounded magnitude above the largest finite value becomes (R34). -/
def overflowed (c rm : Nat) (sat neg : Bool) : Nat × BitVec 6 :=
  if c = 14 then (maxOf c neg, fOF ||| fSAT)
  else if sat then (maxOf c neg, fOF ||| fSAT)
  else if c = 12 then (nanPat c, fOF ||| fNV)
  else if rm = 0 ∨ (rm = 2 ∧ ¬ neg) ∨ (rm = 3 ∧ neg) then (infOf c neg, fOF)
  else (maxOf c neg, fOF)

/-- k × 2^qe exceeds the largest finite value of the format. -/
def exceeds (c k : Nat) (qe : Int) : Bool :=
  match decodeF c (maxPat c) with
  | .fin _ m e => if qe ≤ e then decide (m <<< (e - qe).toNat < k) else decide (m < k <<< (qe - e).toNat)
  | _ => false

/-- Conversion of an exact value to ue8m0 (R25). -/
def narrowScale (rm : Nat) (sat : Bool) (x : Fl) : Nat × BitVec 6 :=
  match x with
  | .nan => (0xFF, fNV)
  | .inf true => (0xFF, fNV)
  | .inf false => if sat then (0xFE, fNV ||| fSAT) else (0xFF, fNV)
  | .fin neg m e =>
    if m = 0 ∨ neg then (0xFF, fNV)
    else
      let r := roundMag 15 rm false m e
      let k := r.1
      let q := r.2.1
      if k = 0 then (0, r.2.2 ||| fUF)
      else
        let ex := (Nat.log2 k : Int) + q
        if 127 < ex then (if sat then (0xFE, r.2.2 ||| fOF ||| fSAT) else (0xFF, r.2.2 ||| fOF ||| fNV))
        else ((ex + 127).toNat, r.2.2)

/-- An exact value to a floating-point format under RM, SAT and FTZ (R26, R33 to R35), with the flags raised. -/
def narrowF (c rm : Nat) (sat ftz : Bool) (x : Fl) : Nat × BitVec 6 :=
  if c = 15 then narrowScale rm sat x
  else
    match x with
    | .nan => if c = 14 then (0, fNV) else (nanPat c, 0)
    | .inf neg =>
      if hasInf c then (infOf c neg, 0)
      else if c = 14 then (maxOf c neg, fNV ||| fSAT)
      else if sat then (maxOf c neg, fNV ||| fSAT)
      else (nanPat c, fNV)
    | .fin neg m e =>
      if m = 0 then (zeroOf c neg, 0)
      else
        let r := roundMag c rm neg m e
        let k := r.1
        let q := r.2.1
        if exceeds c k q then
          let o := overflowed c rm sat neg
          (o.1, o.2 ||| r.2.2)
        else if ftz && isWide c && decide (0 < k) && decide (k < pow2 (mbits c)) then
          (zeroOf c neg, r.2.2 ||| fUF ||| fNX)
        else (packF c neg k q, r.2.2)

/-- An operand read with FTZ: a subnormal reads as zero of its sign (R26). -/
def flushIn (c pat : Nat) (ftz : Bool) : Fl :=
  match decodeF c pat with
  | .fin s m e => if ftz && isWide c && decide (m < pow2 (mbits c)) then .fin s 0 e else .fin s m e
  | x => x

/-- The exact sum of two finite numbers as a signed integer times a power of two. -/
def addMag (s1 : Bool) (m1 : Nat) (e1 : Int) (s2 : Bool) (m2 : Nat) (e2 : Int) : Int × Int :=
  let e := min e1 e2
  let a : Int := ((m1 <<< (e1 - e).toNat : Nat) : Int)
  let b : Int := ((m2 <<< (e2 - e).toNat : Nat) : Int)
  ((if s1 then -a else a) + (if s2 then -b else b), e)

/-- The exact sum; `rm` gives the sign of an exact zero (R33). -/
def addF (rm : Nat) (x y : Fl) : Fl :=
  match x, y with
  | .nan, _ => .nan
  | _, .nan => .nan
  | .inf a, .inf b => if a = b then .inf a else .nan
  | .inf a, _ => .inf a
  | _, .inf b => .inf b
  | .fin s1 m1 e1, .fin s2 m2 e2 =>
    let r := addMag s1 m1 e1 s2 m2 e2
    if r.1 = 0 then
      (if m1 = 0 ∧ m2 = 0 ∧ s1 = s2 then .fin s1 0 0 else .fin (rm == 3) 0 0)
    else .fin (decide (r.1 < 0)) r.1.natAbs r.2

/-- The exact product. -/
def mulF (x y : Fl) : Fl :=
  match x, y with
  | .nan, _ => .nan
  | _, .nan => .nan
  | .inf a, .inf b => .inf (a != b)
  | .inf a, .fin s m _ => if m = 0 then .nan else .inf (a != s)
  | .fin s m _, .inf b => if m = 0 then .nan else .inf (s != b)
  | .fin s1 m1 e1, .fin s2 m2 e2 => .fin (s1 != s2) (m1 * m2) (e1 + e2)

/-- The product with 2^k, exact. -/
def scaleF (x : Fl) (k : Int) : Fl :=
  match x with
  | .fin s m e => .fin s m (e + k)
  | y => y

/-- x ≤ y by value, both not NaN. -/
def leF (x y : Fl) : Bool :=
  match x, y with
  | .inf a, .inf b => a || !b
  | .inf a, _ => a
  | _, .inf b => !b
  | .fin s1 m1 e1, .fin s2 m2 e2 => decide ((addMag s1 m1 e1 (!s2) m2 e2).1 ≤ 0)
  | _, _ => false

/-- x < y by value, both not NaN. -/
def ltF (x y : Fl) : Bool := leF x y && !leF y x

/-- The lesser of two values, −0 below +0 (R162). -/
def minF (x y : Fl) : Fl :=
  if ltF x y then x else if ltF y x then y else if x.neg then x else y
/-- The greater of two values, −0 below +0 (R162). -/
def maxF (x y : Fl) : Fl :=
  if ltF x y then y else if ltF y x then x else if x.neg then y else x

/-- The signed value of a w-bit pattern. -/
def sval (w pat : Nat) : Int := if pat % pow2 w < pow2 (w - 1) then (pat % pow2 w : Nat) else (pat % pow2 w : Nat) - (pow2 w : Nat)

/-- The value of an integer pattern of a type. -/
def ival (c pat : Nat) : Int :=
  if isSInt c then sval (typeBits c) pat else ((pat % pow2 (typeBits c) : Nat) : Int)

/-- The least value of an integer type. -/
def iMin (c : Nat) : Int := if isSInt c then -(pow2 (typeBits c - 1) : Nat) else 0
/-- The greatest value of an integer type. -/
def iMax (c : Nat) : Int := if isSInt c then (pow2 (typeBits c - 1) : Nat) - 1 else (pow2 (typeBits c) : Nat) - 1

/-- The w-bit pattern of an integer, modulo 2^w. -/
def wrapTo (w : Nat) (v : Int) : Nat := (v % (pow2 w : Nat)).toNat

/-- An exact integer result in an integer type: wrapped, or clamped with SAT (R28). -/
def narrowI (c : Nat) (sat : Bool) (v : Int) : Nat × BitVec 6 :=
  if sat then
    if v < iMin c then (wrapTo (typeBits c) (iMin c), fSAT)
    else if iMax c < v then (wrapTo (typeBits c) (iMax c), fSAT)
    else (wrapTo (typeBits c) v, 0)
  else (wrapTo (typeBits c) v, 0)

/-- An integer as an exact value. -/
def ofInt (v : Int) : Fl := .fin (decide (v < 0)) v.natAbs 0

/-- A finite value rounded to an integer by RM (R35). -/
def roundInt (rm : Nat) (neg : Bool) (m : Nat) (e : Int) : Int × Bool :=
  if 0 ≤ e then ((if neg then -((m <<< e.toNat : Nat) : Int) else ((m <<< e.toNat : Nat) : Int)), false)
  else
    let s := (-e).toNat
    let k := m >>> s
    let r := m - (k <<< s)
    let k' := if roundsUp rm neg k (2 * r) (pow2 s) then k + 1 else k
    ((if neg then -(k' : Int) else (k' : Int)), decide (0 < r))

/-- Floating-point to integer (R35): rounded by RM, always clamped. -/
def floatToInt (c rm : Nat) (x : Fl) : Nat × BitVec 6 :=
  match x with
  | .nan => (0, fNV)
  | .inf neg => (wrapTo (typeBits c) (if neg then iMin c else iMax c), fNV ||| fSAT)
  | .fin neg m e =>
    let r := roundInt rm neg m e
    let n := narrowI c true r.1
    (n.1, n.2 ||| (if r.2 then fNX else 0))

/-- A value of a numeric type as an exact number; integers by their signedness. -/
def exactOf (c pat : Nat) : Fl := if isInt c then ofInt (ival c pat) else decodeF c pat

/-- CVT of R166 without scales: any accepted pair, one rounding (R33 to R36). `x` replaces the source value where a scale
has been applied. -/
def convertVal (src dst rm : Nat) (sat ftz : Bool) (pat : Nat) (x : Option Fl) : Nat × BitVec 6 :=
  if src = 34 ∨ dst = 34 then (pat, 0)
  else if src = 32 then ((if pat % 256 = 0 then 0 else 1), 0)
  else if dst = 32 then ((if pat % pow2 (typeBits src) = 0 then 0 else 1), 0)
  else if isInt src && isInt dst then narrowI dst sat (ival src pat)
  else
    let v := match x with
      | some y => y
      | none => if isInt src then exactOf src pat else flushIn src pat ftz
    if isInt dst then floatToInt dst rm v else narrowF dst rm sat ftz v

/-- A NaN result made from operands none of which is NaN (R45). -/
def nvOf (operandNan : Bool) (r : Fl) : BitVec 6 := if r.isNan && !operandNan then fNV else 0

/-- LaminateValue of R30 for the natural or signed p-bit code. -/
def laminateValue (c : Int) (p : Nat) : Int :=
  if p = 8 then c else c * (pow2 (8 - p) : Nat) + (pow2 (7 - p) : Nat)

/-- The value of a laminate element from its plane bits, most significant first (R29, R30). -/
def laminateOf (signed : Bool) (bits : List Bool) : Int :=
  let p := bits.length
  let n := bits.foldl (fun a b => 2 * a + (if b then 1 else 0)) 0
  laminateValue (if signed then sval p n else (n : Int)) p

/-! ### Special functions (R42, R43) -/

/-- Newton's iteration for the integer square root, on fuel. -/
def isqrtGo : Nat → Nat → Nat → Nat
  | 0, _, x => x
  | k + 1, n, x => let y := (x + n / x) / 2; if y < x then isqrtGo k n y else x

/-- The integer square root. -/
def isqrt (n : Nat) : Nat := if n = 0 then 0 else isqrtGo (Nat.log2 n + 8) n (pow2 (Nat.log2 n / 2 + 1))

/-- A value strictly between m and m + 1, or m itself, in units of 2^e, as an exact number that rounds alike. -/
def sticky (neg : Bool) (m : Nat) (inexact : Bool) (e : Int) : Fl := .fin neg (2 * m + (if inexact then 1 else 0)) (e - 1)

/-- 1/x (R42). -/
def rcpF (x : Fl) : Fl × BitVec 6 :=
  match x with
  | .nan => (.nan, 0)
  | .inf s => (.fin s 0 0, 0)
  | .fin s m e =>
    if m = 0 then (.inf s, fDZ)
    else
      let k := Nat.log2 m + 80
      let q := pow2 k / m
      (sticky s q (pow2 k % m != 0) (-(k : Int) - e), 0)

/-- The square root (R42). -/
def sqrtF (x : Fl) : Fl × BitVec 6 :=
  match x with
  | .nan => (.nan, 0)
  | .inf false => (.inf false, 0)
  | .inf true => (.nan, fNV)
  | .fin s m e =>
    if m = 0 then (.fin s 0 0, 0)
    else if s then (.nan, fNV)
    else
      let sh := 160 + (if e % 2 = 0 then 0 else 1)
      let n := m <<< sh
      let r := isqrt n
      (sticky false r (r * r != n) ((e - sh) / 2), 0)

/-- 1/√x (R42). -/
def rsqrtF (x : Fl) : Fl × BitVec 6 :=
  match x with
  | .nan => (.nan, 0)
  | .inf false => (.fin false 0 0, 0)
  | .inf true => (.nan, fNV)
  | .fin s m e =>
    if m = 0 then (.inf s, fDZ)
    else if s then (.nan, fNV)
    else
      -- 1/√(m 2^e) = √(2^K / m) × 2^(−(K + e)/2) with K + e even
      let k0 := Nat.log2 m + 200
      let k := if ((k0 : Int) + e) % 2 = 0 then k0 else k0 + 1
      let n := pow2 k / m
      let r := isqrt n
      (sticky false r (r * r != n || pow2 k % m != 0) (-((k : Int) + e) / 2), 0)

/-- ln 2 with b fraction bits: the sum of 1 / (k 2^k). -/
def ln2Go : Nat → Nat → Nat
  | 0, _ => 0
  | k + 1, b => ln2Go k b + pow2 b / ((k + 1) * pow2 (k + 1))

/-- The Taylor terms of exp: sum, current term, argument, b fraction bits. -/
def expGo : Nat → Nat → Nat → Nat → Nat → Nat → Nat
  | 0, _, acc, _, _, _ => acc
  | fuel + 1, k, acc, term, x, b =>
    let t := (term * x) >>> b
    expGo fuel (k + 1) (acc + t / k) (t / k) x b

/-- exp2 (R42), for a finite argument neither integer nor out of range: 2^f by Taylor's series with guard bits. -/
def exp2Frac (f b : Nat) : Nat :=
  let w := b + 60
  let x := ((f <<< 60) * ln2Go (w + 8) w) >>> w
  (expGo 160 1 (pow2 w) (pow2 w) x w) >>> 60

/-- exp2 (R42). A result far below the least subnormal is taken as 2^−400, which rounds alike. A finite operand that overflows sets NX
beside OF, also where 2^x is an exact power of two. -/
def exp2F (x : Fl) : Fl × BitVec 6 :=
  match x with
  | .nan => (.nan, 0)
  | .inf false => (.inf false, 0)
  | .inf true => (.fin false 0 0, 0)
  | .fin s m e =>
    if m = 0 then (.fin false 1 0, 0)
    else
      let big := decide (12 ≤ (Nat.log2 m : Int) + e)
      if big then (if s then (.fin false 1 (-400), 0) else (.fin false 1 4096, fNX))
      else
        let b := Config.transcBits
        -- fixed point of x with b fraction bits; b exceeds the 149 that an f32 can have
        let mag := if 0 ≤ (b : Int) + e then m <<< ((b : Int) + e).toNat else m >>> (-((b : Int) + e)).toNat
        let v : Int := if s then -(mag : Int) else (mag : Int)
        let i := v / (pow2 b : Nat)
        let f := (v % (pow2 b : Nat)).toNat
        if f = 0 then (.fin false 1 i, if 128 ≤ i then fNX else 0) else (sticky false (exp2Frac f b) true (i - b), 0)

/-- The binary digits of log2 of a mantissa y in [1, 2) with p fraction bits, by repeated squaring. -/
def log2Go : Nat → Nat → Nat → Nat → Nat
  | 0, _, _, acc => acc
  | k + 1, y, p, acc =>
    let z := (y * y) >>> p
    if pow2 (p + 1) ≤ z then log2Go k (z >>> 1) p (2 * acc + 1) else log2Go k z p (2 * acc)

/-- log2 (R42). -/
def log2F (x : Fl) : Fl × BitVec 6 :=
  match x with
  | .nan => (.nan, 0)
  | .inf false => (.inf false, 0)
  | .inf true => (.nan, fNV)
  | .fin s m e =>
    if m = 0 then (.inf true, fDZ)
    else if s then (.nan, fNV)
    else
      let l := Nat.log2 m
      let i := (l : Int) + e
      if m = pow2 l then (ofInt i, 0)
      else
        let b := Config.transcBits
        let p := 2 * b + 100
        let f := log2Go b (m <<< (p - l)) p 0
        let v : Int := i * (pow2 b : Nat) + f
        if v < 0 then (sticky true (-v - 1).toNat true (-(b : Int)), 0) else (sticky false v.toNat true (-(b : Int)), 0)

/-- Round an exact value to f32 under RNE as a value and flags. -/
def rneF32 (x : Fl) : Fl × BitVec 6 :=
  let r := narrowF 11 0 false false x
  (decodeF 11 r.1, r.2)

/-- The constant L of R43. -/
def constL : Fl := decodeF 11 0x3FB8AA3B

/-- exp2 under RNE to f32, as R43 uses it. -/
def exp2R (x : Fl) : Fl × BitVec 6 := let r := exp2F x; let y := rneF32 r.1; (y.1, r.2 ||| y.2)
/-- rcp under RNE to f32, as R43 uses it. -/
def rcpR (x : Fl) : Fl × BitVec 6 := let r := rcpF x; let y := rneF32 r.1; (y.1, r.2 ||| y.2)

/-- Sigmoid of R43. -/
def sigmoidF (x : Fl) : Fl × BitVec 6 :=
  if x.isNan then (.nan, 0)
  else
    let t := rneF32 (mulF x.negate constL)
    let e := exp2R t.1
    let d := rneF32 (addF 0 (.fin false 1 0) e.1)
    let q := rcpR d.1
    (q.1, t.2 ||| e.2 ||| d.2 ||| q.2)

/-- Tanh of R43. -/
def tanhF (x : Fl) : Fl × BitVec 6 :=
  if x.isNan then (.nan, 0)
  else if x.isZero then (x, 0)
  else if ltF (.fin false 16 0) (if x.neg then x.negate else x) then (.fin x.neg 1 0, 0)
  else
    let t := rneF32 (mulF (scaleF x.negate 1) constL)
    let e := exp2R t.1
    let n := rneF32 (addF 0 (.fin false 1 0) e.1.negate)
    let d := rneF32 (addF 0 (.fin false 1 0) e.1)
    let q := rcpR d.1
    let r := rneF32 (mulF n.1 q.1)
    (r.1, t.2 ||| e.2 ||| n.2 ||| d.2 ||| q.2 ||| r.2)

/-- Silu of R43. -/
def siluF (x : Fl) : Fl × BitVec 6 :=
  match x with
  | .inf true => (.fin true 0 0, 0)
  | _ =>
    let g := sigmoidF x
    let p := mulF x g.1
    let r := rneF32 p
    (r.1, g.2 ||| r.2 ||| nvOf (x.isNan || g.1.isNan) p)

/-- A TRANSC mode on an exact operand: the f32 pattern under RM, SAT and FTZ, and flags (R42 to R44). Whether FTZ flushes the steps
between of R43 is left open: it flushes the operand and the final result alone (DESIGN CHOICE, log 42). -/
def transcF32 (mode rm : Nat) (sat ftz : Bool) (x : Fl) : Nat × BitVec 6 :=
  let r := match mode with
    | 0 => exp2F x
    | 1 => log2F x
    | 2 => rcpF x
    | 3 => sqrtF x
    | 4 => rsqrtF x
    | 5 => tanhF x
    | 6 => sigmoidF x
    | _ => siluF x
  let y := if mode < 5 then narrowF 11 rm sat ftz r.1 else narrowF 11 0 false ftz r.1
  (y.1, r.2 ||| y.2)

/-! ### Sums of products (R38 to R41) -/

/-- The exact sum of a list under IEEE rules for infinities and NaN; the sign of an exact zero as under `rm`. -/
def sumF (rm : Nat) (l : List Fl) : Fl :=
  match l with
  | [] => .fin false 0 0
  | x :: xs => xs.foldl (addF rm) x

/-- Flush an f32 value that is subnormal, with the flags of R26. -/
def ftz32 (ftz : Bool) (r : Nat × BitVec 6) : Nat × BitVec 6 :=
  if ftz then
    match decodeF 11 r.1 with
    | .fin s m _ => if 0 < m ∧ m < pow2 23 then (zeroOf 11 s, r.2 ||| fUF ||| fNX) else r
    | _ => r
  else r

/-- Whether every value of a list is no NaN. -/
def noNan (l : List Fl) : Bool := l.all (fun x => !x.isNan)

/-- acc + x rounded by RNE to f32, with FTZ on the result. -/
def accAdd (ftz : Bool) (acc : Nat) (x : Fl) : Nat × BitVec 6 :=
  let a := decodeF 11 acc
  let v := addF 0 a x
  let r := ftz32 ftz (narrowF 11 0 false false v)
  (r.1, r.2 ||| nvOf (a.isNan || x.isNan) v)

/-- AccumulatePass of R38 for NBV 1: every product that exists, one after another. -/
def accSeq (ftz : Bool) (acc : Nat × BitVec 6) (ps : List (Option (Fl × Bool))) : Nat × BitVec 6 :=
  ps.foldl (fun a p => match p with
    | none => a
    | some x => let r := accAdd ftz a.1 x.1; (r.1, a.2 ||| r.2 ||| nvOf x.2 x.1)) acc

/-- One group of R38: its exact sum rounded and added, or nothing if it holds no product. -/
def accGroup (ftz : Bool) (acc : Nat × BitVec 6) (ps : List (Option (Fl × Bool))) : Nat × BitVec 6 :=
  match ps.filterMap id with
  | [] => acc
  | xs =>
    let v := sumF 0 (xs.map Prod.fst)
    let nanIn := xs.any (fun x => x.2)
    let g := ftz32 ftz (narrowF 11 0 false false v)
    let r := accAdd ftz acc.1 (decodeF 11 g.1)
    (r.1, acc.2 ||| g.2 ||| nvOf nanIn v ||| r.2)

/-- Groups of G, on fuel. -/
def accGroups (ftz : Bool) (g : Nat) : Nat → Nat × BitVec 6 → List (Option (Fl × Bool)) → Nat × BitVec 6
  | 0, acc, _ => acc
  | k + 1, acc, ps =>
    match ps with
    | [] => acc
    | _ => accGroups ftz g k (accGroup ftz acc (ps.take g)) (ps.drop g)

/-- AccumulatePass of R38. A product is its value and whether a factor was NaN; none is a hole (R196). -/
def accumulatePass (nbv : Nat) (ftz : Bool) (acc : Nat) (ps : List (Option (Fl × Bool))) : Nat × BitVec 6 :=
  if nbv = 1 then accSeq ftz (acc, 0) ps
  else accGroups ftz (if nbv = 3 then 32 else 16) (ps.length + 1) (acc, 0) ps

/-- RoundTo to f32 under RM, SAT and FTZ, as a value, with NV for a NaN made of operands that are none (R26, R224). -/
def roundV (rm : Nat) (sat ftz nanIn : Bool) (v : Fl) : Fl × BitVec 6 :=
  let r := narrowF 11 rm sat ftz v
  (decodeF 11 r.1, r.2 ||| nvOf nanIn v)

/-- DaccF32 of R41. FTZ acts on each rounded value, as R26 gives for every f32 result (DEDUCED, log 28). -/
def daccF32 (vtop stot : Fl) (terms : List (Fl × Fl)) (nbv rm : Nat) (sat ftz : Bool) : Fl × BitVec 6 :=
  let t0 := roundV rm sat ftz (vtop.isNan || stot.isNan) (mulF vtop stot)
  terms.foldl (fun t ds =>
    let p := mulF ds.1 ds.2
    if nbv = 3 then
      let r := roundV rm sat ftz (t.1.isNan || ds.2.isNan) (addF rm t.1 p.negate)
      (r.1, t.2 ||| r.2)
    else
      let q := roundV rm sat ftz ds.2.isNan p
      let r := roundV rm sat ftz (t.1.isNan || q.1.isNan) (addF rm t.1 q.1.negate)
      (r.1, t.2 ||| q.2 ||| r.2)) t0

/-- The exact DACC of R41 for i32 boundaries: vtop × Stot − Σ D × S, rounded once. -/
def daccI32 (vtop stot : Fl) (terms : List (Fl × Fl)) (rm : Nat) (sat ftz : Bool) : Fl × BitVec 6 :=
  let v := terms.foldl (fun a ds => addF rm a (mulF ds.1 ds.2).negate) (mulF vtop stot)
  roundV rm sat ftz vtop.isNan v

/-- The block exponent of ReEncode (R191) and Encode (R307): 127 for zeros, else clamp(127 + ⌈log2(m / MaxFinite)⌉). -/
def blockExp (c : Nat) (m : Fl) : Nat :=
  match m, decodeF c (maxPat c) with
  | .fin _ mm me, .fin _ xm xe =>
    if mm = 0 then 127
    else
      -- the least k with m ≤ max × 2^k
      let k0 : Int := (Nat.log2 mm : Int) + me - (Nat.log2 xm : Int) - xe
      let k := if leF (.fin false mm me) (.fin false xm (xe + k0)) then k0 else k0 + 1
      (max 0 (min 254 (127 + k))).toNat
  | _, _ => 0xFF

/-- The greatest magnitude of a list of finite values. -/
def maxAbs (l : List Fl) : Fl := l.foldl (fun a x => maxF a (if x.neg then x.negate else x)) (.fin false 0 0)

end Sys2Proof.Machine
end

