-- ==== Sys2Proof/Machine/Xlate.lean ====
section
/-! DEFINITION. Address translation (R332 to R336, R338, R339, R380), the crew's banks (R118), and format-window
views (R191). A fault is a trap code with its subcode (R343). -/

namespace Sys2Proof.Machine

/-- A trap code and subcode. -/
abbrev Flt := BitVec 8 × BitVec 8

/-- Trap codes of R343. -/
def cDECODE : BitVec 8 := 0x01
/-- BLOCK_FETCH. -/
def cBLOCKFETCH : BitVec 8 := 0x02
/-- ALIGN. -/
def cALIGN : BitVec 8 := 0x03
/-- XLATE. -/
def cXLATE : BitVec 8 := 0x04
/-- PROT. -/
def cPROT : BitVec 8 := 0x05
/-- POISON_READ. -/
def cPOISON : BitVec 8 := 0x06
/-- SOFT. -/
def cSOFT : BitVec 8 := 0x07
/-- RAS_UNDERFLOW. -/
def cRASUNDER : BitVec 8 := 0x08
/-- SPILL_OVERFLOW. -/
def cSPILLOVER : BitVec 8 := 0x09
/-- LENGTH_MISMATCH. -/
def cLENGTH : BitVec 8 := 0x0A
/-- CONNECT. -/
def cCONNECT : BitVec 8 := 0x0B
/-- DEADLOCK. -/
def cDEADLOCK : BitVec 8 := 0x0C
/-- PACKED_ACCESS. -/
def cPACKED : BitVec 8 := 0x0D
/-- FORMAT_WINDOW. -/
def cFORMAT : BitVec 8 := 0x0E
/-- PROOF. -/
def cPROOF : BitVec 8 := 0x0F
/-- LINK. -/
def cLINK : BitVec 8 := 0x10
/-- ENGINE. -/
def cENGINE : BitVec 8 := 0x11
/-- PRIV. -/
def cPRIV : BitVec 8 := 0x12
/-- NBV. -/
def cNBV : BitVec 8 := 0x13
/-- SHAPE. -/
def cSHAPE : BitVec 8 := 0x14

/-- Levels of R326. -/
def lUSER : BitVec 2 := 0
/-- SUPER. -/
def lSUPER : BitVec 2 := 1
/-- MGMT. -/
def lMGMT : BitVec 2 := 2

/-- What an access does, for R334. -/
inductive AccKind where
  | load | store | atomic | fetch | graph
  deriving DecidableEq, Repr

/-- Who accesses: context, level that is checked, die (R334, R336), and whether publishable buffers are reached by
their shadow (R251, R288). -/
structure Who where
  asid : Nat
  priv : BitVec 2
  die : Nat
  shadow : Bool
  deriving DecidableEq, Repr

/-- A resolved address: where it leads, whether its line is tracked (R316), whether the page is writable (R361), the
publishable buffer that holds it. -/
structure Resolved where
  loc : Loc
  trk : Bool
  wr : Bool
  buf : Option Nat
  deriving DecidableEq, Repr

/-- Bits hi..lo of a word as a number. -/
def field (w : BitVec 64) (lo n : Nat) : Nat := (w.extractLsb' lo n).toNat

/-- The partition of a context. -/
def partOf (s : State) (asid : Nat) : Option Partition :=
  match aget s.ctxs asid with
  | some c => aget s.parts c.part
  | none => none

/-- The stacks of a mask, ascending. -/
def stacksOf (m : BitVec 8) : List Nat := (List.range 8).filter (fun k => m.getLsbD k)

/-- A region 0x00 offset as an address of region 0x01 (R380). -/
def interleave (p : Partition) (o : Nat) : Option Nat :=
  let st := stacksOf p.hbm
  let n := st.length
  if n * 2 ^ 36 ≤ o then none
  else
    let u := o >>> p.gran.toNat
    match st[u % n]? with
    | some k => some (2 ^ 40 + k * 2 ^ 36 + (u / n) * pow2 p.gran.toNat + o % pow2 p.gran.toNat)
    | none => none

/-- A PACKAGE physical address (R335). Bit 39 of region 0x01 is in no field of the layout, so it names nothing. -/
def regionOf (p : Partition) (pa : Nat) : Option Loc :=
  match (pa >>> 40) % 256 with
  | 0 => match interleave p (pa % 2 ^ 40) with
    | some a => some (.mem a)
    | none => none
  | 1 => if (pa >>> 39) % 2 = 0 then some (.mem (pa % 2 ^ 48)) else none
  | 2 => some (.view ((pa >>> 32) % 256) (pa % 2 ^ 32))
  | _ => none

/-- The FRAME bits of an entry. -/
def frameMask : BitVec 64 := 0x0000FFFFFFFFF000#64

/-- Bytes that a leaf of a level maps (R332). -/
def leafSize (level : Nat) : Nat := match level with | 2 => 2 ^ 30 | 1 => 2 ^ 21 | _ => 2 ^ 12

/-- A valid entry of a level is malformed (R333). -/
def pteBad (level : Nat) (e : BitVec 64) : Bool :=
  let leaf := e.getLsbD 1
  let scope := field e 9 2
  e.getLsbD 11 || scope == 3 || (leaf && (level == 4 || level == 3)) || (!leaf && level == 0) ||
  (level == 2 && e.getLsbD 6) || ((e.getLsbD 8 || e.getLsbD 7) && scope != 0) ||
  (field e 48 16 != 0 && scope != 1) || (leaf && decide ((e &&& frameMask).toNat % leafSize level ≠ 0))

/-- The group of 16 entries of a CONT leaf is well made (R333). -/
def contOk (level : Nat) (es : List (BitVec 64)) : Bool :=
  match es with
  | [] => false
  | e0 :: _ =>
    let f0 := (e0 &&& frameMask).toNat
    decide (f0 % (16 * leafSize level) = 0) &&
    (List.range es.length).all (fun k => match es[k]? with
      | some e => (e &&& ~~~frameMask) == (e0 &&& ~~~frameMask) && (e &&& frameMask).toNat == f0 + k * leafSize level
      | none => false)

/-- The walk's levels from the root: level and the lowest VA bit that indexes it, with the index width (R332). -/
def walkLevels : List (Nat × Nat × Nat) := [(4, 48, 8), (3, 39, 9), (2, 30, 9), (1, 21, 9), (0, 12, 9)]

/-- The memory address of entry `ix` of the table at physical address `table`. -/
def entryAddr (p : Partition) (table ix : Nat) : Option Nat :=
  match regionOf p (table + 8 * ix) with
  | some (.mem a) => some a
  | _ => none

/-- What a walk comes to: its translation or the subcode of XLATE, the addresses of the entries that it reads, and the entries that
lead to other tables, which the walk caches keep. -/
structure Walked where
  res : Except (BitVec 8) TlbEntry
  reads : List Nat
  dirs : List TlbEntry

/-- A walk that ends after reading some entries. -/
def Walked.ends (res : Except (BitVec 8) TlbEntry) (reads : List Nat) : Walked := ⟨res, reads, []⟩

/-- The entry that the walk caches hold for a table of a level, which maps `n` pages from `page` (R336). -/
def dirHit (m : Memory) (die asid page n : Nat) : Option TlbEntry :=
  m.dirs.find? (fun e => e.die == die && e.asid == asid && e.page == page && e.npages == n)

/-- A walk (R332, R333, R336) through the levels that are left, from a table. -/
def walkGo (m : Memory) (p : Partition) (die asid va : Nat) : List (Nat × Nat × Nat) → Nat → Walked
  | [], _ => .ends (.error 2) []
  | (level, sh, w) :: rest, table =>
    let ix := (va >>> sh) % pow2 w
    let span := pow2 (sh - 12)
    let page := va / 4096
    match dirHit m die asid (page - page % span) span with
    | some d => walkGo m p die asid va rest (d.leaf &&& frameMask).toNat
    | none =>
      match entryAddr p table ix with
      | none => .ends (.error 4) []
      | some a =>
        let e := m.word a
        if !e.getLsbD 0 then .ends (.error 1) [a]
        else if pteBad level e then .ends (.error 2) [a]
        else if !e.getLsbD 1 then
          let r := walkGo m p die asid va rest (e &&& frameMask).toNat
          ⟨r.res, a :: r.reads, ⟨die, asid, page - page % span, span, e⟩ :: r.dirs⟩
        else if e.getLsbD 6 then
          match entryAddr p table (ix - ix % 16) with
          | none => .ends (.error 4) [a]
          | some a0 =>
            let es := m.words a0 16
            let reads := a :: (List.range 16).map (fun k => a0 + 8 * k)
            let n := 16 * leafSize level / 4096
            .ends (if contOk level es then .ok ⟨die, asid, page - page % n, n, es.headD 0⟩ else .error 3) reads
        else
          let n := leafSize level / 4096
          .ends (.ok ⟨die, asid, page - page % n, n, e⟩) [a]

/-- The walk of an address of a context from its root. -/
def walked (s : State) (die asid va : Nat) : Walked :=
  match aget s.ctxs asid with
  | none => .ends (.error 1) []
  | some c =>
    match aget s.parts c.part with
    | none => .ends (.error 1) []
    | some p => walkGo s.mem p die asid va walkLevels (c.xlat.root &&& frameMask).toNat

/-- What the walk of an address of a context ends with (R332). -/
def walk (s : State) (die asid va : Nat) : Except (BitVec 8) TlbEntry := (walked s die asid va).res

/-- The cached translation of an address (R336). -/
def tlbHit (s : State) (die asid va : Nat) : Option TlbEntry :=
  s.mem.tlb.find? (fun e => e.die == die && e.asid == asid && decide (e.page ≤ va / 4096) && decide (va / 4096 < e.page + e.npages))

/-- The translation that an access uses: the cached one, or a walk's (R336). -/
def leafOf (s : State) (die asid va : Nat) : Except (BitVec 8) TlbEntry :=
  match tlbHit s die asid va with
  | some e => .ok e
  | none => walk s die asid va

/-- Permission of R334. -/
def permits (priv : BitVec 2) (k : AccKind) (e : BitVec 64) : Bool :=
  (priv != lUSER || e.getLsbD 5) &&
  match k with
  | .load => e.getLsbD 2
  | .store => e.getLsbD 3
  | .atomic => e.getLsbD 2 && e.getLsbD 3
  | .fetch => e.getLsbD 4
  | .graph => e.getLsbD 2

/-- The valid publishable-buffer entry of a context that holds an address (R338, R339). -/
def bufOf (c : Context) (va : Nat) : Option Nat :=
  (List.range 64).find? (fun i => match c.xlat.bufs[i]? with
    | some b => b.valid && decide (b.va.toNat ≤ va) && decide (va < b.va.toNat + b.len * 4096)
    | none => false)

/-- The timestamp of the last PUB of the buffer that holds a tag 0x0 address (R251): what reaches the buffer follows it. -/
def bufTs (s : State) (asid : Nat) (va : BitVec 64) : Nat :=
  match aget s.ctxs asid with
  | some c => if field va 60 4 = 0 then ((bufOf c va.toNat).bind (fun i => c.xlat.bufs[i]?)).elim 0 (fun b => b.ts) else 0
  | none => 0

/-- Translate a tag 0x0 address (R332 to R335, R339). -/
def xlate (s : State) (w : Who) (k : AccKind) (va : BitVec 64) : Except Flt Resolved :=
  if field va 56 4 ≠ 0 then .error (cXLATE, 6)
  else
    match leafOf s w.die w.asid va.toNat with
    | .error sub => .error (cXLATE, sub)
    | .ok e =>
      if !permits w.priv k e.leaf then .error (cPROT, 1)
      else
        let pa := (e.leaf &&& frameMask).toNat + (va.toNat - e.page * 4096)
        match field e.leaf 9 2 with
        | 1 => .ok ⟨.peer (field e.leaf 48 16) pa, false, e.leaf.getLsbD 3, none⟩
        | 2 => .ok ⟨.host pa, false, e.leaf.getLsbD 3, none⟩
        | _ =>
          match aget s.ctxs w.asid with
          | none => .error (cXLATE, 1)
          | some c =>
            match aget s.parts c.part with
            | none => .error (cXLATE, 1)
            | some p =>
              let trk := e.leaf.getLsbD 8
              let wr := e.leaf.getLsbD 3
              if e.leaf.getLsbD 7 then
                match bufOf c va.toNat with
                | none => .error (cXLATE, 5)
                | some i =>
                  match c.xlat.bufs[i]? with
                  | none => .error (cXLATE, 5)
                  | some b =>
                    let base := if (b.vis != w.shadow) then b.pa1 else b.pa0
                    match regionOf p (base.toNat + (va.toNat - b.va.toNat)) with
                    | some l => .ok ⟨l, trk, wr, some i⟩
                    | none => .error (cXLATE, 4)
              else
                match regionOf p pa with
                | some (.view win off) =>
                  (match aget c.xlat.windows win with
                   | some wd =>
                     if wd.ctl.getLsbD 31 && decide (off < field wd.ctl 32 32 * (typeBits (field wd.ctl 14 6) / 8)) then
                       .ok ⟨.view win off, trk, wr, none⟩
                     else .error (cXLATE, 4)
                   | none => .error (cXLATE, 4))
                | some l => .ok ⟨l, trk, wr, none⟩
                | none => .error (cXLATE, 4)

/-- The entry reads of a walk, each an 8-byte load event (R332, R246). -/
def walkEvents (m : Memory) (reads : List Nat) : Memory :=
  (reads.foldl (fun x a => let ts := x.1.loadTs x.2 a 8; (x.1.leased ts a 8, ts)) (m, 0)).1

/-- An access uses a translation: where none is cached, a walk reads its entries, and what it finds is kept, at most 16,384
translations a die (R332, R336). -/
def fillTlb (s : State) (w : Who) (va : BitVec 64) : State :=
  match tlbHit s w.die w.asid va.toNat with
  | some _ => s
  | none =>
    let r := walked s w.die w.asid va.toNat
    let m := walkEvents s.mem r.reads
    let same := m.tlb.filter (fun x => x.die == w.die)
    let rest := m.tlb.filter (fun x => x.die != w.die)
    { s with mem := { m with
        dirs := r.dirs ++ m.dirs,
        tlb := match r.res with
          | .ok e => (e :: same).take 16384 ++ rest
          | .error _ => m.tlb } }

/-! ### The banks of a crew and of a cell (R118, R183) -/

/-- The cells of a crew with their handles, in ascending cell order. -/
def crewCells (s : State) (crew : CrewId) : List (Nat × Cell) :=
  let l := s.cells.filter (fun e => e.2.crew == crew)
  (List.range 16).flatMap (fun i => l.filter (fun e => e.2.cfg.index == i))

/-- The pages of a crew: cell handle, page number in the cell, page. -/
def crewPages (s : State) (crew : CrewId) : List (Nat × Nat × Page) :=
  (crewCells s crew).flatMap (fun e => (List.range e.2.pages.length).filterMap (fun k =>
    match e.2.pages[k]? with
    | some p => some (e.1, k, p)
    | none => none))

/-- A bank found by its ordinal: cell, page number, bank number, page store and the bank. -/
structure BankAt where
  cell : Nat
  page : Nat
  bank : Nat
  store : Nat
  b : Bank
  deriving DecidableEq, Repr

/-- Bank `ord` of a list of pages. -/
def bankIn (pages : List (Nat × Nat × Page)) (ord : Nat) : Option BankAt :=
  match pages[ord / 8]? with
  | none => none
  | some (c, k, p) =>
    match p.banks[ord % 8]? with
    | some b => some ⟨c, k, ord % 8, p.store, b⟩
    | none => none

/-- The bank of a crew's ordinal (R118). -/
def crewBank (s : State) (crew : CrewId) (ord : Nat) : Option BankAt := bankIn (crewPages s crew) ord

/-- The bank of a cell's ordinal (R183). -/
def cellBank (s : State) (c : Nat) (ord : Nat) : Option BankAt :=
  match aget s.cells c with
  | some x => bankIn ((List.range x.pages.length).filterMap (fun k => match x.pages[k]? with
      | some p => some (c, k, p)
      | none => none)) ord
  | none => none

/-- Change a bank. -/
def setBank (s : State) (c k b : Nat) (bank : Bank) : State :=
  match aget s.cells c with
  | none => s
  | some x =>
    match x.pages[k]? with
    | none => s
    | some p => { s with cells := aset s.cells c { x with pages := x.pages.set k { p with banks := p.banks.set b bank } } }

/-- A granule's packed bit (R193). -/
def packedAt (b : Bank) (off : Nat) : Bool := b.packed.getLsbD (off % 32768 / 1024)

/-! ### Format-window views (R191) -/

/-- Fields of WCTL (R351). -/
def wcNelem (w : Window) : Nat := field w.ctl 32 32
/-- Stored type. -/
def wcStype (w : Window) : Nat := field w.ctl 8 6
/-- View type. -/
def wcVtype (w : Window) : Nat := field w.ctl 14 6
/-- Scale block size; 0 for none. -/
def wcBlk (w : Window) : Nat := match field w.ctl 24 2 with | 1 => 16 | 2 => 32 | _ => 0
/-- Planes of a laminate window. -/
def wcPlanes (w : Window) : Nat := field w.ctl 20 4

/-- The pair is one of R191 and BLK and PLANES agree with it (R351, R352). -/
def windowPairOk (w : Window) : Bool :=
  let st := wcStype w
  let vt := wcVtype w
  let blk := field w.ctl 24 2
  if isLam st then
    blk == 0 && vt == (if lamSigned st then 1 else 2) && decide (2 ≤ wcPlanes w) && decide (wcPlanes w ≤ lamPlanes st)
  else
    wcPlanes w == 0 && (vt == 10 || vt == 11) &&
    (if st == 14 then blk == 1 || blk == 2 else (st == 12 || st == 13) && blk != 3)

/-- The stored pattern of element i. -/
def storedElem (m : Memory) (w : Window) (i : Nat) : Nat :=
  match typeBits (wcStype w) with
  | 4 => (m.byte (w.store.toNat + i / 2)).toNat >>> (4 * (i % 2)) % 16
  | _ => (m.byte (w.store.toNat + i)).toNat

/-- The plane bits of laminate element i, most significant first (R29). -/
def storedPlanes (m : Memory) (w : Window) (i : Nat) : List Bool :=
  let k := lamPlanes (wcStype w)
  (List.range (wcPlanes w)).map (fun j =>
    ((m.byte (w.store.toNat + (i / 256) * 32 * k + 32 * j + (i % 256) / 8)).toNat >>> (i % 8)) % 2 == 1)

/-- The decoded pattern of view element i (R191). -/
def viewElem (m : Memory) (w : Window) (i : Nat) : Nat :=
  let st := wcStype w
  if isLam st then wrapTo 8 (laminateOf (lamSigned st) (storedPlanes m w i))
  else
    let x := decodeF st (storedElem m w i)
    if wcBlk w = 0 then (narrowF (wcVtype w) 0 false false x).1
    else
      match decodeF 15 (m.byte (w.scale.toNat + i / wcBlk w)).toNat with
      | .fin _ _ e => (narrowF (wcVtype w) 0 false false (scaleF x e)).1
      | _ => nanPat (wcVtype w)

/-- The n bytes of a view from an offset. -/
def viewBytes (m : Memory) (w : Window) (off n : Nat) : List Byte :=
  let sz := typeBits (wcVtype w) / 8
  (List.range n).map (fun k => BitVec.ofNat 8 (viewElem m w ((off + k) / sz) >>> (8 * ((off + k) % sz))))

/-- The stored and scale bytes that view bytes come from, as (address, length) (R191). -/
def viewSources (w : Window) (off n : Nat) : List (Nat × Nat) :=
  let sz := typeBits (wcVtype w) / 8
  let i0 := off / sz
  let i1 := (off + n - 1) / sz
  let st := wcStype w
  if isLam st then
    (List.range (i1 / 256 - i0 / 256 + 1)).map (fun g =>
      (w.store.toNat + (i0 / 256 + g) * 32 * lamPlanes st, 32 * wcPlanes w))
  else
    let b0 := if typeBits st = 4 then i0 / 2 else i0
    let b1 := if typeBits st = 4 then i1 / 2 else i1
    let body := (w.store.toNat + b0, b1 - b0 + 1)
    if wcBlk w = 0 then [body] else [body, (w.scale.toNat + i0 / wcBlk w, i1 / wcBlk w - i0 / wcBlk w + 1)]

/-- The writes that put a stored pattern of element i. -/
def putStored (bytes : List Host.Cell) (w : Window) (i pat : Nat) : List Host.Cell :=
  if typeBits (wcStype w) = 4 then
    let a := w.store.toNat + i / 2
    let old := (cellsGet bytes a).toNat
    cellsSet bytes a (BitVec.ofNat 8 (if i % 2 = 0 then old / 16 * 16 + pat else old % 16 + 16 * pat))
  else cellsSet bytes (w.store.toNat + i) (BitVec.ofNat 8 pat)

/-- ReEncode of one scale block from its view patterns (R191); none where an element is not finite. -/
def reEncode (w : Window) (bytes : List Host.Cell) (i0 : Nat) (pats : List Nat) : Option (List Host.Cell) :=
  let xs := pats.map (decodeF (wcVtype w))
  if !xs.all Fl.finite then none
  else
    let st := wcStype w
    if wcBlk w = 0 then
      some ((List.range xs.length).foldl (fun b k => putStored b w (i0 + k) (narrowF st 0 true false (xs.getD k .nan)).1) bytes)
    else
      let e := blockExp st (maxAbs xs)
      let b1 := (List.range xs.length).foldl (fun b k =>
        putStored b w (i0 + k) (narrowF st 0 true false (scaleF (xs.getD k .nan) (127 - (e : Int)))).1) bytes
      some (cellsSet b1 (w.scale.toNat + i0 / wcBlk w) (BitVec.ofNat 8 e))

/-- The blocks of a re-encoding store, on fuel. -/
def reEncodeAll (w : Window) (step : Nat) : Nat → List Host.Cell → Nat → List Nat → Option (List Host.Cell)
  | 0, b, _, _ => some b
  | k + 1, b, i0, pats =>
    match pats with
    | [] => some b
    | _ =>
      match reEncode w b i0 (pats.take step) with
      | none => none
      | some b1 => reEncodeAll w step k b1 (i0 + step) (pats.drop step)

/-- A store into a view (R191); none where it cannot be re-encoded (FORMAT_WINDOW). A store to a part of an element of a view without
scales cannot be either (DESIGN CHOICE, log 42). -/
def viewStore (w : Window) (bytes : List Host.Cell) (off : Nat) (data : List Byte) : Option (List Host.Cell) :=
  let sz := typeBits (wcVtype w) / 8
  let step := if wcBlk w = 0 then 1 else wcBlk w
  if isLam (wcStype w) then none
  else if off % (sz * step) ≠ 0 ∨ data.length % (sz * step) ≠ 0 then none
  else
    let n := data.length / sz
    let pats := (List.range n).map (fun k => leVal ((data.drop (k * sz)).take sz))
    reEncodeAll w step (n + 1) bytes (off / sz) pats

end Sys2Proof.Machine
end

