-- ==== Sys2Proof/Machine/Ops.lean ====
section
/-! DEFINITION. Shared operations: the units of the machine by handle, writing memory, the rings of records, critical
path labels and edges, trap records, and taking a trap and returning from one. -/

namespace Sys2Proof.Machine

/-! ### Units by handle -/

/-- Change a thread. -/
def updThread (s : State) (t : Nat) (f : Thread → Thread) : State :=
  match aget s.threads t with
  | some th => { s with threads := aset s.threads t (f th) }
  | none => s

/-- Change a cell. -/
def updCell (s : State) (c : Nat) (f : Cell → Cell) : State :=
  match aget s.cells c with
  | some x => { s with cells := aset s.cells c (f x) }
  | none => s

/-- Change an engine set. -/
def updEset (s : State) (e : Nat) (f : EngineSet → EngineSet) : State :=
  match aget s.esets e with
  | some x => { s with esets := aset s.esets e (f x) }
  | none => s

/-- Change a context. -/
def updCtx (s : State) (a : Nat) (f : Context → Context) : State :=
  match aget s.ctxs a with
  | some x => { s with ctxs := aset s.ctxs a (f x) }
  | none => s

/-- Change a partition. -/
def updPart (s : State) (p : Nat) (f : Partition → Partition) : State :=
  match aget s.parts p with
  | some x => { s with parts := aset s.parts p (f x) }
  | none => s

/-- Change a collective context. -/
def updColl (s : State) (h : Nat) (f : Coll → Coll) : State :=
  match aget s.colls h with
  | some x => { s with colls := aset s.colls h (f x) }
  | none => s

/-- Change a launch of a context. -/
def updLaunch (s : State) (a id : Nat) (f : Launch → Launch) : State :=
  updCtx s a (fun c => match aget c.launches id with
    | some l => { c with launches := aset c.launches id (f l) }
    | none => c)

/-- A launch of a context. -/
def launchOf (s : State) (a id : Nat) : Option Launch :=
  match aget s.ctxs a with
  | some c => aget c.launches id
  | none => none

/-- Change a member of a list. -/
def modAt {α : Type} (l : List α) (k : Nat) (f : α → α) : List α :=
  match l[k]? with
  | some x => l.set k (f x)
  | none => l

/-- Change a node of a cell. -/
def updNode (s : State) (c n : Nat) (f : Node → Node) : State :=
  updCell s c (fun x => { x with nodes := modAt x.nodes n f })

/-- A node of a cell. -/
def nodeOf (s : State) (c n : Nat) : Option Node :=
  match aget s.cells c with
  | some x => x.nodes[n]?
  | none => none

/-- Change a channel of an engine set. -/
def updChan (s : State) (e ch : Nat) (f : Channel → Channel) : State :=
  updEset s e (fun x => { x with channels := modAt x.channels ch f })

/-- A channel. -/
def chanOf (s : State) (e ch : Nat) : Option Channel :=
  match aget s.esets e with
  | some x => x.channels[ch]?
  | none => none

/-- The die of a cluster number (die × 64 + cluster). -/
def dieOf (cluster : Nat) : Nat := cluster / Config.clustersPerDie

/-- The next unused handle. -/
def newId (s : State) : Nat × State := (s.nextId, { s with nextId := s.nextId + 1 })

/-- The context of a thread. -/
def asidOf (th : Thread) : Nat := th.home.crew.asid

/-- A 64-bit word from a number. -/
def w64 (n : Nat) : W := BitVec.ofNat 64 n

/-! ### Memory nodes, sinks and sluices (R133, R158) -/

/-- A memory node as CFG leaves it. -/
def MemState.fresh : MemState :=
  { starts := [], sluices := [], streams := 0, begun := false, cur := 0, dones := 0, count := 0, slot := none, image := none, ts := 0,
    out := [], desc := none, broken := none, endSig := Sig.zero }

/-- The state of a memory node. -/
def memOf (nd : Node) : MemState :=
  match nd.st with
  | .mem m => m
  | _ => MemState.fresh

/-- A memory node with its state changed. -/
def Node.withMem (nd : Node) (f : MemState → MemState) : Node := { nd with st := .mem (f (memOf nd)) }

/-- Put a changed cell back. -/
def putCell (s : State) (c : Nat) (x : Cell) : State := { s with cells := aset s.cells c x }

/-- A sink element (R158): a MEM node, or a node whose OUTA is none. -/
def isSink (nd : Node) : Bool := nd.word.kind == 11 || nd.word.outA.isNone

/-- A drained cell: nothing has entered it since the last sluice that completed, or poison has halted it (R133). -/
def drained (x : Cell) : Bool := x.halted || x.entered == x.drainedAt

/-- A source node of a cell: an AGEN that reads no port, or a LINKIN. -/
def isSource (nd : Node) : Bool := (nd.word.kind == 10 && nd.word.mode != 1) || (nd.word.kind == 11 && nd.word.mode == 3)

/-- Inject a sluice of an identifier in a cell: behind the streams started at each AGEN, behind what each LINKIN has emitted. -/
def injectSluice (x : Cell) (sid : Nat) : Cell :=
  let sinks := (List.range x.nodes.length).filter (fun n => match x.nodes[n]? with
    | some nd => isSink nd
    | none => false)
  { x with
    sluices := x.sluices ++ [⟨sid, sinks, x.entered, 0, Sig.zero⟩],
    nodes := x.nodes.map (fun nd => if isSource nd then
      nd.withMem (fun m => { m with sluices := m.sluices ++ [(if nd.word.kind = 10 then m.starts.length else 0, sid)] }) else nd) }

/-- A cell takes part in a drain: it is configured, not halted, and has sources and sinks. -/
def drainable (x : Cell) : Bool := !x.halted && x.nodes.any isSource && x.nodes.any isSink

/-! ### Regions that are gated (R354 to R359) -/

/-- The region of a context on a cluster is running, or has never been pre-empted. -/
def regionRuns (s : State) (asid cluster : Nat) : Bool :=
  match s.regions.find? (fun r => r.asid == asid && r.cluster == cluster) with
  | some r => r.phase == .running
  | none => true

/-- A thread's region runs. -/
def threadRuns (s : State) (th : Thread) : Bool := regionRuns s (asidOf th) th.home.cluster

/-- A cell's region runs and the cell's clock is not gated. -/
def cellRuns (s : State) (c : Cell) : Bool := !c.gated && !c.halted && regionRuns s c.crew.asid c.cluster

/-- An engine set's region runs. -/
def esetRuns (s : State) (e : EngineSet) : Bool := regionRuns s e.crew.asid e.cluster

/-! ### Coordinates and unit words (R13, R318) -/

/-- The coordinate of a crew, with the fields of a cell (R13). -/
def coordOf (c : CrewId) (cell stage : BitVec 8) : BitVec 32 :=
  if c.launch = 0 then 0xFFFFFFFF
  else BitVec.ofNat 8 (c.crew / 64) ++ BitVec.ofNat 8 (c.crew % 64) ++ cell ++ stage

/-- The coordinate of a cell (R13). -/
def cellCoord (c : Cell) : BitVec 32 := coordOf c.crew (BitVec.ofNat 8 c.cfg.index) (BitVec.ofNat 8 c.cfg.stage)

/-- The coordinate of a thread (R13). -/
def threadCoord (th : Thread) : BitVec 32 :=
  if th.home.crew.launch = 0 then 0xFFFFFFFF else th.home.shard ++ th.home.crewNo ++ (0xFFFF : BitVec 16)

/-- A unit word (R318). -/
def unitWord (devid : BitVec 14) (die cls loc : Nat) (coord : BitVec 32) : W :=
  devid ++ BitVec.ofNat 2 die ++ BitVec.ofNat 4 cls ++ BitVec.ofNat 12 loc ++ coord

/-- The unit word of a thread. -/
def threadUnit (s : State) (th : Thread) : W :=
  unitWord s.pkg.devid (dieOf th.home.cluster) 0 (th.home.cluster % 64 * 16 + th.home.slot) (threadCoord th)

/-- The unit word of the thread with a handle; 0 where there is none. -/
def threadUnitAt (s : State) (t : Nat) : W :=
  match aget s.threads t with
  | some th => threadUnit s th
  | none => 0

/-- The unit word of a node. -/
def nodeUnit (s : State) (c : Cell) (n : Nat) : W := unitWord s.pkg.devid (dieOf c.cluster) 1 n (cellCoord c)

/-- The unit word of a channel. -/
def chanUnit (s : State) (e : EngineSet) (ch : Nat) : W :=
  unitWord s.pkg.devid (dieOf e.cluster) 2 (e.cluster % 64 * 16 + ch) (coordOf e.crew 0xFF 0xFF)

/-- The unit word of a die's collective engine. -/
def collUnit (s : State) (die : Nat) : W := unitWord s.pkg.devid die 3 0 0xFFFFFFFF

/-- The unit word of a launch on the die of the unit that records it. -/
def launchUnit (s : State) (die id : Nat) : W := unitWord s.pkg.devid die 4 0 (BitVec.ofNat 32 id)

/-- The unit word of an event line. -/
def lineUnit (s : State) (e : EngineSet) (line : Nat) : W :=
  unitWord s.pkg.devid (dieOf e.cluster) 5 (e.cluster % 64 * 64 + line) (coordOf e.crew 0xFF 0xFF)

/-- The unit word of a FIFO run. -/
def cbufUnit (s : State) (c : Cell) (bank : Nat) : W := unitWord s.pkg.devid (dieOf c.cluster) 6 bank (cellCoord c)

/-- The unit word of a port: 0 to 15 a device-link port, 16 and 17 the host links. -/
def portUnit (s : State) (die q : Nat) : W := unitWord s.pkg.devid die 8 q 0xFFFFFFFF

/-! ### Operations that leave the device (R129, R313, R402, R403) -/

/-- The port that an operation to a peer index takes: LINK 1 where no entry maps it, LINK 2 where none of its ports is
up. -/
def route (s : State) (ix : Nat) : Except Flt Nat :=
  match aget s.pkg.peers ix with
  | none => .error (cLINK, 1)
  | some p =>
    if !p.valid then .error (cLINK, 1)
    else match (List.range 16).find? (fun k => p.ports.getLsbD k && (match s.pkg.ports[k]? with
        | some q => q.up
        | none => false)) with
      | some k => .ok k
      | none => .error (cLINK, 2)

/-- The bytes of the retry window that a frame takes: what it carries in whole lines, and one line beside (DESIGN CHOICE, log 37). -/
def frameSize (bytes : List Byte) : Nat := 64 * (1 + (bytes.length + 63) / 64)

/-- The bytes of a port's retry window that are taken. -/
def windowUsed (p : LinkPort) : Nat := p.window.foldl (fun n f => n + f.size) 0

/-- A FAR port's retry window has room for a frame; an empty one always has (R403). -/
def windowRoom (p : LinkPort) (size : Nat) : Bool := p.window.isEmpty || decide (windowUsed p + size ≤ p.wlen.toNat * 4096)

/-- A port sends the frame of an operation (R403): the newest key's packet number goes on. -/
def sendFrame (p : LinkPort) (op size : Nat) : LinkPort :=
  { p with window := p.window ++ [⟨p.txSeq, op, size, 0⟩], txSeq := p.txSeq + 1, txPn := p.txPn + 1 }

/-- A FAR port keeps what it has sent in its retry window until it is acknowledged; where the window is full the port stops sending,
and the operation waits (R403). -/
def keepFrame (s : State) (port : Option Nat) (op : Nat) (bytes : List Byte) : List LinkPort :=
  match port with
  | none => s.pkg.ports
  | some k => modAt s.pkg.ports k (fun p =>
      if p.mode ≠ 2 then p
      else if p.waiting.isEmpty && windowRoom p (frameSize bytes) then sendFrame p op (frameSize bytes)
      else { p with waiting := p.waiting ++ [op] })

/-- Send an operation to a peer or to the host, with the further runs of bytes of its line (R249). -/
def sendRuns (s : State) (i : Issuer) (peer : Nat) (port : Option Nat) (write : Bool) (addr : W) (bytes : List Byte)
    (more : List (W × List Byte)) : State :=
  { s with
    nextId := s.nextId + 1, pkg := { s.pkg with ports := keepFrame s port s.nextId (bytes ++ more.flatMap (fun r => r.2)) },
    fl := { s.fl with ops := s.fl.ops ++ [⟨s.nextId, i, peer, port, write, addr, bytes, more⟩] } }

/-- Send an operation to a peer or to the host. -/
def sendOp (s : State) (i : Issuer) (peer : Nat) (port : Option Nat) (write : Bool) (addr : W) (bytes : List Byte) : State :=
  sendRuns s i peer port write addr bytes []

/-- The host port of a partition, as R318 numbers it: 16 for the partition of die 0, else 17 (R318, R399). -/
def hostPort (s : State) (asid : Nat) : Nat :=
  match partOf s asid with
  | some p => if p.dies.getLsbD 0 then 16 else 17
  | none => 17

/-! ### Labels (R314, R315) -/

/-- PATH saturates (R314). -/
def satPath (n : Nat) : Nat := min n 0xFFFFFFFF

/-- A thread is held at a wait, so its cycles are not busy ones (R314). -/
def threadWaits (th : Thread) : Bool :=
  match th.mode with
  | .mwait => true
  | .trailing _ _ => true
  | .proofHeld _ => true
  | .halted => true
  | .fallen => true
  | .ready =>
    match th.block with
    | some b => b.slots.any (fun k => k.phase == .gated)
    | none => false

/-- The last cycle of a region that counts: the cycle of its gate where it does not run (R359). -/
def regionNow (s : State) (asid cluster : Nat) : Nat :=
  match s.regions.find? (fun r => r.asid == asid && r.cluster == cluster && r.phase != .running) with
  | some r => r.gatedAt
  | none => s.cycle

/-- The PATH a thread would stamp now (R314, R359). -/
def threadOwn (s : State) (th : Thread) : Nat :=
  satPath (th.label.path + th.label.busy +
    (if threadWaits th then 0 else regionNow s (asidOf th) th.home.cluster - th.label.since))

/-- The PATH of a label whose busy cycles are counted as they happen. -/
def labelOwn (l : Label) : Nat := satPath (l.path + l.busy)

/-- The signal of a thread (R314). -/
def threadSig (s : State) (th : Thread) : Sig := ⟨threadOwn s th, th.label.edge, s.cycle, 0, th.pts⟩

/-- The signal of an agent with a label and a pts. -/
def labelSig (s : State) (l : Label) (pts : Nat) : Sig := ⟨labelOwn l, l.edge, s.cycle, 0, pts⟩

/-- The arrival PATH of a signal (R315); where nothing has been sent there is none. -/
def arrives (s : State) (g : Sig) : Nat := if g = Sig.zero then 0 else satPath (g.path + g.lat + (s.cycle - g.stamp))

/-- Predecessor and PATH of EndWait (R315): ties go to the signal. -/
def chooseWait (s : State) (own : Nat) (edge : BitVec 32) (g : Sig) : BitVec 32 × Nat :=
  if own ≤ arrives s g then (g.edge, arrives s g) else (edge, own)

/-- Merge a signal into a label without a record (R315). -/
def mergeLabel (s : State) (l : Label) (g : Sig) : Label :=
  let r := chooseWait s (labelOwn l) l.edge g
  ⟨r.2, r.1, 0, s.cycle⟩

/-! ### Writes by the device, and metadata that cannot be fetched (R192, R407) -/

/-- The window of a context's view. -/
def windowOf (s : State) (asid w : Nat) : Option Window :=
  match aget s.ctxs asid with
  | some c => aget c.xlat.windows w
  | none => none

/-- The bytes at a local place, over a given list of memory bytes. -/
def locBytes (s : State) (asid : Nat) (bytes : List Host.Cell) (l : Loc) (n : Nat) : List Byte :=
  match l with
  | .mem a => cellsTake bytes a n
  | .view w off =>
    (match windowOf s asid w with
     | some wd => viewBytes { s.mem with bytes := bytes } wd off n
     | none => List.replicate n 0)
  | _ => List.replicate n 0

/-- The addresses and lengths of memory that a place stands on (R191). -/
def locSpans (s : State) (asid : Nat) (l : Loc) (n : Nat) : List (Nat × Nat) :=
  match l with
  | .mem a => [(a, n)]
  | .view w off =>
    (match windowOf s asid w with
     | some wd => viewSources wd off n
     | none => [])
  | _ => []

/-- The whole-unit poisoning of R192: a partial write whose metadata fetch fails. -/
def metaFails (s : State) (a n : Nat) : Bool :=
  s.mem.metaErr.contains (a / 512) && !(decide (a ≤ a / 512 * 512) && decide ((a / 512 + 1) * 512 ≤ a + n))

/-- The first address of a partial write to a local place whose metadata fetch fails: of plain memory, or of the stored and scale
bytes of a view (R192). -/
def locMeta (s : State) (asid : Nat) (l : Loc) (n : Nat) : Option Nat :=
  ((locSpans s asid l n).find? (fun p => metaFails s p.1 p.2)).map (fun p => p.1)

/-- The die of the stack that an address of HBM lies in (R198). -/
def memDie (a : Nat) : Nat := a / 2 ^ 36 % 8 / 2

/-- A machine-check record (R407), and vector 2 on every function whose partition holds the die. -/
def checkRec (s : State) (kind die : Nat) (pa : W) (asid : Nat) : State :=
  let rec1 : List W := [w64 (kind + 256 * (die % 4)), pa, w64 (asid % 4096), w64 s.cycle]
  let hit := (s.parts.filter (fun e => e.2.live && e.2.dies.getLsbD die)).map (fun e => Outbound.msix e.1 2)
  { s with pkg := { s.pkg with checks := s.pkg.checks ++ [rec1] }, fl := { s.fl with out := s.fl.out ++ hit } }

/-- Poison the unit of an address, as one event over the unit at the timestamp that the failed write of an agent would have had
(R192, R253). -/
def poisonUnit (s : State) (pts a : Nat) : State :=
  let u := a / 512 * 512
  let m := s.mem.stamped (s.mem.storeTs pts u 512) u 512
  { s with mem := { m with fresh := m.fresh.filter (fun l => l / 8 != a / 512), metaErr := s.mem.metaErr.filter (fun u => u != a / 512),
                               poisoned := if s.mem.poisoned.contains (a / 512) then s.mem.poisoned
                                 else a / 512 :: s.mem.poisoned } }

/-- The metadata fetch of a partial write has failed: the unit is poisoned, and a machine-check record names the access (R192, R407). -/
def metaError (s : State) (asid pts a : Nat) : State := checkRec (poisonUnit s pts a) 1 (memDie a) (w64 a) asid

/-- Bytes of memory changed with no event of the memory order: tables and rings that the device writes. -/
def rawPut (s : State) (a : Nat) (bs : List Byte) : State :=
  let m := s.mem.unpoison a bs.length
  { s with mem := { m with bytes := cellsPut m.bytes a bs } }

/-- A write that the device itself makes, as one event (R319, R340, R349, R391): it holds no timestamp of its own, and a partial write
whose metadata fetch fails poisons its unit instead (R192). -/
def devPut (s : State) (asid a : Nat) (bs : List Byte) : State :=
  if metaFails s a bs.length then metaError s asid 0 a
  else
    let s1 := rawPut s a bs
    { s1 with mem := s1.mem.stamped (s.mem.storeTs 0 a bs.length) a bs.length }

/-- The ASID of an access that no context makes (R407). -/
def noAsid : Nat := 0xFFF

/-- NewEdge (R317, R319): allocate the next INDEX of the die and write its entry as one event. -/
def newEdge (s : State) (die : Nat) (waiter producer : W) (kind : Nat) (pred : BitVec 32) (path waitcyc pts : Nat)
    (tag : BitVec 32) (rflags : BitVec 8) : State × BitVec 32 :=
  let ix := (s.pkg.edgeIx.getD die 0) % 65535 + 1
  let edge : BitVec 32 := s.pkg.devid ++ BitVec.ofNat 2 die ++ BitVec.ofNat 16 ix
  let base := (s.pkg.etab.getD die 0 &&& 0x0000FFFFFFC00000#64).toNat
  let ws : List W := [pred ++ edge, 0, BitVec.ofNat 32 (satPath waitcyc) ++ BitVec.ofNat 32 (satPath path), w64 pts, waiter,
    producer, (0 : BitVec 16) ++ rflags ++ BitVec.ofNat 8 kind ++ tag, 0]
  let s1 := { s with pkg := { s.pkg with edgeIx := s.pkg.edgeIx.set die ix } }
  (devPut s1 noAsid (base + 64 * ix) (wordBytes ws), edge)

/-- EndWait of a thread with a record (R315). What the thread does next follows what the signal's sender did (R247). -/
def endWaitThread (s : State) (t : Nat) (g : Sig) (kind : Nat) (producer : W) (waited : Nat) : State :=
  match aget s.threads t with
  | none => s
  | some th =>
    let r := chooseWait s (threadOwn s th) th.label.edge g
    let e := newEdge s (dieOf th.home.cluster) (threadUnit s th) producer kind r.1 r.2 waited (max th.pts g.pts) th.tag 0
    updThread e.1 t (fun x => { x with label := ⟨r.2, e.2, 0, s.cycle⟩, pts := max th.pts g.pts })

/-- EndWait of a node with a record (R315). -/
def endWaitNode (s : State) (c n : Nat) (g : Sig) (kind : Nat) (producer : W) (waited : Nat) : State :=
  match aget s.cells c with
  | none => s
  | some x =>
    match x.nodes[n]? with
    | none => s
    | some nd =>
      let r := chooseWait s (labelOwn nd.label) nd.label.edge g
      let e := newEdge s (dieOf x.cluster) (nodeUnit s x n) producer kind r.1 r.2 waited (max nd.pts g.pts) 0 0
      updNode e.1 c n (fun y => { y with label := ⟨r.2, e.2, 0, s.cycle⟩, pts := max nd.pts g.pts })

/-- EndWait of a channel with a record (R315). -/
def endWaitChan (s : State) (e ch : Nat) (g : Sig) (kind : Nat) (producer : W) (waited : Nat) : State :=
  match aget s.esets e with
  | none => s
  | some x =>
    match x.channels[ch]? with
    | none => s
    | some c =>
      let r := chooseWait s (labelOwn c.label) c.label.edge g
      let d := newEdge s (dieOf x.cluster) (chanUnit s x ch) producer kind r.1 r.2 waited (max c.pts g.pts) 0 0
      updChan d.1 e ch (fun y => { y with label := ⟨r.2, d.2, 0, s.cycle⟩, pts := max c.pts g.pts })

/-- Merge a signal into a thread's label without a record (R315). -/
def mergeThread (s : State) (t : Nat) (g : Sig) : State :=
  updThread s t (fun th =>
    let r := chooseWait s (threadOwn s th) th.label.edge g
    { th with label := ⟨r.2, r.1, 0, s.cycle⟩ })

/-- Start a wait of a thread: its busy cycles stop, and the waited cycles count from here. -/
def beginWait (s : State) (t : Nat) : State :=
  updThread s t (fun th =>
    { th with label := { th.label with busy := th.label.busy + (s.cycle - th.label.since), since := s.cycle },
              waitAt := s.cycle })

/-- End a wait that records no edge: busy cycles count again from here. -/
def resumeBusy (s : State) (t : Nat) : State :=
  updThread s t (fun th => { th with label := { th.label with since := s.cycle } })

/-- A thread that waits no longer is busy again. -/
def busyAgain (s : State) (t : Nat) : State :=
  match aget s.threads t with
  | some th => if threadWaits th then s else resumeBusy s t
  | none => s

/-! ### Virtual memory by the device -/

/-- The bytes of a virtual page that are sure to lie in one stretch of memory: a page, or a granule of the interleave where that is
smaller (R380). -/
def stretch (s : State) (asid : Nat) : Nat := pow2 (min 12 ((partOf s asid).elim 12 (fun p => p.gran.toNat)))

/-- The parts of an n-byte access that lie in one stretch of g bytes, resolved, each with its length; or the fault and its
address. -/
def pieces (s : State) (w : Who) (k : AccKind) (g : Nat) : Nat → W → Nat → Except (Flt × W) (List (Resolved × Nat))
  | 0, _, _ => .ok []
  | fuel + 1, va, n =>
    if n = 0 then .ok []
    else
      let room := min n (g - va.toNat % g)
      match xlate s w k va with
      | .error f => .error (f, va)
      | .ok r =>
        match pieces s w k g fuel (va + w64 room) (n - room) with
        | .error f => .error f
        | .ok rest => .ok ((r, room) :: rest)

/-- The pieces of an access. -/
def piecesOf (s : State) (w : Who) (k : AccKind) (va : W) (n : Nat) : Except (Flt × W) (List (Resolved × Nat)) :=
  pieces s w k (stretch s w.asid) (n / stretch s w.asid + 2) va n

/-- Keep every translation of an access (R336). -/
def fillPages (s : State) (w : Who) : Nat → W → Nat → State
  | 0, _, _ => s
  | fuel + 1, va, n =>
    if n = 0 then s
    else
      let room := min n (4096 - va.toNat % 4096)
      fillPages (fillTlb s w va) w fuel (va + w64 room) (n - room)

/-- A byte of a place is poisoned (R192, R253, R407). -/
def locPoisoned (s : State) (asid : Nat) (l : Loc) (n : Nat) : Bool :=
  (locSpans s asid l n).any (fun p => s.mem.isPoisoned p.1 p.2)

/-- Memory bytes after a write to a local place; none where a view store cannot be re-encoded (R191). -/
def locPut (s : State) (asid : Nat) (bytes : List Host.Cell) (l : Loc) (data : List Byte) : Option (List Host.Cell) :=
  match l with
  | .mem a => some (cellsPut bytes a data)
  | .view w off =>
    (match windowOf s asid w with
     | some wd => viewStore wd bytes off data
     | none => none)
  | _ => some bytes

/-- A write of the device to bytes of a view, as one event (R191, R192); none where it cannot be re-encoded. -/
def devView (s : State) (asid : Nat) (l : Loc) (bs : List Byte) : Option State :=
  match locMeta s asid l bs.length with
  | some a => some (metaError s asid 0 a)
  | none =>
    match locPut s asid s.mem.bytes l bs with
    | none => none
    | some m =>
      let spans := locSpans s asid l bs.length
      let ts := spans.foldl (fun t p => s.mem.storeTs t p.1 p.2) 0
      some { s with mem := { spans.foldl (fun x p => (x.unpoison p.1 p.2).stamped ts p.1 p.2) s.mem with bytes := m } }

/-- A write the device makes at SUPER level in a context's address space (R349, R391, R394); none where it faults. A page
of host or peer memory is written by a posted operation; one that finds no way to its peer is lost. -/
def putPieces (s : State) (asid : Nat) : List (Resolved × Nat) → List Byte → Option State
  | [], _ => some s
  | (r, n) :: rest, bs =>
    let now := bs.take n
    match r.loc with
    | .mem a => putPieces (devPut s asid a now) asid rest (bs.drop n)
    | .view _ _ =>
      (match devView s asid r.loc now with
       | some x => putPieces x asid rest (bs.drop n)
       | none => none)
    | .peer ix pa =>
      (match route s ix with
       | .ok k => putPieces (sendOp s .device ix (some k) true (w64 pa) now) asid rest (bs.drop n)
       | .error _ => none)
    | .host a => putPieces (sendOp s .device 0 (some (hostPort s asid)) true (w64 a) now) asid rest (bs.drop n)
    | .aper _ => none

/-- A device write at a virtual address, at SUPER level. -/
def vaPut (s : State) (asid die : Nat) (va : W) (bs : List Byte) : Option State :=
  let w : Who := ⟨asid, lSUPER, die, false⟩
  match piecesOf s w .store va bs.length with
  | .error _ => none
  | .ok ps => putPieces (fillPages s w (bs.length / 4096 + 2) va bs.length) asid ps bs

/-! ### Rings of records (R389, R391) -/

/-- The header word of a record (R389). -/
def recHeader (kind len : Nat) : W := (0xA55A : BitVec 16) ++ BitVec.ofNat 8 kind ++ (0 : BitVec 24) ++ BitVec.ofNat 16 len

/-- A record: header, stamp, body (R389). -/
def recWords (s : State) (kind : Nat) (body : List W) : List W :=
  recHeader kind (body.length + 2) :: w64 s.cycle :: body

/-- PlaceRecord (R391): the state with the record in the ring and the new WR; none where it is dropped. A write that
faults drops the record too: log 8. -/
def placeRecord (s : State) (asid die : Nat) (base : W) (size wr rd : Nat) (ws : List W) : Option (State × Nat) :=
  let l := 8 * ws.length
  let off := wr % size
  let tail := if size < off + l then size - off else 0
  if size = 0 ∨ size < (wr - rd) + (tail + l) then none
  else
    let padded := if tail = 0 then some s
      else vaPut s asid die (base + w64 off) (wordBytes (recHeader 1 (tail / 8) :: List.replicate (tail / 8 - 1) 0))
    match padded with
    | none => none
    | some s1 =>
      match vaPut s1 asid die (base + w64 ((wr + tail) % size)) (wordBytes ws) with
      | none => none
      | some s2 => some (s2, wr + tail + l)

/-- 2^RLOG bytes of a ring register, or 0 for no ring. -/
def ringSize (r : W) : Nat := if r.toNat % 32 = 0 then 0 else pow2 (r.toNat % 32)

/-- The base of a ring register. -/
def ringBase (r : W) : W := r &&& 0xFFFFFFFFFFFFF000#64

/-- A record of the sample ring of a context (R390, R391). -/
def sampleRec (s : State) (asid die kind : Nat) (body : List W) : State :=
  match aget s.ctxs asid with
  | none => s
  | some c =>
    let p := c.pmc
    match placeRecord s asid die (ringBase p.sbase) (ringSize p.sbase) p.swr.toNat p.srd.toNat (recWords s kind body) with
    | some r => updCtx r.1 asid (fun x => { x with pmc := { x.pmc with swr := w64 r.2 } })
    | none => updCtx s asid (fun x =>
        { x with pmc := { x.pmc with lost := if x.pmc.lost = 0xFFFFFFFF then x.pmc.lost else x.pmc.lost + 1 } })

/-- A record of an epoch has been lost (R396). -/
def loseRec (l : LogRegs) (e : Nat) : LogRegs :=
  { l with epochs := l.epochs.map (fun p => if p.number = e then { p with lost := true } else p) }

/-- A record of the peat log of a context, of an epoch (R395, R396). -/
def logRec (s : State) (asid die e kind : Nat) (body : List W) : State :=
  match aget s.ctxs asid with
  | none => s
  | some c =>
    let p := c.log
    let size := (p.llen &&& 0x000000FFFFFFF000#64).toNat
    match placeRecord s asid die (ringBase p.lbase) size p.lwr.toNat p.lrd.toNat (recWords s kind body) with
    | some r => updCtx r.1 asid (fun x => { x with log := { x.log with lwr := w64 r.2 } })
    | none => updCtx s asid (fun x => { x with log := loseRec x.log e })

/-- Counter k as the events of this cycle find it: its value and its event, from before a write of the cycle (R388). -/
def counterNow (p : PmcRegs) (k : Nat) : BitVec 48 × BitVec 9 := (aget p.wrote k).getD (p.cnt.getD k 0, p.evt.getD k 0)

/-- Counter k with a value: it takes it, but one that has been written in this cycle keeps what was written (R388). -/
def counterPut (p : PmcRegs) (k : Nat) (v : BitVec 48) : PmcRegs :=
  match aget p.wrote k with
  | some w => { p with wrote := aset p.wrote k (v, w.2) }
  | none => { p with cnt := p.cnt.set k v }

/-- Counter k of a context stands at its top and counts once more (R388): it wraps, its OVF bit is set, and the record is written
that INTEN asks for. -/
def counterWraps (s : State) (asid die k : Nat) : State :=
  match aget s.ctxs asid with
  | none => s
  | some c =>
    let bit : BitVec 8 := BitVec.ofNat 8 (pow2 k)
    let s1 := updCtx s asid (fun x => { x with pmc := { counterPut x.pmc k 0 with
      ovf := x.pmc.ovf ||| bit, setNow := x.pmc.setNow ||| bit } })
    if (counterNow c.pmc k).2.getLsbD 8 then sampleRec s1 asid die 4 [w64 k] else s1

/-- Counter k of a context counts n: n times one, so that it may wrap on the way. -/
def counterAdd (s : State) (asid die k n : Nat) : State :=
  match aget s.ctxs asid with
  | none => s
  | some c =>
    let v := (counterNow c.pmc k).1.toNat
    let s1 := if v + n < 2 ^ 48 then s else counterWraps s asid die k
    updCtx s1 asid (fun x => { x with pmc := counterPut x.pmc k (BitVec.ofNat 48 (v + n)) })

/-- n events of a kind in a context: every counter that counts them takes them, while EN is 1 (R387). -/
def pmcAdd (s : State) (asid die event n : Nat) : State :=
  match aget s.ctxs asid with
  | none => s
  | some c =>
    if n = 0 ∨ c.pmc.ctl.getLsbD 0 = false then s
    else (List.range 8).foldl (fun st k =>
      if (counterNow c.pmc k).2.toNat % 256 = event then counterAdd st asid die k n else st) s

/-- The context takes checkpoints and has begun an epoch (R396). -/
def logging (c : Context) : Bool := c.log.ckctl.getLsbD 0 && c.log.epoch != 0

/-! ### ORDER records and replay (R397, R398, log 20) -/

/-- An ORDER record of an outside input or an open choice (R397): timestamp, kind, value. Timestamps ascend: an input, or a choice, whose
agent stands behind the last record's timestamp takes that timestamp (DESIGN CHOICE, log 20). -/
def orderLog (s : State) (asid die pts kind : Nat) (ws : List W) : State :=
  match aget s.ctxs asid with
  | none => s
  | some c =>
    if c.log.ckctl.getLsbD 0 then
      let ts := max pts c.log.orderAt
      updCtx (logRec s asid die c.log.epoch.toNat 19 (w64 ts :: w64 kind :: ws)) asid (fun x => { x with log := { x.log with orderAt := ts } })
    else s

/-- The context takes its inputs and choices from ORDER records (R398). -/
def replays (s : State) (asid : Nat) : Bool :=
  match aget s.ctxs asid with
  | some c => c.log.replaying && !c.log.replay.isEmpty
  | none => false

/-- The next ORDER record of a context: timestamp, kind, value. -/
def nextOrder (s : State) (asid : Nat) : List W :=
  match aget s.ctxs asid with
  | some c => c.log.replay.headD []
  | none => []

/-- An input or a choice may come now: the context runs no replay, or the next record is its own (R398). -/
def mayCome (s : State) (asid kind : Nat) (ws : List W) : Bool := !replays s asid || (nextOrder s asid).drop 1 == w64 kind :: ws

/-- The next record of a context goes. -/
def dropOrder (s : State) (asid : Nat) : State :=
  updCtx s asid (fun x => { x with log := { x.log with replay := x.log.replay.drop 1 } })

/-- An input or a choice comes: it is recorded, and under replay its record is consumed (R397, R398). -/
def orderRec (s : State) (asid die pts kind : Nat) (ws : List W) : State :=
  orderLog (if replays s asid && mayCome s asid kind ws then dropOrder s asid else s) asid die pts kind ws

/-- The lines of memory that some spans touch. -/
def spanLines (spans : List (Nat × Nat)) : List Nat := (spans.flatMap (fun p => if isSram p.1 then [] else linesOf p.1 p.2)).dedup

/-- The lines that some spans touch and that another context wrote last (R397). -/
def foreignLines (m : Memory) (asid : Nat) (spans : List (Nat × Nat)) : List Nat :=
  (spanLines spans).filter (fun k => (aget m.writers k).elim false (fun a => a != asid))

/-- What the ORDER record of a load of such a line has: the unit that loads, the line, and its bytes. -/
def foreignWords (m : Memory) (unit : W) (line : Nat) : List W := unit :: w64 (line * 64) :: m.words (line * 64) 8

/-- The ORDER records of a load, from a memory, of lines that another context wrote (R397); under replay a load takes the record that is its
own (R398). -/
def noteForeign (s : State) (m : Memory) (asid die pts : Nat) (unit : W) (spans : List (Nat × Nat)) : State :=
  if replays s asid then
    (spanLines spans).foldl (fun st k => if (nextOrder st asid).drop 1 == w64 10 :: foreignWords m unit k then
      orderRec st asid die pts 10 (foreignWords m unit k) else st) s
  else (foreignLines m asid spans).foldl (fun st k => orderLog st asid die pts 10 (foreignWords m unit k)) s

/-- Under replay a load waits while a record of its own stands in the log behind those of others (R398). -/
def foreignWaits (s : State) (asid : Nat) (unit : W) (spans : List (Nat × Nat)) : Bool :=
  match aget s.ctxs asid with
  | none => false
  | some c =>
    let ls := spanLines spans
    let own (o : List W) : Bool := o.getD 1 0 == 10 && o.getD 2 0 == unit && ls.any (fun k => o.getD 3 0 == w64 (k * 64))
    c.log.replaying && (c.log.replay.drop ls.length).any own && !(c.log.replay.take ls.length).any own

/-- The context wrote these lines last (R397). -/
def noteWriter (s : State) (asid : Nat) (spans : List (Nat × Nat)) : State :=
  { s with mem := { s.mem with writers := (spanLines spans).foldl (fun l k => aset l k asid) s.mem.writers } }

/-- The words of a signal in an ORDER record. -/
def sigWords (g : Sig) : List W := [w64 g.path, BitVec.zeroExtend 64 g.edge]

/-- The words of a token in an ORDER record. -/
def tokenWords (t : Token) : List W :=
  match t with
  | .data xs => w64 1 :: xs.flatMap (fun v => match v with
    | some k => [1, w64 k]
    | none => [0, 0])
  | .scale o bs => w64 2 :: w64 o :: bs.map w64
  | .len a b d e => [3, w64 a, w64 b, w64 d, w64 e]
  | .fin k g => [4, w64 k] ++ sigWords g
  | .sluice k g => [5, w64 k] ++ sigWords g
  | .snap e => [6, w64 e]
  | .poison p => [7, BitVec.zeroExtend 64 p.code, BitVec.zeroExtend 64 p.sub, BitVec.zeroExtend 64 p.node, BitVec.zeroExtend 64 p.origin,
      p.record]
  | .done k g => [8, w64 k] ++ sigWords g

/-- The lanes of a DATA token in an ORDER record. -/
def lanesOf (ws : List W) : List (Option Nat) :=
  match ws with
  | v :: k :: t => (if v = 1 then some k.toNat else none) :: lanesOf t
  | _ => []

/-- The token that words of an ORDER record stand for; its signal carries the label of the recorded one. -/
def tokenOf (now : Nat) (ws : List W) : Token :=
  let k (j : Nat) : Nat := (ws.getD j 0).toNat
  let g : Sig := ⟨k 2, (ws.getD 3 0).extractLsb' 0 32, now, 0, 0⟩
  match k 0 with
  | 1 => .data (lanesOf (ws.drop 1))
  | 2 => .scale (k 1) ((ws.drop 2).map (fun w => w.toNat))
  | 3 => .len (k 1) (k 2) (k 3) (k 4)
  | 4 => .fin (k 1) g
  | 5 => .sluice (k 1) g
  | 6 => .snap (k 1)
  | 7 => .poison ⟨(ws.getD 1 0).extractLsb' 0 8, (ws.getD 2 0).extractLsb' 0 8, (ws.getD 3 0).extractLsb' 0 7, (ws.getD 4 0).extractLsb' 0 32,
      ws.getD 5 0⟩
  | _ => .done (k 1) g

/-- UNDO records of the lines that a write touches for the first time in the epoch (R396). -/
def undoRecs (s : State) (asid a n : Nat) : State :=
  match aget s.ctxs asid with
  | none => s
  | some c =>
    if logging c && !isSram a then
      (linesOf a n).foldl (fun st line =>
        match aget st.ctxs asid with
        | none => st
        | some cx =>
          if cx.log.undone.contains line then st
          else
            let st1 := logRec st asid 0 c.log.epoch.toNat 18 (w64 (line * 64) :: st.mem.words (line * 64) 8)
            updCtx st1 asid (fun x => { x with log := { x.log with undone := line :: x.log.undone } })) s
    else s

/-! ### Writing memory as an event -/

/-- The page store and bank of an SRAM address. -/
def sramAt (a : Nat) : Nat × Nat := (((a - 2 ^ 48) / 32768) / 8, ((a - 2 ^ 48) / 32768) % 8)

/-- A bank of the page whose contents are page store `p`, changed. -/
def updBankOf (s : State) (p b : Nat) (f : Bank → Bank) : State :=
  { s with cells := s.cells.map (fun e =>
      if e.2.pages.any (fun g => g.store == p) then
        (e.1, { e.2 with pages := e.2.pages.map (fun g => if g.store = p then { g with banks := modAt g.banks b f } else g) })
      else e) }

/-- The packed bits of the granules that n bytes from `off` touch, set or cleared (R193). -/
def packBits (v : Bool) (packed : BitVec 32) (off n : Nat) : BitVec 32 :=
  (List.range 32).foldl (fun p g =>
    if g * 1024 < off + n ∧ off < (g + 1) * 1024 then
      (if v then p ||| BitVec.ofNat 32 (pow2 g) else p &&& ~~~(BitVec.ofNat 32 (pow2 g))) else p) packed

/-- The staging table without the granules that n bytes at an address reach (R361). -/
def unstage (l : List Staged) (a n : Nat) : List Staged :=
  (l.map (fun g => { g with granules := g.granules.filter (fun x => !(decide (x < a + n) && decide (a < x + 1024))) })).filter
    (fun g => !g.granules.isEmpty)

/-- What a write to SRAM does beside its bytes: it clears or sets packed bits (R193) and removes the granules it
reaches from the staging tables (R361). -/
def sramWritten (s : State) (v : Bool) (a n : Nat) : State :=
  if isSram a then
    let pb := sramAt a
    let s1 := updBankOf s pb.1 pb.2 (fun b => { b with packed := packBits v b.packed (a % 32768) n })
    { s1 with esets := s1.esets.map (fun e => (e.1, { e.2 with staged := unstage e.2.staged a n })) }
  else s

/-- The tracking label of the lines a store touches (R316). -/
def trackLines (s : State) (g : Sig) (a n : Nat) : State :=
  { s with mem := { s.mem with track := (linesOf a n).foldl (fun l k => aset l k g) s.mem.track } }

/-- The labels of the tracked lines that a load touches (R316). -/
def trackedSigs (s : State) (a n : Nat) : List Sig := (linesOf a n).filterMap (fun k => aget s.mem.track k)

/-- A write of bytes by an agent of a context at a timestamp, as one event. -/
def putEvent (s : State) (asid ts : Nat) (trk : Option Sig) (packed : Bool) (a : Nat) (bs : List Byte) : State :=
  let s1 := undoRecs s asid a bs.length
  let s2 := sramWritten s1 packed a bs.length
  let s3 := rawPut s2 a bs
  let s4 := noteWriter { s3 with mem := s3.mem.stamped ts a bs.length } asid [(a, bs.length)]
  match trk with
  | some g => trackLines s4 g a bs.length
  | none => s4

/-- The least timestamp at which a store to a place may perform (R246). -/
def locStoreTs (s : State) (asid pts : Nat) (l : Loc) (n : Nat) : Nat :=
  (locSpans s asid l n).foldl (fun t p => s.mem.storeTs t p.1 p.2) pts

/-- A write of a local place at a timestamp, as one event; none where a view store cannot be re-encoded (R191). -/
def locEvent (s : State) (asid ts : Nat) (trk : Option Sig) (packed : Bool) (l : Loc) (data : List Byte) : Option State :=
  match l with
  | .mem a => some (putEvent s asid ts trk packed a data)
  | _ =>
    match locPut s asid s.mem.bytes l data with
    | none => none
    | some m =>
      let spans := locSpans s asid l data.length
      let s1 := spans.foldl (fun st p => undoRecs st asid p.1 p.2) s
      let s2 := { s1 with mem := { s1.mem with bytes := m } }
      let s3 := noteWriter (spans.foldl (fun st p => { st with mem := (st.mem.unpoison p.1 p.2).stamped ts p.1 p.2 }) s2) asid spans
      match trk with
      | some g => some (spans.foldl (fun st p => trackLines st g p.1 p.2) s3)
      | none => some s3

/-- The CMP.IDLE value that counts for an address: that of the context's partition (R353). -/
def idleOf (s : State) (asid : Nat) : Nat :=
  match partOf s asid with
  | some p => p.idle.toNat
  | none => 0

/-- An atomic of a region sets its unit's hot bit and restarts its count (R192, R353, R359). -/
def heat (s : State) (asid cluster a : Nat) : State :=
  if isSram a then s
  else
    let by1 := (aget s.mem.hotBy (a / 512)).getD []
    { s with mem := { s.mem with
        hot := aset s.mem.hot (a / 512) (s.cycle, idleOf s asid),
        hotBy := aset s.mem.hotBy (a / 512) (if by1.contains (asid, cluster) then by1 else (asid, cluster) :: by1) } }

/-! ### Ports as agents (R244, R314) -/

/-- An agent that brings accesses from outside: a device-link port, the host port of a partition's link, or none that is known. -/
inductive Outside where
  | port (k : Nat)
  | host (part : Nat)
  | nobody
  deriving DecidableEq, Repr

/-- Change port k. -/
def updPort (s : State) (k : Nat) (f : LinkPort → LinkPort) : State :=
  { s with pkg := { s.pkg with ports := modAt s.pkg.ports k f } }

/-- Two partitions are reached on one link of the host (R399). -/
def sameLink (s : State) (p q : Nat) : Bool :=
  (aget s.parts p).elim false (fun x => (aget s.parts q).elim false (fun y => x.dies.getLsbD 0 == y.dies.getLsbD 0))

/-- The signal of an outside agent: its label and its pts. -/
def outsideSig (s : State) (w : Outside) : Sig :=
  match w with
  | .port k => (s.pkg.ports[k]?).elim ⟨0, 0, s.cycle, 0, 0⟩ (fun p => labelSig s p.label p.pts)
  | .host f => (aget s.parts f).elim ⟨0, 0, s.cycle, 0, 0⟩ (fun p => labelSig s p.label p.pts)
  | .nobody => ⟨0, 0, s.cycle, 0, 0⟩

/-- An outside agent after an event at a timestamp: its pts, and the labels that the event brings it (R246, R315, R316). -/
def outsideActs (s : State) (w : Outside) (ts : Nat) (gs : List Sig) : State :=
  match w with
  | .port k => updPort s k (fun p => { p with pts := max p.pts ts, label := gs.foldl (mergeLabel s) p.label })
  | .host f => { s with parts := s.parts.map (fun e =>
      if sameLink s f e.1 then (e.1, { e.2 with pts := max e.2.pts ts, label := gs.foldl (mergeLabel s) e.2.label }) else e) }
  | .nobody => s

/-! ### Trap records (R344, R349) -/

/-- NextSeq (R344). The rule states no first value: the counter stands at 0 at reset, so that it is 1 (DESIGN CHOICE, log 17). -/
def nextSeq (s : State) (asid : Nat) : BitVec 32 × State :=
  match aget s.ctxs asid with
  | some c => (c.regs.fseq + 1, updCtx s asid (fun x => { x with regs := { x.regs with fseq := x.regs.fseq + 1 } }))
  | none => (0, s)

/-- Who raises a trap record. -/
structure TrapSrc where
  src : Nat
  slot : Nat
  origin : BitVec 32
  sntid : BitVec 32
  deriving DecidableEq, Repr

/-- Word 0 of a trap record (R349). -/
def trapWord0 (code sub : BitVec 8) (q : TrapSrc) (dbl : Bool) : W :=
  q.origin ++ (0 : BitVec 4) ++ (if dbl then (1 : BitVec 1) else 0) ++ BitVec.ofNat 7 q.slot ++ BitVec.ofNat 4 q.src ++ sub ++ code

/-- A trap record's words (R349). -/
def trapWords (code sub : BitVec 8) (q : TrapSrc) (dbl : Bool) (addr record : W) (seq : BitVec 32) : List W :=
  [trapWord0 code sub q dbl, addr, record, q.sntid ++ seq]

/-- The record goes to the context's trap log, and TLCNT counts it whether or not the write succeeds (R349). -/
def logTrap (s : State) (asid die : Nat) (ws : List W) : State :=
  match aget s.ctxs asid with
  | none => s
  | some c =>
    let n := ringSize c.regs.traplog
    let s1 := if n = 0 then s
      else match vaPut s asid die (ringBase c.regs.traplog + w64 (32 * (c.regs.tlcnt.toNat % n))) (wordBytes ws) with
        | some x => x
        | none => s
    updCtx s1 asid (fun x => { x with regs := { x.regs with tlcnt := x.regs.tlcnt + 1 } })

/-- A mailbox write on its way to a thread (R127). -/
def sendWrite (s : State) (w : MbWrite) : State := { s with fl := { s.fl with writes := s.fl.writes ++ [w] } }

/-- A trap record with a sequence number: the log, and word 0 to m15 of a thread (R349). `ends` is the trailing wait of that
thread that its landing ends (R129, R313). -/
def reportSeq (s : State) (asid die : Nat) (code sub : BitVec 8) (q : TrapSrc) (addr record : W) (seq : BitVec 32)
    (dst : Option Nat) (g : Sig) (unit : W) (ends : Option Waiting) : State :=
  let s1 := logTrap s asid die (trapWords code sub q false addr record seq)
  match dst with
  | some t => sendWrite s1 ⟨t, 15, trapWord0 code sub q false, g, unit, false, ends⟩
  | none => s1

/-- A trap record with its own sequence number: the log, and word 0 to m15 of a thread (R349). `ends` is the
trailing wait of that thread that its landing ends (R129, R313). -/
def reportTrap (s : State) (asid die : Nat) (code sub : BitVec 8) (q : TrapSrc) (addr record : W) (dst : Option Nat)
    (g : Sig) (unit : W) (ends : Option Waiting) : State :=
  let n := nextSeq s asid
  reportSeq n.2 asid die code sub q addr record n.1 dst g unit ends

/-! ### Stealing: a thread that can grant nothing refuses (R146) -/

/-- Refuse a thief. -/
def refuseThief (s : State) (victim thief : Nat) (g : Sig) : State :=
  { s with fl := { s.fl with steals := s.fl.steals ++ [⟨thief, victim, true, none, g⟩] } }

/-- Refuse every request that waits at a thread. -/
def refuseThieves (s : State) (t : Nat) : State :=
  match aget s.threads t with
  | none => s
  | some th => updThread (th.thieves.foldl (fun st e => refuseThief st t e.1 (threadSig s th)) s) t
      (fun x => { x with thieves := [] })

/-! ### Halting and traps -/

/-- A launch's drain barrier (R286): a SLUICE with SID 0xFFFF into each undrained cell that a thread configured. -/
def drainBarrier (s : State) (t : Nat) : State :=
  { s with cells := s.cells.map (fun e =>
      if e.2.cfg.thread = t ∧ drainable e.2 = true ∧ drained e.2 = false then (e.1, injectSluice e.2 0xFFFF) else e) }

/-- A thread has halted: by STOP or by a trap (R114, R346). -/
def stopped (th : Thread) : Bool :=
  match th.mode with
  | .halted => true
  | .fallen => true
  | _ => false

/-- A thread fetches nothing further (R114). Its launch learns of the halt, with the drain barrier (R286). -/
def endThread (s : State) (t : Nat) (m : Mode) : State :=
  match aget s.threads t with
  | none => s
  | some th =>
    let now := regionNow s (asidOf th) th.home.cluster
    let s1 := updThread s t (fun x => { x with
      mode := m, block := none,
      label := { x.label with busy := x.label.busy + (now - x.label.since), since := s.cycle } })
    if th.home.crew.launch = 0 then s1
    else updLaunch (drainBarrier s1 t) (asidOf th) th.home.crew.launch (fun l => { l with lastHalt := t })

/-- A thread halts by STOP (R114), and refuses what waits at it (R146). -/
def haltThread (s : State) (t : Nat) : State := endThread (refuseThieves s t) t .halted

/-- The launching thread of a thread's launch (R346). -/
def launcherOf (s : State) (th : Thread) : Option Nat :=
  if th.home.crew.launch = 0 then none
  else match launchOf s (asidOf th) th.home.crew.launch with
    | some l => some l.thread
    | none => none

/-- CTX.TRAPINFO (R345). -/
def trapInfo (seq : BitVec 32) (hdr : Bool) (slot : BitVec 7) (sub code : BitVec 8) : W :=
  seq ++ (0 : BitVec 8) ++ (if hdr then (1 : BitVec 1) else 0) ++ slot ++ sub ++ code

/-- The thread after a trap that has a handler (R346): what is saved, what the level becomes, where it goes. -/
def enterTrap (th : Thread) (tr : TrapReq) (pc vec : W) (seq : BitVec 32) : Thread :=
  { th with
    pc := vec, block := none, mode := .ready,
    regs := { th.regs with
      trapinfo := trapInfo seq tr.hdr tr.slot tr.sub tr.code, trapaddr := tr.addr, trappc := pc &&& 0xFFFFFFFFFFFFFFF0#64,
      ppriv := th.regs.priv, priv := if th.regs.priv = lUSER then lSUPER else th.regs.priv, intrap := true } }

/-- The number of a trap of a thread: the one that a gate gave to its fault, else the next (R344, R358). -/
def trapSeq (s : State) (t : Nat) (th : Thread) : BitVec 32 × State :=
  match th.seq with
  | some k => (k, updThread s t (fun x => { x with seq := none }))
  | none => nextSeq s (asidOf th)

/-- TakeTrap (R346). `pc` is what TRAPPC saves. -/
def takeTrap (s : State) (t : Nat) (tr : TrapReq) (pc : W) : State :=
  match aget s.threads t with
  | none => s
  | some th =>
    match aget s.ctxs (asidOf th) with
    | none => s
    | some c =>
      let n := trapSeq s t th
      if th.regs.intrap || c.regs.trapvec == 0 then
        let q : TrapSrc := ⟨0, tr.slot.toNat, threadCoord th, 0⟩
        let s1 := logTrap n.2 (asidOf th) (dieOf th.home.cluster) (trapWords tr.code tr.sub q true tr.addr 0 n.1)
        let s2 := match launcherOf s th with
          | some l => sendWrite s1 ⟨l, 15, trapWord0 tr.code tr.sub q true, threadSig s th, threadUnit s th, false, none⟩
          | none => s1
        endThread (updThread s2 t (fun x => { x with block := none })) t .fallen
      else
        updThread n.2 t (fun x => enterTrap x tr pc c.regs.trapvec n.1)

/-- The registers after TRET commits (R348): PPRIV is consulted as it is at the block's snapshot (R109). -/
def tretRegs (r snap : ThreadRegs) : ThreadRegs := { r with priv := snap.ppriv, intrap := false }

/-! ### Trailing waits (R125) -/

/-- The trailing waits of a thread. -/
def Thread.waits (th : Thread) : List Waiting :=
  match th.mode with
  | .trailing ws _ => ws
  | _ => []

/-- A trailing wait begins, beside those that the block has begun already. -/
def trail (s : State) (t : Nat) (w : Waiting) : State :=
  updThread (beginWait s t) t (fun th => { th with mode := .trailing (th.waits ++ [w]) .next })

/-- What a thread does once its trailing waits have ended (R114, R125, R347). -/
def afterWaits (s : State) (t : Nat) (a : AfterWait) : State :=
  let s1 := resumeBusy (updThread s t (fun th => { th with mode := .ready })) t
  match a with
  | .next => s1
  | .halt => haltThread s1 t
  | .soft k v pc => takeTrap s1 t ⟨cSOFT, 0, BitVec.ofNat 7 k, false, v⟩ pc

/-- A trailing wait ends with no edge. The thread goes on when the last of its block's has ended. -/
def endTrail (s : State) (t : Nat) (w : Waiting) : State :=
  match aget s.threads t with
  | none => s
  | some th =>
    match th.mode with
    | .trailing ws a =>
      if (ws.erase w).isEmpty then afterWaits s t a else updThread s t (fun x => { x with mode := .trailing (ws.erase w) a })
    | _ => s

/-- A trailing wait ends and records its edge (R150, R315). -/
def endTrailEdge (s : State) (t : Nat) (w : Waiting) (g : Sig) (kind : Nat) (producer : W) : State :=
  match aget s.threads t with
  | none => s
  | some th => if th.waits.contains w then endTrail (endWaitThread s t g kind producer (s.cycle - th.waitAt)) t w else s

/-! ### Mailboxes (R127) -/

/-- Note a write that filled an empty mailbox: the edge of a later MWAIT names it (R150). -/
def noteMail (l : List (Nat × Sig × W × Bool)) (n : Nat) (g : Sig) (unit : W) (launch : Bool) : List (Nat × Sig × W × Bool) :=
  l.filter (fun e => e.1 != n) ++ [(n, g, unit, launch)]

/-- A thread after a write lands in mailbox n (R111, R127, R128). -/
def mailed (th : Thread) (n : BitVec 4) (v : W) (g : Sig) (unit : W) (launch : Bool) : Thread :=
  let bit : BitVec 16 := BitVec.ofNat 16 (pow2 n.toNat)
  let was := th.mfull.getLsbD n.toNat
  { th with
    ms := th.ms.set n.toNat v n.isLt, mfull := th.mfull ||| bit,
    regs := if was then { th.regs with mbovr := th.regs.mbovr ||| bit } else th.regs,
    mbSig := if was then th.mbSig else noteMail th.mbSig n.toNat g unit launch,
    block := match th.block with
      | some b => some { b with landed := b.landed ||| bit }
      | none => none }

/-- The value of a mailbox write in its ORDER record: the thread, the mailbox, the value and the producer. -/
def mailWords (t : Nat) (n : BitVec 4) (v unit : W) : List W := [w64 t, BitVec.zeroExtend 64 n, v, unit]

/-- A mailbox write from this device may land (R398). -/
def mayMail (s : State) (t : Nat) (n : BitVec 4) (v unit : W) : Bool :=
  match aget s.threads t with
  | some th => mayCome s (asidOf th) 1 (mailWords t n v unit)
  | none => true

/-- The context of a thread runs under replay: what comes from another device or the host is held (R398). -/
def mailHeld (s : State) (t : Nat) : Bool :=
  match aget s.threads t with
  | some th => replays s (asidOf th)
  | none => false

/-- A mailbox write lands (R127), with its ORDER record (R397). -/
def landMail (s : State) (t : Nat) (n : BitVec 4) (v : W) (g : Sig) (unit : W) (launch : Bool) : State :=
  match aget s.threads t with
  | none => s
  | some th =>
    let s1 := updThread s t (fun x => mailed x n v g unit launch)
    orderRec s1 (asidOf th) (dieOf th.home.cluster) th.pts 1 (mailWords t n v unit)

end Sys2Proof.Machine
end

