-- ==== Sys2Proof/Machine/Flags.lean ====
section
/-! DEFINITION. Sticky flags and exception counts (R45 to R49): how a block's and a cell's reach CTX.FLAGS and
CTX.EXCNT. -/

namespace Sys2Proof.Machine

/-- A counter of CTX.EXCNT stops at 0xFFFF (R47). -/
def satAdd (c : BitVec 16) (n : Nat) : BitVec 16 := BitVec.ofNat 16 (min (c.toNat + n) 0xFFFF)

/-- A count of a cell's uncommitted results also stops at 0xFFFF: what it adds beyond cannot be seen. -/
def satCount (a b : Nat) : Nat := min (a + b) 0xFFFF

/-- A block's flags commit with it (R48, R100). -/
def commitTflag (r : ThreadRegs) (f : BitVec 6) : ThreadRegs := { r with tflag := r.tflag ||| f }

/-- Flags and counts of a node commit to the configuring thread (R48). -/
def commitExc (r : ThreadRegs) (c : ExcCount) : ThreadRegs :=
  { r with gflag := r.gflag ||| c.flags, nancnt := satAdd r.nancnt c.nan, satcnt := satAdd r.satcnt c.sat,
           ofcnt := satAdd r.ofcnt c.ovf, ufcnt := satAdd r.ufcnt c.unf }

/-- The flags and counts that have accumulated in a cell, in its nodes, commit to the configuring thread (R48). -/
def commitCellFlags (r : ThreadRegs) (c : Cell) : ThreadRegs := (c.nodes.map (fun nd => nd.exc)).foldl commitExc r

/-- A cell whose flags and counts have been committed. -/
def clearCellFlags (c : Cell) : Cell := { c with nodes := c.nodes.map (fun nd => { nd with exc := ExcCount.zero }) }

/-- The commit of a cell's flags and counts as one event (R48). -/
def commitFlagsOf (s : State) (c : Nat) : State :=
  match aget s.cells c with
  | none => s
  | some x =>
    updThread (updCell s c clearCellFlags) x.cfg.thread (fun th => { th with regs := commitCellFlags th.regs x })

/-- What one element result of a node adds to its counts (R45, R47): NV counts as a NaN result only where the result is
a NaN. -/
def countResult (c : ExcCount) (f : BitVec 6) (nan : Bool) : ExcCount :=
  { flags := c.flags ||| f,
    nan := satCount c.nan (if nan then 1 else 0),
    sat := satCount c.sat (if f.getLsbD 5 then 1 else 0),
    ovf := satCount c.ovf (if f.getLsbD 2 then 1 else 0),
    unf := satCount c.unf (if f.getLsbD 3 then 1 else 0) }

/-- CTX.FLAGS as it reads (R46). -/
def flagsWord (r : ThreadRegs) : W := (0 : BitVec 50) ++ r.gflag ++ (0 : BitVec 2) ++ r.tflag

/-- A write of CTX.FLAGS: both groups are W1C (R46). -/
def writeFlags (r : ThreadRegs) (v : W) : ThreadRegs :=
  { r with gflag := r.gflag &&& ~~~(v.extractLsb' 8 6), tflag := r.tflag &&& ~~~(v.extractLsb' 0 6) }

/-- CTX.EXCNT as it reads (R47). -/
def excntWord (r : ThreadRegs) : W := r.nancnt ++ r.satcnt ++ r.ofcnt ++ r.ufcnt

/-- A write of CTX.EXCNT: every counter is RW (R47). -/
def writeExcnt (r : ThreadRegs) (v : W) : ThreadRegs :=
  { r with nancnt := v.extractLsb' 48 16, satcnt := v.extractLsb' 32 16, ofcnt := v.extractLsb' 16 16,
           ufcnt := v.extractLsb' 0 16 }

end Sys2Proof.Machine
end

