-- ==== Sys2Proof/Machine/Operands.lean ====
section
/-! DEFINITION. Operand forms: what a control instruction reads and delivers (R72 to R77), the firing of one instruction
of a block in flight (R74, R97), effective addresses and address spaces (R118, R119), and the accesses of a block
(R120 to R124). -/

namespace Sys2Proof.Machine

/-- PM of a control instruction (R74). -/
def instrPm (i : Instr) : Pm :=
  match i with
  | .add _ _ _ p => p
  | .sub _ _ _ p => p
  | .mul _ _ _ p => p
  | .mulh _ _ _ _ p => p
  | .div _ _ _ _ p => p
  | .rem _ _ _ _ p => p
  | .and _ _ _ p => p
  | .or _ _ _ p => p
  | .xor _ _ _ p => p
  | .shl _ _ _ p => p
  | .shr _ _ _ _ p => p
  | .sra _ _ _ p => p
  | .min _ _ _ _ p => p
  | .max _ _ _ _ p => p
  | .ext _ _ p => p
  | .ins _ _ => .three
  | .addi _ _ p => p
  | .muli _ _ p => p
  | .andi _ _ p => p
  | .ori _ _ p => p
  | .xori _ _ p => p
  | .shli _ _ p => p
  | .shri _ _ p => p
  | .srai _ _ p => p
  | .movi _ _ p => p
  | .movhi _ _ p => p
  | .tag _ _ p => p
  | .lea _ _ _ p => p
  | .clz _ _ _ p => p
  | .popc _ _ _ p => p
  | .mov _ _ p => p
  | .cmpeq _ _ _ p => p
  | .cmpne _ _ _ p => p
  | .cmplt _ _ _ _ p => p
  | .cmple _ _ _ _ p => p
  | .cmpeqi _ _ p => p
  | .cmpnei _ _ p => p
  | .cmplti _ _ p => p
  | .cmplei _ _ p => p
  | .pand _ _ p => p
  | .por _ _ p => p
  | .pnot _ _ p => p
  | .sel _ _ => .three
  | .tst _ _ _ p => p
  | .grd _ _ p => p
  | .gwr _ p => p
  | .mrd _ _ p => p
  | .mwr _ p => p
  | .mwait _ _ => .none
  | .mfull _ _ p => p
  | .br _ _ p => p
  | .brx _ p => p
  | .call _ _ p => p
  | .callx _ p => p
  | .ret _ p => p
  | .stop _ p => p
  | .ld8 _ _ _ p => p
  | .ld16 _ _ _ p => p
  | .ld32 _ _ _ p => p
  | .ld64 _ _ _ p => p
  | .lds8 _ _ _ p => p
  | .lds16 _ _ _ p => p
  | .lds32 _ _ _ p => p
  | .st8 _ _ p => p
  | .st16 _ _ p => p
  | .st32 _ _ p => p
  | .st64 _ _ p => p
  | .aadd _ _ _ p => p
  | .aand _ _ _ p => p
  | .aor _ _ _ p => p
  | .axor _ _ _ p => p
  | .amin _ _ _ p => p
  | .amax _ _ _ p => p
  | .aswp _ _ _ p => p
  | .acas _ _ _ => .three
  | .cfg p => p
  | .strm p => p
  | .drainCell p => p
  | .drainAll p => p
  | .tmpl p => p
  | .evxTerm p => p
  | .evxCnt p => p
  | .evxTgt p => p
  | .evxPulse p => p
  | .pub p => p
  | .collStart p => p
  | .collWait p => p
  | .collEnd p => p
  | .waitc _ _ p => p
  | .waite _ _ p => p
  | .launch _ _ p => p
  | .shape p => p
  | .take _ _ p => p
  | .steal p => p
  | .yield p => p
  | .cptag p => p
  | .cpmark p => p
  | .msend _ p => p
  | .msendw _ p => p
  | .mbcast _ p => p
  | .sysrd _ _ _ p => p
  | .syswr _ _ p => p
  | .tret _ p => p
  | .tlbiAddr p => p
  | .tlbiAsid p => p
  | .tlbiAll p => p
  | .ctxsave p => p
  | .ctxload p => p
  | .trap _ p => p
  | _ => .none

/-- The targets T0 and T1 of a control instruction, in that order (R72). -/
def instrTargets (i : Instr) : List Target :=
  match i with
  | .add v t _ _ => [t, v]
  | .sub v t _ _ => [t, v]
  | .mul v t _ _ => [t, v]
  | .mulh v t _ _ _ => [t, v]
  | .div v t _ _ _ => [t, v]
  | .rem v t _ _ _ => [t, v]
  | .and v t _ _ => [t, v]
  | .or v t _ _ => [t, v]
  | .xor v t _ _ => [t, v]
  | .shl v t _ _ => [t, v]
  | .shr v t _ _ _ => [t, v]
  | .sra v t _ _ => [t, v]
  | .min v t _ _ _ => [t, v]
  | .max v t _ _ _ => [t, v]
  | .ext v t _ => [t, v]
  | .ins v t => [t, v]
  | .addi t _ _ => [t]
  | .muli t _ _ => [t]
  | .andi t _ _ => [t]
  | .ori t _ _ => [t]
  | .xori t _ _ => [t]
  | .shli t _ _ => [t]
  | .shri t _ _ => [t]
  | .srai t _ _ => [t]
  | .movi t _ _ => [t]
  | .movhi t _ _ => [t]
  | .tag v t _ => [t, v]
  | .lea v t _ _ => [t, v]
  | .clz v t _ _ => [t, v]
  | .popc v t _ _ => [t, v]
  | .mov v t _ => [t, v]
  | .cmpeq v t _ _ => [t, v]
  | .cmpne v t _ _ => [t, v]
  | .cmplt v t _ _ _ => [t, v]
  | .cmple v t _ _ _ => [t, v]
  | .cmpeqi t _ _ => [t]
  | .cmpnei t _ _ => [t]
  | .cmplti t _ _ => [t]
  | .cmplei t _ _ => [t]
  | .pand v t _ => [t, v]
  | .por v t _ => [t, v]
  | .pnot v t _ => [t, v]
  | .sel v t => [t, v]
  | .tst v t _ _ => [t, v]
  | .grd t _ _ => [t]
  | .gwr _ _ => []
  | .mrd t _ _ => [t]
  | .mwr _ _ => []
  | .mwait t _ => [t]
  | .mfull t _ _ => [t]
  | .br _ _ _ => []
  | .brx _ _ => []
  | .call _ _ _ => []
  | .callx _ _ => []
  | .ret _ _ => []
  | .stop _ _ => []
  | .ld8 t _ _ _ => [t]
  | .ld16 t _ _ _ => [t]
  | .ld32 t _ _ _ => [t]
  | .ld64 t _ _ _ => [t]
  | .lds8 t _ _ _ => [t]
  | .lds16 t _ _ _ => [t]
  | .lds32 t _ _ _ => [t]
  | .st8 _ _ _ => []
  | .st16 _ _ _ => []
  | .st32 _ _ _ => []
  | .st64 _ _ _ => []
  | .aadd t _ _ _ => [t]
  | .aand t _ _ _ => [t]
  | .aor t _ _ _ => [t]
  | .axor t _ _ _ => [t]
  | .amin t _ _ _ => [t]
  | .amax t _ _ _ => [t]
  | .aswp t _ _ _ => [t]
  | .acas t _ _ => [t]
  | .cfg _ => []
  | .strm _ => []
  | .drainCell _ => []
  | .drainAll _ => []
  | .tmpl _ => []
  | .evxTerm _ => []
  | .evxCnt _ => []
  | .evxTgt _ => []
  | .evxPulse _ => []
  | .pub _ => []
  | .collStart _ => []
  | .collWait _ => []
  | .collEnd _ => []
  | .waitc v t _ => [t, v]
  | .waite v t _ => [t, v]
  | .launch t _ _ => [t]
  | .shape _ => []
  | .take v t _ => [t, v]
  | .steal _ => []
  | .yield _ => []
  | .cptag _ => []
  | .cpmark _ => []
  | .msend _ _ => []
  | .msendw _ _ => []
  | .mbcast _ _ => []
  | .sysrd t _ _ _ => [t]
  | .syswr _ _ _ => []
  | .tret _ _ => []
  | .tlbiAddr _ => []
  | .tlbiAsid _ => []
  | .tlbiAll _ => []
  | .ctxsave _ => []
  | .ctxload _ => []
  | .trap _ _ => []
  | _ => []

/-- The data ports L, R and X that a control instruction reads (R77, R151). -/
def instrReads (i : Instr) : Bool × Bool × Bool :=
  match i with
  | .add _ _ _ _ => (true, true, false)
  | .sub _ _ _ _ => (true, true, false)
  | .mul _ _ _ _ => (true, true, false)
  | .mulh _ _ _ _ _ => (true, true, false)
  | .div _ _ _ _ _ => (true, true, false)
  | .rem _ _ _ _ _ => (true, true, false)
  | .and _ _ _ _ => (true, true, false)
  | .or _ _ _ _ => (true, true, false)
  | .xor _ _ _ _ => (true, true, false)
  | .shl _ _ _ _ => (true, true, false)
  | .shr _ _ _ _ _ => (true, true, false)
  | .sra _ _ _ _ => (true, true, false)
  | .min _ _ _ _ _ => (true, true, false)
  | .max _ _ _ _ _ => (true, true, false)
  | .ext _ _ _ => (true, false, false)
  | .ins _ _ => (true, true, true)
  | .addi _ _ _ => (true, false, false)
  | .muli _ _ _ => (true, false, false)
  | .andi _ _ _ => (true, false, false)
  | .ori _ _ _ => (true, false, false)
  | .xori _ _ _ => (true, false, false)
  | .shli _ _ _ => (true, false, false)
  | .shri _ _ _ => (true, false, false)
  | .srai _ _ _ => (true, false, false)
  | .movi _ _ _ => (false, false, false)
  | .movhi _ _ _ => (true, false, false)
  | .tag _ _ _ => (true, true, false)
  | .lea _ _ _ _ => (true, true, false)
  | .clz _ _ _ _ => (true, false, false)
  | .popc _ _ _ _ => (true, false, false)
  | .mov _ _ _ => (true, false, false)
  | .cmpeq _ _ _ _ => (true, true, false)
  | .cmpne _ _ _ _ => (true, true, false)
  | .cmplt _ _ _ _ _ => (true, true, false)
  | .cmple _ _ _ _ _ => (true, true, false)
  | .cmpeqi _ _ _ => (true, false, false)
  | .cmpnei _ _ _ => (true, false, false)
  | .cmplti _ _ _ => (true, false, false)
  | .cmplei _ _ _ => (true, false, false)
  | .pand _ _ _ => (true, true, false)
  | .por _ _ _ => (true, true, false)
  | .pnot _ _ _ => (true, false, false)
  | .sel _ _ => (true, true, true)
  | .tst _ _ _ _ => (true, true, false)
  | .grd _ _ _ => (false, false, false)
  | .gwr _ _ => (true, false, false)
  | .mrd _ _ _ => (false, false, false)
  | .mwr _ _ => (true, false, false)
  | .mwait _ _ => (false, false, false)
  | .mfull _ _ _ => (false, false, false)
  | .br _ _ _ => (false, false, false)
  | .brx _ _ => (true, false, false)
  | .call _ _ _ => (false, false, false)
  | .callx _ _ => (true, false, false)
  | .ret _ _ => (false, false, false)
  | .stop _ _ => (false, false, false)
  | .ld8 _ _ _ _ => (true, false, false)
  | .ld16 _ _ _ _ => (true, false, false)
  | .ld32 _ _ _ _ => (true, false, false)
  | .ld64 _ _ _ _ => (true, false, false)
  | .lds8 _ _ _ _ => (true, false, false)
  | .lds16 _ _ _ _ => (true, false, false)
  | .lds32 _ _ _ _ => (true, false, false)
  | .st8 _ _ _ => (true, true, false)
  | .st16 _ _ _ => (true, true, false)
  | .st32 _ _ _ => (true, true, false)
  | .st64 _ _ _ => (true, true, false)
  | .aadd _ _ _ _ => (true, true, false)
  | .aand _ _ _ _ => (true, true, false)
  | .aor _ _ _ _ => (true, true, false)
  | .axor _ _ _ _ => (true, true, false)
  | .amin _ _ _ _ => (true, true, false)
  | .amax _ _ _ _ => (true, true, false)
  | .aswp _ _ _ _ => (true, true, false)
  | .acas _ _ _ => (true, true, true)
  | .cfg _ => (true, true, false)
  | .strm _ => (true, true, false)
  | .drainCell _ => (true, false, false)
  | .drainAll _ => (true, false, false)
  | .tmpl _ => (true, true, false)
  | .evxTerm _ => (true, true, false)
  | .evxCnt _ => (true, true, false)
  | .evxTgt _ => (true, true, false)
  | .evxPulse _ => (true, false, false)
  | .pub _ => (true, false, false)
  | .collStart _ => (true, true, false)
  | .collWait _ => (true, true, false)
  | .collEnd _ => (true, true, false)
  | .waitc _ _ _ => (true, true, false)
  | .waite _ _ _ => (true, true, false)
  | .launch _ _ _ => (true, false, false)
  | .shape _ => (true, true, false)
  | .take _ _ _ => (true, false, false)
  | .steal _ => (true, false, false)
  | .yield _ => (false, false, false)
  | .cptag _ => (true, false, false)
  | .cpmark _ => (true, false, false)
  | .msend _ _ => (true, true, false)
  | .msendw _ _ => (true, true, false)
  | .mbcast _ _ => (true, true, false)
  | .sysrd _ _ _ _ => (false, false, false)
  | .syswr _ _ _ => (true, false, false)
  | .tret _ _ => (false, false, false)
  | .tlbiAddr _ => (true, true, false)
  | .tlbiAsid _ => (true, false, false)
  | .tlbiAll _ => (false, false, false)
  | .ctxsave _ => (true, true, false)
  | .ctxload _ => (true, true, false)
  | .trap _ _ => (false, false, false)
  | _ => (false, false, false)

/-- The LSID of a memory instruction (R72). -/
def instrLsid (i : Instr) : Option Nat :=
  match i with
  | .ld8 _ _ l _ => some l.toNat
  | .ld16 _ _ l _ => some l.toNat
  | .ld32 _ _ l _ => some l.toNat
  | .ld64 _ _ l _ => some l.toNat
  | .lds8 _ _ l _ => some l.toNat
  | .lds16 _ _ l _ => some l.toNat
  | .lds32 _ _ l _ => some l.toNat
  | .st8 _ l _ => some l.toNat
  | .st16 _ l _ => some l.toNat
  | .st32 _ l _ => some l.toNat
  | .st64 _ l _ => some l.toNat
  | .aadd _ _ l _ => some l.toNat
  | .aand _ _ l _ => some l.toNat
  | .aor _ _ l _ => some l.toNat
  | .axor _ _ l _ => some l.toNat
  | .amin _ _ l _ => some l.toNat
  | .amax _ _ l _ => some l.toNat
  | .aswp _ _ l _ => some l.toNat
  | .acas _ _ l => some l.toNat
  | _ => none

/-! ### The block in flight -/

/-- A block being executed with the slot that fires: thread handle, slot number, thread, block, slot. -/
structure Firing where
  t : Nat
  k : Nat
  th : Thread
  b : Block
  sl : Slot
  deriving DecidableEq, Repr

/-- The instruction that `cur` names. -/
def firing (s : State) : Option Firing :=
  match aget s.threads s.cur.1 with
  | none => none
  | some th =>
    match th.block with
    | none => none
    | some b =>
      match b.slots[s.cur.2]? with
      | some sl => some ⟨s.cur.1, s.cur.2, th, b, sl⟩
      | none => none

/-- Change the block of a thread. -/
def updBlock (s : State) (t : Nat) (f : Block → Block) : State :=
  updThread s t (fun th => { th with block := match th.block with
    | some b => some (f b)
    | none => none })

/-- The instruction of a slot. -/
def slotInstr (sl : Slot) : Option Instr :=
  match decode sl.word with
  | .ok i => some i
  | .error _ => none

/-- A port of a slot. -/
def portOf (sl : Slot) (p : TPort) : Option W :=
  match p with
  | .none => none
  | .l => sl.l
  | .r => sl.r
  | .x => sl.x

/-- A slot with a value at a port. -/
def putPort (sl : Slot) (p : TPort) (v : W) : Slot :=
  match p with
  | .none => sl
  | .l => { sl with l := some v }
  | .r => { sl with r := some v }
  | .x => { sl with x := some v }

/-- A fault of slot k (R124). -/
def raise (b : Block) (k : Nat) (code sub : BitVec 8) (addr : W) : Block :=
  { b with faults := b.faults ++ [⟨code, sub, BitVec.ofNat 7 k, false, addr⟩] }

/-- Deliver a value to a target (R73, R97). A second value at one port raises DECODE, naming the slot that sent it (R76);
log 9. -/
def deliver (b : Block) (k : Nat) (t : Target) (v : W) : Block :=
  match t.port with
  | .none => b
  | p =>
    match b.slots[t.slot.toNat]? with
    | none => b
    | some sl =>
      match portOf sl p with
      | some _ => raise b k cDECODE 0 b.addr
      | none => { b with slots := b.slots.set t.slot.toNat (putPort sl p v) }

/-- Deliver one result to both targets (R97). -/
def deliver2 (b : Block) (k : Nat) (t v : Target) (r : W) : Block := deliver (deliver b k t r) k v r

/-- Set the phase of a slot. -/
def setPhase (b : Block) (k : Nat) (p : Phase) : Block := { b with slots := modAt b.slots k (fun sl => { sl with phase := p }) }

/-- An effect that waits for the commit (R110). -/
def addEff (b : Block) (e : Eff) : Block := { b with effs := b.effs ++ [e] }

/-- Slots with a target that names a port. -/
def producers (b : Block) (k : Nat) (p : TPort) : List Nat :=
  (List.range b.slots.length).filter (fun j => match b.slots[j]? with
    | some sl => (match slotInstr sl with
      | some i => (instrTargets i).any (fun t => t.port == p && t.slot.toNat == k)
      | none => false)
    | none => false)

/-- A port can no longer receive a value: every producer has been resolved without firing (R74). -/
def portDead (b : Block) (k : Nat) (p : TPort) : Bool :=
  (producers b k p).all (fun j => match b.slots[j]? with
    | some sl => sl.phase == .skipped
    | none => true)

/-- The ports a slot needs before it can fire: those it reads, and X where it is predicated (R74). -/
def neededPorts (i : Instr) : List TPort :=
  let r := instrReads i
  (if r.1 then [.l] else []) ++ (if r.2.1 then [.r] else []) ++
  (if r.2.2 || instrPm i == .onTrue || instrPm i == .onFalse then [.x] else [])

/-- Every port the slot needs has a value. -/
def portsReady (sl : Slot) (i : Instr) : Bool := (neededPorts i).all (fun p => (portOf sl p).isSome)

/-- One pass that resolves without firing every waiting slot with a dead port (R74). -/
def settlePass (b : Block) : Block :=
  (List.range b.slots.length).foldl (fun b k =>
    match b.slots[k]? with
    | none => b
    | some sl =>
      if sl.phase == .waiting then
        match slotInstr sl with
        | none => b
        | some i =>
          if (neededPorts i).any (fun p => (portOf sl p).isNone && portDead b k p) then setPhase b k .skipped else b
      else b) b

/-- Resolve without firing everything that can no longer fire, on fuel. -/
def settle : Nat → Block → Block
  | 0, b => b
  | n + 1, b => let b1 := settlePass b; if b1 = b then b else settle n b1

/-- What a firing does: go on with the state and the block; raise a fault; be held at a gate; wait for a lower-LSID load,
or for words that a peer or the host sends; be held for proof. -/
inductive Fired where
  | done (s : State) (b : Block)
  | fault (s : State) (code sub : BitVec 8) (addr : W)
  | held
  | ordered
  | wait (s : State) (op : Nat)
  | proof (tr : Option TrapReq)
  deriving Repr

/-- The predicate of R74 lets the instruction fire. -/
def polarity (p : Pm) (x : Option W) : Bool :=
  match p with
  | .onTrue => (x.getD 0).getLsbD 0
  | .onFalse => !(x.getD 0).getLsbD 0
  | _ => true

/-- Abandon the block of a thread (R112): nothing of it becomes visible, and values it waits for from a peer or the host
are forgotten (R123). -/
def abandon (s : State) (t : Nat) : State :=
  let s1 := { s with fl := { s.fl with ops := s.fl.ops.filter (fun o => match o.issuer with
    | .threadLoad u _ => u != t
    | .threadRec u _ _ => u != t
    | _ => true) } }
  match aget s1.threads t with
  | none => s1
  | some th =>
    if th.block.isSome then pmcAdd (updThread s1 t (fun x => { x with block := none })) (asidOf th) (dieOf th.home.cluster) 3 1 else s1

/-- A proof hold (R289): the block is abandoned and the thread is held before its fetch; a trap is deferred with it. -/
def holdForProof (s : State) (t : Nat) (tr : Option TrapReq) : State :=
  updThread (beginWait (abandon s t) t) t (fun th => { th with mode := .proofHeld tr })

/-- The crew state of a thread's or a cell's crew, where it belongs to a launch. -/
def crewStateOf (s : State) (c : CrewId) : Option (Launch × CrewState) :=
  if c.launch = 0 then none
  else match launchOf s c.asid c.launch with
    | none => none
    | some l =>
      match l.crews.find? (fun x => x.crew == c.crew) with
      | some x => some (l, x)
      | none => none

/-- PROOF of a launch record (R280). -/
def lProof (l : Launch) : Bool := (l.words.getD 1 0).getLsbD 24

/-- The crew is an unconfirmed crew of a proofed launch (R289). -/
def unconfirmed (s : State) (c : CrewId) : Bool :=
  match crewStateOf s c with
  | some (l, x) => lProof l && !x.confirmed
  | none => false

/-- CELLROWS of a launch record (R280). -/
def lCellrows (l : Launch) : Nat := field (l.words.getD 3 0) 32 16
/-- ROWBYTES. -/
def lRowbytes (l : Launch) : Nat := field (l.words.getD 4 0) 32 32
/-- OBASE. -/
def lObase (l : Launch) : W := l.words.getD 5 0

/-- A trap of a thread: taken (R346), or deferred where its crew is unconfirmed (R289). -/
def trapOrHold (s : State) (t : Nat) (tr : TrapReq) (pc : W) : State :=
  match aget s.threads t with
  | none => s
  | some th => if unconfirmed s th.home.crew then holdForProof s t (some tr) else takeTrap s t tr pc

/-- An address lies in the output window of a proofed launch (R281, R288). -/
def inWindow (l : Launch) (va : W) (n : Nat) : Bool :=
  lProof l && decide ((lObase l).toNat ≤ va.toNat) &&
  decide (va.toNat + n ≤ (lObase l).toNat + lRowbytes l * 64 * lCellrows l)

/-- An address lies in the output window of the crew's launch. -/
def crewWindow (s : State) (c : CrewId) (va : W) (n : Nat) : Bool :=
  match crewStateOf s c with
  | some (l, _) => inWindow l va n
  | none => false

/-- A thread as it accesses an address: its window is read and written through the shadow (R288). -/
def whoThread (s : State) (th : Thread) (va : W) (n : Nat) : Who :=
  ⟨asidOf th, th.regs.priv, dieOf th.home.cluster, crewWindow s th.home.crew va n⟩

/-- The effects that a firing has added are its slot's. -/
def ownEffs (q : Firing) (b : Block) : Block :=
  { b with effBy := q.b.effBy ++ List.replicate (b.effs.length - q.b.effs.length) q.k }

/-- Fire the current instruction: nothing happens before its operands have arrived; with the other polarity it is
resolved without firing; else `f` is its effect (R74, R97, R124). -/
def fire (s : State) (i : Instr) (f : Firing → Fired) : State :=
  match firing s with
  | none => s
  | some q =>
    if !portsReady q.sl i then s
    else
      let n := q.b.slots.length + 1
      if !polarity (instrPm i) q.sl.x then updBlock s q.t (fun b => settle n (setPhase b q.k .skipped))
      else
        match f q with
        | .done s1 b => updBlock s1 q.t (fun _ => settle n (setPhase (ownEffs q b) q.k .fired))
        | .fault s1 code sub addr => updBlock s1 q.t (fun b => setPhase (raise b q.k code sub addr) q.k .fired)
        | .held =>
          if q.sl.phase = .gated then s
          else
            let s1 := if threadWaits q.th then s else beginWait s q.t
            updBlock s1 q.t (fun b => { setPhase b q.k .gated with gateAt := s.cycle })
        | .ordered => updBlock s q.t (fun b => setPhase b q.k .ordered)
        | .wait s1 op => updBlock s1 q.t (fun b => setPhase b q.k (.remote op))
        | .proof tr => holdForProof s q.t tr

/-- An instruction that reads only L and R and delivers one result to T0 and T1. -/
def fireLR (s : State) (i : Instr) (t v : Target) (f : W → W → W) : State :=
  fire s i (fun q => .done s (deliver2 q.b q.k t v (f (q.sl.l.getD 0) (q.sl.r.getD 0))))

/-- An instruction that reads at most L and delivers one result to T0. -/
def fireL (s : State) (i : Instr) (t : Target) (f : W → W) : State :=
  fire s i (fun q => .done s (deliver q.b q.k t (f (q.sl.l.getD 0))))

/-- An instruction that records one effect of L and R for the commit. -/
def fireEff (s : State) (i : Instr) (f : W → W → Eff) : State :=
  fire s i (fun q => .done s (addEff q.b (f (q.sl.l.getD 0) (q.sl.r.getD 0))))

/-! ### Effective addresses (R118) -/

/-- EffAddr. -/
def effAddr (l : W) (imm : BitVec 9) (size : Nat) : W :=
  let off : BitVec 60 := l.extractLsb' 0 60 + BitVec.signExtend 60 imm * BitVec.ofNat 60 size
  l.extractLsb' 60 4 ++ off

/-- C, the bytes of a thread's carve-out (R116). -/
def carveBytes (r : ThreadRegs) : Nat := 1024 * r.csize.toNat

/-- OverflowAbsent (R115). -/
def overflowAbsent (r : ThreadRegs) : Bool := r.ovfptr == 0 || field r.ovfptr 60 4 != 0

/-- Where a thread's carve-out begins in memory (R190, R283): the thread's place among its crew's threads, in the first
SPILL bank of the crew's spill page. -/
def carveBase (s : State) (th : Thread) : Option Nat :=
  match crewStateOf s th.home.crew with
  | none => none
  | some (_, x) =>
    match x.spill with
    | none => none
    | some p =>
      let first := ((List.range 8).find? (fun b => match p.banks[b]? with
        | some k => k.mode == .spill
        | none => false)).getD 0
      some (sramKey p.store first 0 + th.home.helper * carveBytes th.regs)

/-- A resolved access of a thread. -/
structure Target0 where
  loc : Loc
  trk : Bool
  cell : Bool
  deriving DecidableEq, Repr

/-- Where an access of a thread leads (R118, R119), after ALIGN: by the tag of its address. `aperture` says that the
instruction is LD64 or ST64. -/
def resolveThread (s : State) (th : Thread) (k : AccKind) (size : Nat) (aperture : Bool) (ea : W) : Except Flt Target0 :=
  if ea.toNat % size ≠ 0 then .error (cALIGN, 0)
  else
    let global (va : W) : Except Flt Target0 :=
      match xlate s (whoThread s th va size) k va with
      | .error f => .error f
      | .ok r =>
        match r.loc, k with
        | .peer _ _, .atomic => .error (cPROT, 0)
        | .host _, .atomic => .error (cPROT, 0)
        | l, _ => .ok ⟨l, r.trk, false⟩
    match field ea 60 4 with
    | 0 => global ea
    | 8 =>
      if field ea 22 38 ≠ 0 then .error (cXLATE, 0)
      else
        (match crewBank s th.home.crew (field ea 15 7) with
         | none => .error (cPROT, 0)
         | some b => if b.b.mode = .scratch then .ok ⟨.mem (sramKey b.store b.bank (field ea 0 15)), false, true⟩
           else .error (cPROT, 0))
    | 9 =>
      let off := field ea 0 60
      if off < carveBytes th.regs then
        (match carveBase s th with
         | some a => .ok ⟨.mem (a + off), false, true⟩
         | none => .error (cXLATE, 0))
      else if overflowAbsent th.regs then .error (cXLATE, 0)
      else
        let va : BitVec 60 := th.regs.ovfptr.extractLsb' 0 60 + BitVec.ofNat 60 (off - carveBytes th.regs)
        global ((0 : BitVec 4) ++ va)
    | 10 =>
      if !aperture || k == .atomic || field ea 12 48 ≠ 0 || field ea 0 8 ≠ 0 then .error (cPROT, 0)
      else .ok ⟨.aper (field ea 8 4), false, true⟩
    | _ => .error (cXLATE, 0)

/-- The tag 0x0 address that an access of a thread translates, where it translates one (R117, R118). -/
def xlatVa (th : Thread) (ea : W) : Option W :=
  match field ea 60 4 with
  | 0 => some ea
  | 9 =>
    let off := field ea 0 60
    if off < carveBytes th.regs ∨ overflowAbsent th.regs = true then none
    else some ((0 : BitVec 4) ++ (th.regs.ovfptr.extractLsb' 0 60 + BitVec.ofNat 60 (off - carveBytes th.regs)))
  | _ => none

/-- An access of a thread uses the translation of its address (R336). -/
def useXlate (s : State) (th : Thread) (ea : W) : State :=
  match xlatVa th ea with
  | some va => fillTlb s (whoThread s th va 1) va
  | none => s

/-! ### Accesses of a block (R120 to R122) -/

/-- AtomicNew (R121). -/
def atomicNew (k : AccessKind) (old data : W) : W :=
  match k with
  | .add => old + data
  | .and => old &&& data
  | .or => old ||| data
  | .xor => old ^^^ data
  | .min => if old.sle data then old else data
  | .max => if old.sle data then data else old
  | .swap => data
  | .cas cmp => if old = cmp then data else old
  | _ => old

/-- The value of a load from its bytes (R120). -/
def loadValue (signed : Bool) (size v : Nat) : W :=
  if signed then BitVec.ofInt 64 (sval (8 * size) v) else w64 v

/-- Perform one access on memory bytes: the bytes after it and the value it delivers. -/
def performAcc (s : State) (asid : Nat) (bytes : List Host.Cell) (a : Access) : List Host.Cell × W :=
  let old := leVal (locBytes s asid bytes a.loc a.size)
  match a.kind with
  | .load sg => (bytes, loadValue sg a.size old)
  | .store => ((locPut s asid bytes a.loc (leBytes a.size a.data.toNat)).getD bytes, 0)
  | k => ((locPut s asid bytes a.loc (leBytes 8 (atomicNew k (w64 old) a.data).toNat)).getD bytes, w64 old)

/-- The access of an LSID: the one that has fired, or the one predicted (R122). -/
def accOf (b : Block) (l : Nat) : Option Access :=
  match b.accs.find? (fun a => a.lsid == l) with
  | some a => some a
  | none => b.predicted.find? (fun a => a.lsid == l)

/-- Memory bytes with the block's own accesses of LSIDs below `n` merged in (R122). -/
def mergedBytes (s : State) (asid : Nat) (b : Block) (n : Nat) : List Host.Cell :=
  (List.range n).foldl (fun bytes l => match accOf b l with
    | some a => (performAcc s asid bytes a).1
    | none => bytes) s.mem.bytes

/-- The access is at HOST or PEER scope. -/
def isRemote (l : Loc) : Bool :=
  match l with
  | .peer _ _ => true
  | .host _ => true
  | _ => false

/-- A granule that the access reads is packed (R194). -/
def locPacked (s : State) (l : Loc) : Bool :=
  match l with
  | .mem a =>
    isSram a && s.cells.any (fun e => e.2.pages.any (fun p => p.store == (sramAt a).1 &&
      (match p.banks[(sramAt a).2]? with
       | some b => packedAt b (a % 32768)
       | none => false)))
  | _ => false

/-- The data fault of an access as it fires (R124, R191, R192, R194), if there is one, and the state that it leaves: a
metadata error poisons the unit. -/
def dataFault (s : State) (asid pts : Nat) (bytes : List Host.Cell) (k : AccessKind) (l : Loc) (size : Nat) (data : W) :
    Option Flt × State :=
  let reads := match k with
    | .store => false
    | _ => true
  let writes := match k with
    | .load _ => false
    | _ => true
  let isAtomic := reads && writes
  match l with
  | .view _ _ =>
    if isAtomic then (some (cFORMAT, 0), s)
    else if reads && locPoisoned s asid l size then (some (cPOISON, 0), s)
    else if writes && (locPut s asid bytes l (leBytes size data.toNat)).isNone then (some (cFORMAT, 0), s)
    else
      (match (if writes then locMeta s asid l size else none) with
       | some u => (some (cPOISON, 0), metaError s asid pts u)
       | none => (none, s))
  | .mem a =>
    if reads && locPoisoned s asid l size then (some (cPOISON, 0), s)
    else if reads && locPacked s l then (some (cPACKED, 0), s)
    else if writes && metaFails s a size then (some (cPOISON, 0), metaError s asid pts a)
    else (none, s)
  | _ => (none, s)

/-- A lower-LSID load of the block is neither fired, nor resolved, nor dependent on slot k: a load at HOST or PEER scope
waits for it (R123). -/
def dependsOn (b : Block) : Nat → Nat → Nat → Bool
  | 0, _, _ => false
  | n + 1, j, k => j == k || (List.range b.slots.length).any (fun i =>
      (producers b j .l ++ producers b j .r ++ producers b j .x).contains i && dependsOn b n i k)

/-- The instruction is a load (R120). -/
def isLoad (i : Instr) : Bool :=
  match i with
  | .ld8 _ _ _ _ | .ld16 _ _ _ _ | .ld32 _ _ _ _ | .ld64 _ _ _ _ | .lds8 _ _ _ _ | .lds16 _ _ _ _ | .lds32 _ _ _ _ => true
  | _ => false

/-- A remote load of slot k must still wait for a lower-LSID load (R123). -/
def behindLoad (b : Block) (k l : Nat) : Bool :=
  (List.range b.slots.length).any (fun j => match b.slots[j]? with
    | none => false
    | some sl =>
      match slotInstr sl with
      | none => false
      | some i =>
        isLoad i && (match instrLsid i with
          | some m => decide (m < l)
          | none => false) &&
        (sl.phase == .waiting || sl.phase == .ordered) && !dependsOn b b.slots.length j k)

end Sys2Proof.Machine
end

