-- ==== Sys2Proof/Machine/Place.lean ====
section
/-! DEFINITION. Placing one instruction so that the next step runs it. -/

namespace Sys2Proof.Machine

/-- A slot that holds a word with every port present. -/
def loadedSlot (w : Word32) : Slot := ⟨w, some 0, some 0, some 0, .waiting⟩

/-- A block in flight of one word. -/
def loneBlock (w : Word32) : Block :=
  { addr := 0, hdr := 0x200001, slots := [loadedSlot w], gs := Vector.replicate 64 0, ms := Vector.replicate 16 0,
    mfull := 0, sys := [], irange := 0, regs := ThreadRegs.reset, born := 0, landed := 0, accs := [], predicted := [], recs := [], effs := [], effBy := [],
    choice := none, branches := 0, dz := false, faults := [], gateAt := 0 }

/-- The predicate bit that lets a word fire: its port X holds 1 where PM is fire-on-true. -/
def predicated (w : Word32) : Slot :=
  { loadedSlot w with x := some (if w.getLsbD 8 && w.getLsbD 7 then 1 else 0) }

/-- A thread outside any launch, at MGMT level, on cluster 0 (R325). -/
def loneThread (w : Word32) : Thread :=
  { Thread.fresh ⟨0, 0, ⟨1, 0, 0⟩, 0, 0, 0xFF, 0xFF, false⟩ 0 lMGMT 3 with block := some { loneBlock w with slots := [predicated w] } }

/-- A machine whose next step fires the word: log 13. -/
def placeWord (s : State) (w : Word32) : State :=
  { s with
    agenda := [], threads := [(0, loneThread w)],
    ctxs := aset s.ctxs 1 ((aget s.ctxs 1).getD (Context.fresh 0)),
    esets := aset s.esets 0 (EngineSet.fresh ⟨1, 0, 0⟩ 0),
    parts := if s.parts.isEmpty then [(0, Partition.fresh 0xF 12 0xFF)] else s.parts }

end Sys2Proof.Machine
end

