-- ==== Sys2Proof/Machine/Register.lean ====
section
/-! DEFINITION. Global and mailbox registers (R106, R107, R126). -/

namespace Sys2Proof.Machine

/-- A global register in the block's snapshot; g0 reads zero (R106). -/
def snapG (b : Block) (n : BitVec 6) : W := if n = 0 then 0 else b.gs.get ⟨n.toNat, n.isLt⟩

/-- A mailbox register's value in the block's snapshot (R107). -/
def snapM (b : Block) (n : BitVec 4) : W := b.ms.get ⟨n.toNat, n.isLt⟩

/-- GRD (R106). -/
def execGrd (t : Target) (n : BitVec 6) (p : Pm) (s : State) : Host.Outcome State Fault Refusal :=
  .next (fire s (.grd t n p) (fun q => .done s (deliver q.b q.k t (snapG q.b n))))
/-- GWR (R106). -/
def execGwr (n : BitVec 6) (p : Pm) (s : State) : Host.Outcome State Fault Refusal :=
  .next (fireEff s (.gwr n p) (fun l _ => .gwr n l))
/-- MRD (R107): the snapshot value; the full bit is cleared at commit where the mailbox was full in the snapshot. -/
def execMrd (t : Target) (n : BitVec 4) (p : Pm) (s : State) : Host.Outcome State Fault Refusal :=
  .next (fire s (.mrd t n p) (fun q =>
    .done s (deliver (if q.b.mfull.getLsbD n.toNat then addEff q.b (.mclr n) else q.b) q.k t (snapM q.b n))))
/-- MWR (R107): m15 is SUPER's alone. -/
def execMwr (n : BitVec 4) (p : Pm) (s : State) : Host.Outcome State Fault Refusal :=
  .next (fire s (.mwr n p) (fun q =>
    if n = 15 ∧ q.th.regs.priv = lUSER then .fault s cPRIV 0 q.b.addr
    else .done s (addEff q.b (.mwr n (q.sl.l.getD 0)))))
/-- MWAIT (R126): its block's snapshot was taken with the mailbox full; it delivers and clears as MRD. -/
def execMwait (t : Target) (n : BitVec 4) (s : State) : Host.Outcome State Fault Refusal :=
  .next (fire s (.mwait t n) (fun q =>
    .done s (deliver (if q.b.mfull.getLsbD n.toNat then addEff q.b (.mclr n) else q.b) q.k t (snapM q.b n))))
/-- MFULL (R107). -/
def execMfull (t : Target) (n : BitVec 4) (p : Pm) (s : State) : Host.Outcome State Fault Refusal :=
  .next (fire s (.mfull t n p) (fun q => .done s (deliver q.b q.k t (if q.b.mfull.getLsbD n.toNat then 1 else 0))))

end Sys2Proof.Machine
end

