-- ==== Sys2Proof/Machine/Flow.lean ====
section
/-! DEFINITION. Branches, calls and returns (R113 to R116), TRAP (R347) and TRET (R348). What a branch chooses takes
effect at the commit. -/

namespace Sys2Proof.Machine

/-- The target of BR and CALL (R113). -/
def relTarget (b : Block) (f : BitVec 20) : W := b.addr + BitVec.signExtend 64 f * 16

/-- The number of words of the block in its header (R67). -/
def hdrNcnt (h : BitVec 128) : Nat := (h.extractLsb' 4 7).toNat

/-- Bytes that a control block of NCNT occupies (R67). -/
def blockBytes (ncnt : Nat) : Nat := 16 + 16 * ((ncnt + 4) / 4)

/-- The address that CALL pushes: the first byte after the block (R114). -/
def returnAddr (b : Block) : W := b.addr + BitVec.ofNat 64 (blockBytes (hdrNcnt b.hdr))

/-- Record what a branch chose. A second branch that fires raises DECODE and is named (R76). -/
def choose (b : Block) (k : Nat) (c : Choice) : Block :=
  if b.branches = 0 then { b with branches := 1, choice := some c }
  else raise { b with branches := b.branches + 1 } k cDECODE 0 b.addr

/-- The LSID behind every other, at which a spill access of R115 stands. -/
def spillLsid : Nat := 32

/-- The address in the thread-private window of spilled entry k (R115). -/
def spillAddr (k : Nat) : W := 0x9000000000000000 + BitVec.ofNat 64 (8 * k)

/-- A spill access of slot k, resolved and checked as an ordinary access of the thread (R115). It stays in this package:
the overflow area is at PACKAGE scope, log 10. -/
def spillAccess (s : State) (q : Firing) (kd : AccessKind) (entry : Nat) (data : W) : Except Flt Access × State :=
  let ea := spillAddr entry
  let ak := match kd with
    | .store => AccKind.store
    | _ => AccKind.load
  match resolveThread s q.th ak 8 false ea with
  | .error f => (.error f, s)
  | .ok r =>
    if isRemote r.loc then (.error (cPROT, 0), s)
    else
      let bytes := mergedBytes s (asidOf q.th) q.b spillLsid
      match dataFault s (asidOf q.th) q.th.pts bytes kd r.loc 8 data with
      | (some f, s1) => (.error f, s1)
      | (none, s1) =>
        let a : Access := ⟨q.k, spillLsid, kd, 8, ea, r.loc, data, 0⟩
        (.ok { a with value := (performAcc s (asidOf q.th) bytes a).2 }, useXlate s1 q.th ea)

/-- Push (R115): the checks and the spill store as the call fires. -/
def fireCall (s : State) (q : Firing) (target : W) : Fired :=
  if q.th.ras.length < Config.rasDepth then .done s (choose q.b q.k (.call target))
  else if q.th.regs.spc = 0xFFFFF then .fault s cSPILLOVER 0 q.b.addr
  else if carveBytes q.th.regs ≤ 8 * q.th.regs.spc.toNat ∧ overflowAbsent q.th.regs = true then
    .fault s cSPILLOVER 0 q.b.addr
  else
    match spillAccess s q .store q.th.regs.spc.toNat (q.th.ras.headD 0) with
    | (.error f, s1) => .fault s1 f.1 f.2 (spillAddr q.th.regs.spc.toNat)
    | (.ok a, s1) => .done s1 (choose { q.b with accs := q.b.accs ++ [a] } q.k (.call target))

/-- A target from a port or the return-address store must be a multiple of 16 (R113). -/
def aligned16 (a : W) : Bool := a.toNat % 16 == 0

/-- Pop (R115): the entry, and the spill load, as RET fires. -/
def fireRet (s : State) (q : Firing) : Fired :=
  match q.th.ras.getLast? with
  | some e =>
    if aligned16 e then .done s (choose q.b q.k (.ret e false)) else .fault s cALIGN 0 e
  | none =>
    if q.th.regs.spc = 0 then .fault s cRASUNDER 0 q.b.addr
    else
      match spillAccess s q (.load false) (q.th.regs.spc.toNat - 1) 0 with
      | (.error f, s1) => .fault s1 f.1 f.2 (spillAddr (q.th.regs.spc.toNat - 1))
      | (.ok a, s1) =>
        if aligned16 a.value then .done s1 (choose { q.b with accs := q.b.accs ++ [a] } q.k (.ret a.value true))
        else .fault s1 cALIGN 0 a.value

/-- BR (R113, R114). -/
def execBr (f : BitVec 20) (e : BitVec 3) (p : Pm) (s : State) : Host.Outcome State Fault Refusal :=
  .next (fire s (.br f e p) (fun q => .done s (choose q.b q.k (.jump (relTarget q.b f)))))
/-- BRX (R113, R114). -/
def execBrx (e : BitVec 3) (p : Pm) (s : State) : Host.Outcome State Fault Refusal :=
  .next (fire s (.brx e p) (fun q =>
    if aligned16 (q.sl.l.getD 0) then .done s (choose q.b q.k (.jump (q.sl.l.getD 0)))
    else .fault s cALIGN 0 (q.sl.l.getD 0)))
/-- CALL (R113 to R115). -/
def execCall (f : BitVec 20) (e : BitVec 3) (p : Pm) (s : State) : Host.Outcome State Fault Refusal :=
  .next (fire s (.call f e p) (fun q => fireCall s q (relTarget q.b f)))
/-- CALLX (R113 to R115). -/
def execCallx (e : BitVec 3) (p : Pm) (s : State) : Host.Outcome State Fault Refusal :=
  .next (fire s (.callx e p) (fun q =>
    if aligned16 (q.sl.l.getD 0) then fireCall s q (q.sl.l.getD 0) else .fault s cALIGN 0 (q.sl.l.getD 0)))
/-- RET (R113 to R115). -/
def execRet (e : BitVec 3) (p : Pm) (s : State) : Host.Outcome State Fault Refusal :=
  .next (fire s (.ret e p) (fun q => fireRet s q))
/-- STOP (R114). -/
def execStop (e : BitVec 3) (p : Pm) (s : State) : Host.Outcome State Fault Refusal :=
  .next (fire s (.stop e p) (fun q => .done s (choose q.b q.k .stop)))
/-- TRAP (R347): SOFT is taken after the commit. -/
def execTrap (i : BitVec 14) (p : Pm) (s : State) : Host.Outcome State Fault Refusal :=
  .next (fire s (.trap i p) (fun q => .done s (addEff q.b (.soft q.k (BitVec.signExtend 64 i)))))
/-- TRET (R348): PRIV at USER; the next block is TRAPPC, or the thread halts where that is 0. -/
def execTret (e : BitVec 3) (p : Pm) (s : State) : Host.Outcome State Fault Refusal :=
  .next (fire s (.tret e p) (fun q =>
    if q.th.regs.priv = lUSER then .fault s cPRIV 0 q.b.addr
    else if aligned16 q.th.regs.trappc then .done s (choose q.b q.k (.tret q.th.regs.trappc))
    else .fault s cALIGN 0 q.th.regs.trappc))

end Sys2Proof.Machine
end

