-- ==== Sys2Proof/Machine/Access.lean ====
section
/-! DEFINITION. Loads, stores and atomics (R118 to R124, R134, R263): the checks as they fire, the value that a load or an
atomic delivers ahead of the block's event, and accesses at HOST and PEER scope. -/

namespace Sys2Proof.Machine

/-- The engine set that a crew reaches through tag 0xA (R137): its own. -/
def esetOfThread (s : State) (th : Thread) : Option (Nat × EngineSet) :=
  match aget s.esets th.home.eset with
  | some e => some (th.home.eset, e)
  | none => none

/-- A launch crew holds the engine set of a resident thread's cluster, so its access is held as a gate (R137). -/
def esetTaken (s : State) (th : Thread) : Bool :=
  th.home.crew.launch == 0 &&
  s.esets.any (fun e => e.2.cluster == th.home.cluster && e.2.crew.launch != 0 && esetRuns s e.2)

/-- A copy runs on a channel: it has begun. -/
def Channel.busy (c : Channel) : Bool := c.cur.any (fun r => !r.parked)

/-- Starts that are queued and have not begun (R263): one that is held for proof as its indices come stands in the queue still. -/
def Channel.queued (c : Channel) : Nat := c.queue.length + (if c.cur.any (fun r => r.parked) then 1 else 0)

/-- A start that has not been sent yet counts among the four that a channel queues (R134). -/
def queueFull (s : State) (e ch : Nat) (b : Block) : Bool :=
  let own := (b.effs.filter (fun f => match f with
    | .aperture c _ => c == ch
    | _ => false)).length
  match chanOf s e ch with
  | some c => decide (Config.startQueue ≤ c.queued + own)
  | none => false

/-- WAIT of a channel's status word: its running copy waits on a circular buffer or on a translation (R263). -/
def chanWaits (c : Channel) : Bool :=
  c.busy && (match c.cur with
    | some r => r.waiting || !r.stalls.isEmpty
    | none => false)

/-- The status word of a channel (R263): CCNT in [63:32], LASTCODE in [31:24], QLEN in [11:9], BUSY in [8], WAIT in [7],
SLOT in [5:0]. -/
def statusWord (c : Channel) : W :=
  c.ccnt ++ c.lastcode ++ (0 : BitVec 12) ++ BitVec.ofNat 3 c.queued ++ (if c.busy then (1 : BitVec 1) else 0) ++
    (if chanWaits c then (1 : BitVec 1) else 0) ++ (0 : BitVec 1) ++ c.slot

/-- Which kind of access an AccessKind is for R334. -/
def accKindOf (k : AccessKind) : AccKind :=
  match k with
  | .load _ => .load
  | .store => .store
  | _ => .atomic

/-- A store or atomic of an unconfirmed crew outside the window and outside CELL scope is held (R289). -/
def proofHolds (s : State) (q : Firing) (k : AccessKind) (r : Target0) (ea : W) (size : Nat) : Bool :=
  match k with
  | .load _ => false
  | _ => !r.cell && unconfirmed s q.th.home.crew && !crewWindow s q.th.home.crew ea size

/-- A load at HOST or PEER scope that has performed in this block, where an instruction that it depended on fires again and
leaves it the same (R122, R123). -/
def performedLoad (q : Firing) (l : Loc) (size : Nat) : Option Access :=
  q.b.predicted.find? (fun a => a.slot == q.k && a.loc == l && a.size == size)

/-- An access at HOST or PEER scope (R123): a load is sent as it fires, a store after the commit; a
store that then finds no port up is lost (R313, log 21). -/
def fireRemote (s : State) (q : Firing) (t : Target) (k : AccessKind) (r : Target0) (ea : W) (l : BitVec 5) (size : Nat) : Fired :=
  let send (peer : Nat) (port : Option Nat) (addr : W) : Fired :=
    match k with
    | .store => .done (useXlate s q.th ea) (addEff q.b (.remoteStore l.toNat ea (q.sl.r.getD 0) size))
    | _ =>
      match performedLoad q r.loc size with
      | some a => .done s (deliver { q.b with accs := q.b.accs ++ [a] } q.k t a.value)
      | none =>
      if behindLoad q.b q.k l.toNat then .ordered
      else
        .wait (sendOp (useXlate s q.th ea) (.threadLoad q.t q.k) peer port false addr (List.replicate size 0)) s.nextId
  match r.loc with
  | .peer ix pa =>
    (match route s ix with
     | .error f => if k == .store && f.2 == 2 then send ix none (w64 pa) else .fault s f.1 f.2 ea
     | .ok port => send ix (some port) (w64 pa))
  | .host a => send 0 (some (hostPort s (asidOf q.th))) (w64 a)
  | _ => .held

/-- An access of a control thread fires (R118 to R124). -/
def fireAccess (s : State) (q : Firing) (t : Target) (k : AccessKind) (size : Nat) (apert : Bool) (m : BitVec 9)
    (l : BitVec 5) : Fired :=
  let ea := effAddr (q.sl.l.getD 0) m size
  let asid := asidOf q.th
  match resolveThread s q.th (accKindOf k) size apert ea with
  | .error f => .fault s f.1 f.2 ea
  | .ok r =>
    if proofHolds s q k r ea size then .proof none
    else
      match r.loc with
      | .aper ch =>
        if esetTaken s q.th then .held
        else
          (match k with
           | .store =>
             if field (q.sl.r.getD 0) 6 26 ≠ 0 then .fault s cENGINE 0 ea
             else if queueFull s q.th.home.eset ch q.b then .held
             else .done s (addEff q.b (.aperture ch (q.sl.r.getD 0)))
           | _ =>
             let v := match chanOf s q.th.home.eset ch with
               | some c => statusWord c
               | none => 0
             let a : Access := ⟨q.k, l.toNat, k, 8, ea, r.loc, 0, v⟩
             .done s (deliver { q.b with accs := q.b.accs ++ [a] } q.k t v))
      | .peer _ _ => fireRemote s q t k r ea l size
      | .host _ => fireRemote s q t k r ea l size
      | loc =>
        let bytes := mergedBytes s asid q.b l.toNat
        let data := q.sl.r.getD 0
        match dataFault s asid q.th.pts bytes k loc size data with
        | (some f, s1) => .fault s1 f.1 f.2 ea
        | (none, s1) =>
          let s2 := useXlate s1 q.th ea
          let a : Access := ⟨q.k, l.toNat, k, size, ea, loc, data, 0⟩
          let v := (performAcc s asid bytes a).2
          .done s2 (deliver { q.b with accs := q.b.accs ++ [{ a with value := v }] } q.k t v)

/-- A target of none. -/
def noTarget : Target := ⟨0, .none⟩

/-- LD8 (R120). -/
def execLd8 (t : Target) (m : BitVec 9) (l : BitVec 5) (p : Pm) (s : State) : Host.Outcome State Fault Refusal :=
  .next (fire s (.ld8 t m l p) (fun q => fireAccess s q t (.load false) 1 false m l))
/-- LD16 (R120). -/
def execLd16 (t : Target) (m : BitVec 9) (l : BitVec 5) (p : Pm) (s : State) : Host.Outcome State Fault Refusal :=
  .next (fire s (.ld16 t m l p) (fun q => fireAccess s q t (.load false) 2 false m l))
/-- LD32 (R120). -/
def execLd32 (t : Target) (m : BitVec 9) (l : BitVec 5) (p : Pm) (s : State) : Host.Outcome State Fault Refusal :=
  .next (fire s (.ld32 t m l p) (fun q => fireAccess s q t (.load false) 4 false m l))
/-- LD64 (R120, R134). -/
def execLd64 (t : Target) (m : BitVec 9) (l : BitVec 5) (p : Pm) (s : State) : Host.Outcome State Fault Refusal :=
  .next (fire s (.ld64 t m l p) (fun q => fireAccess s q t (.load false) 8 true m l))
/-- LDS8 (R120). -/
def execLds8 (t : Target) (m : BitVec 9) (l : BitVec 5) (p : Pm) (s : State) : Host.Outcome State Fault Refusal :=
  .next (fire s (.lds8 t m l p) (fun q => fireAccess s q t (.load true) 1 false m l))
/-- LDS16 (R120). -/
def execLds16 (t : Target) (m : BitVec 9) (l : BitVec 5) (p : Pm) (s : State) : Host.Outcome State Fault Refusal :=
  .next (fire s (.lds16 t m l p) (fun q => fireAccess s q t (.load true) 2 false m l))
/-- LDS32 (R120). -/
def execLds32 (t : Target) (m : BitVec 9) (l : BitVec 5) (p : Pm) (s : State) : Host.Outcome State Fault Refusal :=
  .next (fire s (.lds32 t m l p) (fun q => fireAccess s q t (.load true) 4 false m l))
/-- ST8 (R120). -/
def execSt8 (m : BitVec 9) (l : BitVec 5) (p : Pm) (s : State) : Host.Outcome State Fault Refusal :=
  .next (fire s (.st8 m l p) (fun q => fireAccess s q noTarget .store 1 false m l))
/-- ST16 (R120). -/
def execSt16 (m : BitVec 9) (l : BitVec 5) (p : Pm) (s : State) : Host.Outcome State Fault Refusal :=
  .next (fire s (.st16 m l p) (fun q => fireAccess s q noTarget .store 2 false m l))
/-- ST32 (R120). -/
def execSt32 (m : BitVec 9) (l : BitVec 5) (p : Pm) (s : State) : Host.Outcome State Fault Refusal :=
  .next (fire s (.st32 m l p) (fun q => fireAccess s q noTarget .store 4 false m l))
/-- ST64 (R120, R134). -/
def execSt64 (m : BitVec 9) (l : BitVec 5) (p : Pm) (s : State) : Host.Outcome State Fault Refusal :=
  .next (fire s (.st64 m l p) (fun q => fireAccess s q noTarget .store 8 true m l))
/-- AADD (R121). -/
def execAadd (t : Target) (m : BitVec 9) (l : BitVec 5) (p : Pm) (s : State) : Host.Outcome State Fault Refusal :=
  .next (fire s (.aadd t m l p) (fun q => fireAccess s q t .add 8 false m l))
/-- AAND (R121). -/
def execAand (t : Target) (m : BitVec 9) (l : BitVec 5) (p : Pm) (s : State) : Host.Outcome State Fault Refusal :=
  .next (fire s (.aand t m l p) (fun q => fireAccess s q t .and 8 false m l))
/-- AOR (R121). -/
def execAor (t : Target) (m : BitVec 9) (l : BitVec 5) (p : Pm) (s : State) : Host.Outcome State Fault Refusal :=
  .next (fire s (.aor t m l p) (fun q => fireAccess s q t .or 8 false m l))
/-- AXOR (R121). -/
def execAxor (t : Target) (m : BitVec 9) (l : BitVec 5) (p : Pm) (s : State) : Host.Outcome State Fault Refusal :=
  .next (fire s (.axor t m l p) (fun q => fireAccess s q t .xor 8 false m l))
/-- AMIN (R121). -/
def execAmin (t : Target) (m : BitVec 9) (l : BitVec 5) (p : Pm) (s : State) : Host.Outcome State Fault Refusal :=
  .next (fire s (.amin t m l p) (fun q => fireAccess s q t .min 8 false m l))
/-- AMAX (R121). -/
def execAmax (t : Target) (m : BitVec 9) (l : BitVec 5) (p : Pm) (s : State) : Host.Outcome State Fault Refusal :=
  .next (fire s (.amax t m l p) (fun q => fireAccess s q t .max 8 false m l))
/-- ASWP (R121). -/
def execAswp (t : Target) (m : BitVec 9) (l : BitVec 5) (p : Pm) (s : State) : Host.Outcome State Fault Refusal :=
  .next (fire s (.aswp t m l p) (fun q => fireAccess s q t .swap 8 false m l))
/-- ACAS (R121): the comparand is X. -/
def execAcas (t : Target) (m : BitVec 9) (l : BitVec 5) (s : State) : Host.Outcome State Fault Refusal :=
  .next (fire s (.acas t m l) (fun q => fireAccess s q t (.cas (q.sl.x.getD 0)) 8 false m l))

end Sys2Proof.Machine
end

