-- ==== Sys2Proof/Machine/SysRegs.lean ====
section
/-! DEFINITION. The system registers (R326 to R331, R338 to R342, R350 to R353, R374, R379, R386, R394, R395, R402, R406):
their levels, what a read delivers, the checks of a write, and what a write changes field by field (R5). -/

namespace Sys2Proof.Machine

/-- The level that a read needs (R328). -/
def readLevel (g : BitVec 4) (i : BitVec 6) : BitVec 2 :=
  match g.toNat with
  | 0 => if i.toNat < 10 ∨ i.toNat = 14 then lUSER else lSUPER
  | 5 => lUSER
  | 9 => lUSER
  | _ => lSUPER

/-- The level that a write needs; a register all of whose fields are RO needs its read level (R328). -/
def writeLevel (g : BitVec 4) (i : BitVec 6) : BitVec 2 :=
  match g.toNat, i.toNat with
  | 0, 4 => lSUPER
  | 0, 7 => lSUPER
  | 0, 9 => lSUPER
  | 0, 14 => lMGMT
  | 0, n => if n < 10 then lUSER else lSUPER
  | 4, _ => lMGMT
  | 5, n => if n < 9 ∨ n = 18 ∨ n = 21 ∨ 22 < n then lSUPER else lUSER
  | 6, n => if n < 4 then lMGMT else lSUPER
  | 8, _ => lMGMT
  | 9, n => if n < 2 then lMGMT else lUSER
  | _, _ => lSUPER

/-- The selected publishable-buffer entry. -/
def pbEntry (x : XlatRegs) : PubBuf := x.bufs.getD x.pbsel.toNat PubBuf.reset

/-- The window that FMT.WSEL selects: die × 64 + window (R350, R335). -/
def wselKey (x : XlatRegs) : Nat := field x.wsel 8 2 * 64 + field x.wsel 0 6

/-- The selected window. -/
def wselWindow (x : XlatRegs) : Window := (aget x.windows (wselKey x)).getD ⟨0, 0, 0⟩

/-- CTX registers of a thread and its context. -/
def readCtx (th : Thread) (c : Context) (i : Nat) : W :=
  let r := th.regs
  match i with
  | 0 => (0 : BitVec 32) ++ threadCoord th
  | 1 => flagsWord r
  | 2 => excntWord r
  | 3 => (0 : BitVec 28) ++ r.spc ++ (0 : BitVec 1) ++ r.csize ++ (0 : BitVec 3) ++ BitVec.ofNat 5 th.ras.length
  | 4 => r.ovfptr
  | 5 => (0 : BitVec 48) ++ r.mbovr
  | 6 => r.irEnd ++ r.irNext
  | 7 => (0 : BitVec 32) ++ c.regs.probe
  | 8 => (0 : BitVec 62) ++ r.nbv
  | 9 => (0 : BitVec 55) ++ (if c.regs.slclamp then (1 : BitVec 1) else 0) ++ (0 : BitVec 3) ++
      (if r.intrap then (1 : BitVec 1) else 0) ++ r.ppriv ++ r.priv
  | 10 => r.trapinfo
  | 11 => r.trapaddr
  | 12 => r.trappc
  | 13 => c.regs.trapvec
  | 14 => w64 ((asidOf th) % 4096)
  | 15 => c.regs.traplog
  | 16 => (0 : BitVec 32) ++ c.regs.tlcnt
  | 17 => (0 : BitVec 32) ++ c.regs.slice
  | _ => 0

/-- XLAT registers (R333, R338, R340, R342). -/
def readXlat (x : XlatRegs) (i : Nat) : W :=
  let b := pbEntry x
  match i with
  | 0 => x.root
  | 1 => if x.demand then 1 else 0
  | 2 => x.prq
  | 3 => (0 : BitVec 32) ++ x.prqcnt
  | 4 => x.resume
  | 5 => (0 : BitVec 58) ++ x.pbsel
  | 6 => b.va
  | 7 => w64 (b.len * 4096 + (if b.vis then 2 else 0) + (if b.valid then 1 else 0))
  | 8 => b.pa0
  | 9 => b.pa1
  | _ => 0

/-- FMT registers (R350, R351). -/
def readFmt (x : XlatRegs) (i : Nat) : W :=
  let w := wselWindow x
  match i with
  | 0 => x.wsel
  | 1 => w.store
  | 2 => w.scale
  | 3 => w.ctl
  | _ => 0

/-- PART registers (R379). -/
def readPart (p : Partition) (c : Context) (i : Nat) : W :=
  match i with
  | 0 => (0 : BitVec 55) ++ (if c.regs.nosave then (1 : BitVec 1) else 0) ++ (0 : BitVec 4) ++ p.dies
  | 1 => (0 : BitVec 52) ++ p.gran ++ p.hbm
  | 2 => (0 : BitVec 60) ++ p.linkDies
  | 3 => c.regs.savebase
  | 4 => (0 : BitVec 36) ++ c.regs.savelen
  | 5 => (0 : BitVec 32) ++ p.age
  | 6 => (0 : BitVec 40) ++ p.merge.reason ++ (0 : BitVec 2) ++ p.merge.state ++ (0 : BitVec 7) ++
      (if p.merge.go then (1 : BitVec 1) else 0) ++ (0 : BitVec 4) ++ p.merge.other
  | 7 => (0 : BitVec 32) ++ p.merge.qwait
  | _ => 0

/-- A breakpoint register's value (R392): BRKAk, whose bit 3 and, of a node breakpoint, bits 15 to 4 read zero; BRKBk, whose upper half
reads zero for a node breakpoint. -/
def brkValue (p : PmcRegs) (j : Nat) (v : W) : W :=
  if j % 2 = 0 then (if v.getLsbD 1 then v &&& 0xFFFFFFFFFFFF0007#64 else v &&& 0xFFFFFFFFFFFFFFF7#64)
  else if (p.brk.getD (j - 1) 0).getLsbD 1 then v &&& 0xFFFFFFFF#64 else v

/-- PMC registers (R386). -/
def readPmc (p : PmcRegs) (i : Nat) : W :=
  if i = 0 then (0 : BitVec 61) ++ p.ctl
  else if i < 9 then (0 : BitVec 55) ++ p.evt.getD (i - 1) 0
  else if i < 17 then (0 : BitVec 16) ++ p.cnt.getD (i - 9) 0
  else if i = 17 then (0 : BitVec 56) ++ p.ovf
  else if i = 18 then p.sbase
  else if i = 19 then p.swr
  else if i = 20 then p.srd
  else if i = 21 then (0 : BitVec 32) ++ p.sper
  else if i = 22 then (0 : BitVec 32) ++ p.lost
  else brkValue p (i - 23) (p.brk.getD (i - 23) 0)

/-- CPR registers (R394). -/
def readCpr (s : State) (l : LogRegs) (i : Nat) : W :=
  match i with
  | 4 => l.rbase
  | 5 => l.rwr
  | 6 => l.rrd
  | 7 => (0 : BitVec 32) ++ l.rdrop
  | k => s.pkg.etab.getD k 0

/-- CKP registers (R395). -/
def readCkp (l : LogRegs) (i : Nat) : W :=
  match i with
  | 0 => (0 : BitVec 62) ++ l.ckctl
  | 1 => (0 : BitVec 48) ++ l.period
  | 2 => (0 : BitVec 32) ++ l.align
  | 3 => l.lbase
  | 4 => l.llen
  | 5 => l.lwr
  | 6 => l.lrd
  | _ => (0 : BitVec 32) ++ l.epoch

/-- The port that LINK.PSEL selects. -/
def selPort (s : State) : LinkPort := s.pkg.ports.getD s.pkg.psel.toNat LinkPort.reset

/-- LINK registers (R402); KEY and INSTALL read zero. -/
def readLink (s : State) (i : Nat) : W :=
  let q := selPort s
  match i with
  | 0 => (0 : BitVec 50) ++ s.pkg.devid
  | 1 => (0 : BitVec 60) ++ s.pkg.psel
  | 2 => q.lat ++ q.retryMax ++ (0 : BitVec 4) ++ q.cause ++ (if q.up then (1 : BitVec 1) else 0) ++ (0 : BitVec 6) ++ q.mode
  | 3 => q.wbase
  | 4 => (0 : BitVec 47) ++ q.wlen
  | 9 => q.ssci ++ (0 : BitVec 26) ++ q.an ++ (0 : BitVec 4)
  | 10 => (0 : BitVec 48) ++ s.pkg.peersel
  | 11 =>
    (match aget s.pkg.peers s.pkg.peersel.toNat with
     | some e => (if e.valid then (1 : BitVec 1) else 0) ++ (if e.host then (1 : BitVec 1) else 0) ++ (0 : BitVec 30) ++
         e.ports ++ (0 : BitVec 2) ++ e.devid
     | none => 0)
  | _ => 0

/-- Units granted to the dies of a partition in the last interval (R406). -/
def grantOf (s : State) (p : Partition) : Nat :=
  (List.range 4).foldl (fun a k => a + (if p.dies.getLsbD k then s.pkg.pwr.grant.getD k 0 else 0)) 0

/-- PWR registers (R406). -/
def readPwr (s : State) (p : Partition) (i : Nat) : W :=
  match i with
  | 0 => (0 : BitVec 62) ++ s.pkg.pwr.mode
  | 1 => (0 : BitVec 52) ++ s.pkg.pwr.cap
  | 2 => w64 (grantOf s p % 4096)
  | _ => (0 : BitVec 55) ++ (if s.pkg.pwr.throt then (1 : BitVec 1) else 0) ++ s.pkg.pwr.inlet

/-- The value of a system register for a thread. -/
def sysRead (s : State) (t : Nat) (g : BitVec 4) (i : BitVec 6) : W :=
  match aget s.threads t with
  | none => 0
  | some th =>
    match aget s.ctxs (asidOf th) with
    | none => 0
    | some c =>
      let p := (aget s.parts c.part).getD (Partition.fresh 0 0 0)
      match g.toNat with
      | 0 => readCtx th c i.toNat
      | 1 => readXlat c.xlat i.toNat
      | 2 => readFmt c.xlat i.toNat
      | 3 => (0 : BitVec 32) ++ p.idle
      | 4 => readPart p c i.toNat
      | 5 => readPmc c.pmc i.toNat
      | 6 => readCpr s c.log i.toNat
      | 7 => readCkp c.log i.toNat
      | 8 => readLink s i.toNat
      | _ => readPwr s p i.toNat

/-! ### Checks of a write, as it fires (R327) -/

/-- A byte range lies in region 0x01 on a stack of a die (R352). -/
def onDie (a : W) (n die : Nat) : Bool :=
  let ok (x : Nat) : Bool := x / 2 ^ 40 == 1 && x / 2 ^ 39 % 2 == 0 && x / 2 ^ 37 % 4 == die
  ok a.toNat && ok (a.toNat + n - 1)

/-- Bytes of the stored range of a window. -/
def storedBytes (w : Window) : Nat :=
  if isLam (wcStype w) then (wcNelem w + 255) / 256 * 32 * lamPlanes (wcStype w)
  else (wcNelem w * typeBits (wcStype w) + 7) / 8

/-- What an enabling write of FMT.WCTL raises (R352). A WSTORE or WSCALE off its alignment counts as a range that does not
lie where R350 puts it: log 11. -/
def windowFault (p : Partition) (die : Nat) (w : Window) : Option Flt :=
  let blk := wcBlk w
  if !p.dies.getLsbD die then some (cPROT, 0)
  else if w.store.toNat % 512 ≠ 0 ∨ !onDie w.store (storedBytes w) die ∨
      (blk ≠ 0 ∧ (w.scale.toNat % 64 ≠ 0 ∨ !onDie w.scale ((wcNelem w + blk - 1) / blk) die)) then some (cFORMAT, 1)
  else if !windowPairOk w ∨ wcNelem w = 0 ∨ 2 ^ 32 < wcNelem w * (typeBits (wcVtype w) / 8) then some (cFORMAT, 2)
  else none

/-- The fault that a write of FMT register i raises (R352). -/
def fmtFault (p : Partition) (x : XlatRegs) (i : Nat) (v : W) : Option Flt :=
  let w := wselWindow x
  let on := w.ctl.getLsbD 31
  if i = 0 then none
  else if on && (i != 3 || v.getLsbD 31) then some (cFORMAT, 3)
  else if i = 3 ∧ v.getLsbD 31 = true then windowFault p (field x.wsel 8 2) { w with ctl := v }
  else none

/-- The ports other than k that are FAR. -/
def farPorts (s : State) (k : Nat) : List Nat :=
  (List.range 16).filter (fun j => j != k && (s.pkg.ports[j]?).any (fun r => r.mode == 2))

/-- Port k cannot be set to a mode (R401, R402). Mode 3 is reserved (log 37). -/
def modeRefused (s : State) (k : Nat) (q : LinkPort) (m : BitVec 2) : Bool :=
  m == 3 || (q.up && m != q.mode) || (m == 2 && (q.wlen == 0 || decide (8 ≤ (farPorts s k).length)))

/-- The fault that a write of LINK register i raises (R401, R402). A WLEN of 0 is refused at a FAR port as FAR is at a WLEN of 0
(log 37). -/
def linkFault (s : State) (i : Nat) (v : W) : Option Flt :=
  let q := selPort s
  if i = 2 ∧ modeRefused s s.pkg.psel.toNat q (v.extractLsb' 0 2) = true then some (cPROT, 0)
  else if i = 4 ∧ q.mode = 2 ∧ v.extractLsb' 0 17 = 0 then some (cPROT, 0)
  else none

/-- The fault that a write of PWR register i raises (R406). -/
def pwrFault (i : Nat) (v : W) : Option Flt :=
  match i with
  | 0 => if field v 0 2 = 3 then some (cPROT, 0) else none
  | 1 => if field v 0 12 < 300 ∨ 2400 < field v 0 12 then some (cPROT, 0) else none
  | _ => none

/-- The fault that a write of PMC register i raises (R386, R387). -/
def pmcFault (i : Nat) (v : W) : Option Flt :=
  if 1 ≤ i ∧ i ≤ 8 then (if 10 < field v 0 8 then some (cPROT, 0) else none)
  else if i = 18 then
    (let r := field v 0 5
     if (1 ≤ r ∧ r ≤ 11) ∨ 30 < r then some (cPROT, 0) else none)
  else none

/-- SAVEBASE must name region 0x01 on a stack of the partition, or be 0 (R379). -/
def savebaseOk (p : Partition) (v : W) : Bool :=
  let a := (v &&& frameMask).toNat
  a == 0 || (a / 2 ^ 40 == 1 && a / 2 ^ 39 % 2 == 0 && p.hbm.getLsbD (a / 2 ^ 36 % 8))

/-- The fault of a write of any register, privilege first (R327). A SUPER write that would change CKP.CTL.REPLAY raises
PRIV: log 12. -/
def sysFault (s : State) (t : Nat) (g : BitVec 4) (i : BitVec 6) (v : W) : Option Flt :=
  match aget s.threads t with
  | none => none
  | some th =>
    match aget s.ctxs (asidOf th) with
    | none => none
    | some c =>
      let p := (aget s.parts c.part).getD (Partition.fresh 0 0 0)
      let n := i.toNat
      if th.regs.priv.toNat < (writeLevel g i).toNat then some (cPRIV, 0)
      else
        match g.toNat with
        | 0 =>
          if n = 8 then (if field v 0 2 = 0 then some (cNBV, 0) else none)
          else if n = 9 then
            (if field v 2 2 = 3 ∨ th.regs.priv.toNat < field v 2 2 then some (cPRIV, 0) else none)
          else if n = 14 then
            (if field v 0 12 ≠ asidOf th ∧ (aget s.ctxs (field v 0 12)).isSome then some (cPROT, 0) else none)
          else none
        | 1 =>
          if 6 ≤ n ∧ (pbEntry c.xlat).valid = true ∧ ¬(n = 7 ∧ v.getLsbD 0 = false) then some (cPROT, 0) else none
        | 2 => fmtFault p c.xlat n v
        | 4 => if n = 3 ∧ !savebaseOk p v then some (cPROT, 0) else none
        | 5 => pmcFault n v
        | 7 => if n = 0 ∧ v.getLsbD 1 ≠ c.log.ckctl.getLsbD 1 ∧ th.regs.priv ≠ lMGMT then some (cPRIV, 0) else none
        | 8 => linkFault s n v
        | 9 => pwrFault n v
        | _ => none

/-! ### What a write changes, at the commit (R5) -/

/-- CTX.ASID (R331): the context and everything that belongs to it goes by its new ASID. -/
def renameAsid (s : State) (a b : Nat) : State :=
  let crew (c : CrewId) : CrewId := if c.asid = a then { c with asid := b } else c
  match aget s.ctxs a with
  | none => s
  | some c =>
    if a = b then s
    else
      { s with
        ctxs := aset (adel s.ctxs a) b c,
        threads := s.threads.map (fun e => (e.1, { e.2 with home := { e.2.home with crew := crew e.2.home.crew } })),
        cells := s.cells.map (fun e => (e.1, { e.2 with crew := crew e.2.crew })),
        esets := s.esets.map (fun e => (e.1, { e.2 with crew := crew e.2.crew })),
        regions := s.regions.map (fun r => if r.asid = a then { r with asid := b } else r),
        colls := s.colls.map (fun e => (e.1, if e.2.asid = a then { e.2 with asid := b } else e.2)),
        fl := { s.fl with shapes := s.fl.shapes.map (fun m => if m.asid = a then { m with asid := b } else m),
                          walks := s.fl.walks.map (fun m => if m.asid = a then { m with asid := b } else m) } }

/-- CTX.SLICE (R374): a value from 1 to 74,999 writes 75,000 and sets SLCLAMP. -/
def writeSlice (r : CtxRegs) (v : W) : CtxRegs :=
  let n := field v 0 32
  if 0 < n ∧ n < Config.quantumFloor then { r with slice := BitVec.ofNat 32 Config.quantumFloor, slclamp := true }
  else { r with slice := v.extractLsb' 0 32 }

/-- The per-thread CTX registers after a write. -/
def writeThreadCtx (r : ThreadRegs) (i : Nat) (v : W) : ThreadRegs :=
  match i with
  | 1 => writeFlags r v
  | 2 => writeExcnt r v
  | 4 => { r with ovfptr := v &&& 0xFFFFFFFFFFFFFFF8#64 }
  | 5 => { r with mbovr := r.mbovr &&& ~~~(v.extractLsb' 0 16) }
  | 6 => { r with irNext := v.extractLsb' 0 32, irEnd := v.extractLsb' 32 32 }
  | 8 => { r with nbv := v.extractLsb' 0 2 }
  | 9 => { r with intrap := v.getLsbD 4, ppriv := v.extractLsb' 2 2 }
  | 12 => { r with trappc := v &&& 0xFFFFFFFFFFFFFFF0#64 }
  | _ => r

/-- The per-context CTX registers after a write. -/
def writeContextCtx (r : CtxRegs) (i : Nat) (v : W) : CtxRegs :=
  match i with
  | 7 => { r with probe := v.extractLsb' 0 32 }
  | 9 => if v.getLsbD 8 then { r with slclamp := false } else r
  | 13 => { r with trapvec := v &&& 0xFFFFFFFFFFFFFFF0#64 }
  | 15 => { r with traplog := v &&& 0xFFFFFFFFFFFFF01F#64 }
  | 17 => writeSlice r v
  | _ => r

/-- The selected publishable-buffer entry after a write (R338). -/
def writePb (b : PubBuf) (i : Nat) (v : W) : PubBuf :=
  match i with
  | 6 => { b with va := v &&& 0x00FFFFFFFFFFF000#64 }
  | 7 => { b with len := field v 12 28, valid := v.getLsbD 0 }
  | 8 => { b with pa0 := v &&& frameMask }
  | _ => { b with pa1 := v &&& frameMask }

/-- XLAT after a write (R333, R338, R340, R342). -/
def writeXlat (x : XlatRegs) (i : Nat) (v : W) : XlatRegs :=
  match i with
  | 0 => { x with root := v &&& frameMask }
  | 1 => { x with demand := v.getLsbD 0 }
  | 2 => { x with prq := v &&& 0x0000FFFFFFFFF00F#64 }
  | 3 => x
  | 4 => { x with resume := v &&& 0x00000001FFFFFFFF#64 }
  | 5 => { x with pbsel := v.extractLsb' 0 6 }
  | k => { x with bufs := modAt x.bufs x.pbsel.toNat (fun b => writePb b k v) }

/-- A release of page requests (R342): every one, or the one of a sequence number. Each released access walks again as it
is tried; a fresh miss makes a new request. -/
def releaseReqs (c : Context) (v : W) : Context :=
  { c with reqs := if v.getLsbD 32 then [] else c.reqs.filter (fun q => q.seq != v.extractLsb' 0 32) }

/-- FMT after a write (R350 to R352). Decoded lines are never kept, so there is none to drop. -/
def writeFmt (x : XlatRegs) (i : Nat) (v : W) : XlatRegs :=
  let w := wselWindow x
  match i with
  | 0 => { x with wsel := v &&& 0x000000000000033F#64 }
  | 1 => { x with windows := aset x.windows (wselKey x) { w with store := v &&& 0x0000FFFFFFFFFFFF#64 } }
  | 2 => { x with windows := aset x.windows (wselKey x) { w with scale := v &&& 0x0000FFFFFFFFFFFF#64 } }
  | _ => { x with windows := aset x.windows (wselKey x) { w with ctl := v &&& 0xFFFFFFFFC3FFFF00#64 } }

/-- Counter k is written in this cycle: what its events find is noted once (R388). -/
def wroteCounter (p : PmcRegs) (k : Nat) : PmcRegs :=
  { p with wrote := if (aget p.wrote k).isSome then p.wrote else aset p.wrote k (counterNow p k) }

/-- PMC after a write (R386). An OVF bit that is set in the cycle of the write that would clear it stays set (R388). -/
def writePmc (p : PmcRegs) (i : Nat) (v : W) : PmcRegs :=
  if i = 0 then { p with ctl := v.extractLsb' 0 3 }
  else if i < 9 then { wroteCounter p (i - 1) with evt := p.evt.set (i - 1) (v.extractLsb' 0 9) }
  else if i < 17 then { wroteCounter p (i - 9) with cnt := p.cnt.set (i - 9) (v.extractLsb' 0 48) }
  else if i = 17 then { p with ovf := p.ovf &&& ~~~(v.extractLsb' 0 8 &&& ~~~p.setNow) }
  else if i = 18 then { p with sbase := v &&& 0xFFFFFFFFFFFFF01F#64, swr := 0, srd := 0 }
  else if i = 19 then p
  else if i = 20 then { p with srd := v }
  else if i = 21 then { p with sper := v.extractLsb' 0 32 }
  else if i = 22 then { p with lost := v.extractLsb' 0 32 }
  else { p with brk := p.brk.set (i - 23) (brkValue p (i - 23) v) }

/-- CPR's per-context registers after a write (R394). -/
def writeCpr (l : LogRegs) (i : Nat) (v : W) : LogRegs :=
  match i with
  | 4 => { l with rbase := v &&& 0xFFFFFFFFFFFFF01F#64 }
  | 6 => { l with rrd := v }
  | 7 => { l with rdrop := v.extractLsb' 0 32 }
  | _ => l

/-- CKP after a write (R395). The periods of R396 count from the write that sets EN. -/
def writeCkp (now : Nat) (l : LogRegs) (i : Nat) (v : W) : LogRegs :=
  match i with
  | 0 => { l with ckctl := v.extractLsb' 0 2, epochAt := if v.getLsbD 0 && !l.ckctl.getLsbD 0 then now else l.epochAt }
  | 1 => { l with period := v.extractLsb' 0 16 }
  | 2 => { l with align := v.extractLsb' 0 32 }
  | 3 => { l with lbase := v &&& 0xFFFFFFFFFFFFF000#64 }
  | 4 => { l with llen := v &&& 0x000000FFFFFFF000#64 }
  | 6 => { l with lrd := v }
  | _ => l

/-- Install the staged key (R402): it is the newest, so that the port sends with it, from its first packet number on; the port accepts under
its two newest. -/
def installKey (q : LinkPort) (an : BitVec 2) : LinkPort :=
  { q with keys := (⟨an, q.staging, 0⟩ :: q.keys.filter (fun k => k.an != an)).take 2, txPn := 0, staging := List.replicate 4 0 }

/-- A port after a write of its LINK register (R402). -/
def writePort (q : LinkPort) (i : Nat) (v : W) : LinkPort :=
  match i with
  | 2 => { q with lat := v.extractLsb' 32 32, retryMax := v.extractLsb' 16 16, mode := v.extractLsb' 0 2 }
  | 3 => { q with wbase := v &&& frameMask }
  | 4 => { q with wlen := v.extractLsb' 0 17 }
  | 9 =>
    let q1 := { q with ssci := v.extractLsb' 32 32, an := v.extractLsb' 4 2 }
    if v.getLsbD 0 then installKey q1 (v.extractLsb' 4 2) else q1
  | k => { q with staging := q.staging.set (k - 5) v }

/-- What measurement 5 covers (R405): the partitions' layout and the ports' modes. -/
def layoutBytes (s : State) : List Byte :=
  s.parts.flatMap (fun e => leBytes 2 (e.2.dies.toNat + 16 * e.2.gran.toNat + 256 * e.2.hbm.toNat)) ++
  s.pkg.ports.map (fun q => BitVec.ofNat 8 q.mode.toNat)

/-- Measurement 5 is taken again (R405). -/
def remeasure (s : State) : State :=
  { s with pkg := { s.pkg with measure := s.pkg.measure.set 4 (Config.sha384 (layoutBytes s)) } }

/-- LINK after a write (R402). A write of PCTL is a MODE change for measurement 5 (R405). -/
def writeLink (s : State) (i : Nat) (v : W) : State :=
  match i with
  | 0 => s
  | 1 => { s with pkg := { s.pkg with psel := v.extractLsb' 0 4 } }
  | 10 => { s with pkg := { s.pkg with peersel := v.extractLsb' 0 16 } }
  | 11 =>
    let e : Peer := ⟨v.getLsbD 63, v.getLsbD 62, v.extractLsb' 16 16, v.extractLsb' 0 14⟩
    { s with pkg := { s.pkg with peers := aset s.pkg.peers s.pkg.peersel.toNat e } }
  | 2 => remeasure { s with pkg := { s.pkg with ports := modAt s.pkg.ports s.pkg.psel.toNat (fun q => writePort q 2 v) } }
  | k => { s with pkg := { s.pkg with ports := modAt s.pkg.ports s.pkg.psel.toNat (fun q => writePort q k v) } }

/-- PWR after a write (R406). -/
def writePwr (s : State) (i : Nat) (v : W) : State :=
  match i with
  | 0 => { s with pkg := { s.pkg with pwr := { s.pkg.pwr with mode := v.extractLsb' 0 2 } } }
  | 1 => { s with pkg := { s.pkg with pwr := { s.pkg.pwr with cap := v.extractLsb' 0 12 } } }
  | _ => s

/-- The dies of a mask, lowest first. -/
def lowDie (m : BitVec 4) : Nat := ((List.range 4).find? (fun k => m.getLsbD k)).getD 4

/-- A write of PART.MERGE with GO (R381, R382): the handshake starts, or REASON 4 refuses it at once. -/
def startMerge (s : State) (k : Nat) : State :=
  match aget s.parts k with
  | none => s
  | some p =>
    match s.parts.find? (fun e => e.1 != k && e.2.live && e.2.dies == p.merge.other) with
    | some (j, o) =>
      if lowDie p.dies < lowDie o.dies then
        { (updPart s k (fun x => { x with merge := { x.merge with state := 1, go := true, reason := 0, since := s.cycle } })) with
          ctxs := s.ctxs.map (fun e => (e.1, if e.2.part = k ∨ e.2.part = j then { e.2 with merging := true } else e.2)) }
      else updPart s k (fun x => { x with merge := { x.merge with state := 3, go := false, reason := 4 } })
    | none => updPart s k (fun x => { x with merge := { x.merge with state := 3, go := false, reason := 4 } })

/-- PART after a write (R379). -/
def writePart (s : State) (asid k i : Nat) (v : W) : State :=
  match i with
  | 0 => if v.getLsbD 8 then updCtx s asid (fun c => { c with regs := { c.regs with nosave := false } }) else s
  | 3 => updCtx s asid (fun c => { c with regs := { c.regs with savebase := v &&& frameMask } })
  | 4 => updCtx s asid (fun c => { c with regs := { c.regs with savelen := v.extractLsb' 0 28 } })
  | 5 => updPart s k (fun p => { p with age := v.extractLsb' 0 32 })
  | 6 =>
    let s1 := updPart s k (fun p => { p with merge := { p.merge with other := v.extractLsb' 0 4 } })
    (match aget s.parts k with
     | some p => if v.getLsbD 8 && p.merge.state != 1 then startMerge s1 k else s1
     | none => s1)
  | 7 => updPart s k (fun p => { p with merge := { p.merge with qwait := v.extractLsb' 0 32 } })
  | _ => s

/-- A register after a write, field by field (R5, R327). -/
def sysWrite (s : State) (t : Nat) (g : BitVec 4) (i : BitVec 6) (v : W) : State :=
  match aget s.threads t with
  | none => s
  | some th =>
    let a := asidOf th
    match aget s.ctxs a with
    | none => s
    | some c =>
      let n := i.toNat
      match g.toNat with
      | 0 =>
        if n = 14 then renameAsid s a (field v 0 12)
        else
          updCtx (updThread s t (fun x => { x with regs := writeThreadCtx x.regs n v })) a
            (fun x => { x with regs := writeContextCtx x.regs n v })
      | 1 => updCtx s a (fun x => (if n = 4 then releaseReqs { x with xlat := writeXlat x.xlat n v } v
          else { x with xlat := writeXlat x.xlat n v }))
      | 2 => updCtx s a (fun x => { x with xlat := writeFmt x.xlat n v })
      | 3 => updPart s c.part (fun p => { p with idle := v.extractLsb' 0 32 })
      | 4 => writePart s a c.part n v
      | 5 => updCtx s a (fun x => { x with pmc := { writePmc x.pmc n v with sampledAt := if n = 0 ∨ n = 21 then s.cycle else x.pmc.sampledAt } })
      | 6 => if n < 4 then { s with pkg := { s.pkg with etab := s.pkg.etab.set n (v &&& 0x0000FFFFFFC00000#64) } }
             else updCtx s a (fun x => { x with log := writeCpr x.log n v })
      | 7 => updCtx s a (fun x => { x with log := writeCkp s.cycle x.log n v })
      | 8 => writeLink s n v
      | _ => writePwr s n v

/-! ### The instructions -/

/-- The snapshot value of a system register (R109, R327). -/
def snapSys (b : Block) (g : BitVec 4) (i : BitVec 6) : W :=
  match b.sys.find? (fun e => e.1 == (g ++ i : BitVec 10)) with
  | some e => e.2
  | none => 0

/-- SYSRD (R327). -/
def execSysrd (t : Target) (g : BitVec 4) (n : BitVec 6) (p : Pm) (s : State) : Host.Outcome State Fault Refusal :=
  .next (fire s (.sysrd t g n p) (fun q =>
    if q.th.regs.priv.toNat < (readLevel g n).toNat then .fault s cPRIV 0 q.b.addr
    else .done s (deliver q.b q.k t (snapSys q.b g n))))

/-- SYSWR (R327): checked as it fires, written at commit. -/
def execSyswr (g : BitVec 4) (n : BitVec 6) (p : Pm) (s : State) : Host.Outcome State Fault Refusal :=
  .next (fire s (.syswr g n p) (fun q =>
    match sysFault s q.t g n (q.sl.l.getD 0) with
    | some f => .fault s f.1 f.2 q.b.addr
    | none => .done s (addEff q.b (.sysw g n (q.sl.l.getD 0)))))

/-- The thread that a context's own register write stands for: any thread of it. -/
def someThread (s : State) (a : Nat) : Option Nat :=
  match s.threads.find? (fun e => asidOf e.2 == a) with
  | some e => some e.1
  | none => none

/-- A write to a register of a context, by its handle alone. -/
def ctxWrite (s : State) (a : Nat) (f : Context → Context) : State := updCtx s a f

/-- XLAT_RESUME_WRITE (R342). -/
def execXlatResumeWrite (a : Nat) (v : W) (s : State) : Host.Outcome State Fault Refusal :=
  .next (ctxWrite s a (fun c => releaseReqs { c with xlat := writeXlat c.xlat 4 v } v))
/-- FMT_WCTL_WRITE (R352): the selected window is enabled after its checks, or disabled. -/
def execFmtWctlWrite (a : Nat) (v : W) (s : State) : Host.Outcome State Fault Refusal :=
  .next (match aget s.ctxs a, partOf s a with
    | some c, some p =>
      (match fmtFault p c.xlat 3 v with
       | some _ => s
       | none => ctxWrite s a (fun x => { x with xlat := writeFmt x.xlat 3 v }))
    | _, _ => s)
/-- KEY_INSTALL (R402): a write of KCTL with INSTALL 1. -/
def execKeyInstall (v : W) (s : State) : Host.Outcome State Fault Refusal :=
  .next (if v.getLsbD 0 then writeLink s 9 v else s)
/-- LINK_MODE_WRITE (R401, R402): a write of PCTL after its checks. -/
def execLinkModeWrite (v : W) (s : State) : Host.Outcome State Fault Refusal :=
  .next (match linkFault s 2 v with
    | some _ => s
    | none => writeLink s 2 v)
/-- PMC_SBASE_WRITE (R386). -/
def execPmcSbaseWrite (a : Nat) (v : W) (s : State) : Host.Outcome State Fault Refusal :=
  .next (match pmcFault 18 v with
    | some _ => s
    | none => ctxWrite s a (fun c => { c with pmc := writePmc c.pmc 18 v }))
/-- CTX_SLICE_WRITE (R374). -/
def execCtxSliceWrite (a : Nat) (v : W) (s : State) : Host.Outcome State Fault Refusal :=
  .next (ctxWrite s a (fun c => { c with regs := writeSlice c.regs v }))
/-- CTX_NBV_WRITE (R330): 0 takes the NBV trap. -/
def execCtxNbvWrite (t : Nat) (v : W) (s : State) : Host.Outcome State Fault Refusal :=
  .next (match aget s.threads t with
    | none => s
    | some th =>
      if field v 0 2 = 0 then takeTrap (abandon s t) t ⟨cNBV, 0, 0, false, th.pc⟩ th.pc else sysWrite s t 0 8 v)
/-- CTX_ASID_WRITE (R331): by a MGMT thread, to an ASID that is not live elsewhere; a live one takes the PROT trap. -/
def execCtxAsidWrite (t : Nat) (v : W) (s : State) : Host.Outcome State Fault Refusal :=
  .next (match aget s.threads t with
    | none => s
    | some th =>
      match sysFault s t 0 14 v with
      | some f => takeTrap (abandon s t) t ⟨f.1, f.2, 0, false, th.pc⟩ th.pc
      | none => sysWrite s t 0 14 v)
/-- PWR_WRITE (R406): MODE or CAP after its range check. -/
def execPwrWrite (i : Nat) (v : W) (s : State) : Host.Outcome State Fault Refusal :=
  .next (match pwrFault i v with
    | some _ => s
    | none => writePwr s i v)
end Sys2Proof.Machine
end

