-- ==== Sys2Proof/Machine/Fetch.lean ====
section
/-! DEFINITION. Starting a block (R109): breakpoints (R392), the fetch (R71), the block-load checks (R67, R68, R73 to R76,
R108, R327), the MWAIT gate (R126) and the snapshot. -/

namespace Sys2Proof.Machine

/-! ### Block-load checks -/

/-- EXIT of a branch (R72). -/
def instrExit (i : Instr) : Option Nat :=
  match i with
  | .br _ e _ | .call _ e _ => some e.toNat
  | .brx e _ | .callx e _ | .ret e _ | .stop e _ | .tret e _ => some e.toNat
  | _ => none

/-- What two instructions may write only on opposite polarities of one producer (R108, R327): a global register, a
mailbox, a system register. -/
def writeKey (i : Instr) : Option (Nat × Nat) :=
  match i with
  | .gwr n _ => some (0, n.toNat)
  | .mwr n _ => some (1, n.toNat)
  | .syswr g n _ => some (2, g.toNat * 64 + n.toNat)
  | _ => none

/-- A defect that block load finds: in the header, or in a slot. -/
inductive LoadFault where
  | header
  | slot (k : Nat)
  deriving DecidableEq, Repr

/-- The instructions of a block, by slot. -/
abbrev Instrs := List Instr

/-- The targets that name a port: producing slot and which of T0 and T1. -/
def namers (is : Instrs) (k : Nat) (p : TPort) : List (Nat × Nat) :=
  (List.range is.length).flatMap (fun j => match is[j]? with
    | none => []
    | some i => (List.range 2).filterMap (fun n => match (instrTargets i)[n]? with
      | some t => if t.port = p ∧ t.slot.toNat = k then some (j, n) else none
      | none => none))

/-- Predicated with opposite polarities on the same producer (R76). -/
def oppositePolarity (is : Instrs) (j k : Nat) : Bool :=
  match is[j]?, is[k]? with
  | some a, some b =>
    ((instrPm a == .onTrue && instrPm b == .onFalse) || (instrPm a == .onFalse && instrPm b == .onTrue)) &&
    (match namers is j .x, namers is k .x with
     | [x], [y] => x.1 == y.1 && x.2 != y.2
     | _, _ => false)
  | _, _ => false

/-- A target is legal (R73). -/
def targetOk (is : Instrs) (k : Nat) (t : Target) : Bool :=
  match t.port with
  | .none => true
  | p => t.slot.toNat != k && (match is[t.slot.toNat]? with
    | some c => (neededPorts c).contains p
    | none => false)

/-- The slots that no remaining slot feeds are removed, on fuel; what is left stands on a cycle. -/
def acyclicGo (is : Instrs) : Nat → List Nat → Bool
  | 0, left => left.isEmpty
  | n + 1, left =>
    let next := left.filter (fun k => left.any (fun j => match is[j]? with
      | some i => (instrTargets i).any (fun t => t.port != .none && t.slot.toNat == k)
      | none => false))
    if next.length = left.length then left.isEmpty else acyclicGo is n next

/-- The slots that a slot's targets name. -/
def feedsSlots (is : Instrs) (k : Nat) : List Nat :=
  (is[k]?).elim [] (fun i => ((instrTargets i).filter (fun t => t.port != .none)).map (fun t => t.slot.toNat))

/-- The slots that can be reached from some slots, on fuel. -/
def reachSlots (is : Instrs) : Nat → List Nat → List Nat
  | 0, ks => ks
  | n + 1, ks =>
    match ((ks.flatMap (feedsSlots is)).filter (fun k => !ks.contains k)).dedup with
    | [] => ks
    | more => reachSlots is n (ks ++ more)

/-- The slots that stand on a cycle of targets (R73). -/
def cyclicSlots (is : Instrs) : List Nat :=
  if acyclicGo is is.length (List.range is.length) then []
  else (List.range is.length).filter (fun k => (reachSlots is is.length (feedsSlots is k)).contains k)

/-- The first slot that fails a test. -/
def firstBad (n : Nat) (f : Nat → Bool) : Option Nat := (List.range n).find? (fun k => !f k)

/-- The header fields that R67 and R68 check. -/
def headerOk (h : BitVec 128) : Bool :=
  (h.extractLsb' 0 4) == 1 && (h.extractLsb' 11 5) == 0 && (h.extractLsb' 25 7) == 0 && (h.extractLsb' 96 32) == 0 &&
  decide (1 ≤ (h.extractLsb' 21 4).toNat) && decide ((h.extractLsb' 21 4).toNat ≤ 8) && !h.getLsbD 32

/-- NST and NEXIT of a header (R68). -/
def hdrNst (h : BitVec 128) : Nat := (h.extractLsb' 16 5).toNat
/-- NEXIT. -/
def hdrNexit (h : BitVec 128) : Nat := (h.extractLsb' 21 4).toNat

/-- What a slot breaks by itself or against an earlier slot (R73, R76, R108, R327). -/
def slotOk (h : BitVec 128) (is : Instrs) (k : Nat) : Bool :=
  match is[k]? with
  | none => false
  | some i =>
    (instrTargets i).all (targetOk is k) &&
    (neededPorts i).all (fun p => !(namers is k p).isEmpty) &&
    (match instrLsid i with
     | some l => decide (l < hdrNst h) && (List.range k).all (fun j => match is[j]? with
         | some x => if instrLsid x = some l then oppositePolarity is j k else true
         | none => true)
     | none => true) &&
    (match instrExit i with
     | some e => decide (e < hdrNexit h)
     | none => true) &&
    (match i with
     | .gwr n _ => n != 0 && h.getLsbD (32 + n.toNat)
     | _ => true) &&
    (match writeKey i with
     | some w => (List.range k).all (fun j => match is[j]? with
         | some x => if writeKey x = some w then oppositePolarity is j k else true
         | none => true)
     | none => true)

/-- The first defect of a block whose words decode: the lowest slot, where one of a cycle's slots is each that stands on it, then
what the header names (log 14). -/
def loadFault (h : BitVec 128) (is : Instrs) : Option LoadFault :=
  let cyc := cyclicSlots is
  match firstBad is.length (fun k => slotOk h is k && !cyc.contains k) with
  | some k => some (.slot k)
  | none =>
    if !(List.range (hdrNst h)).all (fun l => is.any (fun i => instrLsid i == some l)) then some .header
    else if !(List.range (hdrNexit h)).all (fun e => is.any (fun i => instrExit i == some e)) then some .header
    else if !is.any (fun i => (instrExit i).isSome) then some .header
    else none

/-- The words of a block, decoded; or the first slot whose word is no instruction (R82). -/
def decodeAll : Nat → List Word32 → Except Nat Instrs
  | _, [] => .ok []
  | k, w :: ws =>
    match decode w with
    | .error _ => .error k
    | .ok i =>
      match decodeAll (k + 1) ws with
      | .error j => .error j
      | .ok is => .ok (i :: is)

/-- The first n 32-bit words of a byte list. -/
def words32 : Nat → List Byte → List Word32
  | 0, _ => []
  | n + 1, bs => BitVec.ofNat 32 (leVal (bs.take 4)) :: words32 n (bs.drop 4)

/-! ### The fetch -/

/-- The bytes of a fetch; none where it cannot be translated or read (R71). No rule says whether a block can be fetched from a page
at PEER or HOST scope: the model takes such a fetch as one that cannot be read (DESIGN CHOICE, log 42). -/
def fetchBytes (s : State) (w : Who) (k : AccKind) (va : W) (n : Nat) : Option (List Byte) :=
  match piecesOf s w k va n with
  | .error _ => none
  | .ok ps =>
    if ps.any (fun p => isRemote p.1.loc || locPoisoned s w.asid p.1.loc p.2) then none
    else some (ps.flatMap (fun p => locBytes s w.asid s.mem.bytes p.1.loc p.2))

/-- The places of a fetch in memory. -/
def fetchSpans (s : State) (w : Who) (k : AccKind) (va : W) (n : Nat) : List (Nat × Nat) :=
  match piecesOf s w k va n with
  | .error _ => []
  | .ok ps => ps.flatMap (fun p => locSpans s w.asid p.1.loc p.2)

/-- A load event over places: its timestamp and the memory with the leases (R246). -/
def loadEvent (m : Memory) (pts : Nat) (spans : List (Nat × Nat)) : Nat × Memory :=
  let ts := spans.foldl (fun t p => m.loadTs t p.1 p.2) pts
  (ts, spans.foldl (fun x p => x.leased ts p.1 p.2) m)

/-- The system registers that the block's SYSRDs name, as they are at the snapshot (R109). -/
def snapshotSys (s : State) (t : Nat) (is : Instrs) : List (BitVec 10 × W) :=
  is.filterMap (fun i => match i with
    | .sysrd _ g n _ => some ((g ++ n : BitVec 10), sysRead s t g n)
    | _ => none)

/-- The mailboxes that the block's MWAITs name (R126). -/
def mwaitSet (is : Instrs) : List (BitVec 4) :=
  is.filterMap (fun i => match i with
    | .mwait _ n => some n
    | _ => none)

/-- A block as it is fetched, before its snapshot. -/
def freshBlock (addr : W) (h : BitVec 128) (ws : List Word32) : Block :=
  { addr := addr, hdr := h, slots := ws.map (fun w => ⟨w, none, none, none, .waiting⟩), gs := Vector.replicate 64 0,
    ms := Vector.replicate 16 0, mfull := 0, sys := [], irange := 0, regs := ThreadRegs.reset, born := 0, landed := 0, accs := [], predicted := [],
    recs := [], effs := [], effBy := [], choice := none, branches := 0, dz := false, faults := [], gateAt := 0 }

/-- The snapshot (R109). -/
def snapshotOf (s : State) (t : Nat) (th : Thread) (b : Block) : Block :=
  let is := b.slots.filterMap slotInstr
  { b with gs := th.gs, ms := th.ms, mfull := th.mfull, sys := snapshotSys s t is,
           irange := th.regs.irEnd ++ th.regs.irNext, regs := th.regs, born := s.nextId, landed := 0 }

/-- The edge of a satisfied MWAIT names the writer that made the last of the mailboxes full (R150); the block follows every one of
the writers (R247). -/
def mwaitEdge (s : State) (t : Nat) (th : Thread) (ns : List (BitVec 4)) (waited : Nat) : State :=
  match ns with
  | [] => s
  | _ =>
    let es := th.mbSig.filter (fun e => ns.any (fun n => n.toNat == e.1))
    match es.getLast? with
    | some e => endWaitThread s t { e.2.1 with pts := es.foldl (fun p x => max p x.2.1.pts) 0 } (if e.2.2.2 then 9 else 1) e.2.2.1 waited
    | none => endWaitThread s t Sig.zero 1 0 waited

/-- Take the snapshot: the block runs. -/
def startBlock (s : State) (t : Nat) : State :=
  updThread s t (fun th => { th with
    mode := .ready,
    thieves := th.thieves.map (fun e => (e.1, true)),
    block := match th.block with
      | some b => some (snapshotOf s t th b)
      | none => none })

/-- A YIELD's wait without a thread that has started a block. -/
def startedWait (t : Nat) (w : Waiting) : Waiting :=
  match w with
  | .yield left => .yield (left.filter (fun x => x != t))
  | w => w

/-- Another thread of the cluster has started a block: a YIELD waits for it no more (R148). -/
def noteStart (s : State) (t : Nat) : State :=
  match aget s.threads t with
  | none => s
  | some th =>
    { s with
      lastStarted := aset s.lastStarted th.home.cluster th.home.slot,
      threads := s.threads.map (fun e => match e.2.mode with
        | .trailing ws a => (e.1, { e.2 with mode := .trailing (ws.map (startedWait t)) a })
        | _ => e) }

/-- The breakpoint that matches the block about to be fetched (R392). -/
def breakHit (c : Context) (th : Thread) : Option Nat :=
  if th.regs.intrap || c.log.ckctl.getLsbD 1 || th.brkSkip == some th.pc then none
  else (List.range 4).find? (fun k =>
    let a := c.pmc.brk.getD (2 * k) 0
    a.getLsbD 0 && !a.getLsbD 1 && a.extractLsb' 4 60 == th.pc.extractLsb' 4 60)

/-- A trailing wait's kind in a THREAD section (R368). -/
def waitKind (w : Waiting) : Nat :=
  match w with
  | .drain _ _ => 1
  | .steal _ => 2
  | .yield _ => 3
  | .msendw _ => 4
  | .tlbi _ _ _ _ => 5
  | .ctxsave _ _ _ => 6
  | .ctxload _ _ => 7

/-- STATE of a THREAD section (R368). -/
def stateWord (th : Thread) : W :=
  match th.mode with
  | .halted => 1
  | .fallen => 1
  | .proofHeld _ => 2
  | .trailing ws _ => w64 (3 + 256 * (ws.head?.elim 0 waitKind))
  | _ => 0

/-- WAITARG of a THREAD section, the device's own record (R368): in [63:61] the EXIT of the branch that the thread's last block took, so that
dumps and the peat log carry it (R113: DESIGN CHOICE, log 20); in [60:32] the place, counted from 1, of what the device keeps of the thread
beside the section, or 0; in [31:0] the thread's handle (log 33). -/
def waitArg (t : Nat) (th : Thread) (k : Nat) : W := th.exit ++ BitVec.ofNat 29 k ++ BitVec.ofNat 32 t

/-- The THREAD section of a thread (R368), as 128 words. `k` is the place of what the device keeps beside it. -/
def threadSection (s : State) (t : Nat) (th : Thread) (k : Nat) : List W :=
  let ras := th.ras ++ List.replicate (16 - th.ras.length) 0
  let pc := match th.block with
    | some b => b.addr
    | none => th.pc
  pc :: (th.gs.toList.drop 1 ++ th.ms.toList ++ ras ++
    (List.range 18).map (fun k => sysRead s t 0 (BitVec.ofNat 6 k)) ++
    [(0 : BitVec 48) ++ th.mfull, stateWord th, waitArg t th k, th.label.edge ++ BitVec.ofNat 32 (threadOwn s th),
     (0 : BitVec 32) ++ th.tag] ++ List.replicate 9 0)

/-- The BREAK record of a thread breakpoint, and the DUMP that it asks for (R390, R392, R393). -/
def breakRecords (s : State) (t : Nat) (th : Thread) (k : Nat) : State :=
  let a := asidOf th
  let die := dieOf th.home.cluster
  let coord := (0 : BitVec 32) ++ threadCoord th
  let s1 := sampleRec s a die 5 [w64 k, th.pc, coord]
  match aget s.ctxs a with
  | none => s1
  | some c =>
    if (c.pmc.brk.getD (2 * k) 0).getLsbD 2 then
      sampleRec s1 a die 6 ([coord, w64 th.home.slot, w64 (128 * 65536)] ++ threadSection s t th 0)
    else s1

/-- The thread is ready for the fetch of a block (R377): with none in flight, in a region that runs. -/
def fetchReady (s : State) (th : Thread) : Bool :=
  th.mode == .ready && th.block.isNone && threadRuns s th && (aget s.ctxs (asidOf th)).isSome

/-- The thread is at an MWAIT gate that is satisfied: every mailbox that the held block names is full (R126). -/
def gateMet (s : State) (th : Thread) : Bool :=
  th.mode == .mwait && threadRuns s th &&
    th.block.any (fun b => (mwaitSet (b.slots.filterMap slotInstr)).all (fun n => th.mfull.getLsbD n.toNat))

/-- The thread is ready (R377). -/
def startReady (s : State) (th : Thread) : Bool := fetchReady s th || gateMet s th

/-- Where a thread slot stands in the turn of its cluster: 0 is the one after the slot that was started last (R377). -/
def turnOf (s : State) (h : Home) : Nat := (h.slot + 31 - (aget s.lastStarted h.cluster).getD 15) % 16

/-- No ready thread of the cluster comes before this one (R377). -/
def inTurn (s : State) (th : Thread) : Bool :=
  s.threads.all (fun e => !(e.2.home.cluster == th.home.cluster && startReady s e.2) || decide (turnOf s th.home ≤ turnOf s e.2.home))

/-- The thread may fetch a block: it is ready, and first in the turn of its cluster (R377). -/
def canFetch (s : State) (th : Thread) : Bool := fetchReady s th && inTurn s th

/-- A trap at the start of a block. -/
def fetchTrap (s : State) (t : Nat) (pc : W) (code : BitVec 8) (f : LoadFault) : State :=
  match f with
  | .header => trapOrHold s t ⟨code, 0, 0, true, pc⟩ pc
  | .slot k => trapOrHold s t ⟨code, 0, BitVec.ofNat 7 k, false, pc⟩ pc

/-- What the fetch of a block comes to. -/
inductive Fetched where
  | unreadable
  | bad (f : LoadFault)
  | block (b : Block) (n : Nat)
  deriving Repr

/-- The fetch and the load checks (R67, R68, R71, R76, R82, R113). A launch's thread fetches its window through the shadow (R288).
Padding that is not zero raises DECODE, and R4, R67 and R82 do not say what the fault names: the model names the header, after every
slot has been checked (DESIGN CHOICE, log 42). -/
def fetchBlock (s : State) (th : Thread) (pc : W) : Fetched :=
  if field pc 56 8 ≠ 0 ∨ pc.toNat % 16 ≠ 0 then .unreadable
  else
    match fetchBytes s (whoThread s th pc 16) .fetch pc 16 with
    | none => .unreadable
    | some hb =>
      let h : BitVec 128 := BitVec.ofNat 128 (leVal hb)
      if h.extractLsb' 0 4 ≠ 1 then .bad .header
      else
        let n := blockBytes (hdrNcnt h)
        match fetchBytes s (whoThread s th pc n) .fetch pc n with
        | none => .unreadable
        | some bs =>
          if !headerOk h then .bad .header
          else
            let body := bs.drop 16
            let ws := words32 (hdrNcnt h + 1) body
            match decodeAll 0 ws with
            | .error k => .bad (.slot k)
            | .ok is =>
              match loadFault h is with
              | some f => .bad f
              | none =>
                if (body.drop (4 * (hdrNcnt h + 1))).any (fun x => x != 0) then .bad .header
                else .block (freshBlock pc h ws) n

/-- The fetched block stands in the thread: with an empty mailbox that an MWAIT names it waits and has not started (R125), else it
runs (R126). -/
def installBlock (s : State) (t : Nat) (b : Block) : State :=
  let s1 := updThread s t (fun th => { th with block := some b })
  match aget s1.threads t with
  | none => s1
  | some th =>
    let ns := mwaitSet (b.slots.filterMap slotInstr)
    if ns.all (fun n => th.mfull.getLsbD n.toNat) then startBlock (mwaitEdge (noteStart s1 t) t th ns 0) t
    else updThread (beginWait s1 t) t (fun x => { x with mode := .mwait })

/-- Start a block of a thread (R109, R392). A fetch that traps starts none: the turn of R377 and a YIELD's wait (R148) do not move by it
(DEDUCED, log 39). -/
def startThread (s : State) (t : Nat) (th : Thread) (c : Context) : State :=
  match breakHit c th with
  | some k => trapOrHold (breakRecords s t th k) t ⟨cSOFT, 1, 0, false, th.pc⟩ th.pc
  | none =>
    let s1 := updThread s t (fun x => { x with brkSkip := none })
    match fetchBlock s1 th th.pc with
    | .unreadable => fetchTrap s1 t th.pc cBLOCKFETCH .header
    | .bad f => fetchTrap s1 t th.pc cDECODE f
    | .block b n =>
      let w := whoThread s1 th th.pc n
      let ev := loadEvent s1.mem (max th.pts (bufTs s1 (asidOf th) th.pc)) (fetchSpans s1 w .fetch th.pc n)
      let s2 := fillPages { s1 with mem := ev.2 } w (n / 4096 + 2) th.pc n
      installBlock (updThread s2 t (fun x => { x with pts := ev.1 })) t b

/-- BLOCK_FETCH (R109). -/
def execBlockFetch (t : Nat) (s : State) : Host.Outcome State Fault Refusal :=
  .next (match aget s.threads t with
    | none => s
    | some th =>
      match aget s.ctxs (asidOf th) with
      | none => s
      | some c => if canFetch s th then startThread s t th c else s)

/-- MWAIT_SATISFIED (R126, R377): every mailbox that the held block names is full, and the thread is first in the turn of its
cluster. -/
def execMwaitSatisfied (t : Nat) (s : State) : Host.Outcome State Fault Refusal :=
  .next (match aget s.threads t with
    | none => s
    | some th =>
      match th.block with
      | some b =>
        if gateMet s th && inTurn s th then
          startBlock (mwaitEdge (noteStart s t) t th (mwaitSet (b.slots.filterMap slotInstr)) (s.cycle - th.waitAt)) t
        else s
      | none => s)

end Sys2Proof.Machine
end

