-- ==== Sys2Proof/Machine/Records.lean ====
section
/-! DEFINITION. What several families share: the records that an instruction reads in its block's event (R122), gates
that end (R125, R150), recoverable misses (R341), and the counters of a circular buffer (R188, R189). -/

namespace Sys2Proof.Machine

/-! ### Records that an instruction reads -/

/-- What reading a record comes to: its bytes by place, a fault with its address, or a wait for words of a peer or the
host. -/
inductive RecRead where
  | ok (parts : List (Loc × List Byte))
  | bad (f : Flt) (va : W)
  | wait (s : State) (op : Nat)
  deriving Repr

/-- The bytes of a record that has been read. -/
def recBytes (parts : List (Loc × List Byte)) : List Byte := parts.flatMap (fun p => p.2)

/-- Read the 8-byte words of a record as the thread that fires (R118, R122). A word of a peer or the host is asked for and
waited for; it is read once. -/
def readWords (s : State) (q : Firing) : Nat → W → List (Loc × List Byte) → RecRead
  | 0, _, acc => .ok acc
  | n + 1, va, acc =>
    match resolveThread s q.th .load 8 false va with
    | .error f => .bad f va
    | .ok r =>
      let ask (peer : Nat) (port : Option Nat) (addr : W) : RecRead :=
        match q.b.recs.find? (fun e => e.1 == r.loc) with
        | some e => readWords s q n (va + 8) (acc ++ [e])
        | none => .wait (sendOp s (.threadRec q.t q.k r.loc) peer port false addr (List.replicate 8 0)) s.nextId
      match r.loc with
      | .peer ix pa =>
        (match route s ix with
         | .error f => .bad f va
         | .ok port => ask ix (some port) (w64 pa))
      | .host a => ask 0 (some (hostPort s (asidOf q.th))) (w64 a)
      | .aper _ => .bad (cPROT, 0) va
      | l =>
        if locPoisoned s (asidOf q.th) l 8 then .bad (cPOISON, 0) va
        else if locPacked s l then .bad (cPACKED, 0) va
        else readWords s q n (va + 8) (acc ++ [(l, locBytes s (asidOf q.th) s.mem.bytes l 8)])

/-- A record of n bytes at an address whose alignment has been checked. -/
def readRecord (s : State) (q : Firing) (va : W) (n : Nat) : RecRead := readWords s q (n / 8) va []

/-- The block with what its record read noted, so that the commit can see whether it still holds (R122). -/
def noteRecs (b : Block) (parts : List (Loc × List Byte)) : Block :=
  { b with recs := b.recs ++ parts.filter (fun p => !b.recs.contains p) }

/-- What a STREAM snapshot of a context sees now (R250). -/
def StreamImage.now (s : State) (asid : Nat) : StreamImage :=
  { bytes := s.mem.bytes, poisoned := s.mem.poisoned, badLines := s.mem.badLines,
    packed := s.cells.flatMap (fun e => e.2.pages.map (fun p => (p.store, p.banks.map (fun b => b.packed)))),
    vis := (aget s.ctxs asid).elim [] (fun c => c.xlat.bufs.map (fun b => b.vis)), track := s.mem.track }

/-- The state as the translations of a STREAM see it: each publishable buffer's visible copy is that of the snapshot (R250, R251). -/
def withVis (s : State) (asid : Nat) (im : Option StreamImage) : State :=
  match im with
  | none => s
  | some i => updCtx s asid (fun c => { c with xlat := { c.xlat with
      bufs := (List.range c.xlat.bufs.length).filterMap (fun k => (c.xlat.bufs[k]?).map (fun b => { b with vis := i.vis.getD k b.vis })) } })

/-- A bank as a snapshot saw it. -/
def bankThen (l : List (BitVec 32)) (banks : List Bank) : List Bank :=
  (List.range banks.length).filterMap (fun k => (banks[k]?).map (fun b => { b with packed := l.getD k b.packed }))

/-- The state as the reads of a STREAM see it: bytes, poison, packed bits and labels of tracked lines are those of the snapshot (R250, R253,
R316). -/
def withImage (s : State) (im : Option StreamImage) : State :=
  match im with
  | none => s
  | some i =>
    { s with
      mem := { s.mem with bytes := i.bytes, poisoned := i.poisoned, badLines := i.badLines, track := i.track },
      cells := s.cells.map (fun e => (e.1, { e.2 with pages := e.2.pages.map (fun p => match aget i.packed p.store with
        | some l => { p with banks := bankThen l p.banks }
        | none => p) })) }

/-- A STREAM snapshot stands at a point: every line is leased to it (R250). -/
def raiseFloor (s : State) (t : Nat) : State := { s with mem := { s.mem with floor := max s.mem.floor t } }

/-- The latest PUB of a context (R251): a snapshot of its memory follows it. -/
def lastPub (s : State) (asid : Nat) : Nat := (aget s.ctxs asid).elim 0 (fun c => c.xlat.bufs.foldl (fun t b => max t b.ts) 0)

/-- The 64-bit words of a byte list. -/
def wordsOf : Nat → List Byte → List W
  | 0, _ => []
  | n + 1, bs => w64 (leVal (bs.take 8)) :: wordsOf n (bs.drop 8)

/-- An instruction whose record is read as it fires: `f` gets the state in which its translation is kept, and the record's words. A record
is aligned to its size, so that it lies in one page. -/
def withRecord (s : State) (q : Firing) (va : W) (n : Nat) (f : State → List W → Block → Fired) : Fired :=
  match readRecord s q va n with
  | .bad e a => .fault s e.1 e.2 a
  | .wait s1 op => .wait s1 op
  | .ok parts => f (useXlate s q.th va) (wordsOf (n / 8) (recBytes parts)) (noteRecs q.b parts)

/-- Cycles that a gate has been held. -/
def gateWaited (s : State) (q : Firing) : Nat := if q.sl.phase = .gated then s.cycle - q.b.gateAt else 0

/-- A gate ends: its edge (R150, R315). -/
def gateEnds (s : State) (q : Firing) (g : Sig) (kind : Nat) (producer : W) : State :=
  endWaitThread s q.t g kind producer (gateWaited s q)

/-- A held gate of a kind of instruction is tried again: `go` runs the instruction. Once nothing holds the thread it is busy again
(R314). -/
def retryGate (s : State) (t k : Nat) (go : Instr → State → State) : State :=
  match aget s.threads t with
  | none => s
  | some th =>
    match th.block with
    | none => s
    | some b =>
      match b.slots[k]? with
      | none => s
      | some sl =>
        if sl.phase = .gated ∧ threadRuns s th = true then
          match slotInstr sl with
          | some i => { busyAgain (go i { s with cur := (t, k) }) t with cur := s.cur }
          | none => s
        else s

/-- The state of a next outcome; a fault or a refusal leaves the state. -/
def nextOf (o : Host.Outcome State Fault Refusal) (s : State) : State :=
  match o with
  | .next s1 => s1
  | _ => s

/-! ### Recoverable misses (R341) -/

/-- A miss of an agent other than a control thread can be recovered. -/
def recoverable (s : State) (asid : Nat) (f : Flt) : Bool :=
  f == (cXLATE, 1) && (match aget s.ctxs asid with
    | some c => c.xlat.demand && field c.xlat.prq 0 4 != 0
    | none => false)

/-- An access that has stalled on a page request stays stalled until XLAT.RESUME releases it (R342). -/
def pageStalled (s : State) (asid : Nat) (u : Party) (va : W) : Bool :=
  match aget s.ctxs asid with
  | some c => c.reqs.any (fun q => q.page == va.toNat / 4096 && q.stalled.contains (u, va))
  | none => false

/-- A request for the page of an address is outstanding. -/
def pageAsked (c : Context) (va : W) : Bool := c.reqs.any (fun q => q.page == va.toNat / 4096)

/-- An access joins the request for its page (R341). -/
def joinRequest (c : Context) (u : Party) (va : W) : Context :=
  { c with reqs := c.reqs.map (fun q =>
      if q.page = va.toNat / 4096 ∧ q.stalled.contains (u, va) = false then { q with stalled := q.stalled ++ [(u, va)] } else q) }

/-- A page request (R341): a record, the count, MSI-X vector 1 of the partition's function. A request that is outstanding
is joined. The ring's BASE is a physical address. -/
def pageRequest (s : State) (asid : Nat) (u : Party) (va : W) (wr : Bool) : State :=
  if (aget s.ctxs asid).any (fun c => pageAsked c va) then updCtx s asid (fun c => joinRequest c u va)
  else
    match aget s.ctxs asid, partOf s asid with
    | some c, some p =>
      let n := nextSeq s asid
      let word1 : W := w64 (n.1.toNat + asid % 4096 * 2 ^ 32 + (if wr then 2 ^ 44 else 0))
      let a := (c.xlat.prq &&& frameMask).toNat + 16 * (c.xlat.prqcnt.toNat % pow2 (field c.xlat.prq 0 4))
      let s1 := match regionOf p a with
        | some (.mem m) => devPut n.2 asid m (wordBytes [va, word1])
        | _ => n.2
      let s2 := updCtx s1 asid (fun x => { x with
        reqs := x.reqs ++ [⟨va.toNat / 4096, n.1, [(u, va)]⟩], xlat := { x.xlat with prqcnt := x.xlat.prqcnt + 1 } })
      { s2 with fl := { s2.fl with out := s2.fl.out ++ [.msix c.part 1] } }
    | _, _ => s

/-! ### Circular buffers (R188, R189) -/

/-- Banks of the FIFO run that begins at bank b of a page. -/
def runBanks (p : Page) (b : Nat) : Nat :=
  1 + ((List.range 8).takeWhile (fun k => match p.banks[b + 1 + k]? with
    | some x => x.mode == .fifo && x.cont
    | none => false)).length

/-- Bank b of a page is the first of a FIFO run. -/
def isFifoFirst (b : Bank) : Bool := b.mode == .fifo && !b.cont

/-- SLOTS of a run. -/
def fifoSlots (p : Page) (b slotlog : Nat) : Nat := runBanks p b * Config.bankBytes / pow2 slotlog

/-- A run as CFG resets it (R188). -/
def FifoRun.fresh (n : Nat) : FifoRun := ⟨0, 0, n, 0, List.replicate n (0, none), none⟩

/-- The run that begins at a bank. -/
def fifoOf (s : State) (b : BankAt) : Option FifoRun :=
  match aget s.cells b.cell with
  | none => none
  | some c =>
    match c.pages[b.page]? with
    | none => none
    | some p =>
      match p.banks[b.bank]? with
      | some x => x.fifo
      | none => none

/-- Change the run that begins at a bank. -/
def updFifo (s : State) (b : BankAt) (f : FifoRun → FifoRun) : State :=
  updCell s b.cell (fun c => { c with pages := modAt c.pages b.page (fun p => { p with banks := modAt p.banks b.bank (fun x =>
    { x with fifo := match x.fifo with
      | some r => some (f r)
      | none => none }) }) })

/-- A writer takes slot TAIL. -/
def fifoTake (r : FifoRun) (w : FifoWriter) : FifoRun :=
  { r with tail := (r.tail + 1) % r.slots.length, free := r.free - 1, slots := r.slots.set r.tail (1, some w) }

/-- A slot's writes have performed. -/
def fifoWritten (r : FifoRun) (k : Nat) : FifoRun := { r with slots := modAt r.slots k (fun e => (2, e.2)) }

/-- The oldest slot that is not filled, where it is complete. -/
def fifoNext (r : FifoRun) : Option Nat :=
  let k := (r.head + r.filled) % r.slots.length
  match r.slots[k]? with
  | some e => if e.1 = 2 then some k else none
  | none => none

/-- That slot becomes filled. -/
def fifoFill (r : FifoRun) (k : Nat) : FifoRun := { r with filled := r.filled + 1, slots := modAt r.slots k (fun e => (3, e.2)) }

/-- The reader takes slot HEAD. -/
def fifoRead (r : FifoRun) : FifoRun :=
  { r with head := (r.head + 1) % r.slots.length, filled := r.filled - 1, slots := modAt r.slots r.head (fun e => (4, e.2)) }

/-- The reader releases its slot. -/
def fifoRelease (r : FifoRun) (k : Nat) (who : Nat × Nat) : FifoRun :=
  { r with free := r.free + 1, slots := modAt r.slots k (fun _ => (0, none)), reader := some who }

/-- The first FIFO bank of a crew's ordinal. -/
def crewFifo (s : State) (crew : CrewId) (ord : Nat) : Option BankAt :=
  match crewBank s crew ord with
  | some b => if isFifoFirst b.b then some b else none
  | none => none

/-- The memory address of byte `off` of slot k of a run. -/
def fifoAddr (b : BankAt) (k off : Nat) : Nat := sramKey b.store b.bank (k * pow2 b.b.slotlog + off)

/-- The label signal of a writer of a circular buffer, and its unit word. -/
def writerSig (s : State) (w : FifoWriter) : Sig × W :=
  match w with
  | .channel e ch =>
    (match aget s.esets e, chanOf s e ch with
     | some x, some c => (labelSig s c.label c.pts, chanUnit s x ch)
     | _, _ => (Sig.zero, 0))
  | .node c n =>
    (match aget s.cells c, nodeOf s c n with
     | some x, some nd => (labelSig s nd.label nd.pts, nodeUnit s x n)
     | _, _ => (Sig.zero, 0))

/-- FIFO_SLOT_FILL (R189): the next slot in slot order, once complete, becomes filled. `b` is the ordinal of the run's
first bank in the cell. -/
def execFifoSlotFill (c b : Nat) (s : State) : Host.Outcome State Fault Refusal :=
  .next (match cellBank s c b with
    | none => s
    | some x =>
      match fifoOf s x with
      | none => s
      | some r =>
        match fifoNext r with
        | some k => updFifo s x (fun y => fifoFill y k)
        | none => s)

end Sys2Proof.Machine
end

