-- ==== Sys2Proof/Machine/Engine.lean ====
section
/-! DEFINITION. The engine set: event crossbar (R137 to R140), copy templates and channels (R261 to R279), and the gates
that wait on them. -/

namespace Sys2Proof.Machine

/-! ### Lines, terms and counters (R138, R139) -/

/-- The signal of a term or counter after a pulse: the label of the last one, and what follows comes after each that led to it (R247, R315). -/
def pulseSig (first : Bool) (old g : Sig) : Sig := { g with pts := if first then g.pts else max old.pts g.pts }

/-- A counter after a pulse on its line: where it reaches THRESH its own line is due to pulse, and with AUTO the threshold is
subtracted at once (R139). -/
def countPulse (c : Counter) (g : Sig) : Counter :=
  let n := min (c.count + 1) 0xFFFF
  let met := c.thresh != 0 && decide (c.count < c.thresh) && decide (c.thresh ≤ n)
  { c with count := if met && c.auto then n - c.thresh else n, sig := pulseSig (c.count == 0) c.sig g, due := c.due || met }

/-- The crossbar after a pulse on a line: terms latch it, counters count it (R138, R139). -/
def latchLine (x : EngineSet) (line : Nat) (g : Sig) : EngineSet :=
  let bit : W := w64 (pow2 line)
  { x with
    terms := x.terms.map (fun t => if t.mask &&& bit = 0 then t else { t with latch := t.latch ||| bit, sig := pulseSig (t.latch == 0) t.sig g }),
    counters := x.counters.map (fun c => if c.thresh ≠ 0 ∧ c.src = line then countPulse c g else c) }

/-- A start of a copy: the slot's template as it stands, the data word, the starting thread and its level, the label
(R266), the handle that it takes. -/
def startOf (x : EngineSet) (word : W) (t : Nat) (lvl : BitVec 2) (g : Sig) (born : Nat) : CopyStart :=
  ⟨(x.slots.getD (field word 0 6) none).getD [], word, t, lvl, g, born⟩

/-- A start enters a channel's queue. -/
def enqueue (c : Channel) (st : CopyStart) : Channel := { c with queue := c.queue ++ [st] }

/-- A channel has room for a start (R134). -/
def hasRoom (x : EngineSet) (ch : Nat) : Bool :=
  match x.channels[ch]? with
  | some c => decide (c.queued < Config.startQueue)
  | none => false

/-- A term has latched every masked line (R139). -/
def termMet (t : Term) : Bool := t.mask != 0 && t.latch &&& t.mask == t.mask

/-- A term that has latched every masked line fires: its start waits in it until its queue has room (R139, R279). -/
def termFires (x : EngineSet) (t : Term) (born : Nat) : Term :=
  if termMet t then
    match t.bound with
    | some b => { t with latch := 0, fired := t.fired ++ [(b.1, startOf x b.2.1 b.2.2.1 b.2.2.2 t.sig born)] }
    | none => { t with latch := 0 }
  else t

/-- The first start that waits in a term enters its queue, where that has room. -/
def termSends (x : EngineSet) (i : Nat) (t : Term) : EngineSet :=
  match t.fired with
  | (ch, st) :: rest =>
    if hasRoom x ch then
      { x with terms := x.terms.set i { t with fired := rest }, channels := modAt x.channels ch (fun c => enqueue c st) }
    else { x with terms := x.terms.set i t }
  | [] => { x with terms := x.terms.set i t }

/-- Every term in ascending number: it fires where it has latched its lines, and its first start enters the queue where there is
room (R139, R279). The handle that the next start takes goes along. -/
def termsFire (x : EngineSet) (born : Nat) : EngineSet × Nat :=
  (List.range x.terms.length).foldl (fun (a : EngineSet × Nat) i => match a.1.terms[i]? with
    | some t => (termSends a.1 i (termFires a.1 t a.2), if termMet t then a.2 + 1 else a.2)
    | none => a) (x, born)

/-- The lines whose counters are due to pulse, with the signals of the pulses that made them so. -/
def dueLines (x : EngineSet) : List (Nat × Sig) :=
  (List.range x.counters.length).filterMap (fun i => match x.counters[i]? with
    | some c => if c.due then some (16 + i, c.sig) else none
    | none => none)

/-- The counters of some lines are due, or no counter is. -/
def setDue (x : EngineSet) (l : List (Nat × Sig)) : EngineSet :=
  { x with counters := (List.range x.counters.length).filterMap (fun i => (x.counters[i]?).map (fun c =>
      { c with due := l.any (fun p => p.1 == 16 + i) })) }

/-- Lines pulse in one cycle (R138, R139): each in its turn, with the lines of the counters that it makes due, on fuel; what is left
stays due. The engine set, the next handle, and the lines that have pulsed. -/
def pulseGo : Nat → List (Nat × Sig) → EngineSet × Nat → List Nat → (EngineSet × Nat) × List Nat
  | _, [], a, seen => (a, seen)
  | 0, more, a, seen => ((setDue a.1 more, a.2), seen)
  | n + 1, (line, g) :: rest, a, seen =>
    let y := latchLine a.1 line g
    pulseGo n (rest ++ dueLines y) (termsFire (setDue y []) a.2) (seen ++ [line])

/-- The lines of an engine set that have pulsed meet the launches of its threads that wait on them in a queue (R282). -/
def meetLines (s : State) (e : Nat) (lines : List Nat) : State :=
  { s with ctxs := s.ctxs.map (fun c => (c.1, { c.2 with launches := c.2.launches.map (fun l =>
      let waits := l.2.queued && field (l.2.words.getD 1 0) 30 2 == 2 && lines.contains (field (l.2.words.getD 1 0) 32 6) &&
        (match aget s.threads l.2.thread with
         | some th => th.home.eset == e
         | none => false)
      if waits then (l.1, { l.2 with lineMet := true }) else l) })) }

/-- An event line pulses (R138): terms latch it and fire, counters count it and pulse their own lines, all in the same cycle (R139).
In a region that is gated the crossbar only keeps the pulse. -/
def pulseLine (s : State) (e line : Nat) (g : Sig) : State :=
  match aget s.esets e with
  | none => s
  | some x =>
    if esetRuns s x then
      let r := pulseGo 17 [(line, g)] (x, s.nextId) []
      meetLines { s with esets := aset s.esets e r.1.1, nextId := r.1.2 } e r.2
    else meetLines { s with esets := aset s.esets e (latchLine x line g) } e [line]

/-- No lower term holds a start for the channel that term i sends to next (R279). -/
def termTurn (x : EngineSet) (i : Nat) (t : Term) : Bool :=
  match t.fired with
  | [] => true
  | (ch, _) :: _ => (x.terms.take i).all (fun u => !u.fired.any (fun f => f.1 == ch))

/-- TERM_FIRE (R139): a term that has latched its lines fires; a start that waits in a term enters its queue. -/
def execTermFire (e i : Nat) (s : State) : Host.Outcome State Fault Refusal :=
  .next (match aget s.esets e with
    | none => s
    | some x =>
      match x.terms[i]? with
      | some t =>
        if esetRuns s x && termTurn x i t then
          updEset (if termMet t then { s with nextId := s.nextId + 1 } else s) e (fun y => termSends y i (termFires y t s.nextId))
        else s
      | none => s)

/-- COUNTER_THRESHOLD (R139): line 16 + i pulses. -/
def execCounterThreshold (e i : Nat) (s : State) : Host.Outcome State Fault Refusal :=
  .next (match aget s.esets e with
    | none => s
    | some x =>
      match x.counters[i]? with
      | none => s
      | some c =>
        if c.due && esetRuns s x then
          pulseLine (updEset s e (fun y => { y with counters := y.counters.set i { c with due := false } })) e (16 + i) c.sig
        else s)

/-! ### Templates (R264, R265, R271) -/

/-- A copy template by field (R264). -/
structure Tmpl where
  sbase : W
  dbase : W
  aux : W
  sstride : Int
  dstride : Int
  rows : Nat
  cols : Nat
  srows : Nat
  scols : Nat
  stype : Nat
  dtype : Nat
  mode : Nat
  trans : Bool
  pack : Bool
  unpack : Bool
  rm : Nat
  sat : Bool
  ftz : Bool
  scen : Bool
  sc : Nat
  mben : Bool
  mbox : Nat
  sstep : Int
  dstep : Int
  rbase : W
  rlog : Nat
  deriving DecidableEq, Repr

/-- The fields of eight template words. -/
def tmplOf (ws : List W) : Tmpl :=
  let w (k : Nat) : W := ws.getD k 0
  { sbase := w 0, dbase := w 1, aux := w 2, sstride := sval 32 (field (w 3) 0 32), dstride := sval 32 (field (w 3) 32 32),
    rows := field (w 4) 0 16, cols := field (w 4) 16 16, srows := field (w 4) 32 16, scols := field (w 4) 48 16,
    stype := field (w 5) 0 6, dtype := field (w 5) 6 6, mode := field (w 5) 12 2, trans := (w 5).getLsbD 14,
    pack := (w 5).getLsbD 15, unpack := (w 5).getLsbD 16, rm := field (w 5) 17 2, sat := (w 5).getLsbD 19,
    ftz := (w 5).getLsbD 20, scen := (w 5).getLsbD 21, sc := field (w 5) 24 8, mben := (w 5).getLsbD 32,
    mbox := field (w 5) 33 4, sstep := sval 32 (field (w 6) 0 32), dstep := sval 32 (field (w 6) 32 32),
    rbase := w 7 &&& 0xFFFFFFFFFFFFFFC0#64, rlog := field (w 7) 0 6 }

/-- CVT accepts the pair (R166). -/
def cvtPair (src dst : Nat) : Bool :=
  let num (c : Nat) : Bool := isInt c || isFloat c || c == 15
  let int (c : Nat) : Bool := decide (1 ≤ c) && decide (c ≤ 8)
  (num src && num dst) || (src == 32 && int dst) || (int src && dst == 32) ||
  (src == 34 && (dst == 7 || dst == 8)) || (dst == 34 && (src == 7 || src == 8))

/-- Bytes of a row of n elements. -/
def rowBytes (c n : Nat) : Nat := n * typeBits c / 8

/-- Z of the unpacked image (R271), where its stride is the required one. -/
def imageLen (t : Tmpl) : Option Nat :=
  if t.unpack then (if t.sstride = rowBytes t.stype t.cols then some (t.rows * rowBytes t.stype t.cols) else none)
  else if t.trans then (if t.dstride = rowBytes t.dtype t.rows then some (t.cols * rowBytes t.dtype t.rows) else none)
  else if t.dstride = rowBytes t.dtype t.cols then some (t.rows * rowBytes t.dtype t.cols) else none

/-- R271's conditions on a PACK or UNPACK template, with the base it starts from. -/
def packOk (t : Tmpl) (base : W) : Bool :=
  t.mode == 0 && field base 60 4 == 8 && base.toNat % 8 == 0 && (imageLen t).isSome

/-- The template is well made (R265). -/
def tmplOk (ws : List W) : Bool :=
  let t := tmplOf ws
  let typed (c : Nat) : Bool := typeOk c && !isLam c && c != 31
  let scaled (c : Nat) : Bool := isFloat c
  field (ws.getD 5 0) 22 2 == 0 && field (ws.getD 5 0) 37 27 == 0 && t.mode != 3 && typed t.stype && typed t.dtype &&
  (t.stype == t.dtype || cvtPair t.stype t.dtype) && t.rows != 0 && t.cols != 0 && decide (t.srows ≤ t.rows) &&
  decide (t.scols ≤ t.cols) && !(t.trans && t.mode != 0) && !(t.pack && t.unpack) &&
  (!t.pack || packOk t t.dbase) && (!t.unpack || packOk t t.sbase) &&
  (!t.scen || (scaled t.stype && scaled t.dtype)) && t.sc != 0xFF && !(t.mode == 0 && !t.scen && t.aux != 0) &&
  (field t.aux 60 4 == 0 || field t.aux 60 4 == 8) && (if t.mben then t.mbox != 15 else t.mbox == 0) &&
  decide (t.rlog ≤ 16) && !(t.rlog != 0 && field t.rbase 60 4 != 0) &&
  !(typeBits t.stype == 4 && t.cols % 2 == 1) &&
  !(typeBits t.dtype == 4 && (t.cols % 2 == 1 || (t.trans && t.rows % 2 == 1)))

/-! ### The instructions -/

/-- An instruction of the engine set: a resident thread is held while a launch crew holds the set (R137). -/
def fireEng (s : State) (i : Instr) (f : Firing → Fired) : State :=
  fire s i (fun q => if esetTaken s q.th then .held else f q)

/-- TMPL (R135). -/
def execTmpl (p : Pm) (s : State) : Host.Outcome State Fault Refusal :=
  .next (fireEng s (.tmpl p) (fun q =>
    let l := q.sl.l.getD 0
    let r := q.sl.r.getD 0
    if l.toNat % 64 ≠ 0 then .fault s cALIGN 0 l
    else if field r 6 58 ≠ 0 then .fault s cENGINE 0 l
    else withRecord s q l 64 (fun st ws b =>
      if tmplOk ws then .done st (addEff b (.tmpl (field r 0 6) ws)) else .fault st cENGINE 0 l)))

/-- EVX TERM (R139). -/
def execEvxTerm (p : Pm) (s : State) : Host.Outcome State Fault Refusal :=
  .next (fireEng s (.evxTerm p) (fun q =>
    if field (q.sl.l.getD 0) 5 59 ≠ 0 then .fault s cENGINE 0 q.b.addr
    else .done s (addEff q.b (.term (field (q.sl.l.getD 0) 0 5) (q.sl.r.getD 0)))))
/-- EVX CNT (R139). -/
def execEvxCnt (p : Pm) (s : State) : Host.Outcome State Fault Refusal :=
  .next (fireEng s (.evxCnt p) (fun q =>
    if field (q.sl.l.getD 0) 4 60 ≠ 0 ∨ field (q.sl.r.getD 0) 32 32 ≠ 0 ∨ field (q.sl.r.getD 0) 0 9 ≠ 0 then
      .fault s cENGINE 0 q.b.addr
    else .done s (addEff q.b (.count (field (q.sl.l.getD 0) 0 4) (q.sl.r.getD 0)))))
/-- EVX TGT (R139, R262): an empty slot is found when the block completes. -/
def execEvxTgt (p : Pm) (s : State) : Host.Outcome State Fault Refusal :=
  .next (fireEng s (.evxTgt p) (fun q =>
    if field (q.sl.l.getD 0) 9 55 ≠ 0 ∨ field (q.sl.r.getD 0) 6 26 ≠ 0 then .fault s cENGINE 0 q.b.addr
    else .done s (addEff q.b (.bind (field (q.sl.l.getD 0) 0 5) (field (q.sl.l.getD 0) 5 4) (q.sl.r.getD 0)))))
/-- EVX PULSE (R139): an unconfirmed crew is held (R289). -/
def execEvxPulse (p : Pm) (s : State) : Host.Outcome State Fault Refusal :=
  .next (fireEng s (.evxPulse p) (fun q =>
    let l := q.sl.l.getD 0
    if field l 6 58 ≠ 0 ∨ field l 0 6 < 48 then .fault s cENGINE 0 q.b.addr
    else if unconfirmed s q.th.home.crew then .proof none
    else .done s (addEff q.b (.pulse (field l 0 6)))))

/-- WAITC (R136): a gate that CCNT satisfies. -/
def execWaitc (v t : Target) (p : Pm) (s : State) : Host.Outcome State Fault Refusal :=
  .next (fireEng s (.waitc v t p) (fun q =>
    let l := q.sl.l.getD 0
    let r := q.sl.r.getD 0
    if field l 4 60 ≠ 0 ∨ field r 32 32 ≠ 0 then .fault s cENGINE 0 q.b.addr
    else
      match aget s.esets q.th.home.eset with
      | none => .held
      | some x =>
        match x.channels[field l 0 4]? with
        | none => .held
        | some c =>
          if (c.ccnt - r.extractLsb' 0 32).toNat < 2 ^ 31 then
            .done (gateEnds s q c.recSig 3 (chanUnit s x (field l 0 4))) (deliver2 q.b q.k t v (c.ccnt.setWidth 64))
          else .held))
/-- WAITE (R140): a gate that a counter satisfies. -/
def execWaite (v t : Target) (p : Pm) (s : State) : Host.Outcome State Fault Refusal :=
  .next (fireEng s (.waite v t p) (fun q =>
    let l := q.sl.l.getD 0
    let r := q.sl.r.getD 0
    if field l 4 60 ≠ 0 ∨ field r 16 48 ≠ 0 then .fault s cENGINE 0 q.b.addr
    else
      match aget s.esets q.th.home.eset with
      | none => .held
      | some x =>
        match x.counters[field l 0 4]? with
        | none => .held
        | some c =>
          if field r 0 16 ≤ c.count then
            .done (gateEnds s q c.sig 4 (lineUnit s x c.src)) (deliver2 q.b q.k t v (w64 c.count))
          else .held))

/-- The engine instruction of a held gate, tried again. -/
def refire (i : Instr) (s : State) : State :=
  match i with
  | .tmpl p => nextOf (execTmpl p s) s
  | .evxTerm p => nextOf (execEvxTerm p s) s
  | .evxCnt p => nextOf (execEvxCnt p s) s
  | .evxTgt p => nextOf (execEvxTgt p s) s
  | .evxPulse p => nextOf (execEvxPulse p s) s
  | .waitc v t p => nextOf (execWaitc v t p s) s
  | .waite v t p => nextOf (execWaite v t p s) s
  | .ld64 t m l p => nextOf (execLd64 t m l p s) s
  | .st64 m l p => nextOf (execSt64 m l p s) s
  | _ => s

/-- WAITC_SATISFIED (R136). -/
def execWaitcSatisfied (t k : Nat) (s : State) : Host.Outcome State Fault Refusal :=
  .next (retryGate s t k (fun i st => match i with
    | .waitc _ _ _ => refire i st
    | _ => s))
/-- WAITE_SATISFIED (R140). -/
def execWaiteSatisfied (t k : Nat) (s : State) : Host.Outcome State Fault Refusal :=
  .next (retryGate s t k (fun i st => match i with
    | .waite _ _ _ => refire i st
    | _ => s))

/-- APERTURE_QUEUE_ROOM (R134): the held store goes on once its channel has room for it, with a COMPLETION edge (R150). -/
def execApertureQueueRoom (t k : Nat) (s : State) : Host.Outcome State Fault Refusal :=
  .next (retryGate s t k (fun i st => match i, firing st with
    | .st64 m _ _, some q =>
      let ch := field (effAddr (q.sl.l.getD 0) m 8) 8 4
      (match aget s.esets q.th.home.eset, chanOf s q.th.home.eset ch with
       | some x, some c =>
         if !queueFull s q.th.home.eset ch q.b && !esetTaken s q.th then
           refire i (endWaitThread st t (labelSig s c.label c.pts) 3 (chanUnit s x ch) (s.cycle - q.b.gateAt))
         else s
       | _, _ => s)
    | _, _ => s))

/-- ENGINE_SET_RELEASED (R137): a resident thread's engine instruction goes on once no launch crew holds the set. -/
def execEngineSetReleased (t k : Nat) (s : State) : Host.Outcome State Fault Refusal :=
  .next (retryGate s t k (fun i st => match aget s.threads t with
    | some th => if esetTaken s th then s else refire i st
    | none => s))

/-! ### At and after the commit -/

/-- TMPL at commit. -/
def applyTmpl (s : State) (t slot : Nat) (ws : List W) : State :=
  match aget s.threads t with
  | some th => updEset s th.home.eset (fun x => { x with slots := x.slots.set slot (some ws) })
  | none => s

/-- EVX TERM at commit: the latches clear. -/
def applyTerm (s : State) (t i : Nat) (mask : W) : State :=
  match aget s.threads t with
  | some th => updEset s th.home.eset (fun x =>
      { x with terms := modAt x.terms i (fun y => { y with mask := mask, latch := 0 }) })
  | none => s

/-- EVX CNT at commit. -/
def applyCount (s : State) (t i : Nat) (w : W) : State :=
  match aget s.threads t with
  | some th =>
    let k : Counter := { Counter.reset with thresh := field w 16 16, src := field w 10 6, auto := w.getLsbD 9 }
    updEset s th.home.eset (fun x => { x with counters := x.counters.set i k })
  | none => s

/-- EVX TGT at commit: the level is that of the block's snapshot (R109). -/
def applyBind (s : State) (t i ch : Nat) (w : W) (lvl : BitVec 2) : State :=
  match aget s.threads t with
  | some th => updEset s th.home.eset (fun x =>
      { x with terms := modAt x.terms i (fun y => { y with bound := some (ch, w, t, lvl) }) })
  | none => s

/-- EVX PULSE at commit, behind the block's other writes of the crossbar (R139) and its own starts (R279). -/
def applyPulse (s : State) (t line : Nat) : State :=
  match aget s.threads t with
  | some th => pulseLine s th.home.eset line (threadSig s th)
  | none => s

/-- The start of an aperture store, after the commit (R266), at the level of the block's snapshot (R109). -/
def applyAperture (s : State) (t ch : Nat) (w : W) (lvl : BitVec 2) : State :=
  match aget s.threads t with
  | some th => updEset { s with nextId := s.nextId + 1 } th.home.eset (fun x =>
      { x with channels := modAt x.channels ch (fun c => enqueue c (startOf x w t lvl (threadSig s th) s.nextId)) })
  | none => s

/-! ### Addresses of a copy (R267, R276) -/

/-- Lea of R102 without a shift: the tag stays and the offset wraps in 60 bits. -/
def leaInt (p : W) (o : Int) : W := p.extractLsb' 60 4 ++ (p.extractLsb' 0 60 + BitVec.ofInt 60 o)

/-- SBASE' and DBASE' (R267). -/
def stepped (t : Tmpl) (word : W) : W × W :=
  let ix : Int := (field word 48 16 : Nat)
  (leaInt t.sbase (ix * t.sstep), leaInt t.dbase (ix * t.dstep))

/-- Where element j of a type lies from a pointer: byte offset, and the high nibble (R267). -/
def elemAt (c j : Nat) : Int × Bool :=
  if typeBits c = 4 then (((j / 2 : Nat) : Int), j % 2 == 1) else (((j * (typeBits c / 8) : Nat) : Int), false)

/-- One Put of R267 in loop order: the source element where it exists (byte offset from SBASE', nibble), and the byte
offset from DBASE' with its nibble. -/
structure Put where
  src : Option (Int × Bool)
  dst : Int × Bool
  deriving DecidableEq, Repr

/-- The row index that MODE gives row r (R270). -/
def rowIndex (ix : List Nat) (r : Nat) : Nat := ix.getD r 0

/-- The Puts of one row. -/
def rowPuts (t : Tmpl) (ix : List Nat) (r : Nat) : List Put :=
  let sr := if t.mode = 1 then rowIndex ix r else r
  let dr := if t.mode = 2 then rowIndex ix r else r
  (List.range t.cols).map (fun c =>
    let se := elemAt t.stype c
    let de := if t.trans then elemAt t.dtype r else elemAt t.dtype c
    let drow : Int := if t.trans then (c : Int) * t.dstride else (dr : Int) * t.dstride
    { src := if sr < t.srows ∧ c < t.scols then some ((sr : Int) * t.sstride + se.1, se.2) else none,
      dst := (drow + de.1, de.2) })

/-- Every Put of a copy, in loop order. -/
def allPuts (t : Tmpl) (ix : List Nat) : List Put := (List.range t.rows).flatMap (rowPuts t ix)

/-- Insert a line number in ascending order, once. -/
def insertLine (l : List Nat) (k : Nat) : List Nat :=
  match l with
  | [] => [k]
  | x :: r => if k < x then k :: x :: r else if k = x then x :: r else x :: insertLine r k

/-- The line of a Put's destination. -/
def putLine (db : W) (p : Put) : Nat := (leaInt db p.dst.1).toNat / 64

/-- A sector (R269). -/
inductive Sector where
  | puts (l : List Put)
  | packed
  | scale
  deriving DecidableEq, Repr

/-- The sectors of a copy in order (R269): lines ascending, or rows in SCATTER mode; then the packed stream or the SC byte. -/
def sectorsOf (t : Tmpl) (db : W) (ix : List Nat) : List Sector :=
  let body : List Sector :=
    if t.pack then [.packed]
    else if t.mode = 2 then (List.range t.rows).map (fun r => .puts (rowPuts t ix r))
    else
      let ps := allPuts t ix
      (ps.foldl (fun l p => insertLine l (putLine db p)) []).map (fun k => .puts (ps.filter (fun p => putLine db p == k)))
  body ++ (if t.mode = 0 ∧ t.scen = true ∧ t.aux ≠ 0 then [.scale] else [])

/-- Why an access of a copy does not go through: a fault, a stall for a page, words that must come from a peer or the
host. -/
inductive EngErr where
  | fault (status sub : Nat) (va : W)
  | stall (va : W) (wr : Bool)
  | ask (l : Loc) (va : W)
  deriving DecidableEq, Repr

/-- An access of a started copy stays stalled on its page's request (R341, R342). -/
def copyStalled (s : State) (asid : Nat) (st : CopyStart) (va : W) : Bool :=
  match aget s.ctxs asid with
  | some c => c.reqs.any (fun q => q.page == va.toNat / 4096 && q.stalled.any (fun p => p.2 == va && (match p.1 with
      | .channel e ch => (chanOf s e ch).any (fun y => y.cur.any (fun r => r.start == st))
      | _ => false)))
  | none => false

/-- Who a copy is at an address, as an agent of the translation. -/
def engWho (s : State) (x : EngineSet) (st : CopyStart) (wr : Bool) (va : W) (n : Nat) : Who :=
  ⟨x.crew.asid, st.level, dieOf x.cluster, wr || crewWindow s x.crew va n⟩

/-- The accesses of a copy use the translations of their addresses (R336). -/
def useEng (s : State) (x : EngineSet) (st : CopyStart) (vas : List W) : State :=
  (((vas.filter (fun a => field a 56 8 == 0)).map (fun a => a.toNat / 4096)).dedup).foldl (fun y k =>
    fillTlb y (engWho s x st false (w64 (k * 4096)) 1) (w64 (k * 4096))) s

/-- A copy's address to a place (R276). -/
def engLoc (s : State) (x : EngineSet) (st : CopyStart) (k : AccKind) (va : W) (n : Nat) : Except EngErr Resolved :=
  match field va 60 4 with
  | 0 =>
    if copyStalled s x.crew.asid st va then .error (.stall va (k == .store))
    else
      (match xlate s (engWho s x st (k == .store) va n) k va with
       | .error f =>
         if recoverable s x.crew.asid f then .error (.stall va (k == .store))
         else if f.1 = cXLATE then .error (.fault 4 0 va) else .error (.fault 5 1 va)
       | .ok r => .ok r)
  | 8 =>
    if field va 22 38 ≠ 0 then .error (.fault 5 3 va)
    else
      (match crewBank s x.crew (field va 15 7) with
       | none => .error (.fault 5 3 va)
       | some b => if b.b.mode = .scratch then .ok ⟨.mem (sramKey b.store b.bank (field va 0 15)), false, true, none⟩
         else .error (.fault 5 3 va))
  | _ => .error (.fault 4 0 va)

/-- The 8-byte word of a remote place that holds an address, as a key. -/
def remoteKey (l : Loc) : Nat :=
  match l with
  | .peer ix pa => (ix + 1) * 2 ^ 64 + pa / 8 * 8
  | .host a => a / 8 * 8
  | _ => 0

/-- n bytes of a source at an aligned address of at most 8 bytes, with the memory they stand on. -/
def engRead (s : State) (x : EngineSet) (st : CopyStart) (image : List (Nat × Nat)) (unpack : Bool) (va : W) (n : Nat) :
    Except EngErr (List Byte × List (Nat × Nat)) :=
  if va.toNat % n ≠ 0 then .error (.fault 3 0 va)
  else
    match engLoc s x st .load va n with
    | .error e => .error e
    | .ok r =>
      if isRemote r.loc then
        match image.find? (fun e => e.1 == remoteKey r.loc) with
        | some e => .ok ((leBytes 8 e.2).drop (va.toNat % 8) |>.take n, [])
        | none => .error (.ask r.loc va)
      else if locPoisoned s x.crew.asid r.loc n then .error (.fault 6 0 va)
      else if !unpack && locPacked s r.loc then .error (.fault 0x0D 0 va)
      else .ok (locBytes s x.crew.asid s.mem.bytes r.loc n, locSpans s x.crew.asid r.loc n)

/-! ### Conversion (R268) -/

/-- Conv. An .addr is copied bit for bit (R166). -/
def convCopy (t : Tmpl) (pat : Nat) : Nat × BitVec 6 :=
  if (t.stype = t.dtype ∧ t.scen = false) ∨ t.stype = 34 ∨ t.dtype = 34 then (pat, 0)
  else
    let x0 := if t.stype = 32 then ofInt (if pat % 256 = 0 then 0 else 1) else exactOf t.stype pat
    let f := narrowF 11 0 false false x0
    let v := decodeF 11 f.1
    let v1 := if t.scen then scaleF v (127 - (t.sc : Int)) else v
    let v2 := match v1 with
      | .fin sg m e => if t.ftz && m != 0 && decide ((Nat.log2 m : Int) + e < -126) then .fin sg 0 0 else v1
      | y => y
    let r := if t.dtype = 32 then ((if v2.isZero then 0 else 1), 0)
      else if isInt t.dtype then floatToInt t.dtype t.rm v2
      else narrowF t.dtype t.rm t.sat t.ftz v2
    (r.1, f.2 ||| r.2)

/-! ### Packed streams (R271, R272) -/

/-- PackUnit on 64 bytes. -/
def packUnit (bs : List Byte) : List Byte :=
  let m := (List.range 64).foldl (fun a i => if bs.getD i 0 = 0 then a else a + pow2 i) 0
  let vs := bs.filter (fun b => b != 0)
  leBytes 8 m ++ vs ++ List.replicate ((8 - vs.length % 8) % 8) 0

/-- The packed stream of an image, on fuel. -/
def packAll : Nat → List Byte → List Byte
  | 0, _ => []
  | n + 1, bs =>
    match bs with
    | [] => []
    | _ => packUnit (bs.take 64 ++ List.replicate (64 - (bs.take 64).length) 0) ++ packAll n (bs.drop 64)

/-- The bytes of a unit, from its mask and the bytes that follow. -/
def unpackUnit (m : Nat) (vs : List Byte) : List Byte :=
  ((List.range 64).foldl (fun (a : List Byte × List Byte) i =>
    if (m >>> i) % 2 = 1 then (a.1 ++ [a.2.headD 0], a.2.drop 1) else (a.1 ++ [0], a.2)) ([], vs)).1

/-- Bytes that a unit takes in the stream. -/
def unitLen (m : Nat) : Nat :=
  let n := ((List.range 64).filter (fun i => (m >>> i) % 2 == 1)).length
  8 + (n + 7) / 8 * 8

/-- The image that a packed stream rebuilds, unit by unit, from byte `off` of the bank it lies in, with the memory read. -/
def unpackGo (s : State) (x : EngineSet) (st : CopyStart) (sb : W) : Nat → Nat → List Byte → List (Nat × Nat) →
    Except EngErr (List Byte × List (Nat × Nat))
  | 0, _, acc, sp => .ok (acc, sp)
  | n + 1, off, acc, sp =>
    let va : W := sb + w64 off
    let inBank := field sb 0 15 + off
    if Config.bankBytes < inBank + 8 then .error (.fault 5 5 va)
    else
      match engRead s x st [] true va 8 with
      | .error e => .error e
      | .ok (mb, sp1) =>
        let m := leVal mb
        let len := unitLen m
        if Config.bankBytes < inBank + len then .error (.fault 5 5 va)
        else
          let words := (List.range (len / 8 - 1)).map (fun k => engRead s x st [] true (va + w64 (8 * (k + 1))) 8)
          let bad := words.findSome? (fun w => match w with
            | .error e => some e
            | .ok _ => none)
          match bad with
          | some e => .error e
          | none =>
            let vs := words.flatMap (fun w => match w with
              | .ok b => b.1
              | .error _ => [])
            let sp2 := words.flatMap (fun w => match w with
              | .ok b => b.2
              | .error _ => [])
            unpackGo s x st sb n (off + len) (acc ++ unpackUnit m vs) (sp ++ sp1 ++ sp2)

/-- The rebuilt source of an UNPACK copy (R272). -/
def unpackAll (s : State) (x : EngineSet) (st : CopyStart) (t : Tmpl) : Except EngErr (List Byte × List (Nat × Nat)) :=
  match imageLen t with
  | none => .error (.fault 5 5 (stepped t st.word).1)
  | some z => unpackGo s x st (stepped t st.word).1 ((z + 63) / 64) 0 [] []

/-! ### One sector -/

/-- What the Puts of a sector come to: destination bytes by virtual address, flags, saturated elements, memory read. -/
structure PutAcc where
  bytes : List (Nat × Nat)
  flags : BitVec 6
  nsat : Nat
  spans : List (Nat × Nat)
  deriving DecidableEq, Repr

/-- The value of a Put: the source element read and converted, or +0. -/
def putVal (s : State) (x : EngineSet) (r : CopyRun) (t : Tmpl) (img : Option (List Byte)) (p : Put) :
    Except EngErr (Nat × BitVec 6 × List (Nat × Nat)) :=
  match p.src with
  | none => .ok (0, 0, [])
  | some (o, hi) =>
    let n := max 1 (typeBits t.stype / 8)
    let va := leaInt (stepped t r.start.word).1 o
    let got : Except EngErr (List Byte × List (Nat × Nat)) := match img with
      | some bs => if va.toNat % n ≠ 0 then .error (EngErr.fault 3 0 va) else .ok ((bs.drop o.toNat).take n, [])
      | none => engRead s x r.start r.image false va n
    match got with
    | .error e => .error e
    | .ok (bs, sp) =>
      let raw := leVal bs
      let pat := if typeBits t.stype = 4 then (if hi then raw / 16 else raw % 16) else raw
      let c := convCopy t pat
      .ok (c.1, c.2, sp)

/-- Put the pattern of an element into the bytes of a destination. -/
def putBytes (l : List (Nat × Nat)) (c a : Nat) (hi : Bool) (pat : Nat) : List (Nat × Nat) :=
  if typeBits c = 4 then
    let old := (aget l a).getD 0
    aset l a (if hi then old % 16 + 16 * pat else old / 16 * 16 + pat)
  else (List.range (typeBits c / 8)).foldl (fun m k => aset m (a + k) (pat / pow2 (8 * k) % 256)) l

/-- The Puts of a sector in loop order; `off` counts destination bytes from DBASE' instead of by address. -/
def foldPuts (s : State) (x : EngineSet) (r : CopyRun) (t : Tmpl) (img : Option (List Byte)) (off : Bool) :
    List Put → PutAcc → Except EngErr PutAcc
  | [], a => .ok a
  | p :: ps, a =>
    match putVal s x r t img p with
    | .error e => .error e
    | .ok (pat, fl, sp) =>
      let va := leaInt (stepped t r.start.word).2 p.dst.1
      if va.toNat % max 1 (typeBits t.dtype / 8) ≠ 0 then .error (.fault 3 0 va)
      else
        let at0 := if off then p.dst.1.toNat else va.toNat
        foldPuts s x r t img off ps
          { bytes := putBytes a.bytes t.dtype at0 p.dst.2 pat, flags := a.flags ||| fl,
            nsat := a.nsat + (if fl.getLsbD 5 then 1 else 0), spans := a.spans ++ sp }

/-- The source image of an UNPACK copy, none where it is not one. -/
def sourceImage (s : State) (x : EngineSet) (r : CopyRun) (t : Tmpl) : Except EngErr (Option (List Byte) × List (Nat × Nat)) :=
  if t.unpack then
    match unpackAll s x r.start t with
    | .error e => .error e
    | .ok i => .ok (some i.1, i.2)
  else .ok (none, [])

/-- Runs of adjacent bytes within a line, ascending. -/
def runsGo : List (Nat × Nat) → List (Nat × List Byte)
  | [] => []
  | (a, v) :: rest =>
    match runsGo rest with
    | (b, bs) :: more =>
      if b = a + 1 ∧ a / 64 = b / 64 then (a, BitVec.ofNat 8 v :: bs) :: more
      else (a, [BitVec.ofNat 8 v]) :: (b, bs) :: more
    | [] => [(a, [BitVec.ofNat 8 v])]

/-- The first FIFO bank that a copy's destination names (R273). -/
def destFifo (s : State) (x : EngineSet) (db : W) : Option BankAt :=
  if field db 60 4 = 8 ∧ field db 22 38 = 0 then crewFifo s x.crew (field db 15 7) else none

/-- Runs that stand in one line, together. -/
def lineGroups : List (Nat × List Byte) → List (List (Nat × List Byte))
  | [] => []
  | p :: rest =>
    match lineGroups rest with
    | (q :: qs) :: more => if p.1 / 64 = q.1 / 64 then (p :: q :: qs) :: more else [p] :: (q :: qs) :: more
    | more => [p] :: more

/-- Why a write of a copy does not go through, with the address of the compression unit that it poisons (R192). -/
abbrev PutErr := EngErr × Option Nat

/-- The channel's signal. -/
def chanSig (s : State) (e ch : Nat) : Sig :=
  match chanOf s e ch with
  | some c => labelSig s c.label c.pts
  | none => Sig.zero

/-- The bytes of a run that go to a peer or the host, by its address there. -/
def remoteRun (p : W × Resolved × List Byte) : W × List Byte :=
  (match p.2.1.loc with
   | .peer _ pa => w64 pa
   | .host a => w64 a
   | _ => p.1, p.2.2)

/-- Send the runs of one line to the peer or the host where it lies, as one operation (R249). -/
def engSends (s : State) (e ch j : Nat) (x : EngineSet) (va : W) (r : Resolved) (bs : List Byte) (more : List (W × Resolved × List Byte)) :
    Except PutErr State :=
  match r.loc with
  | .peer ix pa =>
    (match route s ix with
     | .error f => .error (.fault 0x10 f.2.toNat va, none)
     | .ok port => .ok (sendRuns s (.copy e ch j va) ix (some port) true (w64 pa) bs (more.map remoteRun)))
  | .host a => .ok (sendRuns s (.copy e ch j va) 0 (some (hostPort s x.crew.asid)) true (w64 a) bs (more.map remoteRun))
  | _ => .error (.fault 4 0 va, none)

/-- Write bytes of one line to a local place that has been resolved, at a timestamp. -/
def engPut (s : State) (e ch : Nat) (x : EngineSet) (ts : Nat) (packed : Bool) (va : W) (r : Resolved) (bs : List Byte) :
    Except PutErr State :=
  let asid := x.crew.asid
  match r.loc with
  | .aper _ => .error (.fault 4 0 va, none)
  | l =>
    match locMeta s asid l bs.length with
    | some a => .error (.fault 6 0 va, some a)
    | none =>
      match locEvent s asid ts (if r.trk then some (chanSig s e ch) else none) packed l bs with
      | none => .error (.fault 0x0E 0 va, none)
      | some s1 => .ok s1

/-- The places of the runs of a line. -/
def engPlaces (s : State) (x : EngineSet) (st : CopyStart) : List (Nat × List Byte) → Except PutErr (List (W × Resolved × List Byte))
  | [] => .ok []
  | (a, bs) :: rest =>
    match engLoc s x st .store (w64 a) bs.length with
    | .error er => .error (er, none)
    | .ok r =>
      match engPlaces s x st rest with
      | .error er => .error er
      | .ok more => .ok ((w64 a, r, bs) :: more)

/-- Put the runs of a line: they lie in one page, so that all are local or all go to one peer or the host. -/
def engPuts (e ch j : Nat) (x : EngineSet) (ts : Nat) (packed : Bool) : State → List (W × Resolved × List Byte) → Except PutErr State
  | s, [] => .ok s
  | s, (va, r, bs) :: rest =>
    if isRemote r.loc then engSends s e ch j x va r bs rest
    else
      match engPut s e ch x ts packed va r bs with
      | .error er => .error er
      | .ok s1 => engPuts e ch j x ts packed s1 rest

/-- Write the runs of one line as one event of the channel (R249, R269), and the timestamp at which it performs. -/
def engLine (s : State) (e ch j : Nat) (x : EngineSet) (st : CopyStart) (pts : Nat) (packed : Bool) (runs : List (Nat × List Byte)) :
    Except PutErr (State × Nat) :=
  match engPlaces s x st runs with
  | .error er => .error er
  | .ok ps =>
    let ts := ps.foldl (fun t p => locStoreTs s x.crew.asid (max t (bufTs s x.crew.asid p.1)) p.2.1.loc p.2.2.length) pts
    match engPuts e ch j x ts packed (useEng s x st (runs.map (fun p => w64 p.1))) ps with
    | .error er => .error er
    | .ok s1 => .ok (s1, ts)

/-- Write every line of a sector. -/
def engWrites (s : State) (e ch j : Nat) (x : EngineSet) (st : CopyStart) (packed : Bool) :
    Nat → List (List (Nat × List Byte)) → Except PutErr (State × Nat)
  | pts, [] => .ok (s, pts)
  | pts, g :: rest =>
    match engLine s e ch j x st pts packed g with
    | .error er => .error er
    | .ok (s1, ts) => engWrites s1 e ch j x st packed ts rest

/-- What a write that does not go through leaves: nothing of it has performed, but for the unit that it poisons (R192, R276). -/
def putFailed (s : State) (asid pts : Nat) (er : PutErr) : EngErr × State :=
  (er.1, er.2.elim s (metaError s asid pts))

/-- Bytes of a circular-buffer slot at offsets, line by line. -/
def fifoPut (s : State) (x : EngineSet) (b : BankAt) (slot : Nat) (packed : Bool) (pts : Nat) (l : List (Nat × List Byte)) :
    State × Nat :=
  (lineGroups l).foldl (fun (st : State × Nat) g =>
    let ts := g.foldl (fun t p => st.1.mem.storeTs t (fifoAddr b slot p.1) p.2.length) st.2
    (g.foldl (fun y p => putEvent y x.crew.asid ts none packed (fifoAddr b slot p.1) p.2) st.1, ts)) (s, pts)

/-- The packed stream of a PACK copy with what it read, or why it cannot be made. -/
def packedStream (s : State) (x : EngineSet) (r : CopyRun) (t : Tmpl) : Except EngErr (List Byte × PutAcc) :=
  match foldPuts s x r t none true (allPuts t r.index) ⟨[], 0, 0, []⟩ with
  | .error e => .error e
  | .ok a =>
    let z := (imageLen t).getD 0
    let image := (List.range z).map (fun k => BitVec.ofNat 8 ((aget a.bytes k).getD 0))
    .ok (packAll (z / 64 + 1) image, a)

/-- What a sector does: the state after its event, with the bytes it wrote, flags, NSAT, element writes and packed bytes. -/
structure SectorDone where
  s : State
  pts : Nat
  flags : BitVec 6
  nsat : Nat
  elems : Nat
  pbytes : Nat
  deriving Repr

/-- Bytes as runs for a circular-buffer slot, from their addresses, which may lie below DBASE': offsets into the slot. -/
def slotRuns (db : W) (l : List (Nat × Nat)) : List (Nat × List Byte) :=
  (runsGo l).map (fun p => (((field db 0 15 : Nat) + (p.1 : Int) - (db.toNat : Int)).toNat, p.2))

/-- The least timestamp of what Puts read: past the publications of the buffers that their sources lie in (R251). -/
def sourceTs (s : State) (x : EngineSet) (r : CopyRun) (pts : Nat) (ps : List Put) : Nat :=
  let sb := (stepped (tmplOf r.start.tmpl) r.start.word).1
  ps.foldl (fun t p => match p.src with
    | some (o, _) => max t (bufTs s x.crew.asid (leaInt sb o))
    | none => t) (max pts (bufTs s x.crew.asid sb))

/-- The labels of the tracked lines that a channel has read merge into its own (R316). -/
def chanMerges (s : State) (e ch : Nat) (spans : List (Nat × Nat)) : State :=
  updChan s e ch (fun c => { c with label := (spans.flatMap (fun p => trackedSigs s p.1 p.2)).foldl (mergeLabel s) c.label })

/-- The addresses from which Puts read. -/
def sourceVas (r : CopyRun) (ps : List Put) : List W :=
  let sb := (stepped (tmplOf r.start.tmpl) r.start.word).1
  ps.filterMap (fun p => match p.src with
    | some (o, _) => some (leaInt sb o)
    | none => none)

/-- Perform a sector's reads as events, then its writes: the whole sector, or nothing of it (R276). -/
def performSector (s : State) (e ch j : Nat) (x : EngineSet) (r : CopyRun) (pts : Nat) (sec : Sector) :
    Except (EngErr × State) SectorDone :=
  let t := tmplOf r.start.tmpl
  let db := (stepped t r.start.word).2
  match sec with
  | .scale =>
    (match engLine s e ch j x r.start pts false [(t.aux.toNat, [BitVec.ofNat 8 t.sc])] with
     | .error er => .error (putFailed s x.crew.asid pts er)
     | .ok (s1, ts) => .ok ⟨s1, ts, 0, 0, 0, 0⟩)
  | .puts ps =>
    (match sourceImage s x r t with
     | .error er => .error (er, s)
     | .ok (img, sp) =>
       match foldPuts s x r t img false ps ⟨[], 0, 0, sp⟩ with
       | .error er => .error (er, s)
       | .ok a =>
         let ev := loadEvent s.mem (sourceTs s x r pts ps) a.spans
         let s0 := noteForeign { s with mem := ev.2 } s.mem x.crew.asid (dieOf x.cluster) ev.1 (chanUnit s x ch) a.spans
         let s1 := useEng (chanMerges s0 e ch a.spans) x r.start (sourceVas r ps)
         match destFifo s x db, r.slot with
         | some b, some k =>
           let w := fifoPut s1 x b k false ev.1 (slotRuns db a.bytes)
           .ok ⟨w.1, w.2, a.flags, a.nsat, ps.length, 0⟩
         | _, _ =>
           match engWrites s1 e ch j x r.start false ev.1 (lineGroups (runsGo a.bytes)) with
           | .error er => .error (putFailed s x.crew.asid ev.1 er)
           | .ok (s2, ts) => .ok ⟨s2, ts, a.flags, a.nsat, ps.length, 0⟩)
  | .packed =>
    match packedStream s x r t with
    | .error er => .error (er, s)
    | .ok (bs, a) =>
      let ev := loadEvent s.mem (sourceTs s x r pts (allPuts t r.index)) a.spans
      let s0 := noteForeign { s with mem := ev.2 } s.mem x.crew.asid (dieOf x.cluster) ev.1 (chanUnit s x ch) a.spans
      let s1 := useEng (chanMerges s0 e ch a.spans) x r.start (sourceVas r (allPuts t r.index))
      match destFifo s x db, r.slot with
      | some b, some k =>
        if pow2 b.b.slotlog < field db 0 15 + bs.length then .error (.fault 5 2 db, s)
        else
          let w := fifoPut s1 x b k true ev.1 [(field db 0 15, bs)]
          .ok ⟨w.1, w.2, a.flags, a.nsat, t.rows * t.cols, bs.length⟩
      | _, _ =>
        if Config.bankBytes < field db 0 15 + bs.length then .error (.fault 5 5 db, s)
        else
          match engWrites s1 e ch j x r.start true ev.1
              (lineGroups (runsGo ((List.range bs.length).map (fun k => (db.toNat + k, (bs.getD k 0).toNat))))) with
          | .error er => .error (putFailed s x.crew.asid ev.1 er)
          | .ok (s2, ts) => .ok ⟨s2, ts, a.flags, a.nsat, t.rows * t.cols, bs.length⟩

/-! ### Beginning a copy (R266, R270, R273) -/

/-- A copy of an unconfirmed crew whose destination does not lie wholly in the window or at CELL scope is held (R289). -/
def copyHeld (s : State) (x : EngineSet) (st : CopyStart) (ix : List Nat) : Bool :=
  let t := tmplOf st.tmpl
  let db := (stepped t st.word).2
  let inside (va : W) (n : Nat) : Bool := field va 60 4 == 8 || crewWindow s x.crew va n
  unconfirmed s x.crew &&
  !((allPuts t ix).all (fun p => inside (leaInt db p.dst.1) (max 1 (typeBits t.dtype / 8))) && (t.aux == 0 || t.mode != 0 || inside t.aux 1))

/-- The same, of a copy whose index list is not known or cannot be read: where the list places what it writes, its destination is not
known to lie in the window, and it is held (DESIGN CHOICE, log 42). -/
def copyHeldBlind (s : State) (x : EngineSet) (st : CopyStart) : Bool :=
  unconfirmed s x.crew && ((tmplOf st.tmpl).mode == 2 || copyHeld s x st [])

/-- Read the index list as one snapshot (R270): the indices and the places read, or why not. -/
def readIndex (s : State) (x : EngineSet) (st : CopyStart) (image : List (Nat × Nat)) (aux : W) :
    Nat → Nat → Except EngErr (List Nat × List (Nat × Nat))
  | 0, _ => .ok ([], [])
  | n + 1, k =>
    match engRead s x st image false (leaInt aux ((4 * k : Nat) : Int)) 4 with
    | .error e => .error e
    | .ok (bs, sp) =>
      match readIndex s x st image aux n (k + 1) with
      | .error e => .error e
      | .ok r => .ok (leVal bs :: r.1, sp ++ r.2)

/-- The index list of a template, where its mode takes one. -/
def indexOf (s : State) (x : EngineSet) (st : CopyStart) (image : List (Nat × Nat)) : Except EngErr (List Nat × List (Nat × Nat)) :=
  let t := tmplOf st.tmpl
  if t.mode = 0 then .ok ([], []) else readIndex s x st image t.aux t.rows 0

/-- The addresses of the index list of a started copy. -/
def indexVas (st : CopyStart) : List W :=
  let t := tmplOf st.tmpl
  if t.mode = 0 then [] else (List.range t.rows).map (fun k => leaInt t.aux ((4 * k : Nat) : Int))

/-- The index list has been read as one event of its channel: past the publications of the buffers that it lies in (R251), with the
labels of tracked lines (R316) and the translations used (R336). -/
def indexRead (s : State) (e ch : Nat) (x : EngineSet) (st : CopyStart) (pts : Nat) (sp : List (Nat × Nat)) : State :=
  let ev := loadEvent s.mem ((indexVas st).foldl (fun t a => max t (bufTs s x.crew.asid a)) pts) sp
  let s1 := noteForeign { s with mem := ev.2 } s.mem x.crew.asid (dieOf x.cluster) ev.1 (chanUnit s x ch) sp
  updChan (useEng (chanMerges s1 e ch sp) x st (indexVas st)) e ch (fun y => { y with pts := ev.1 })

/-- A copy as it begins. -/
def CopyRun.fresh (st : CopyStart) (ix : List Nat) (image : List (Nat × Nat)) : CopyRun :=
  { start := st, perf := [], index := ix, image := image, slot := none, waiting := false, stalls := [], parked := false, counts := [],
    fault := none, seq := none, recSent := false, recFail := none, recSeq := none, slotDone := false }

/-- What the performed sectors of a copy add up to (R274): FLAG, NSAT, ELEMS and the packed length. -/
def CopyRun.total (r : CopyRun) : SectorCount :=
  r.counts.foldl (fun a c => ⟨0, a.flags ||| c.flags, min (a.nsat + c.nsat) 0xFFFF, a.elems + c.elems, a.pbytes + c.pbytes⟩) ⟨0, 0, 0, 0, 0⟩

/-- The index list has been read, or none is needed. -/
def indexReady (r : CopyRun) : Bool :=
  let t := tmplOf r.start.tmpl
  t.mode == 0 || r.index.length == t.rows

/-- What is found as the copy begins, before any sector: a fault of the packed base (R271) or of the slot bound (R273), or what the
bound of a packed stream cannot be told without. -/
def beginCheck (s : State) (x : EngineSet) (r : CopyRun) : Except EngErr (Option (Nat × Nat × W)) :=
  let t := tmplOf r.start.tmpl
  let b := stepped t r.start.word
  if t.pack ∧ ¬ packOk t b.2 then .ok (some (5, 5, b.2))
  else if t.unpack ∧ ¬ packOk t b.1 then .ok (some (5, 5, b.1))
  else
    match destFifo s x b.2 with
    | none => .ok none
    | some f =>
      let size := pow2 f.b.slotlog
      let inside (o : Int) (n : Nat) : Bool :=
        decide (0 ≤ (field b.2 0 15 : Int) + o) && decide ((field b.2 0 15 : Int) + o + n ≤ (size : Nat))
      if t.pack then
        match packedStream s x r t with
        | .ok (bs, _) => .ok (if inside 0 bs.length then none else some (5, 2, b.2))
        | .error er => .error er
      else .ok (if (allPuts t r.index).all (fun p => inside p.dst.1 (max 1 (typeBits t.dtype / 8))) then none else some (5, 2, b.2))

/-- Ask a peer or the host for a word of a copy's source: once. -/
def askWord (s : State) (e ch j : Nat) (x : EngineSet) (l : Loc) (va : W) : Except EngErr State :=
  if s.fl.ops.any (fun o => !o.write && (match o.issuer with
      | .copy a b i _ => a == e && b == ch && i == j
      | _ => false)) then .ok s
  else
    match l with
    | .peer ix pa =>
      (match route s ix with
       | .error f => .error (.fault 0x10 f.2.toNat va)
       | .ok port => .ok (sendOp s (.copy e ch j va) ix (some port) false (w64 (pa / 8 * 8)) (List.replicate 8 0)))
    | .host a => .ok (sendOp s (.copy e ch j va) 0 (some (hostPort s x.crew.asid)) false (w64 (a / 8 * 8)) (List.replicate 8 0))
    | _ => .ok s

/-- The running copy of a channel, changed. -/
def updRun (s : State) (e ch : Nat) (f : CopyRun → CopyRun) : State :=
  updChan s e ch (fun c => { c with cur := match c.cur with
    | some r => some (f r)
    | none => none })

/-- A copy's access did not go through (R276, R341). -/
def engFails (s : State) (e ch j : Nat) (x : EngineSet) (er : EngErr) : State :=
  let stop (st : State) (status sub : Nat) (va : W) : State :=
    updRun st e ch (fun r => { r with fault := some (j, status, sub, va), stalls := r.stalls.erase j })
  match er with
  | .fault status sub va => stop s status sub va
  | .stall va wr => updRun (pageRequest s x.crew.asid (.channel e ch) va wr) e ch (fun r => { r with stalls := j :: r.stalls.erase j })
  | .ask l va =>
    match askWord s e ch j x l va with
    | .ok s1 => updRun ((chanOf s e ch).elim s1 (fun c => c.cur.elim s1 (fun r => useEng s1 x r.start [va]))) e ch
        (fun r => { r with stalls := r.stalls.erase j })
    | .error (.fault status sub va) => stop s status sub va
    | .error _ => s

/-- Take a slot for the running copy (R189, R273). -/
def channelTakes (s : State) (e ch : Nat) (b : BankAt) : State :=
  match fifoOf s b with
  | none => s
  | some f =>
    updRun (updFifo s b (fun r => fifoTake r (.channel e ch))) e ch (fun r => { r with slot := some f.tail, waiting := false })

/-- Whether the running copy still needs a slot, and of which run. -/
def slotWanted (s : State) (x : EngineSet) (r : CopyRun) : Option BankAt :=
  match r.slot, r.fault with
  | none, none => destFifo s x (stepped (tmplOf r.start.tmpl) r.start.word).2
  | _, _ => none

/-- A channel waits on FREE of a run. -/
def waitsFree (s : State) (x : EngineSet) (b : BankAt) (c : Channel) : Bool :=
  match c.cur with
  | some r => r.waiting && (slotWanted s x r).any (fun y => y.store == b.store && y.bank == b.bank)
  | none => false

/-- No lower channel of the engine set waits on FREE of a run: among writers, channels go in ascending number (R189). -/
def slotTurn (s : State) (x : EngineSet) (b : BankAt) (ch : Nat) : Bool := !(x.channels.take ch).any (waitsFree s x b)

/-- The running copy's first checks, and its slot where one is free: the slot is taken once its bound has been checked (R273). -/
def settleBegin (s : State) (e ch : Nat) : State :=
  match aget s.esets e, chanOf s e ch with
  | some x, some c =>
    (match c.cur with
     | none => s
     | some r =>
       match slotWanted s x r, beginCheck s x r with
       | _, .ok (some f) => updRun s e ch (fun y => { y with fault := some (0, f.1, f.2.1, f.2.2) })
       | some _, .error er => engFails s e ch 0 x er
       | some b, .ok none =>
         (match fifoOf s b with
          | some f => if 0 < f.free && slotTurn s x b ch then channelTakes s e ch b
            else updChan (updRun s e ch (fun y => { y with waiting := true })) e ch (fun y => { y with held := some s.cycle })
          | none => s)
       | none, _ => s)
  | _, _ => s

/-- The copy of an unconfirmed crew stands in its queue still: whether its destination lies in the window is not known until its
index list has come (R289). -/
def parks (s : State) (x : EngineSet) : Bool := unconfirmed s x.crew

/-- COPY_BEGIN (R266): the next queued copy begins, with the label of its start (R315). -/
def execCopyBegin (e ch : Nat) (s : State) : Host.Outcome State Fault Refusal :=
  .next (match aget s.esets e, chanOf s e ch with
    | some x, some c =>
      (match c.cur, c.queue with
       | none, st :: rest =>
         if !esetRuns s x then s
         else
           let run := CopyRun.fresh st [] []
           let s1 := updChan s e ch (fun y => { y with
             queue := rest, cur := some run, slot := st.word.extractLsb' 0 6, lastAct := s.cycle, held := none,
             label := ⟨st.sig.path, st.sig.edge, 0, s.cycle⟩, pts := max y.pts st.sig.pts })
           let waits := updChan s e ch (fun y => { y with held := some (y.held.getD s.cycle) })
           match indexOf s x st [] with
           | .error (.fault a b va) =>
             if copyHeldBlind s x st then waits else updRun s1 e ch (fun r => { r with fault := some (0, a, b, va) })
           | .error (.stall va wr) =>
             updRun (pageRequest s1 x.crew.asid (.channel e ch) va wr) e ch (fun r => { r with stalls := [0], parked := parks s x })
           | .error (.ask _ _) => updRun s1 e ch (fun r => { r with parked := parks s x })
           | .ok (ix, sp) =>
             if copyHeld s x st ix then waits
             else
               settleBegin (updRun (indexRead s1 e ch x st (max c.pts st.sig.pts) sp) e ch (fun r => { r with index := ix })) e ch
       | _, _ => s)
    | _, _ => s)

/-- The reader whose release made FREE rise: its signal and its unit word (R189). -/
def readerSig (s : State) (f : FifoRun) : Sig × W :=
  match f.reader with
  | some (c, n) => writerSig s (.node c n)
  | none => (Sig.zero, 0)

/-- A channel's wait on FREE ends with the slot and a CIRCBUF edge (R189, R273). -/
def channelAcquires (s : State) (e ch : Nat) : State :=
  match aget s.esets e, chanOf s e ch with
  | some x, some c =>
    (match c.cur with
     | none => s
     | some r =>
       if !esetRuns s x then s
       else
         match slotWanted s x r, beginCheck s x r with
         | some b, .ok none =>
           (match fifoOf s b with
           | none => s
           | some f =>
             if !indexReady r then s
             else if !r.waiting then settleBegin s e ch
             else if f.free = 0 || !slotTurn s x b ch then s
             else
               let g := readerSig s f
               let s1 := match c.held with
                 | some t0 => endWaitChan s e ch g.1 12 g.2 (s.cycle - t0)
                 | none => s
               updChan (channelTakes s1 e ch b) e ch (fun y => { y with held := none }))
         | _, _ => if indexReady r then settleBegin s e ch else s)
  | _, _ => s

/-! ### Sectors and completion (R269, R275, R276) -/

/-- The sectors of a running copy. -/
def runSectors (r : CopyRun) : List Sector :=
  let t := tmplOf r.start.tmpl
  sectorsOf t (stepped t r.start.word).2 r.index

/-- Sector k of a running copy has performed: a write to a peer or the host once it has been acknowledged (R248). -/
def sectorPerformed (s : State) (e ch : Nat) (r : CopyRun) (k : Nat) : Bool :=
  r.perf.contains k && !s.fl.ops.any (fun o => o.write && (match o.issuer with
    | .copy a b i _ => a == e && b == ch && i == k
    | _ => false))

/-- The lines that a sector of Puts writes. -/
def sectorLines (db : W) (sec : Sector) : List Nat :=
  match sec with
  | .puts ps => (ps.map (putLine db)).dedup
  | _ => []

/-- In SCATTER mode, a line that two sectors write is written in sector order (R269): no lower sector that writes a line of sector j
is left. -/
def scatterTurn (r : CopyRun) (j : Nat) : Bool :=
  let t := tmplOf r.start.tmpl
  t.mode != 2 ||
  (let db := (stepped t r.start.word).2
   let secs := runSectors r
   let own := (secs[j]?).elim [] (sectorLines db)
   (List.range j).all (fun k => r.perf.contains k || !((secs[k]?).elim [] (sectorLines db)).any own.contains))

/-- Sector j may perform: it has not, it lies within the window of eight, and below the sector of a fault. -/
def sectorReady (s : State) (e ch : Nat) (r : CopyRun) (j : Nat) : Bool :=
  !r.perf.contains j && (List.range (j - 7)).all (sectorPerformed s e ch r) && scatterTurn r j &&
  (match r.fault with
   | some f => decide (j < f.1)
   | none => true)

/-- Every sector that the copy will perform has performed. -/
def sectorsDone (r : CopyRun) : Bool :=
  let n := match r.fault with
    | some f => f.1
    | none => (runSectors r).length
  (r.fault.isSome || indexReady r) && (List.range n).all (fun k => r.perf.contains k)

/-- An operation of a channel's copy is under way. -/
def copyBusy (s : State) (e ch : Nat) : Bool :=
  s.fl.ops.any (fun o => match o.issuer with
    | .copy a b _ _ => a == e && b == ch
    | _ => false)

/-- The slot of a circular buffer that a channel's copy holds is complete, once, when its last sector has performed: a write to a peer
or the host with its acknowledgement (R248, R273). -/
def slotComplete (s : State) (e ch : Nat) (x : EngineSet) : State :=
  match chanOf s e ch with
  | none => s
  | some c =>
    match c.cur with
    | none => s
    | some r =>
      match r.slot, destFifo s x (stepped (tmplOf r.start.tmpl) r.start.word).2 with
      | some k, some b =>
        if r.slotDone || !sectorsDone r || copyBusy s e ch then s
        else updRun (updFifo s b (fun f => fifoWritten f k)) e ch (fun y => { y with slotDone := true })
      | _, _ => s

/-- Every source page that a copy reads is mapped with W = 0 at PACKAGE scope (R361). -/
def sourceFixed (s : State) (x : EngineSet) (r : CopyRun) (ps : List Put) : Bool :=
  let sb := (stepped (tmplOf r.start.tmpl) r.start.word).1
  ps.all (fun p => match p.src with
    | none => true
    | some (o, _) =>
      let va := leaInt sb o
      field va 60 4 == 0 && (match engLoc s x r.start .load va 1 with
        | .ok l => !l.wr && !isRemote l.loc
        | .error _ => false))

/-- The granules that a copy writes whole, as memory addresses (R361): none where it is no TILE copy without packing from
fixed pages to scratch. -/
def stageable (s : State) (x : EngineSet) (r : CopyRun) : List Nat :=
  let t := tmplOf r.start.tmpl
  let db := (stepped t r.start.word).2
  let ps := allPuts t r.index
  if t.mode = 0 ∧ t.pack = false ∧ t.unpack = false ∧ field db 60 4 = 8 ∧ destFifo s x db = none ∧ sourceFixed s x r ps = true then
    let n := max 1 (typeBits t.dtype / 8)
    let bytes := ps.foldl (fun l p =>
      let va := leaInt db p.dst.1
      match engLoc s x r.start .store va n with
      | .ok ⟨.mem a, _, _, _⟩ => (List.range n).foldl (fun m k => insertLine m (a + k)) l
      | _ => l) []
    let gs := bytes.foldl (fun l a => insertLine l (a / 1024 * 1024)) []
    gs.filter (fun g => decide ((bytes.filter (fun a => decide (g ≤ a) && decide (a < g + 1024))).length = 1024))
  else []

/-- The granules that a copy in progress will stage are noted, so that a write that reaches one of them takes it out. -/
def noteStage (s : State) (e ch : Nat) (st : CopyStart) (granules : List Nat) : State :=
  match granules with
  | [] => s
  | _ => updEset s e (fun x => { x with staged := x.staged.filter (fun g => g.start != st) ++ [⟨st, ch, granules, false⟩] })

/-- The copy has ended with STATUS 0: its granules are staged (R361). The table holds 64 entries, and the oldest leaves. -/
def stageCopy (s : State) (e : Nat) (st : CopyStart) : State :=
  updEset s e (fun x =>
    let own := (x.staged.filter (fun g => g.start == st)).map (fun g => { g with ended := true })
    let rest := x.staged.filter (fun g => g.start != st)
    let old := rest.filter (fun g => g.ended)
    let keep := (old ++ own).drop ((old ++ own).length - Config.stagingEntries)
    { x with staged := rest.filter (fun g => !g.ended) ++ keep })

/-- The granules that a copy has in the table. -/
def stagedOf (x : EngineSet) (st : CopyStart) : List Nat :=
  match x.staged.find? (fun g => g.start == st) with
  | some g => g.granules
  | none => []

/-- A copy's entry leaves the table. -/
def dropStaged (s : State) (e : Nat) (st : CopyStart) : State :=
  updEset s e (fun x => { x with staged := x.staged.filter (fun g => g.start != st) })

/-- The index list comes, once its words from a peer or the host are there; then the copy's proof hold is tested (R289). -/
def lateIndex (s : State) (e ch : Nat) (x : EngineSet) (r : CopyRun) : State :=
  let park := updChan (updRun s e ch (fun y => { y with parked := true, stalls := [] })) e ch
    (fun y => { y with held := some (y.held.getD s.cycle) })
  match indexOf s x r.start r.image with
  | .error (.fault a b va) => if copyHeldBlind s x r.start then park else engFails s e ch 0 x (.fault a b va)
  | .error er => engFails s e ch 0 x er
  | .ok (ix, sp) =>
    if copyHeld s x r.start ix then park
    else
      let s1 := indexRead s e ch x r.start ((chanOf s e ch).elim 0 (fun c => c.pts)) sp
      settleBegin (updChan (updRun s1 e ch (fun y => { y with index := ix, parked := false, stalls := [] })) e ch
        (fun y => { y with held := none })) e ch

/-- COPY_SECTOR (R269). -/
def execCopySector (e ch j : Nat) (s : State) : Host.Outcome State Fault Refusal :=
  .next (match aget s.esets e, chanOf s e ch with
    | some x, some c =>
      (match c.cur with
       | none => s
       | some r =>
         if !esetRuns s x then s
         else if !indexReady r && r.fault.isNone then lateIndex s e ch x r
         else if (slotWanted s x r).isSome || !sectorReady s e ch r j then s
         else
           match (runSectors r)[j]? with
           | none => s
           | some sec =>
             match performSector s e ch j x r c.pts sec with
             | .error (er, s1) => engFails s1 e ch j x er
             | .ok d =>
               let keep := if r.perf.isEmpty then stageable s x r else stagedOf x r.start
               let s1 := updChan (noteStage (pmcAdd d.s x.crew.asid (dieOf x.cluster) 9 1) e ch r.start keep) e ch (fun y => { y with
                 pts := d.pts, lastAct := s.cycle, label := { y.label with busy := y.label.busy + 1 },
                 cur := some { r with
                   perf := j :: r.perf, stalls := r.stalls.erase j,
                   counts := ⟨j, d.flags, d.nsat, d.elems, d.pbytes⟩ :: r.counts } })
               slotComplete s1 e ch x)
    | _, _ => s)

/-- Word 0 of a completion record (R274). -/
def recWord0 (c : Channel) (r : CopyRun) (status sub : Nat) : W :=
  r.start.word.extractLsb' 32 16 ++ BitVec.ofNat 8 sub ++ BitVec.ofNat 8 status ++ c.ccnt

/-- A completion record (R274). -/
def copyRecord (c : Channel) (r : CopyRun) : List W :=
  let f := r.fault.getD (0xFFFFFFFF, 0, 0, 0)
  let n := r.total
  [recWord0 c r f.2.1 f.2.2.1, BitVec.ofNat 32 n.pbytes ++ BitVec.ofNat 32 n.elems, f.2.2.2,
   BitVec.ofNat 32 f.1 ++ BitVec.ofNat 16 n.nsat ++ (0 : BitVec 2) ++ r.start.word.extractLsb' 0 6 ++ (0 : BitVec 2) ++ n.flags]

/-- The trap record of a copy's fault or a ring's (R275, R276), under the sequence number that a gate gave the fault, or a new one
(R278, R358). -/
def copyTrap (s : State) (ch : Nat) (x : EngineSet) (c : Channel) (st : CopyStart) (status : Nat) (va : W) (seq : Option (BitVec 32)) : State :=
  let n : BitVec 32 × State := match seq with
    | some k => (k, s)
    | none => nextSeq s x.crew.asid
  reportSeq n.2 x.crew.asid (dieOf x.cluster) cENGINE (BitVec.ofNat 8 status) ⟨2, ch, coordOf x.crew 0xFF 0xFF, 0⟩ va 0 n.1
    (some st.thread) (labelSig s c.label c.pts) (chanUnit s x ch) none

/-- The sector number that a completion record's write goes under. -/
def recSector : Nat := 0xFFFFFFFF

/-- The address of the completion record (R275). -/
def recAddress (c : Channel) (r : CopyRun) : W :=
  let t := tmplOf r.start.tmpl
  t.rbase + w64 (32 * (c.ccnt.toNat % pow2 t.rlog))

/-- The completion record's write: the state with it, or a fault of the ring, or a stall. -/
def ringWrite (s : State) (e ch : Nat) (x : EngineSet) (c : Channel) (r : CopyRun) : Except (EngErr × State) (State × Nat) :=
  if (tmplOf r.start.tmpl).rlog = 0 then .ok (s, c.pts)
  else
    match engLine s e ch recSector x r.start c.pts false [((recAddress c r).toNat, wordBytes (copyRecord c r))] with
    | .ok y => .ok y
    | .error er => .error (putFailed s x.crew.asid c.pts er)

/-! ### Copies that write a publishable buffer (R141, R251, R258) -/

/-- The index list of a started copy as far as it is known: that of its run, or what can be read now. -/
def knownIndex (s : State) (x : EngineSet) (st : CopyStart) (r : Option CopyRun) : Option (List Nat) :=
  match r with
  | some y => if indexReady y then some y.index else none
  | none => (match indexOf s x st [] with
    | .ok (ix, _) => some ix
    | .error _ => none)

/-- A copy writes inside a range of virtual addresses: a Put, or the SC byte at AUX. While the indices of a SCATTER copy are not
known it may. -/
def copyReaches (st : CopyStart) (ix : Option (List Nat)) (lo hi : Nat) : Bool :=
  let t := tmplOf st.tmpl
  let db := (stepped t st.word).2
  let inside (a : W) : Bool := field a 60 4 == 0 && decide (lo ≤ a.toNat) && decide (a.toNat < hi)
  (field db 60 4 == 0 && (match ix with
    | none => t.mode == 2 || (allPuts t []).any (fun p => inside (leaInt db p.dst.1))
    | some l => (allPuts t l).any (fun p => inside (leaInt db p.dst.1)))) ||
  (t.mode == 0 && t.scen && inside t.aux && t.aux != 0)

/-- A unit has written the shadows of the buffers of a context that satisfy a test: it is their last writer (R150). -/
def noteShadow (s : State) (asid : Nat) (f : Nat → Nat → Bool) (w : Sig × W) : State :=
  updCtx s asid (fun c => { c with xlat := { c.xlat with bufs := c.xlat.bufs.map (fun b =>
    if b.valid && f b.va.toNat (b.va.toNat + b.len * 4096) then { b with writer := some w } else b) } })

/-- The end of a copy (R275), in its order: record, count and pulse, mailbox. -/
def finishCopy (s : State) (e ch : Nat) (x : EngineSet) (c : Channel) (r : CopyRun) (ring : Option (Nat × Nat × W)) : State :=
  let t := tmplOf r.start.tmpl
  let g := labelSig s c.label c.pts
  let f := match r.fault with
    | some f => (f.2.1, f.2.2.1)
    | none => (0, 0)
  let last := match ring with
    | some k => k.1
    | none => f.1
  let s1 := updChan (noteShadow s x.crew.asid (copyReaches r.start (some r.index)) (g, chanUnit s x ch)) e ch (fun y => { y with
    ccnt := y.ccnt + 1, cur := none, recSig := g, lastAct := s.cycle, held := none, pts := c.pts,
    lastcode := if last = 0 then y.lastcode else BitVec.ofNat 8 last })
  let s2 := pulseLine (if last = 0 then stageCopy s1 e r.start else dropStaged s1 e r.start) e ch g
  let s3 := if t.mben then
      let w0 := match ring with
        | some k => recWord0 c r k.1 k.2.1
        | none => recWord0 c r f.1 f.2
      sendWrite s2 ⟨r.start.thread, BitVec.ofNat 4 t.mbox, w0, g, chanUnit s x ch, false, none⟩
    else s2
  let s4 := match r.fault with
    | some k => copyTrap s3 ch x c r.start k.2.1 k.2.2.2 r.seq
    | none => s3
  match ring with
  | some k => copyTrap s4 ch x c r.start k.1 k.2.2 r.recSeq
  | none => s4

/-- The record's write: it has performed, and the copy ends; it has been sent to a peer or the host, and the copy ends with its
acknowledgement (R248); it faults; or its page is waited for. -/
def writeRecord (s : State) (e ch : Nat) (x : EngineSet) (c : Channel) (r : CopyRun) : State :=
  match ringWrite s e ch x c r with
  | .ok (s1, ts) =>
    if s1.fl.ops.length = s.fl.ops.length then finishCopy s1 e ch x { c with pts := ts } r none
    else updRun s1 e ch (fun y => { y with recSent := true, stalls := [] })
  | .error (.stall va wr, s1) => 
    updRun (pageRequest s1 x.crew.asid (.channel e ch) va wr) e ch (fun y => { y with stalls := [recSector] })
  | .error (.fault a b va, s1) => finishCopy s1 e ch x c r (some (a, b, va))
  | .error (.ask _ _, s1) => s1

/-- COPY_COMPLETE (R275). A faulting copy's slot is completed with the bytes written so far (R276). -/
def execCopyComplete (e ch : Nat) (s : State) : Host.Outcome State Fault Refusal :=
  .next (match aget s.esets e, chanOf s e ch with
    | some x, some c =>
      (match c.cur with
       | none => s
       | some r =>
         if !esetRuns s x || copyBusy s e ch || !sectorsDone r || (slotWanted s x r).isSome then s
         else if r.recSent then finishCopy s e ch x c r r.recFail
         else writeRecord (slotComplete s e ch x) e ch x c r)
    | _, _ => s)

/-- The started copies of a channel that have not ended, each with its run where it has begun. -/
def chanCopies (c : Channel) : List (CopyStart × Option CopyRun) :=
  c.queue.map (fun st => (st, none)) ++ c.cur.toList.map (fun r => (r.start, some r))

/-- The tag 0x8 addresses at which a copy reads or writes an element, its index list or its packed stream. -/
def copyBanks (t : Tmpl) (p : W × W) (ix : List Nat) : List Nat :=
  let at8 (va : W) : List Nat := if field va 60 4 = 8 then [field va 15 7] else []
  ((allPuts t ix).flatMap (fun q => q.src.elim [] (fun o => at8 (leaInt p.1 o.1)) ++ at8 (leaInt p.2 q.dst.1)) ++
    (if t.mode = 0 then [] else (List.range t.rows).flatMap (fun k => at8 (leaInt t.aux ((4 * k : Nat) : Int)))) ++
    (if t.pack ∨ t.unpack then at8 p.1 ++ at8 p.2 else []) ++ (if t.mode = 0 ∧ t.scen then at8 t.aux else [])).dedup

/-- A copy's destination is a run of a circular buffer that bank b of page k of a cell is part of: the slot that it writes may lie
in any of them. -/
def runReaches (s : State) (x : EngineSet) (db : W) (c k b : Nat) : Bool :=
  match destFifo s x db with
  | none => false
  | some f =>
    f.cell == c && f.page == k && decide (f.bank ≤ b) &&
    ((aget s.cells c).bind (fun z => z.pages[k]?)).any (fun p => decide (b < f.bank + runBanks p f.bank))

/-- A copy of the crew that has begun or is queued reaches a bank of a cell, with any of its bytes (R277). Where its indices are not
known yet, a copy with an index list may reach any bank. -/
def bankBusy (s : State) (crew : CrewId) (c k b : Nat) : Bool :=
  let ords := (List.range ((crewPages s crew).length * 8)).filter (fun o => match crewBank s crew o with
    | some x => x.cell == c && x.page == k && x.bank == b
    | none => false)
  s.esets.any (fun e => e.2.crew == crew && e.2.channels.any (fun ch => (chanCopies ch).any (fun q =>
    let t := tmplOf q.1.tmpl
    let p := stepped t q.1.word
    runReaches s e.2 p.2 c k b ||
    match knownIndex s e.2 q.1 q.2 with
    | some ix => (copyBanks t p ix).any ords.contains
    | none => field p.1 60 4 == 8 || field p.2 60 4 == 8)))

end Sys2Proof.Machine
end

