-- ==== Sys2Proof/Machine/Graph.lean ====
section
/-! DEFINITION. Graph blocks: order types and positions (R56 to R61), node words (R79 to R81), the ports and types of each
mode, and the checks of CFG in their order (R238). -/

namespace Sys2Proof.Machine

/-! ### Order types -/

/-- An order-table entry decoded (R56). -/
def orderOf (e : BitVec 128) : Order :=
  { raw := e, ebytes := (e.extractLsb' 109 4).toNat, pad := (e.extractLsb' 107 2).toNat, ragged := (e.extractLsb' 103 4).toNat,
    lanesLog := (e.extractLsb' 100 3).toNat,
    walk := (List.range 6).map (fun k => ((e.extractLsb' (68 + 6 * k) 2).toNat, (e.extractLsb' (64 + 6 * k) 4).toNat)),
    ext := (List.range 4).map (fun d => (e.extractLsb' (16 * d) 16).toNat) }

/-- LANES as a count. -/
def Order.lanes (o : Order) : Nat := pow2 o.lanesLog

/-- Dim d is ragged. -/
def Order.isRagged (o : Order) (d : Nat) : Bool := (o.ragged >>> d) % 2 == 1

/-- Some dim is ragged. -/
def Order.anyRagged (o : Order) : Bool := o.ragged != 0

/-- EBYTES of an element width in bits (R56). -/
def ebytesOf (bits : Nat) : Nat := match bits with | 4 => 0 | 8 => 1 | 16 => 2 | 32 => 3 | 64 => 4 | _ => 6

/-- The WALK is valid (R58). -/
def walkOk (o : Order) : Bool :=
  (List.range 4).all (fun d =>
    decide (o.ext.getD d 0 ≤ 1) ||
    ((o.walk.filter (fun st => st.1 == d && st.2 == 15)).length == 1 &&
     (match (List.range 6).find? (fun k => o.walk.getD k (0, 0) == (d, 15)) with
      | some k => (List.range 6).all (fun j => decide (j ≤ k) || (o.walk.getD j (0, 0)).1 != d || (o.walk.getD j (0, 0)).2 == 0)
      | none => false)))

/-- The entry is well encoded (R56 to R58). A slower step of log2 0 contributes nothing, and may name any dim. -/
def orderEncOk (o : Order) : Bool :=
  (o.raw.extractLsb' 113 15) == 0 && (decide (o.ebytes ≤ 4) || o.ebytes == 6) && o.pad != 3 && o.ext.all (fun e => e != 0) && walkOk o

/-- The extents that the walk covers: those of a LEN for ragged dims, the declared ones for the others (R60, R61). -/
def actualExt (o : Order) (len : Option (List Nat)) : List Nat :=
  match len with
  | none => o.ext
  | some l => (List.range 4).map (fun d => if o.isRagged d then l.getD d 0 else o.ext.getD d 0)

/-- The box that the stream counts (R61). -/
def countedBox (o : Order) (len : Option (List Nat)) : List Nat := if o.pad = 0 then actualExt o len else o.ext

/-- Positions that a stream carries (R61). -/
def countOf (o : Order) (len : Option (List Nat)) : Nat := (countedBox o len).foldl (· * ·) 1

/-- The declared count. -/
def declared (o : Order) : Nat := countOf o none

/-- The steps of a walk over a box, the slowest first: dim, number of digit values, shift (R59). -/
def walkSteps (o : Order) (box : List Nat) : List (Nat × Nat × Nat) :=
  ((o.walk.foldl (fun (a : List (Nat × Nat × Nat) × List Nat) st =>
    let u := a.2.getD st.1 0
    if st.2 = 15 then ((st.1, (box.getD st.1 0 + pow2 u - 1) / pow2 u, u) :: a.1, a.2)
    else if st.2 = 0 then a
    else ((st.1, pow2 st.2, u) :: a.1, a.2.set st.1 (u + st.2))) ([], [0, 0, 0, 0]))).1

/-- Every coordinate that the steps reach, in the order of its digits. -/
def walkGen : List (Nat × Nat × Nat) → List Nat → List (List Nat)
  | [], x => [x]
  | (d, n, sh) :: rest, x => (List.range n).flatMap (fun g => walkGen rest (x.set d (x.getD d 0 + g * pow2 sh)))

/-- The counted coordinates in position order (R59). -/
def coords (o : Order) (len : Option (List Nat)) : List (List Nat) :=
  let box := countedBox o len
  (walkGen (walkSteps o box) [0, 0, 0, 0]).filter (fun x => (List.range 4).all (fun d => decide (x.getD d 0 < box.getD d 0)))

/-- A coordinate lies in the actual box. -/
def inActual (o : Order) (len : Option (List Nat)) (x : List Nat) : Bool :=
  (List.range 4).all (fun d => decide (x.getD d 0 < (actualExt o len).getD d 0))

/-- A coordinate of a box as one number. -/
def boxIndex (box x : List Nat) : Nat := (box.zip x).foldr (fun e a => e.2 + e.1 * a) 0

/-- Each coordinate's place in a list of coordinates of a box, by `boxIndex`. -/
def places (box : List Nat) (l : List (List Nat)) : Array Nat :=
  (l.foldl (fun (a : Array Nat × Nat) x => (a.1.setIfInBounds (boxIndex box x) a.2, a.2 + 1)) (Array.replicate (box.foldl (· * ·) 1) 0, 0)).1

/-- The consumer position of each producer position (R230). -/
def reposition (p e : Order) (len : Option (List Nat)) : List Nat :=
  let box := countedBox e len
  let at0 := places box (coords e len)
  (coords p len).map (fun x => at0.getD (boxIndex box x) 0)

/-- The producer beat from which each consumer beat of a store is available: `ready` (R230). -/
def readyBeats (to0 : List Nat) (lp le cb : Nat) : List Nat :=
  (to0.foldl (fun (a : Array Nat × Nat) c =>
    (a.1.setIfInBounds (c / le) (max (a.1.getD (c / le) 0) (a.2 / lp)), a.2 + 1)) (Array.replicate cb 0, 0)).1.toList

/-- The walk over producer beats b of ReorderHeld (R230): the consumer beats not available yet, F, and the most elements held. -/
def heldGo (lp le n : Nat) : Nat → Nat → List Nat → Nat → Nat → Nat
  | 0, _, _, _, h => h
  | k + 1, b, rest, f, h =>
    let f1 := f + (rest.takeWhile (fun r => decide (r ≤ b))).length
    heldGo lp le n k (b + 1) (rest.dropWhile (fun r => decide (r ≤ b))) f1 (max h (min (min (lp * (b + 1)) n - le * f1) n))

/-- ReorderHeld (R230). -/
def reorderHeld (p e : Order) (len : Option (List Nat)) : Nat :=
  let to0 := reposition p e len
  let n := to0.length
  heldGo p.lanes e.lanes n ((n + p.lanes - 1) / p.lanes) 0 (readyBeats to0 p.lanes e.lanes ((n + e.lanes - 1) / e.lanes)) 0 0

/-- Half-bytes of an element of EBYTES (R230). -/
def halfBytes (eb : Nat) : Nat := match eb with | 0 => 1 | 1 => 2 | 2 => 4 | 3 => 8 | 4 => 16 | _ => 64

/-- Granules of a reorder store of `held` elements (R230). -/
def granulesFor (held eb : Nat) : Nat := max 1 ((held * halfBytes eb + 8191) / 8192)

/-! ### Node words -/

/-- A target of a node word. -/
def nodeTarget (f : Nat) : Option (Nat × Nat) := if f / 128 = 0 then none else some (f / 128, f % 128)

/-- A graph node word decoded (R79). -/
def nodeWordOf (w : W) : NodeWord :=
  { kind := field w 60 4, mode := field w 54 6, type := field w 48 6, ord := field w 43 5,
    outA := nodeTarget (field w 34 9), outB := nodeTarget (field w 25 9), ctrl := w.getLsbD 24, repl := w.getLsbD 23,
    mclass := field w 20 3, prm := field w 12 8, prmlen := field w 8 4, flags := w.extractLsb' 0 8 }

/-- RM of a node (R32). -/
def NodeWord.rm (w : NodeWord) : Nat := w.flags.toNat % 4
/-- FTZ. -/
def NodeWord.ftz (w : NodeWord) : Bool := w.flags.getLsbD 2
/-- SAT. -/
def NodeWord.sat (w : NodeWord) : Bool := w.flags.getLsbD 3

/-- Kinds (R16). -/
def kMAP : Nat := 0
/-- TRANSC. -/
def kTRANSC : Nat := 1
/-- CONV. -/
def kCONV : Nat := 2
/-- FILTER. -/
def kFILTER : Nat := 3
/-- MERGE. -/
def kMERGE : Nat := 4
/-- LOOP. -/
def kLOOP : Nat := 5
/-- MMA. -/
def kMMA : Nat := 6
/-- PERM. -/
def kPERM : Nat := 7
/-- SCAN. -/
def kSCAN : Nat := 8
/-- RED. -/
def kRED : Nat := 9
/-- AGEN. -/
def kAGEN : Nat := 10
/-- MEM. -/
def kMEM : Nat := 11

/-- Modes of each kind (R81). -/
def modeCount (kind : Nat) : Nat :=
  match kind with
  | 0 => 22 | 1 => 8 | 2 => 4 | 3 => 2 | 4 => 3 | 5 => 1 | 6 => 3 | 7 => 3 | 8 => 4 | 9 => 5 | 10 => 3 | 11 => 5 | _ => 0

/-- Slots of each kind on a page (R16). -/
def kindSlots (kind : Nat) : Nat := match kind with | 0 => 4 | 2 => 2 | 10 => 2 | 11 => 2 | _ => 1

/-- A role allows a kind (R16): 0 AG, 1 compute, 2 reducer. -/
def roleAllows (role kind : Nat) : Bool :=
  match role with
  | 0 => kind == 0 || kind == 2 || kind == 3 || kind == 4 || kind == 5 || kind == 10 || kind == 11
  | 1 => decide (kind ≤ 9)
  | 2 => decide (kind ≤ 9) && kind != 6
  | _ => false

/-- How a mode uses ports A, B and C: 0 not read, 1 read, 2 read if fed. -/
def portUse (w : NodeWord) : List Nat :=
  match w.kind with
  | 0 => if w.mode = 6 ∨ w.mode = 7 ∨ w.mode = 11 ∨ w.mode = 20 then [1, 0, 0]
    else if w.mode = 3 ∨ w.mode = 19 ∨ w.mode = 21 then [1, 1, 1] else [1, 1, 0]
  | 3 => [1, 1, 0]
  | 4 => if w.mode = 1 then [1, 1, 0] else [2, 2, 2]
  | 5 => [1, 1, 1]
  | 6 => [1, 1, if w.flags.getLsbD 6 then 1 else 0]
  | 7 => if w.mode = 1 then [1, 1, 0] else [1, 0, 0]
  | 8 => if w.mode = 1 ∨ w.mode = 2 then [1, 1, 0] else [1, 0, 0]
  | 9 => if w.mode = 4 then [1, 1, 0] else [1, 0, 0]
  | 10 => if w.mode = 1 then [1, 0, 0] else [0, 0, 0]
  | 11 => (match w.mode with
    | 0 => [1, 0, 2]
    | 1 => [1, 1, 2]
    | 2 => [1, 1, 2]
    | 3 => [0, 0, 0]
    | _ => [1, 0, 0])
  | _ => [1, 0, 0]

/-- Port p is declared a replicate port (R63, R155, R195). -/
def repPort (w : NodeWord) (p : Nat) : Bool :=
  if w.kind = 0 then (p == 1 && w.flags.getLsbD 4) || (p == 2 && w.flags.getLsbD 6)
  else w.kind == 6 && (p == 2 || (p == 1 && w.mode == 2))

/-- A replicate port takes a scalar for each beat (R155). -/
def repBeat (w : NodeWord) (p : Nat) : Bool := w.kind == 0 && ((p == 1 && w.flags.getLsbD 5) || (p == 2 && w.flags.getLsbD 7))

/-- Length of the parameter record of a mode. -/
def prmLen (w : NodeWord) : Nat :=
  match w.kind, w.mode with
  | 2, 3 => 1
  | 5, _ => 1
  | 6, _ => 1
  | 7, 0 => 3
  | 7, 1 => 1
  | 9, 4 => 1
  | 10, 0 => 2
  | 10, 1 => 1
  | 10, 2 => 3
  | 11, 0 => if w.flags.getLsbD 4 then 1 else 0
  | 11, 1 => if w.flags.getLsbD 4 then 1 else 0
  | 11, 3 => 1
  | 11, 4 => 1
  | _, _ => 0

/-- FLAGS of a mode hold only what the kind and mode define (R32, R80). -/
def flagsOk (w : NodeWord) : Bool :=
  let hi := w.flags.toNat / 16
  match w.kind with
  | 0 =>
    let u := portUse w
    !(w.flags.getLsbD 5 && !w.flags.getLsbD 4) && !(w.flags.getLsbD 7 && !w.flags.getLsbD 6) &&
    !(w.flags.getLsbD 4 && u.getD 1 0 == 0) && !(w.flags.getLsbD 6 && u.getD 2 0 == 0)
  | 2 => if w.mode = 0 then decide (hi < 4) else hi == 0
  | 6 => !(w.flags.getLsbD 4 && w.flags.getLsbD 6) && (w.flags.getLsbD 5 || w.flags.getLsbD 7)
  | 1 => hi == 0
  | 8 => hi == 0
  | 9 => hi == 0
  | 11 => w.flags.toNat % 16 == 0 && (match w.mode with
    | 0 => decide (hi < 2)
    | 1 => decide (hi < 2)
    | 2 => decide (hi < 8)
    | _ => hi == 0)
  | _ => w.flags == 0

/-- Bits lo to lo + n − 1 of unit u of a parameter record. -/
def prmField (ps : List (BitVec 128)) (u lo n : Nat) : Nat := ((ps.getD u 0).extractLsb' lo n).toNat

/-- The parameter record of a mode is well encoded. -/
def prmOk (w : NodeWord) (ps : List (BitVec 128)) (lanes nord : Nat) : Bool :=
  match w.kind, w.mode with
  | 2, 3 => prmField ps 0 4 124 == 0
  | 5, _ => prmField ps 0 32 96 == 0 && prmField ps 0 4 12 == 0
  | 6, m =>
    let f := prmField ps 0
    f 39 25 == 0 && f 20 2 != 3 && f 22 2 != 3 && decide (f 26 5 ≤ nord) && decide (f 31 5 ≤ nord) &&
    (m == 2 || (f 80 48 == 0 && f 36 3 == 0)) && (if m = 1 then f 64 16 != 0 else f 64 16 == 0) && !(m == 2 && f 31 5 != 0) &&
    typeOk (f 0 6) && typeOk (f 6 6)
  | 7, 0 => (List.range 64).all (fun i =>
      let e := ((ps.getD 2 0 ++ ps.getD 1 0 ++ ps.getD 0 0 : BitVec 384).extractLsb' (6 * i) 6).toNat
      if i < lanes then decide (e < lanes) else e == 0)
  | 7, 1 => prmField ps 0 16 112 == 0 && prmField ps 0 0 16 != 0
  | 9, 4 =>
    let c := prmField ps 0 0 16
    let g := prmField ps 0 16 16
    prmField ps 0 32 96 == 0 && g != 0 && c != 0 && (g == 1 || decide (c ≤ 64))
  | 10, 1 => prmField ps 0 64 64 == 0
  | 10, 2 =>
    let d := prmField ps 2 0 2
    prmField ps 2 2 126 == 0 && prmField ps (d / 2) (64 * (d % 2)) 64 == 0
  | 11, 0 => !w.flags.getLsbD 4 || prmField ps 0 7 121 == 0
  | 11, 1 => !w.flags.getLsbD 4 || prmField ps 0 7 121 == 0
  | 11, 3 => prmField ps 0 16 112 == 0
  | 11, 4 => prmField ps 0 32 96 == 0
  | _, _ => true

/-! ### A graph block decoded -/

/-- A graph block as CFG reads it (R69, R70). -/
structure GraphBlock where
  hdr : BitVec 128
  words : List NodeWord
  raw : List W
  orders : List Order
  params : List (BitVec 128)
  deriving DecidableEq, Repr

/-- PAGES. -/
def GraphBlock.pages (g : GraphBlock) : Nat := (g.hdr.extractLsb' 29 8).toNat
/-- NPRM. -/
def GraphBlock.nprm (g : GraphBlock) : Nat := (g.hdr.extractLsb' 21 8).toNat
/-- Order entry of an index. -/
def GraphBlock.order (g : GraphBlock) (k : Nat) : Order := g.orders.getD k (orderOf 0)
/-- The parameter record of a node. -/
def GraphBlock.prmOf (g : GraphBlock) (w : NodeWord) : List (BitVec 128) := (g.params.drop w.prm).take w.prmlen

/-- Bytes of a graph block, from its header (R70). -/
def graphBytes (h : BitVec 128) : Nat :=
  16 + 16 * ((hdrNcnt h + 2) / 2) + 16 * ((h.extractLsb' 16 5).toNat + 1) + 16 * (h.extractLsb' 21 8).toNat

/-- The n 128-bit units of a byte list. -/
def unitsOf : Nat → List Byte → List (BitVec 128)
  | 0, _ => []
  | n + 1, bs => BitVec.ofNat 128 (leVal (bs.take 16)) :: unitsOf n (bs.drop 16)

/-- Decode the bytes of a graph block. -/
def graphOf (bs : List Byte) : GraphBlock :=
  let h : BitVec 128 := BitVec.ofNat 128 (leVal (bs.take 16))
  let n := hdrNcnt h + 1
  let p := 16 * ((n + 1) / 2)
  let raw := wordsOf n (bs.drop 16)
  let no := (h.extractLsb' 16 5).toNat + 1
  { hdr := h, words := raw.map nodeWordOf, raw := raw, orders := (unitsOf no (bs.drop (16 + p))).map orderOf,
    params := unitsOf (h.extractLsb' 21 8).toNat (bs.drop (16 + p + 16 * no)) }

/-- One byte into a CRC-32C, reflected. -/
def crcByte (c : BitVec 32) (b : Byte) : BitVec 32 :=
  (List.range 8).foldl (fun x _ => if x.getLsbD 0 then (x >>> 1) ^^^ 0x82F63B78#32 else x >>> 1) (c ^^^ b.setWidth 32)

/-- CRC-32C (Castagnoli, polynomial 0x1EDC6F41, in its usual form: reflected, all ones before and after). PRESUMED, log 15. -/
def crc32c (bs : List Byte) : BitVec 32 := (bs.foldl crcByte 0xFFFFFFFF#32) ^^^ 0xFFFFFFFF#32

/-- CHECK of a block's bytes: the CRC with the field read as zero (R69). -/
def checkOf (bs : List Byte) : BitVec 32 := crc32c (bs.take 12 ++ [0, 0, 0, 0] ++ bs.drop 16)

/-- The edges that feed port p of node n: producer, and whether by OUTB. -/
def feeders (ws : List NodeWord) (n p : Nat) : List (Nat × Bool) :=
  (List.range ws.length).flatMap (fun k => match ws[k]? with
    | none => []
    | some w => (if w.outA = some (p + 1, n) then [(k, false)] else []) ++ (if w.outB = some (p + 1, n) then [(k, true)] else []))

/-- The producer of a port. -/
def feeder (ws : List NodeWord) (n p : Nat) : Option (Nat × Bool) := (feeders ws n p).head?

/-- The type code that stands for a DONE stream (R182). -/
def tDONE : Nat := 208

/-- The type of an output stream. -/
def outType (w : NodeWord) (b : Bool) : Nat :=
  match w.kind, w.mode with
  | 11, 0 => if b then tDONE else w.type
  | 11, 1 => tDONE
  | 11, 2 => if b then tDONE else w.type
  | 7, 1 => if b then 2 else w.type
  | _, _ => w.type

/-- Port C of a MEM takes a DONE stream (R182). A LINKIN that feeds it brings one over its channel (R242): log 19. -/
def linkedDone (g : GraphBlock) (n p : Nat) (w : NodeWord) : Bool :=
  w.kind == 11 && w.mode == 3 && p == 2 && (match g.words[n]? with
    | some v => v.kind == 11
    | none => false)

/-- The type of the stream at a port. -/
def portType (g : GraphBlock) (n p : Nat) : Nat :=
  match feeder g.words n p with
  | some (k, b) => (match g.words[k]? with
    | some w => if linkedDone g n p w then tDONE else outType w b
    | none => 0)
  | none => 0

/-- An order type with EBYTES 1, in its entry too (R56, R217). -/
def Order.bytes (o : Order) : Order :=
  { o with ebytes := 1, raw := (o.raw &&& ~~~(0xF#128 <<< 109)) ||| (1#128 <<< 109) }

/-- The order type of an output (R227): the ORD entry; PERM RANK's codes take EBYTES 1 (R217). -/
def outOrder (g : GraphBlock) (k : Nat) (b : Bool) : Order :=
  match g.words[k]? with
  | some w =>
    let o := g.order w.ord
    if w.kind = 7 ∧ w.mode = 1 ∧ b = true then o.bytes else o
  | none => orderOf 0

/-- P, the producer's order type at a port. -/
def portOrder (g : GraphBlock) (n p : Nat) : Order :=
  match feeder g.words n p with
  | some (k, b) => outOrder g k b
  | none => orderOf 0

/-- An order type with other EBYTES and LANES. -/
def Order.recast (o : Order) (eb lanesLog : Nat) : Order := { o with ebytes := eb, lanesLog := lanesLog }

/-- EBYTES of the stream at a port. -/
def portEb (g : GraphBlock) (n p : Nat) : Nat := ebytesOf (typeBits (portType g n p))

/-- E, the expected order type of a port (R228). -/
def expectOrder (g : GraphBlock) (n p : Nat) : Order :=
  match g.words[n]? with
  | none => orderOf 0
  | some w =>
    let pr := portOrder g n p
    let eb := portEb g n p
    let ord := g.order w.ord
    let prm := g.prmOf w
    let own : Order := ord.recast eb ord.lanesLog
    match w.kind, w.mode, p with
    | 6, m, 0 => if m ≤ 2 then g.order (prmField prm 0 26 5) else pr
    | 6, m, 1 => if m ≤ 1 then g.order (prmField prm 0 31 5) else pr
    | 3, _, _ => own
    | 4, 1, _ => own
    | 7, 0, 0 => own
    | 7, 2, 0 => own
    | 7, 1, 1 => own
    | 8, 2, 1 => (portOrder g n 0).recast eb (portOrder g n 0).lanesLog
    | 8, 2, _ => pr
    | 8, _, _ => own
    | 5, _, _ => own
    | 11, 0, 0 => { ord.recast eb pr.lanesLog with pad := if ord.pad = 1 ∧ pr.pad = 2 then 2 else ord.pad }
    | 11, 2, 0 => ord.recast eb pr.lanesLog
    | 11, 2, 1 => ord.recast eb pr.lanesLog
    | 11, 1, 0 => own
    | 11, 1, 1 => ord.recast eb pr.lanesLog
    | 0, _, 1 => (portOrder g n 0).recast eb (portOrder g n 0).lanesLog
    | 0, _, 2 => (portOrder g n 0).recast eb (portOrder g n 0).lanesLog
    | _, _, _ => pr

/-- A port whose edge's positions are not checked or compared: a DONE stream (R182). -/
def isDonePort (g : GraphBlock) (n p : Nat) : Bool := portType g n p == tDONE

/-- Nodes that OUTA of a node reaches, following every output, on fuel. -/
def reachGo (ws : List NodeWord) (stop : Nat) : Nat → List Nat → List Nat → List Nat
  | 0, _, seen => seen
  | n + 1, todo, seen =>
    match todo with
    | [] => seen
    | k :: rest =>
      if seen.contains k || k == stop then reachGo ws stop n rest seen
      else
        let next := match ws[k]? with
          | some w => (match w.outA with
              | some t => [t.2]
              | none => []) ++ (match w.outB with
              | some t => [t.2]
              | none => [])
          | none => []
        reachGo ws stop n (rest ++ next) (k :: seen)

/-- The nodes that lead to a node. -/
def leadsTo (ws : List NodeWord) (k target : Nat) : Bool :=
  match ws[k]? with
  | none => false
  | some w =>
    let outs := (match w.outA with
      | some t => [t.2]
      | none => []) ++ (match w.outB with
      | some t => [t.2]
      | none => [])
    outs.contains target || (reachGo ws target 400 outs []).any (fun j => match ws[j]? with
      | some v => (match v.outA with
          | some t => t.2 == target
          | none => false) || (match v.outB with
          | some t => t.2 == target
          | none => false)
      | none => false)

/-- The body of a LOOP: nodes on a path from its OUTA back to its ports B and C (R173). -/
def loopBody (ws : List NodeWord) (n : Nat) : List Nat :=
  match ws[n]? with
  | none => []
  | some w =>
    match w.outA with
    | none => []
    | some t => (reachGo ws n 400 [t.2] []).filter (fun k => leadsTo ws k n)

/-- The streams of a node are derived from the body stream of some LOOP (R173): OUTA of the LOOP leads to the node. -/
def derived (ws : List NodeWord) (k : Nat) : Bool :=
  (List.range ws.length).any (fun n => match ws[n]? with
    | some w => w.kind == 5 && (match w.outA with
      | some t => (reachGo ws n 400 [t.2] []).contains k
      | none => false)
    | none => false)

/-- The stream at a port circulates (R173): it comes from a LOOP's OUTA or is derived from such a stream, in the body or outside. -/
def circulates (ws : List NodeWord) (n p : Nat) : Bool :=
  match feeder ws n p with
  | some (k, b) => (match ws[k]? with
      | some w => (w.kind == 5 && !b) || derived ws k
      | none => false)
  | none => false

end Sys2Proof.Machine
end

