-- ==== Sys2Proof/Machine/Connect.lean ====
section
/-! DEFINITION. The connection checks of CFG in the order of R238: encodings, roles, types, orders, banks, store sizes,
granules (R17, R57, R80, R131, R152 to R239). -/

namespace Sys2Proof.Machine

/-- A CONNECT fault: subcode (R239), node, port (0 none, 1 to 3 A to C, 4 OUTA, 5 OUTB). -/
abbrev Conn := Nat × Nat × Nat

/-- NO_RS. -/
def uNORS : Nat := 1
/-- RS_TOO_BIG. -/
def uBIG : Nat := 2
/-- ROLE. -/
def uROLE : Nat := 3
/-- ORDER. -/
def uORDER : Nat := 4
/-- TYPE. -/
def uTYPE : Nat := 5
/-- BANK. -/
def uBANK : Nat := 6
/-- BADENC. -/
def uBADENC : Nat := 7
/-- RAGGED_OVER. -/
def uRAGGED : Nat := 8

/-! ### 1: encodings -/

/-- Ports of a node that targets feed. -/
def isFed (g : GraphBlock) (n p : Nat) : Bool := !(feeders g.words n p).isEmpty

/-- The bank map's entry for bank b of page k (R176). -/
def mapEntry (g : GraphBlock) (k b : Nat) : Nat := prmField g.params k (16 * b) 16
/-- MODE of a bank-map entry. -/
def mapMode (g : GraphBlock) (k b : Nat) : Nat := mapEntry g k b % 8
/-- CONT of a bank-map entry. -/
def mapCont (g : GraphBlock) (k b : Nat) : Bool := mapEntry g k b / 8 % 2 == 1
/-- SLOTLOG of a bank-map entry. -/
def mapSlot (g : GraphBlock) (k b : Nat) : Nat := mapEntry g k b / 16 % 16

/-- An entry of the bank map is well encoded (R176). -/
def mapEncOk (g : GraphBlock) (k b : Nat) : Bool :=
  decide (mapEntry g k b < 256) && decide (mapMode g k b ≤ 4) &&
  (if mapMode g k b = 2 ∧ mapCont g k b = false then decide (6 ≤ mapSlot g k b) else mapSlot g k b == 0)

/-- The ports of a node are fed as its mode needs (R80, R152, R172, R195). Where a target names a port that the consumer lacks,
or two targets feed one port, R80 leaves open which of the two nodes is named: the model names the consumer and its port
(DESIGN CHOICE, log 42). -/
def portEncOk (g : GraphBlock) (n p : Nat) (w : NodeWord) : Bool :=
  let k := (feeders g.words n p).length
  (match (portUse w).getD p 0 with
   | 0 => k == 0
   | 1 => k == 1
   | _ => decide (k ≤ 1)) &&
  !(w.kind == 6 && w.mode == 2 && p == 1 && !(match feeder g.words n p with
    | some (j, _) => (match g.words[j]? with
      | some v => v.repl
      | none => false)
    | none => false))

/-- A target field of a node word is well encoded (R80). -/
def targetEncOk (g : GraphBlock) (f : Nat) : Bool := if f / 128 = 0 then f % 128 == 0 else decide (f % 128 < g.words.length)

/-- Channels of the context's live LINKOUTs (device, channel) and LINKINs in other cells than `c` (R240). -/
def liveLinks (s : State) (asid c : Nat) (out : Bool) : List (Nat × Nat) :=
  s.cells.flatMap (fun e => if e.2.crew.asid = asid ∧ e.1 ≠ c then
    e.2.nodes.filterMap (fun n =>
      if n.word.kind = 11 ∧ n.word.mode = (if out then 4 else 3) then
        some (if out then prmField n.params 0 16 16 else 0, prmField n.params 0 0 16) else none)
    else [])

/-- The channel of a LINKOUT (device, channel) or LINKIN of a block. -/
def linkKey (g : GraphBlock) (w : NodeWord) : Nat × Nat :=
  (if w.mode = 4 then prmField (g.prmOf w) 0 16 16 else 0, prmField (g.prmOf w) 0 0 16)

/-- A node that would be a second live LINKOUT or LINKIN of its channel (R240). -/
def linkNode (s : State) (g : GraphBlock) (asid c n : Nat) : Bool :=
  match g.words[n]? with
  | none => false
  | some w =>
    w.kind == 11 && decide (3 ≤ w.mode) &&
    ((liveLinks s asid c (w.mode == 4)).contains (linkKey g w) ||
      (List.range n).any (fun j => match g.words[j]? with
        | some v => v.kind == 11 && v.mode == w.mode && linkKey g v == linkKey g w
        | none => false))

/-- What node n breaks in step 1, its channel aside. -/
def encNode (g : GraphBlock) (n : Nat) : Option Conn :=
  match g.words[n]?, g.raw[n]? with
  | some w, some r =>
    let own := decide (w.kind < 12) && decide (w.mode < modeCount w.kind) && typeOk w.type &&
      (if w.kind = 11 then decide (w.mclass ≤ 2) else w.mclass == 0) && decide (w.ord < g.orders.length) &&
      decide (w.prm + w.prmlen ≤ g.nprm) && w.prmlen == prmLen w && flagsOk w && orderEncOk (g.order w.ord) &&
      prmOk w (g.prmOf w) (g.order w.ord).lanes (g.orders.length - 1) && (w.prmlen == 0 || decide (g.pages ≤ w.prm)) &&
      !(w.kind == 6 && (!orderEncOk (g.order (prmField (g.prmOf w) 0 26 5)) ||
        (w.mode != 2 && !orderEncOk (g.order (prmField (g.prmOf w) 0 31 5)))))
    if !own then some (uBADENC, n, 0)
    else
      match (List.range 3).find? (fun p => !portEncOk g n p w) with
      | some p => some (uBADENC, n, p + 1)
      | none =>
        if w.kind = 4 ∧ w.mode ≠ 1 ∧ ((List.range 3).filter (isFed g n)).length < 2 then some (uBADENC, n, 1)
        else if !targetEncOk g (field r 34 9) then some (uBADENC, n, 4)
        else if !targetEncOk g (field r 25 9) then some (uBADENC, n, 5)
        else none
  | _, _ => none

/-- The header, the padding of the node words, CHECK, the bank map and the reserved field of every order entry, named by a
node's ORD or not, are well encoded (R4, R67 to R70, R176). -/
def blockEncOk (g : GraphBlock) (bs : List Byte) : Bool :=
  let h := g.hdr
  let n := g.words.length
  let padded := (bs.drop (16 + 8 * n)).take (16 * ((n + 1) / 2) - 8 * n)
  h.extractLsb' 0 4 == 2 && h.extractLsb' 11 5 == 0 && h.extractLsb' 37 27 == 0 && decide (1 ≤ g.pages) && decide (g.pages ≤ 16) &&
  h.extractLsb' 96 32 == checkOf bs && padded.all (fun b => b == 0) && decide (g.pages ≤ g.nprm) &&
  (List.range g.pages).all (fun k => (List.range 8).all (mapEncOk g k)) && g.orders.all (fun o => o.raw.extractLsb' 113 15 == 0)

/-- Step 1 of R238 beyond the cell descriptor: the parts of the block that are no node's, then the nodes. The spec names no node
for the former; the model names node 0 and no port (DESIGN CHOICE, log 42). -/
def encCheck (s : State) (g : GraphBlock) (bs : List Byte) (asid c : Nat) : Option Conn :=
  if !blockEncOk g bs then some (uBADENC, 0, 0)
  else (List.range g.words.length).findSome? (fun n => match encNode g n with
    | some x => some x
    | none => if linkNode s g asid c n then some (uBADENC, n, 0) else none)

/-! ### 2: roles (R17, R207) -/

/-- Place nodes in slot order: page, and the kinds on it so far. R17 gives node n0 page 0 and every later node the page of the
node placed before it or the next one. Where n0 is a NEARBANK MMA, which takes no page slot, the rule names no page for the
first node that is placed: the model tries page 0 and, where its role does not allow the kind, page 1 (DESIGN CHOICE, log 42). -/
def placeGo (g : GraphBlock) (roles : List Nat) : List (Nat × NodeWord) → Nat → List Nat → List (Nat × Nat) → Except Nat (List (Nat × Nat))
  | [], _, _, acc => .ok acc
  | (n, w) :: rest, page, kinds, acc =>
    if w.kind = 6 ∧ w.mode = 2 then placeGo g roles rest page kinds acc
    else
      let fits := roleAllows (roles.getD page 3) w.kind && decide ((kinds.filter (· == w.kind)).length < kindSlots w.kind)
      if fits then placeGo g roles rest page (w.kind :: kinds) (acc ++ [(n, page)])
      else if n ≠ 0 ∧ page + 1 < g.pages ∧ roleAllows (roles.getD (page + 1) 3) w.kind = true then
        placeGo g roles rest (page + 1) [w.kind] (acc ++ [(n, page + 1)])
      else .error n

/-- The page of every node, or the node that cannot be placed. -/
def placement (g : GraphBlock) (roles : List Nat) : Except Nat (List (Nat × Nat)) :=
  placeGo g roles ((List.range g.words.length).zip g.words) 0 [] []

/-- Step 2, in ascending slot: the first node that finds no place (R17), or a NEARBANK stack outside the partition (R207). -/
def roleCheck (g : GraphBlock) (roles : List Nat) (dies : BitVec 4) : Option Conn :=
  let unplaced := match placement g roles with
    | .error n => some n
    | .ok _ => none
  (List.range g.words.length).findSome? (fun n => match g.words[n]? with
    | some w =>
      if unplaced = some n then some (uROLE, n, 0)
      else if w.kind = 6 ∧ w.mode = 2 ∧ dies.getLsbD (prmField (g.prmOf w) 0 36 3 / 2) = false then some (uROLE, n, 0)
      else none
    | none => none)

/-! ### 3: types -/

/-- f32, f16, bf16. -/
def tF (c : Nat) : Bool := isWide c
/-- i8 to i64, n8 to n64. -/
def tI (c : Nat) : Bool := decide (1 ≤ c) && decide (c ≤ 8)
/-- i8 to i32, n8 to n32. -/
def tI32 (c : Nat) : Bool := decide (1 ≤ c) && decide (c ≤ 6)
/-- What ADD accepts (R161). -/
def tAdd (c : Nat) : Bool := tF c || tI c || c == 33
/-- What MUL accepts (R161). -/
def tMul (c : Nat) : Bool := tF c || tI32 c || c == 33
/-- What SCAN SUM and RED SUM accept (R219, R222). -/
def tSum (c : Nat) : Bool := tI32 c || tF c

/-- What each check of a step says of a port: 1 to 3 are A to C, 4 and 5 OUTA and OUTB (R238). -/
abbrev PortChecks := List (Nat × Bool)

/-- The port of the first check that fails, in the order of R238. -/
def firstPort (l : PortChecks) : Option Nat :=
  [1, 2, 3, 4, 5].find? (fun p => l.any (fun e => e.1 == p && !e.2))

/-- The types of a MAP by port (R161). -/
def mapTypes (m t a b c : Nat) : PortChecks :=
  let two (ok : Nat → Bool) : PortChecks := [(1, ok a && a == t), (2, b == t)]
  if m = 0 ∨ m = 1 ∨ m = 4 ∨ m = 5 then two tAdd
  else if m = 2 then two tMul
  else if m = 3 ∨ m = 21 then two tMul ++ [(3, c == t)]
  else if m = 6 ∨ m = 7 then [(1, tMul a && a == t)]
  else if m = 8 ∨ m = 9 ∨ m = 10 then two (fun x => tI x || x == 32)
  else if m = 11 then [(1, (tI a || a == 32) && a == t)]
  else if m = 12 ∨ m = 13 then two tI
  else if m = 14 then two isSInt
  else if m = 15 ∨ m = 16 then [(1, tAdd a || a == 34), (2, b == a), (4, t == 32)]
  else if m = 17 ∨ m = 18 then [(1, tAdd a), (2, b == a), (4, t == 32)]
  else if m = 19 then [(1, a == t), (2, b == t), (3, c == 32)]
  else [(1, a == t)]

/-- The integer family of the MMA (R197). -/
def mmaInt (c : Nat) : Bool := c == 1 || c == 2 || isLam c
/-- The float family of the MMA (R197). -/
def mmaFloat (c : Nat) : Bool := c == 9 || c == 10 || c == 12 || c == 13 || c == 14

/-- Planes read of a laminate operand lie in range, 2 to K; the range of other types is 0 (R198). -/
def planesOk (c p : Nat) : Bool := if isLam c then decide (2 ≤ p) && decide (p ≤ lamPlanes c) else p == 0

/-- EBYTES of an entry fit a type, and its beat the link (R57). -/
def widthOk (o : Order) (t : Nat) : Bool := o.ebytes == ebytesOf (typeBits t) && decide (o.lanes * typeBits t ≤ 512)

/-- The types of an MMA by port (R57, R195 to R198): operands of one family, planes and scales in range, the entries that AORD and
BORD name, the decay scalar, the output type of the family. -/
def mmaTypes (g : GraphBlock) (w : NodeWord) (a b c : Nat) : PortChecks :=
  let f := prmField (g.prmOf w) 0
  let at0 := f 0 6
  let bt := f 6 6
  let scaled (x : Nat) : Bool := x == 12 || x == 13 || x == 14
  let floats := mmaFloat at0
  [(1, a == at0 && (mmaFloat at0 || mmaInt at0) && planesOk at0 (f 12 4) && (f 20 2 == 0 || scaled at0) && widthOk (g.order (f 26 5)) at0),
   (2, (if w.mode = 2 then b == 34 else b == bt && widthOk (g.order (f 31 5)) bt) && (if floats then mmaFloat bt else mmaInt bt) &&
     planesOk bt (f 16 4) && (f 22 2 == 0 || scaled bt)),
   (3, !w.flags.getLsbD 6 || (c == 11 && floats)),
   (4, if floats then tF w.type || w.type == 12 || w.type == 13 else w.type == 5 || w.type == 3 || w.type == 1)]

/-- The types of an RMW (R185). -/
def rmwTypes (op t : Nat) : Bool :=
  if op ≤ 5 then t == 5 || t == 6 || t == 7 || t == 8 else if op = 6 then decide (8 ≤ typeBits t) else tF t

/-- The output LANES of CVT (R166). -/
def cvtLanes (lin wout : Nat) : Nat := min lin (512 / wout)

/-- CVT has some destination for a source (R166). -/
def cvtSource (c : Nat) : Bool := isInt c || isFloat c || c == 15 || c == 32 || c == 34

/-- The lanes that the fed ports of a MERGE RROBIN or CONCAT share: those of the first (R172). -/
def mergeLanesLog (g : GraphBlock) (n : Nat) : Nat :=
  match (List.range 3).find? (isFed g n) with
  | some p => (portOrder g n p).lanesLog
  | none => 0

/-- The types of a node's ports and output by port (R161, R165 to R173, R179 to R185, R197, R215, R219, R222, R223). SCALED asks for
a floating-point source: a ue8m0 source is not one here, a point that R166 leaves open (DESIGN CHOICE, log 42). -/
def modeTypes (g : GraphBlock) (n : Nat) (w : NodeWord) : PortChecks :=
  let a := portType g n 0
  let b := portType g n 1
  let c := portType g n 2
  let t := w.type
  let ord := g.order w.ord
  let la := (portOrder g n 0).lanes
  let sumTo : Bool := if tF a then tF t else t == 5 || t == 7
  match w.kind with
  | 0 => mapTypes w.mode t a b c
  | 1 => [(1, tF a || a == 12 || a == 13), (4, tF t && decide (la * typeBits t ≤ 512))]
  | 2 => (match w.mode with
    | 0 => [(1, cvtSource a && (!w.flags.getLsbD 4 || isFloat a)), (4, cvtPair a t)]
    | 1 => [(1, a != tDONE)]
    | 2 => [(1, a == 1 || a == 2), (4, isLam t && lamSigned t == (a == 1))]
    | _ => [(1, isLam a && planesOk a (prmField (g.prmOf w) 0 0 4)), (4, t == (if lamSigned a then 1 else 2))])
  | 3 => [(1, a == t), (2, b == 32)]
  | 4 =>
    if w.mode = 1 then [(1, a == t), (2, b == t)]
    else (List.range 3).map (fun p => (p + 1, !isFed g n p ||
      (portType g n p == t && (portOrder g n p).lanesLog == mergeLanesLog g n)))
  | 5 => [(1, a == t), (2, b == t), (3, c == 32)]
  | 6 => mmaTypes g w a b c
  | 7 =>
    let ok := decide (8 ≤ typeBits t) && !isLam t
    if w.mode = 1 then [(1, a == 2), (2, b == t && ok)] else [(1, a == t && ok)]
  | 8 => (match w.mode with
    | 2 => [(1, a == 1 || a == 10), (2, b == 2), (4, t == (if a = 1 then 5 else 11))]
    | 3 => [(1, tSum a), (4, t == a)]
    | m => [(1, tSum a), (2, m == 0 || b == 32), (4, sumTo)])
  | 9 => (match w.mode with
    | 0 => [(1, tSum a), (4, sumTo)]
    | 3 => [(1, tSum a), (4, t == 33)]
    | 4 => [(1, a == 5 || a == 11), (2, b == 8), (4, t == 11)]
    | _ => [(1, tSum a), (4, t == a)])
  | 10 =>
    [(1, w.mode != 1 || a == 5 || a == 6 || a == 7 || a == 8 || a == 33),
     (4, t == 34 && ord.ebytes == 4 && decide (ord.lanesLog ≤ 3) && ord.pad != 1)]
  | _ =>
    [(3, !isFed g n 2 || c == tDONE), (4, typeBits t != 4)] ++
    (match w.mode with
     | 0 => [(1, a == 34)]
     | 1 => [(1, a == t), (2, b == 34)]
     | 2 => [(1, a == 34), (2, b == t), (4, w.mclass != 0 && rmwTypes (w.flags.toNat / 16) t)]
     | _ => [])

/-- A port takes the stream that its edge brings: replicate to replicate alone (R63), DONE to port C of a MEM or to a LINKOUT
(R182). A DONE stream is no replicate stream whatever REPL of its node says (DEDUCED, log 29). -/
def portKindOk (g : GraphBlock) (n p : Nat) (w : NodeWord) : Bool :=
  match feeder g.words n p with
  | none => true
  | some (k, _) =>
    (match g.words[k]? with
     | some v => v.repl == repPort w p || portType g n p == tDONE
     | none => false) &&
    !(portType g n p == tDONE && !(w.kind == 11 && (p == 2 || w.mode == 4)))

/-- A node drives a link with a stream of positions: not with a DONE stream (R54, R181, R182). -/
def dataLink (w : NodeWord) : Bool :=
  match w.kind, w.mode with
  | 11, 1 => false
  | 11, 0 => w.outA.isSome
  | 11, 2 => w.outA.isSome
  | _, _ => w.outA.isSome || w.outB.isSome

/-- What the output of a node must keep (R54, R57, R63). LINKOUT has none. -/
def outTypes (g : GraphBlock) (w : NodeWord) : PortChecks :=
  let ord := g.order w.ord
  if w.kind = 11 ∧ w.mode = 4 then []
  else [(4, widthOk ord w.type && !(w.ctrl && dataLink w && decide (64 < ord.lanes * typeBits w.type)) && !(w.repl && ord.lanes != 1))]

/-- An edge whose order is compared (R227, R229): not a replicate one or a DONE stream. -/
def compared (g : GraphBlock) (n p : Nat) : Bool :=
  match feeder g.words n p, g.words[n]? with
  | some (k, _), some w =>
    !repPort w p && !isDonePort g n p &&
    !(match g.words[k]? with
      | some v => v.repl
      | none => false)
  | _, _ => false

/-- The ends of an edge differ beyond what a store can join (R229). -/
def edgeOrderOk (p e : Order) : Bool := p.ext == e.ext && p.ragged == e.ragged && (p.pad == e.pad || !p.anyRagged)

/-- A reorder store is required on an edge (R229). -/
def needsStore (g : GraphBlock) (n p : Nat) : Bool :=
  compared g n p && coords (portOrder g n p) none != coords (expectOrder g n p) none

/-- No scale comes to a port behind a reorder store: an MMA port with ASCALE or BSCALE whose edge needs one (R62, R234). -/
def scaleTypes (g : GraphBlock) (n : Nat) (w : NodeWord) : PortChecks :=
  let f := prmField (g.prmOf w) 0
  let behind (p : Nat) : Bool := needsStore g n p && edgeOrderOk (portOrder g n p) (expectOrder g n p)
  if w.kind = 6 then [(1, f 20 2 == 0 || !behind 0), (2, f 22 2 == 0 || !behind 1)] else []

/-- What node n breaks in step 3. -/
def typeNode (g : GraphBlock) (n : Nat) : Option Conn :=
  match g.words[n]? with
  | none => none
  | some w =>
    match firstPort ((List.range 3).map (fun p => (p + 1, portKindOk g n p w)) ++ modeTypes g n w ++ scaleTypes g n w ++ outTypes g w) with
    | some p => some (uTYPE, n, p)
    | none => none

/-! ### 4: orders -/

/-- The fields that R66 and R179 compare. -/
def sameShape (a b : Order) : Bool := a.walk == b.walk && a.ext == b.ext && a.ragged == b.ragged && a.pad == b.pad

/-- An MMA's native operand entry (R196). Its EBYTES are a matter of step 3 (R57). -/
def nativeIn (o : Order) (t : Nat) : Bool :=
  let w6 := o.walk
  let walk := w6.getD 0 (9, 9) == (0, 15) && w6.getD 1 (9, 9) == (1, 15) && (w6.drop 2).all (fun st => st == (0, 0))
  walk && o.ext.getD 2 0 == 1 && o.ext.getD 3 0 == 1 &&
  (if isLam t then o.ext.getD 0 0 == lamPlanes t && decide (o.lanes ≤ 2) && !o.anyRagged && o.pad == 0
   else o.ext.getD 0 0 == 64 && o.lanes == 512 / typeBits t && (o.ragged == 0 || o.ragged == 2))

/-- An MMA's native output entry (R199). -/
def nativeOut (o : Order) (t : Nat) : Bool :=
  o.walk.getD 0 (9, 9) == (0, 15) && o.walk.getD 1 (9, 9) == (1, 15) && (o.walk.drop 2).all (fun st => st == (0, 0)) &&
  o.ext == [64, 64, 1, 1] && o.lanes == 512 / typeBits t && o.pad == 0 && !o.anyRagged && o.ebytes == ebytesOf (typeBits t)

/-- The k-steps that a native entry declares. -/
def nativeK (o : Order) (t : Nat) : Nat := if isLam t then 4 * o.ext.getD 1 0 else o.ext.getD 1 0

/-- The first WALK step names dim 0 whole. -/
def dim0First (o : Order) : Bool := o.walk.getD 0 (9, 9) == (0, 15)

/-- The order rule of MERGE RROBIN and CONCAT (R172), with L the lanes of the fed ports. -/
def mergeOrder (g : GraphBlock) (n : Nat) (o : Order) : Bool :=
  let ins := (List.range 3).filter (isFed g n)
  let beats := ins.foldl (fun a p => a + (declared (portOrder g n p) + o.lanes - 1) / o.lanes) 0
  let anyR := ins.any (fun p => (portOrder g n p).anyRagged)
  o.lanesLog == mergeLanesLog g n && o.ext.drop 1 == [1, 1, 1] && o.pad == 0 && o.ext.getD 0 0 == o.lanes * beats && o.ragged == (if anyR then 1 else 0)

/-- The order rules of a mode by port (R66, R166 to R173, R179, R196, R199, R206, R214 to R223). What a rule says of a port that
expects ORD is said of the type delivered to it (R228), so it is said of `o` or of E. -/
def modeOrders (g : GraphBlock) (n : Nat) (w : NodeWord) : PortChecks :=
  let o := g.order w.ord
  let pa := portOrder g n 0
  let pb := portOrder g n 1
  let ps := g.prmOf w
  let wt := typeBits w.type
  match w.kind, w.mode with
  | 0, _ => [(4, sameShape o pa && o.lanesLog == pa.lanesLog)]
  | 1, _ => [(4, sameShape o pa && o.lanesLog == pa.lanesLog)]
  | 2, 0 => [(4, sameShape o pa && o.lanes == cvtLanes pa.lanes wt)]
  | 2, 1 =>
    let wa := typeBits (portType g n 0)
    [(1, !pa.anyRagged),
     (4, !o.anyRagged && (if wt < wa then declared o == wa / wt * declared pa else declared pa == wt / wa * declared o))]
  | 2, 2 => [(1, !pa.anyRagged), (4, !o.anyRagged && dim0First o && o.ext.getD 0 0 == lamPlanes w.type &&
      declared o == lamPlanes w.type * ((declared pa + 255) / 256))]
  | 2, _ =>
    let k := lamPlanes (portType g n 0)
    let blocks := declared pa / k
    [(1, !pa.anyRagged && dim0First pa && pa.ext.getD 0 0 == k),
     (4, !o.anyRagged && decide (256 * (blocks - 1) < declared o) && decide (declared o ≤ 256 * blocks))]
  | 4, 1 => []
  | 4, _ => [(4, mergeOrder g n o)]
  | 5, _ => [(4, (loopBody g.words n).all (fun k => match g.words[k]? with
      | some v => (v.kind == 0 || v.kind == 1 || (v.kind == 2 && v.mode == 0)) && (g.order v.ord).lanesLog == o.lanesLog
      | none => false))]
  | 6, m =>
    let ao := g.order (prmField ps 0 26 5)
    let bo := g.order (prmField ps 0 31 5)
    let ta := prmField ps 0 0 6
    let tb := prmField ps 0 6 6
    [(1, nativeIn ao ta && (m != 1 || decide (nativeK ao ta ≤ 64))),
     (2, m == 2 || (nativeIn bo tb && (m != 1 || decide (nativeK bo tb ≤ 64)))), (4, nativeOut o w.type)]
  | 7, 1 =>
    let eb := expectOrder g n 1
    [(1, decide (4 ≤ pa.lanesLog) && decide (pa.lanesLog ≤ 6) && !pa.anyRagged),
     (2, eb.lanesLog == pa.lanesLog && !eb.anyRagged && declared eb == prmField ps 0 0 16 * declared pa)]
  | 7, m =>
    let ea := expectOrder g n 0
    [(1, decide (ea.lanes ≤ 64) && !ea.anyRagged && (m != 2 || declared ea % (ea.lanes * ea.lanes) == 0))]
  | 8, 2 =>
    [(1, !pa.anyRagged && decide (4 ≤ pa.lanesLog) && decide (pa.lanesLog ≤ (if portType g n 0 = 10 then 5 else 6)) && dim0First pa &&
       pa.ext.getD 0 0 == pa.lanes),
     (4, o.ext == 16 :: pa.ext.drop 1 && o.lanesLog == 4 && o.walk == pa.walk && o.pad == pa.pad && !o.anyRagged)]
  | 8, _ => []
  | 9, 4 =>
    let cols := prmField ps 0 0 16
    let gpr := prmField ps 0 16 16
    let nb := declared pb
    [(1, !pa.anyRagged && pa.ext.getD 0 0 == 16 && pa.lanesLog == 4 && declared pa == 8 * cols * nb),
     (2, !pb.anyRagged && pb.ext.getD 0 0 == 2 && pb.lanesLog == 1 && pb.ebytes == 4 && nb / 2 % gpr == 0),
     (4, !o.anyRagged && declared o == cols * nb / (2 * gpr))]
  | 9, _ => [(1, !pa.anyRagged), (4, !o.anyRagged && declared o == (declared pa + pa.lanes - 1) / pa.lanes)]
  | 10, 1 => [(4, sameShape o pa)]
  | _, _ => []

/-- What node n breaks in step 4. A body node's own order follows the LOOP's. -/
def orderNode (g : GraphBlock) (n : Nat) : Option Conn :=
  match g.words[n]? with
  | none => none
  | some w =>
    match firstPort ((List.range 3).map (fun p => (p + 1, !compared g n p || edgeOrderOk (portOrder g n p) (expectOrder g n p))) ++
        modeOrders g n w) with
    | some p => some (uORDER, n, p)
    | none => none

/-! ### 5: banks -/

/-- The bank map's runs are well formed (R176). -/
def bankMapOk (g : GraphBlock) : Bool :=
  (List.range g.pages).all (fun k => (List.range 8).all (fun b =>
    !mapCont g k b || (b != 0 && mapMode g k b == 2 && mapMode g k (b - 1) == 2)))

/-- The live spill banks of a page keep their mode (R176, R283): those of the crew's spill page, page 0 of cell 0. -/
def spillOk (g : GraphBlock) (spill : Option Page) (cell : Nat) : Bool :=
  match spill with
  | none => true
  | some p => cell != 0 || (List.range 8).all (fun b => match p.banks[b]? with
      | some x => x.mode != .spill || mapMode g 0 b == 4
      | none => true)

/-- FBANK of a POP or PUSH node (R183). -/
def fbankOf (g : GraphBlock) (w : NodeWord) : Option Nat :=
  if w.kind = 11 ∧ w.mode ≤ 1 ∧ w.flags.getLsbD 4 = true then some (prmField (g.prmOf w) 0 0 7) else none

/-- Step 5 for a node: FBANK is the first bank of a run, and no second POP node names it (R183). -/
def bankNode (g : GraphBlock) (n : Nat) : Option Conn :=
  match g.words[n]? with
  | none => none
  | some w =>
    match fbankOf g w with
    | none => none
    | some f =>
      let first := decide (f / 8 < g.pages) && mapMode g (f / 8) (f % 8) == 2 && !mapCont g (f / 8) (f % 8)
      let twice := w.mode == 0 && (List.range n).any (fun j => match g.words[j]? with
        | some v => v.mode == 0 && fbankOf g v == some f
        | none => false)
      if first && !twice then none else some (uBANK, n, 0)

/-! ### 6 and 7: stores -/

/-- The edges that need a store, in the order of R233: node, port, granules. -/
def storesOf (g : GraphBlock) : List (Nat × Nat × Nat) :=
  (List.range g.words.length).flatMap (fun n => (List.range 3).filterMap (fun p =>
    if needsStore g n p then
      some (n, p, granulesFor (reorderHeld (portOrder g n p) (expectOrder g n p) none) (portEb g n p))
    else none))

/-- Granules of the cell's REORDER banks, by number: ordinal × 8 + granule. -/
def reorderGranules (g : GraphBlock) : List Nat :=
  (List.range (g.pages * 8)).flatMap (fun o => if mapMode g (o / 8) (o % 8) = 3 then (List.range 8).map (fun k => o * 8 + k) else [])

/-- Allocate granules to the stores in turn: node, port, granules; or the first that finds too few. -/
def allocGo : List (Nat × Nat × Nat) → List Nat → List (Nat × Nat × List Nat) → Except (Nat × Nat) (List (Nat × Nat × List Nat))
  | [], _, acc => .ok acc
  | (n, p, k) :: rest, free, acc =>
    if free.length < k then .error (n, p) else allocGo rest (free.drop k) (acc ++ [(n, p, free.take k)])

/-- Steps 6 and 7. -/
def storeCheck (g : GraphBlock) : Option Conn :=
  match (storesOf g).find? (fun e => decide (32 < e.2.2)) with
  | some e => some (uBIG, e.1, e.2.1 + 1)
  | none =>
    match allocGo (storesOf g) (reorderGranules g) [] with
    | .error e => some (uNORS, e.1, e.2 + 1)
    | .ok _ => none

/-! ### The whole of R238 -/

/-- Every check of R238 on a fetched block: the first that fails. `c` is the handle of the cell that it replaces. -/
def connCheck (s : State) (g : GraphBlock) (bs : List Byte) (roles : List Nat) (dies : BitVec 4) (asid c cell : Nat)
    (spill : Option Page) : Option Conn :=
  let nodes := List.range g.words.length
  match encCheck s g bs asid c with
  | some x => some x
  | none =>
    match roleCheck g roles dies with
    | some x => some x
    | none =>
      match nodes.findSome? (typeNode g) with
      | some x => some x
      | none =>
        match nodes.findSome? (orderNode g) with
        | some x => some x
        | none =>
          if !bankMapOk g || !spillOk g spill cell then some (uBANK, 0, 0)
          else
            match nodes.findSome? (bankNode g) with
            | some x => some x
            | none => storeCheck g

end Sys2Proof.Machine
end

