-- ==== Sys2Proof/Machine/Stream.lean ====
section
/-! DEFINITION. Tokens on their way through a cell (R50 to R66): ports and lane-width adapters (R229), outputs, the checks of
a stream (R60, R63, R65), scale latches (R62), the lockstep rules (R154), and the tokens that every kind treats alike:
POISON, SLUICE and SNAP (R157 to R160). -/

namespace Sys2Proof.Machine

/-- Lanes of a beat: bit patterns, none where a lane is not valid. -/
abbrev Lanes := List (Option Nat)

/-! ### Ports and adapters -/

/-- A port that nothing feeds. -/
def Port.idle : Port :=
  { fed := false, src := 0, rep := false, free := false, lp := 1, le := 1, exp := orderOf 0, elem := 0, link := [], rest := [],
    sent := 0, alen := none, store := none, q := [], pos := 0, begun := false, len := none, ended := false, poisoned := false,
    scalar := none, nscal := 0, scBase := 0, scBytes := [] }

/-- Port k of a node. -/
def Node.port (nd : Node) (k : Nat) : Port := (nd.ports[k]?).getD Port.idle

/-- Change a port. -/
def setPort (nd : Node) (k : Nat) (f : Port → Port) : Node := { nd with ports := modAt nd.ports k f }

/-- The token at the head of a port. -/
def Node.head (nd : Node) (k : Nat) : Option Token := (nd.port k).q.head?

/-- Take the head of a port. -/
def popHead (nd : Node) (k : Nat) : Node := setPort nd k (fun p => { p with q := p.q.drop 1 })

/-- The ports that a node reads: those that are fed. -/
def readsOf (nd : Node) : List Nat := (List.range 3).filter (fun k => (nd.port k).fed)

/-- The inputs that a node needs and that have no token (R296, R384): not one that has ended while others go on, nor one whose scalar
is latched. RROBIN needs no port while another has a token, CONCAT only the port whose turn it is (R172). A LOOP with something in its body
needs what returns from there, else its entry (R174). -/
def hungry (nd : Node) : List Nat :=
  let due := (readsOf nd).filter (fun k => !(nd.port k).ended && !((nd.port k).rep && (nd.port k).scalar.isSome))
  let bare := due.filter (fun k => (nd.port k).q.isEmpty)
  if nd.word.kind = kMERGE ∧ nd.word.mode = 0 then (if bare.length < due.length then [] else bare)
  else if nd.word.kind = kMERGE ∧ nd.word.mode = 2 then bare.filter (fun k => due.head? == some k)
  else match nd.st with
    | .loop tab ended sluice => bare.filter (fun k => (k == 0) == (tab.all (fun e => e.sent == 0) && !ended && !sluice))
    | _ => bare

/-- Lanes padded with invalid ones. -/
def padTo (n : Nat) (l : Lanes) : Lanes := l ++ List.replicate (n - l.length) none

/-- A DATA token through the lane-width adapter (R229): positions are regrouped, the idle lanes of a stream's last beat drop
out. A valid lane among them stays, for the consumer's check (R65). A circulating stream has L positions in every beat and no last one
(R173). -/
def adaptData (p : Port) (xs : Lanes) : Port :=
  if p.elem == tDONE || p.rep || p.lp == p.le then { p with q := p.q ++ [.data xs] }
  else
    let n := if p.free then p.sent + p.lp + 1 else countOf p.exp p.alen
    let k := min p.lp (n - p.sent)
    let r := p.rest ++ (if (xs.drop k).all Option.isNone then xs.take k else xs)
    let sent := p.sent + (r.length - p.rest.length)
    let m := r.length / p.le
    let full : List Token := (List.range m).map (fun j => .data ((r.drop (j * p.le)).take p.le))
    let left := r.drop (m * p.le)
    if n ≤ sent ∧ left ≠ [] then { p with q := p.q ++ full ++ [.data (padTo p.le left)], rest := [], sent := sent }
    else { p with q := p.q ++ full, rest := left, sent := sent }

/-- The adapter's END: what is left of a beat leaves ahead of it. Where the stream ended early that beat has fewer lanes than L,
so no position that never came counts as carried (R65). -/
def adaptEnd (p : Port) (t : Token) : Port :=
  let last : List Token := if p.rest = [] then [] else [.data p.rest]
  { p with q := p.q ++ last ++ [t], rest := [], sent := 0, alen := none }

/-- A SLUICE is the token. -/
def Token.isSluice (t : Token) : Bool := match t with | .sluice _ _ => true | _ => false
/-- A POISON is the token. -/
def Token.isPoison (t : Token) : Bool := match t with | .poison _ => true | _ => false
/-- A SNAP is the token. -/
def Token.isSnap (t : Token) : Bool := match t with | .snap _ => true | _ => false

/-- One token through an adapter. A SLUICE waits for the elements ahead of it that do not fill a beat yet, as at a store
(R234); elements behind it are let through meanwhile. POISON, SNAP and DONE pass at once, ahead of such elements: R229 and R53
leave their place among elements of one beat open (DESIGN CHOICE, log 29). -/
def adaptStep (p : Port) : Option Port :=
  match p.link with
  | [] => none
  | .data xs :: r => some (adaptData { p with link := r } xs)
  | .len a b c d :: r => some { p with link := r, q := p.q ++ [.len a b c d], alen := some [a, b, c, d] }
  | .scale off bs :: r => some { p with link := r, q := p.q ++ [.scale (off + p.rest.length) bs] }
  | .fin n g :: r => some (adaptEnd { p with link := r } (.fin n g))
  | .sluice sid g :: r =>
    if p.rest = [] then some { p with link := r, q := p.q ++ [.sluice sid g] }
    else
      let sl := r.takeWhile Token.isSluice
      (match r.drop sl.length with
       | [] => none
       | t :: more => some { p with link := t :: .sluice sid g :: sl ++ more })
  | t :: r => some { p with link := r, q := p.q ++ [t] }

/-- Every token that the adapter can let through, on fuel. -/
def pump : Nat → Port → Port
  | 0, p => p
  | n + 1, p => match adaptStep p with
    | some q => pump n q
    | none => p

/-- A token arrives on an edge: at its reorder store, or through its adapter. -/
def pushPort (p : Port) (t : Token) : Port :=
  let p1 := { p with link := p.link ++ [t] }
  if p.store.isSome then p1 else pump (2 * p1.link.length + 2) p1

/-! ### Outputs -/

/-- Change a node of a cell. -/
def setNode (c : Cell) (n : Nat) (f : Node → Node) : Cell := { c with nodes := modAt c.nodes n f }

/-- A token onto a target; a target of none discards it (R152). -/
def sendTo (c : Cell) (tg : Option (Nat × Nat)) (t : Token) : Cell :=
  match tg with
  | none => c
  | some (p, n) => setNode c n (fun nd => setPort nd (p - 1) (fun q => pushPort q t))

/-- The targets of a node. -/
def targetsOf (c : Cell) (n : Nat) : Option (Nat × Nat) × Option (Nat × Nat) :=
  match c.nodes[n]? with
  | some nd => (nd.word.outA, nd.word.outB)
  | none => (none, none)

/-- What a token is on the link that an output drives: a replicate stream carries no LEN (R55, R63), and the 64 payload bits of a
narrow link hold 8 scales. R54 leaves open what becomes of further ones: they do not cross (DESIGN CHOICE, log 29). -/
def onLink (nd : Node) (t : Token) : List Token :=
  match t with
  | .len _ _ _ _ => if nd.word.repl && !(nd.word.kind == 11 && nd.word.mode == 3) then [] else [t]
  | .scale o bs => [.scale o (if nd.word.ctrl then bs.take 8 else bs)]
  | _ => [t]

/-- Send on OUTA: the token joins those that the node has formed, where OUTA has a target. -/
def sendA (c : Cell) (n : Nat) (t : Token) : Cell :=
  setNode c n (fun nd => if nd.word.outA.isNone then nd else { nd with pendA := nd.pendA ++ onLink nd t })
/-- Send on OUTB. -/
def sendB (c : Cell) (n : Nat) (t : Token) : Cell :=
  setNode c n (fun nd => if nd.word.outB.isNone then nd else { nd with pendB := nd.pendB ++ onLink nd t })
/-- Send on every output. -/
def sendBoth (c : Cell) (n : Nat) (t : Token) : Cell := sendB (sendA c n t) n t

/-- A target has credit (R53). -/
def roomAt (c : Cell) (tg : Option (Nat × Nat)) : Bool :=
  match tg with
  | none => true
  | some (p, n) => match c.nodes[n]? with
    | some nd => decide ((nd.port (p - 1)).link.length + (nd.port (p - 1)).q.length < Config.linkCredit)
    | none => true

/-- Every target of a node has credit. -/
def roomAll (c : Cell) (n : Nat) : Bool := roomAt c (targetsOf c n).1 && roomAt c (targetsOf c n).2

/-- Nothing that a node has formed waits to leave it. -/
def Node.sentAll (nd : Node) : Bool := nd.pendA.isEmpty && nd.pendB.isEmpty

/-- A node emits at most one token on each output, where the target has credit (R152). -/
def emitPend (c : Cell) (n : Nat) : Cell :=
  match c.nodes[n]? with
  | none => c
  | some nd =>
    let goA := if roomAt c nd.word.outA then nd.pendA.head? else none
    let goB := if roomAt c nd.word.outB then nd.pendB.head? else none
    let c1 := setNode c n (fun z => { z with pendA := if goA.isSome then z.pendA.drop 1 else z.pendA,
                                             pendB := if goB.isSome then z.pendB.drop 1 else z.pendB })
    let c2 := match goA with
      | some t => sendTo c1 nd.word.outA t
      | none => c1
    match goB with
    | some t => sendTo c2 nd.word.outB t
    | none => c2

/-- A node merges the label of a token that it receives (R315). -/
def mergeNode (s : State) (c : Cell) (n : Nat) (g : Sig) : Cell :=
  setNode c n (fun nd => { nd with label := mergeLabel s nd.label g })

/-- The label that a node stamps now (R314). -/
def nodeSig (s : State) (c : Cell) (n : Nat) : Sig :=
  match c.nodes[n]? with
  | some nd => labelSig s nd.label nd.pts
  | none => Sig.zero

/-- A node has fired in this cycle (R314, R384). -/
def noteFire (s : State) (c : Cell) (n : Nat) : Cell :=
  setNode c n (fun nd => { nd with label := { nd.label with busy := nd.label.busy + 1 }, lastFire := s.cycle })

/-- A POISON of a node's own (R64, R157). -/
def poisonOf (c : Cell) (n : Nat) (code sub : BitVec 8) (rec : Nat) : Poison :=
  ⟨code, sub, BitVec.ofNat 7 n, cellCoord c, w64 rec⟩

/-- A node that forwards or emits POISON checks the streams at its ports no further (R154). -/
def noChecks (c : Cell) (n : Nat) : Cell :=
  setNode c n (fun nd => { nd with ports := nd.ports.map (fun p => { p with poisoned := true }) })

/-- A node emits a POISON that it raises, on every output. A MEM node accepts its own as a sink (R158): it stands at the head
of its port A. -/
def emitPoison (c : Cell) (n : Nat) (code sub : BitVec 8) (rec : Nat) : Cell :=
  let p : Token := .poison (poisonOf c n code sub rec)
  match c.nodes[n]? with
  | none => c
  | some nd =>
    if nd.word.kind = kMEM then noChecks (setNode c n (fun x => setPort x 0 (fun q => { q with q := p :: q.q }))) n
    else noChecks (sendBoth c n p) n

/-! ### Checks of a stream -/

/-- The stream at a port must begin with a LEN (R55) that has not come yet. -/
def lenDue (p : Port) : Bool := p.exp.anyRagged && !p.rep && !p.free && p.len.isNone && !p.poisoned

/-- A LEN is over a declared extent (R60). -/
def lenOver (o : Order) (l : List Nat) : Bool := (List.range 4).any (fun d => o.isRagged d && decide (o.ext.getD d 0 < l.getD d 0))

/-- What SUB 3 says of a beat at a port: the first position in excess (R65). Under HOLE a position outside the actual box
takes no valid lane (R61). A circulating stream is checked for lanes beyond L alone (R173). -/
def beatBad (p : Port) (xs : Lanes) : Option Nat :=
  if p.poisoned then none
  else if p.free then
    ((List.range xs.length).find? (fun i => decide (p.le ≤ i) && (xs.getD i none).isSome)).map (fun i => p.pos + i)
  else
    let n := countOf p.exp p.len
    if n ≤ p.pos then some p.pos
    else
      let cs := if p.exp.pad = 2 ∧ p.exp.anyRagged = true then coords p.exp p.len else []
      match (List.range xs.length).find? (fun i => (xs.getD i none).isSome &&
        (decide (p.le ≤ i) || decide (n ≤ p.pos + i) || (!cs.isEmpty && !inActual p.exp p.len (cs.getD (p.pos + i) [])))) with
      | some i => some (p.pos + i)
      | none => none

/-- What SUB 3 says of an END: the first position that is missing or in excess (R65). -/
def endBad (p : Port) (count : Nat) : Option Nat :=
  if p.free || p.poisoned then none
  else if p.pos < countOf p.exp p.len then some p.pos
  else if count ≠ p.pos then some (min count p.pos)
  else none

/-- Positions that the beat at a port carries. -/
def beatPositions (p : Port) : Nat :=
  let l := match p.q.head? with
    | some (.data xs) => min p.le xs.length
    | _ => p.le
  if p.free then p.le else min l (countOf p.exp p.len - p.pos)

/-- A port after a beat. -/
def takeBeat (p : Port) : Port := { p with q := p.q.drop 1, pos := p.pos + beatPositions p, begun := true }

/-! ### Scales (R62) -/

/-- The scale byte in effect at a position; a byte of 256 stands for none. -/
def scaleAt (p : Port) (b pos : Nat) : Option Nat :=
  match p.scBytes with
  | [] => none
  | l =>
    let v := l.getD (min ((pos - p.scBase) / b) (l.length - 1)) 256
    if v = 256 then none else some v

/-- Latch a SCALE of a port that takes scales in blocks of b: none where it is misaligned. -/
def latchScale (p : Port) (b off : Nat) (bs : List Nat) : Option Port :=
  let c := p.pos + off
  if bs = [] then some { p with q := p.q.drop 1, begun := true }
  else if c % b ≠ 0 then none
  else
    let base := p.pos / b * b
    let old := (List.range ((c - base) / b)).map (fun j => (scaleAt p b (base + j * b)).getD 256)
    some { p with q := p.q.drop 1, begun := true, scBase := base, scBytes := old ++ bs }

/-- A port between two streams: the scale in effect at the last position stays latched (R166, R200). -/
def resetPort (b : Nat) (p : Port) : Port :=
  { p with pos := 0, begun := false, len := none, ended := false, poisoned := false, scalar := none, nscal := 0, scBase := 0,
           scBytes := match p.scBytes with
             | [] => []
             | _ => [(scaleAt p (max b 1) (p.pos - 1)).getD 256] }

/-! ### Replicate ports (R63) -/

/-- POISON LENGTH_MISMATCH with SUB 5, once for a pair of streams. `begun` of a replicate port says that it has been
emitted. -/
def repPoison (c : Cell) (n k rec : Nat) : Cell :=
  match c.nodes[n]? with
  | none => c
  | some nd =>
    if (nd.port k).begun then c
    else emitPoison (setNode c n (fun x => setPort x k (fun p => { p with begun := true }))) n cLENGTH 5 rec

/-- One step of a replicate port: the scalar is latched, a surplus discarded, the END noted once the scalar ahead of it has been
taken. `beat` says that it takes a scalar for each beat. A valid lane beyond lane 0, or an END.COUNT other than the scalars
carried, is poisoned with SUB 3 (R65); the scalar of such a token is a hole. -/
def repStep (s : State) (c : Cell) (n k : Nat) (beat : Bool) : Option Cell :=
  match c.nodes[n]? with
  | none => none
  | some nd =>
    let p := nd.port k
    let pop (f : Port → Port) : Cell := setNode c n (fun x => setPort (popHead x k) k f)
    match p.q.head? with
    | some (.data xs) =>
      let wide := !p.poisoned && (xs.drop 1).any Option.isSome
      let v := if wide then none else xs.getD 0 none
      let bad (y : Cell) : Cell := if wide then emitPoison y n cLENGTH 3 (p.nscal + 1) else y
      if p.ended then none
      else if beat then
        (if p.scalar.isNone then some (bad (pop (fun q => { q with scalar := some v, nscal := q.nscal + 1 }))) else none)
      else if p.nscal = 0 then some (bad (pop (fun q => { q with scalar := some v, nscal := 1 })))
      else some (repPoison (pop (fun q => { q with nscal := q.nscal + 1 })) n k p.nscal)
    | some (.fin cnt g) =>
      if p.ended || (beat && p.scalar.isSome) then none
      else
        let y := mergeNode s (pop (fun q => { q with ended := true })) n g
        some (if !p.poisoned && cnt != p.nscal then emitPoison y n cLENGTH 3 (min cnt p.nscal) else y)
    | some (.len _ _ _ _) => if p.ended then none else some (emitPoison (pop id) n cLENGTH 2 0)
    | some (.scale _ _) => if p.ended then none else some (emitPoison (pop id) n cCONNECT 5 0)
    | _ => none

/-- The replicate ports of a node with the kind of each. -/
def repPorts (nd : Node) : List (Nat × Bool) :=
  ((readsOf nd).filter (fun k => (nd.port k).rep)).map (fun k => (k, repBeat nd.word k))

/-- The first replicate port that can take a step. -/
def repAct (s : State) (c : Cell) (n : Nat) (nd : Node) : Option Cell :=
  (repPorts nd).findSome? (fun e => repStep s c n e.1 e.2)

/-- Scalars have arrived, or will not. -/
def repReady (nd : Node) : Bool := (repPorts nd).all (fun e => (nd.port e.1).scalar.isSome || (nd.port e.1).ended)

/-- A shortfall whose POISON is still to be emitted, ahead of the first beat that it affects. -/
def repShort (nd : Node) : Option (Nat × Nat) :=
  match (repPorts nd).find? (fun e => let p := nd.port e.1; p.ended && p.scalar.isNone && !p.begun) with
  | some e => some (e.1, (nd.port e.1).nscal)
  | none => none

/-! ### Lockstep inputs (R154) -/

/-- What a node's lockstep ports offer: nothing; something that is not for the mode to see, already done; a beat at each; the
END at each. -/
inductive Act where
  | idle
  | cell (c : Cell)
  | beat (xs : List Lanes)
  | fin
  deriving DecidableEq, Repr

/-- A port at which a SCALE stands. -/
def isScale (t : Option Token) : Bool := match t with | some (.scale _ _) => true | _ => false
/-- A port at which a LEN stands. -/
def isLen (t : Option Token) : Bool := match t with | some (.len _ _ _ _) => true | _ => false
/-- A port at which DATA stands. -/
def isData (t : Option Token) : Bool := match t with | some (.data _) => true | _ => false
/-- A port at which an END stands. -/
def isEnd (t : Option Token) : Bool := match t with | some (.fin _ _) => true | _ => false

/-- A port's discard after a mismatch: DATA, SCALE and LEN go; the END is noted (R154). -/
def discardPort (s : State) (c : Cell) (n k : Nat) : Option Cell :=
  match c.nodes[n]? with
  | none => none
  | some nd =>
    if (nd.port k).ended then none
    else match nd.head k with
      | some (.data _) => some (setNode c n (fun x => popHead x k))
      | some (.scale _ _) => some (setNode c n (fun x => popHead x k))
      | some (.len _ _ _ _) => some (setNode c n (fun x => popHead x k))
      | some (.fin _ g) => some (mergeNode s (setNode c n (fun x => setPort (popHead x k) k (fun p => { p with ended := true }))) n g)
      | _ => none

/-- The END of a node's outputs: COUNT is that of port A's END where the node forwards it (R66), else what each output has
emitted; every port is between streams again. -/
def endNode (s : State) (c : Cell) (n b : Nat) (cnt : Option Nat) : Cell :=
  match c.nodes[n]? with
  | none => c
  | some nd =>
    let g := nodeSig s c n
    let c1 := sendB (sendA c n (.fin (cnt.getD nd.outPosA) g)) n (.fin (cnt.getD nd.outPosB) g)
    setNode c1 n (fun x => { x with ports := x.ports.map (resetPort b), outPosA := 0, outPosB := 0, failing := false })

/-- A node forwards port A's END with its COUNT unchanged: the order-transparent modes (R66), FILTER, MERGE ORDERED, SCAN by lanes
and AGEN INDEX, which take and give one element for one. -/
def keepsCount (w : NodeWord) : Bool :=
  w.kind == kMAP || w.kind == kTRANSC || (w.kind == kCONV && w.mode == 0) || w.kind == kFILTER || (w.kind == kMERGE && w.mode == 1) ||
  (w.kind == kSCAN && w.mode != 2) || (w.kind == kAGEN && w.mode == 1)

/-- The COUNT of the END at the head of a port. -/
def endCount (nd : Node) (k : Nat) : Option Nat :=
  match nd.head k with
  | some (.fin cnt _) => some cnt
  | _ => none

/-- The LEN of a token. -/
def lenOf (t : Option Token) : List Nat := match t with | some (.len a b c d) => [a, b, c, d] | _ => []

/-- Two LENs differ in a ragged field. -/
def lensDiffer (o : Order) (a b : List Nat) : Bool := (List.range 4).any (fun d => o.isRagged d && a.getD d 0 != b.getD d 0)

/-- A length mismatch begins: POISON SUB 1, then the discard (R154). -/
def mismatch (c : Cell) (n rec : Nat) : Cell :=
  setNode (emitPoison c n cLENGTH 1 rec) n (fun x => { x with failing := true })

/-- The LEN that a lockstep port has: the one at its head, or the one that it has taken. -/
def portLen (nd : Node) (k : Nat) : Option (List Nat) := if isLen (nd.head k) then some (lenOf (nd.head k)) else (nd.port k).len

/-- The LENs that the lockstep ports have are compared, those at heads kept, and port A's is forwarded where the mode forwards
it (R66, R154). -/
def takeLens (c : Cell) (n : Nat) (nd : Node) (ls : List Nat) (fwd : Bool) : Cell :=
  let at0 := ls.filter (fun k => isLen (nd.head k))
  let have0 := ls.filterMap (fun k => (portLen nd k).map (fun l => (k, l)))
  let first := (have0.head?.elim [] Prod.snd)
  let bad := have0.any (fun e => lensDiffer (nd.port e.1).exp first e.2)
  if bad then
    mismatch c n (have0.foldl (fun m e => min m (countOf (nd.port e.1).exp (some e.2)))
      (countOf (nd.port (ls.headD 0)).exp (some first)))
  else
    let c1 := setNode c n (fun x => at0.foldl (fun y k =>
      setPort (popHead y k) k (fun p => { p with len := some (lenOf (nd.head k)), begun := true })) x)
    if fwd then
      match nd.head (ls.headD 0) with
      | some (.len a b d e) => sendBoth c1 n (.len a b d e)
      | _ => c1
    else c1

/-- A LEN that may not stand where it does, or is over the declared extent (SUB 2): the port that has it. -/
def lenBad (nd : Node) (k : Nat) : Bool :=
  let p := nd.port k
  isLen (nd.head k) && !p.poisoned && (!p.exp.anyRagged || p.begun || lenOver p.exp (lenOf (nd.head k)))

/-- What a CONV holds of a stream whose END has broken R65 goes: the POISON stands in the place of the END, and R65 does not say that what
waits for a whole beat or group leaves ahead of it (DESIGN CHOICE, log 42). -/
def dropConv (st : NodeState) : NodeState :=
  match st with
  | .conv _ _ _ => .conv [] [] false
  | st => st

/-- What the lockstep ports `ls` offer next. `sc k` says how a port takes a SCALE: 0 not at all, 1 it is forwarded in place,
else it is latched in blocks of that size. `fwd` says that port A's LEN is forwarded. An END that comes early at one port while
another holds DATA breaks R65 (SUB 3) and R154 (SUB 1) alike; the spec does not order the two, and the model emits the SUB 1 of
R154 alone (DESIGN CHOICE, log 29). RECORD is 0 in the SUB 2 POISON of a LEN that is missing, repeated or misplaced, and in the POISON of a
SCALE at a port that takes none: R64 does not say which element these affect (DESIGN CHOICE, log 42). -/
def lockAct (s : State) (c : Cell) (n : Nat) (nd : Node) (ls : List Nat) (sc : Nat → Nat) (fwd : Bool) : Act :=
  let drop (k : Nat) : Cell := setNode c n (fun x => popHead x k)
  if !roomAll c n then .idle
  else if nd.failing then
    match (readsOf nd).findSome? (discardPort s c n) with
    | some c1 => .cell c1
    | none => if (readsOf nd).all (fun k => (nd.port k).ended) then .cell (endNode s c n (sc 0) none) else .idle
  else
    match repAct s c n nd with
    | some c1 => .cell c1
    | none =>
      match ls.find? (fun k => isScale (nd.head k)) with
      | some k =>
        (match nd.head k with
         | some (.scale off bs) =>
           if sc k = 0 then .cell (emitPoison (drop k) n cCONNECT 5 0)
           else if sc k = 1 then
             .cell (sendBoth (setNode (drop k) n (fun x => setPort x k (fun p => { p with begun := true }))) n (.scale off bs))
           else
             (match latchScale (nd.port k) (sc k) off bs with
              | some p => .cell (setNode c n (fun x => setPort x k (fun _ => p)))
              | none => .cell (emitPoison (drop k) n cLENGTH 4 ((nd.port k).pos + off)))
         | _ => .idle)
      | none =>
        match ls.find? (lenBad nd) with
        | some k => .cell (emitPoison (drop k) n cLENGTH 2 0)
        | none =>
          if ls.any (fun k => isLen (nd.head k)) then
            (if ls.all (fun k => isLen (nd.head k) || !lenDue (nd.port k)) then .cell (takeLens c n nd ls fwd)
             else match ls.find? (fun k => lenDue (nd.port k) && (isData (nd.head k) || isEnd (nd.head k))) with
               | some _ => .cell (emitPoison c n cLENGTH 2 0)
               | none =>
                 -- a partner held at a SLUICE: the LENs that are there are taken, and DATA behind them has no partner (R159)
                 if ls.any (fun k => (nd.head k).elim false Token.isSluice) then .cell (takeLens c n nd ls fwd) else .idle)
          else
            match ls.find? (fun k => lenDue (nd.port k) && (isData (nd.head k) || isEnd (nd.head k))) with
            | some _ => .cell (emitPoison c n cLENGTH 2 0)
            | none =>
              if ls.all (fun k => isData (nd.head k)) then
                let xs := ls.map (fun k => match nd.head k with
                  | some (.data l) => l
                  | _ => [])
                (match (ls.zip xs).find? (fun e => (beatBad (nd.port e.1) e.2).isSome) with
                 | some e => .cell (emitPoison (drop e.1) n cLENGTH 3 ((beatBad (nd.port e.1) e.2).getD 0))
                 | none => .beat xs)
              else if ls.all (fun k => isEnd (nd.head k)) then
                (match ls.findSome? (fun k => match nd.head k with
                   | some (.fin cnt _) => (match endBad (nd.port k) cnt with
                     | some r => some (k, r)
                     | none => none)
                   | _ => none) with
                 | some e =>
                   let c1 := emitPoison c n cLENGTH 3 e.2
                   .cell (setNode c1 n (fun x => { x with
                     ports := (ls.foldl popHead x).ports.map (resetPort (sc 0)), outPosA := 0, outPosB := 0, st := dropConv x.st }))
                 | none => .fin)
              else if ls.any (fun k => (nd.head k).elim false Token.isSluice) && ls.any (fun k => isData (nd.head k)) then
                .cell (mismatch c n (ls.foldl (fun m k => if isData (nd.head k) then m else min m (nd.port k).pos)
                  ((nd.port (ls.headD 0)).pos + (nd.port (ls.headD 0)).le)))
              else if ls.all (fun k => isData (nd.head k) || isEnd (nd.head k)) then
                .cell (mismatch c n (ls.foldl (fun m k => if isEnd (nd.head k) then min m (nd.port k).pos else m)
                  ((nd.port (ls.headD 0)).pos + (nd.port (ls.headD 0)).le)))
              else .idle

/-- The END of every lockstep port is taken: labels merge, replicate streams must have ended, a wrong number of scalars is
poisoned (R63), and the END leaves. -/
def lockEnd (s : State) (c : Cell) (n b : Nat) (nd : Node) (ls : List Nat) : Cell :=
  match (repPorts nd).find? (fun e => !(nd.port e.1).ended || (!e.2 && (nd.port e.1).nscal == 0 && !(nd.port e.1).begun)) with
  | some e =>
    let p := nd.port e.1
    if p.ended then repPoison c n e.1 0
    else if e.2 ∧ p.scalar.isSome = true then
      repPoison (setNode c n (fun x => setPort x e.1 (fun q => { q with scalar := none }))) n e.1 (p.nscal - 1)
    else c
  | none =>
    let c1 := ls.foldl (fun x k => match nd.head k with
      | some (.fin _ g) => mergeNode s (setNode x n (fun y => popHead y k)) n g
      | _ => x) c
    endNode s c1 n b (if keepsCount nd.word then endCount nd (ls.headD 0) else none)

/-! ### Breakpoints and dumps of nodes (R392, R393) -/

/-- A DUMP entry: register, index, words. -/
def dumpEntry (reg ix : Nat) (ws : List W) : List W := w64 (reg + 256 * ix + 65536 * ws.length) :: ws

/-- Numbers of w bits packed into words, the first lowest. -/
def packWords (w : Nat) (n : Nat) (l : List Nat) : List W :=
  let all := l.reverse.foldl (fun a v => a * pow2 w + v % pow2 w) 0
  (List.range n).map (fun k => w64 (all / pow2 (64 * k) % pow2 64))

/-- The architectural state of a node as the entries of a DUMP (R393). -/
def nodeDump (nd : Node) : List W :=
  let pad (l : List Nat) (n : Nat) : List Nat := (l ++ List.replicate n 0).take n
  match nd.st with
  | .row r =>
    if nd.word.kind = 7 then dumpEntry 1 0 (packWords 6 6 (pad r.ptab 64))
    else if nd.word.kind = 8 then
      dumpEntry 2 0 ((pad (r.rs.map (fun (v : Int) => wrapTo 64 v)) 64).map w64) ++ dumpEntry 3 0 ((pad r.ltab 2).map w64)
    else dumpEntry 4 0 (packWords 32 32 (pad (r.acc.map (fun v => v.getD 0)) 64)) ++ dumpEntry 3 0 ((pad r.ltab 2).map w64)
  | .mma m =>
    (List.range m.tiles.length).flatMap (fun t => dumpEntry 5 t (packWords 32 2048 (pad ((m.tiles.getD t (.empty, [])).2) 4096))) ++
    dumpEntry 6 0 (packWords 8 8 (pad (nd.port 0).scBytes 32 ++ pad (nd.port 1).scBytes 32) ++ [w64 ((m.decay.getD none).getD 0)])
  | .loop tab _ _ =>
    (List.range tab.length).flatMap (fun k => match tab[k]? with
      | some e => dumpEntry 7 k ((pad (e.value.map (fun v => v.getD 0)) 64).map w64 ++
          packWords 1 2 (e.cont.map (fun b => if b then 1 else 0)) ++ [w64 e.trips] ++ List.replicate 5 0)
      | none => [])
  | _ => dumpEntry 6 0 (packWords 8 8 (pad (nd.port 0).scBytes 64) ++ [0])

/-- The breakpoints that a node met, in ascending number: their positions on port A lie in what the node has consumed since. -/
def nodeBreaks (c : Context) (x : Cell) (n lo hi : Nat) : List Nat :=
  if c.log.ckctl.getLsbD 1 then []
  else (List.range 4).filter (fun k =>
    let a := c.pmc.brk.getD (2 * k) 0
    let pos := field (c.pmc.brk.getD (2 * k + 1) 0) 0 32
    a.getLsbD 0 && a.getLsbD 1 && field a 32 32 == x.cfg.sntid.toNat && field a 16 7 == n && decide (lo ≤ pos) && decide (pos < hi))

/-- Records of the node breakpoints that a beat met (R390, R392). -/
def noteBreak (s : State) (c n lo hi : Nat) : State :=
  match aget s.cells c with
  | none => s
  | some x =>
    match aget s.ctxs x.crew.asid, x.nodes[n]? with
    | some cx, some nd =>
      (nodeBreaks cx x n lo hi).foldl (fun st k =>
        let a := x.crew.asid
        let die := dieOf x.cluster
        let coord := (cellCoord x).toNat
        let pos := field (cx.pmc.brk.getD (2 * k + 1) 0) 0 32
        let s1 := sampleRec st a die 5 [w64 (k + 4), w64 (x.cfg.sntid.toNat * 2 ^ 32 + n), w64 (coord + pos * 2 ^ 32)]
        if (cx.pmc.brk.getD (2 * k) 0).getLsbD 2 then
          sampleRec s1 a die 6 ([w64 (coord + x.cfg.sntid.toNat * 2 ^ 32), w64 (n + 256)] ++ nodeDump nd)
        else s1) s
    | _, _ => s

/-! ### A step of a node -/

/-- DATA that a join consumes from a port whose SNAP of an epoch is late goes into the peat log of that epoch (R160). -/
def noteLate (s : State) (c n : Nat) (nd nd1 : Node) : State :=
  match aget s.cells c with
  | none => s
  | some x => nd.late.foldl (fun st e =>
      match nd.head e.1 with
      | some (.data xs) =>
        if (nd1.port e.1).q.length < (nd.port e.1).q.length then
          logRec st x.crew.asid (dieOf x.cluster) e.2 19 (w64 nd.pts :: 7 :: w64 c :: w64 n :: w64 e.1 :: tokenWords (.data xs))
        else st
      | _ => st) s

/-- A node's step: `f` gives the cell after it, and what it formed begins to leave. Where the node is not ready for a step, sending the
next token of an earlier one is all that it does (R152). The node has fired where the cell changed; what it consumed on port A may
meet a breakpoint. -/
def nodeEventWhen (ready : Node → Bool) (s : State) (c n : Nat) (ok : NodeWord → Bool) (f : Cell → Node → Cell) : State :=
  match aget s.cells c with
  | none => s
  | some x =>
    match x.nodes[n]? with
    | none => s
    | some nd =>
      if !cellRuns s x || !ok nd.word then s
      else
        let y := emitPend (if ready nd then f x nd else x) n
        if y = x then s
        else
          let s0 := { s with cells := aset s.cells c (noteFire s y n) }
          match y.nodes[n]? with
          | some nd1 =>
            let s1 := noteLate s0 c n nd nd1
             if (nd.port 0).pos < (nd1.port 0).pos then noteBreak s1 c n (nd.port 0).pos (nd1.port 0).pos else s1
          | none => s0

/-- A step of a node that takes nothing in while tokens of an earlier step have not left (R152). -/
def nodeEvent (s : State) (c n : Nat) (ok : NodeWord → Bool) (f : Cell → Node → Cell) : State :=
  nodeEventWhen Node.sentAll s c n ok f

/-! ### Halting, sinks and sluices -/

/-- The trap record of a POISON that a sink accepted (R158, R349), deferred where the crew is unconfirmed (R289). -/
def poisonTrap (s : State) (c : Nat) (x : Cell) (p : Poison) : State :=
  let n := nextSeq s x.crew.asid
  let ws := trapWords p.code p.sub ⟨1, p.node.toNat, p.origin, x.cfg.sntid⟩ false 0 p.record n.1
  if unconfirmed s x.crew then updCell n.2 c (fun y => { y with deferred := y.deferred ++ ws })
  else
    sendWrite (logTrap n.2 x.crew.asid (dieOf x.cluster) ws)
      ⟨x.cfg.thread, 15, trapWord0 p.code p.sub ⟨1, p.node.toNat, p.origin, x.cfg.sntid⟩ false,
       (x.nodes[p.node.toNat]?).elim Sig.zero (fun nd => labelSig s nd.label nd.pts), nodeUnit s x p.node.toNat, false, none⟩

/-- A cell halts (R158): nothing in it performs any more, and it counts as drained. Its sluices do not complete over it; R48, R133 and R158
leave open whether flags and counts that none has committed ever commit: they stay with the cell, and go with its configuration where a
CFG replaces or a launch's completion releases it (DESIGN CHOICE, log 42). -/
def haltCell (s : State) (c : Nat) (p : Poison) : State :=
  match aget s.cells c with
  | none => s
  | some x => poisonTrap (updCell s c (fun y => { y with halted := true, sluices := [] })) c x p

/-- A DRAIN's wait after the oldest sluice of a cell has completed. -/
def sluicedWait (c : Nat) (w : Waiting) : Waiting :=
  match w with
  | .drain l sid => .drain (l.map (fun p => if p.1 = c then (p.1, p.2 - 1) else p)) sid
  | w => w

/-- The threads whose DRAIN waits for a cell learn that its oldest sluice has completed. -/
def sluiceDone (s : State) (c : Nat) : State :=
  { s with threads := s.threads.map (fun e => match e.2.mode with
      | .trailing ws a => (e.1, { e.2 with mode := .trailing (ws.map (sluicedWait c)) a })
      | _ => e) }

/-- A sluice has completed over a cell: its flags and counts commit (R48). -/
def sluiceCompletes (s : State) (c : Nat) (sl : Sluice) : State :=
  let s1 := updCell s c (fun y => { y with
    sluices := y.sluices.drop 1, drainedAt := max y.drainedAt sl.entered, lastSink := sl.last, drainSig := sl.sig })
  sluiceDone (commitFlagsOf s1 c) c

/-- A sluice that has reached a sink, with the signal of that sink as it stands now. -/
def sluiceAtSink (sl : Sluice) (n : Nat) (g : Sig) : Sluice :=
  { sl with left := sl.left.filter (fun j => j != n), last := n, sig := { g with pts := max sl.sig.pts g.pts } }

/-- A sink has been reached by a sluice of an identifier (R133). -/
def reachSink (s : State) (c n sid : Nat) : State :=
  match aget s.cells c with
  | none => s
  | some x =>
    match x.sluices.findIdx? (fun sl => sl.sid == sid && sl.left.contains n) with
    | none => s
    | some k =>
      let s1 := updCell s c (fun y => { y with
        sluices := modAt y.sluices k (fun sl => sluiceAtSink sl n (nodeSig s y n)) })
      match aget s1.cells c with
      | some y => (match y.sluices with
          | sl :: _ => if sl.left.isEmpty then sluiceCompletes s1 c sl else s1
          | [] => s1)
      | none => s1

/-- The REGION record of a node, a store or a channel (R396): its image section, whose layout is the device's own (R367), is its unit word
and its label, which stand for what the device keeps of it under the epoch (log 20). -/
def regionRec (s : State) (asid die e : Nat) (unit : W) (l : Label) (u : UnitSnap) : State :=
  match aget s.ctxs asid with
  | some cx =>
    if logging cx then
      updCtx (logRec s asid die e 17 [unit, l.edge ++ BitVec.ofNat 32 (labelOwn l)]) asid (fun x => { x with log := { x.log with
        snaps := x.log.snaps ++ [(e, u)] } })
    else s
  | none => s

/-- A node as its checkpoint holds it: what stands at its ports came behind the SNAP, and what it has still to send goes ahead of it. -/
def snapNode (nd : Node) : Node :=
  { nd with ports := nd.ports.map (fun p => { p with q := [], link := [] }), pendA := [], pendB := [] }

/-- A node whose REGION record of an epoch was owed has written it (R396). -/
def paidNode (s : State) (asid e c n : Nat) : State :=
  updCtx s asid (fun x => { x with log := { x.log with epochs := x.log.epochs.map (fun p =>
    if p.number = e then { p with nodes := p.nodes.filter (fun q => q != (c, n)) } else p) } })

/-- A SNAP of an epoch passes a node: its REGION record (R396). -/
def snapRegion (s : State) (e c n : Nat) : State :=
  match aget s.cells c with
  | none => s
  | some x =>
    match x.nodes[n]? with
    | some nd => paidNode (regionRec s x.crew.asid (dieOf x.cluster) e (nodeUnit s x n) nd.label (.node c n (snapNode nd))) x.crew.asid e c n
    | none => s

end Sys2Proof.Machine
end

