-- ==== Sys2Proof/Machine/Tokens.lean ====
section
/-! DEFINITION. The steps of every kind of node on POISON, SLUICE and SNAP (R157 to R160), sinks (R158), and reorder stores
(R231 to R237, R243). -/

namespace Sys2Proof.Machine

/-! ### POISON (R157, R158) -/

/-- Port p of a row node governs COLS beats of its partner (R214): the codes of PERM RANK, the level tables of DACC. -/
def governs (nd : Node) (p : Nat) : Bool :=
  (nd.word.kind == kPERM && nd.word.mode == 1 && p == 0) || (nd.word.kind == kRED && nd.word.mode == 4 && p == 1)

/-- Columns of the current group are still due. -/
def columnsDue (nd : Node) : Bool :=
  match nd.st with
  | .row r => r.due != 0
  | _ => false

/-- What POISON leaves in a node's state: an MMA discards its product stream (R209), the columns of a group whose governing
beat it replaced are discarded (R225). R209 does not say which product stream a POISON hits that stands between two streams of a port:
here it is the one that the node works on as the POISON passes (DESIGN CHOICE, log 42). -/
def poisonState (nd : Node) (p : Nat) : NodeState :=
  match nd.st with
  | .mma m => .mma { m with drop := true, dropB := m.dropB || p == 1 }
  | .row r => if governs nd p then .row { r with due := prmField nd.params 0 0 16, col := 0, skip := true } else .row r
  | st => st

/-- The outputs on which a node emits POISON have credit: LOOP emits it on OUTB alone (R175). -/
def poisonRoom (x : Cell) (n : Nat) (nd : Node) : Bool := if nd.word.kind = kLOOP then roomAt x nd.word.outB else roomAll x n

/-- POISON_FORWARD (R157): port p's POISON leaves in its place on every output. LOOP emits it on OUTB alone (R175). -/
def execPoisonForward (c n p : Nat) (s : State) : Host.Outcome State Fault Refusal :=
  .next (nodeEvent s c n (fun _ => true) (fun x nd =>
    match nd.head p with
    | some (.poison q) =>
      if isSink nd || !(nd.port p).fed || !poisonRoom x n nd || (governs nd p && columnsDue nd) then x
      else
        let y := setNode (noChecks (setNode x n (fun z => popHead z p)) n) n (fun z => { z with st := poisonState nd p })
        if nd.word.kind = kLOOP then sendB y n (.poison q) else sendBoth y n (.poison q)
    | _ => x))

/-- The channel of a LINKIN or LINKOUT. -/
def linkChan (nd : Node) : Nat := prmField nd.params 0 0 16

/-- The DEVICE of a LINKOUT. -/
def linkDev (nd : Node) : Nat := prmField nd.params 0 16 16

/-- A LINKOUT node. -/
def isLinkout (nd : Node) : Bool := nd.word.kind == kMEM && nd.word.mode == 4

/-- What came in belongs to a channel of a context. -/
def ofChan (asid chan : Nat) (i : Inbound) : Bool :=
  match i with
  | .token a c _ => a == asid && c == chan
  | .descriptor a c _ _ _ _ => a == asid && c == chan
  | .down a c => a == asid && c == chan
  | _ => false

/-- Tokens that a LINKOUT sends leave on its channel (R187): toward this device's other cells, or over a device link. Where no port
reaches the peer nothing is sent: only a LINKOUT whose cell halts in this step gets here then (R313). -/
def linkSend (s : State) (c n : Nat) (nd : Node) (t : Token) : State :=
  let dev := linkDev nd
  match aget s.cells c with
  | none => s
  | some x =>
    let a := x.crew.asid
    if dev = 0 then { s with fl := { s.fl with inbound := s.fl.inbound ++ [.token a (linkChan nd) t] } }
    else
      match route s dev with
      | .error _ => s
      | .ok port =>
        let s1 := sendOp s (.linkout c n (nd.port 0).pos) dev (some port) true (w64 (linkChan nd)) []
        { s1 with fl := { s1.fl with out := s1.fl.out ++ [.peerSent dev (.token a (linkChan nd) t)] } }

/-- A LINKOUT of an unconfirmed crew holds every token (R289); it notes since when. -/
def linkHeld (s : State) (x : Cell) (nd : Node) : Bool := isLinkout nd && unconfirmed s x.crew

/-- A node is held from now on, where it is not held already. -/
def holdNode (s : State) (c n : Nat) : State := updNode s c n (fun z => { z with held := some (z.held.getD s.cycle) })

/-- The LINKIN of a channel of this device is live, and has credit (R53, R240). -/
def linkRoom (s : State) (asid chan : Nat) : Bool :=
  s.cells.any (fun e => e.2.crew.asid == asid && !e.2.halted && e.2.nodes.any (fun nd => nd.word.kind == kMEM && nd.word.mode == 3 && linkChan nd == chan)) &&
  decide ((s.fl.inbound.filter (ofChan asid chan)).length < Config.linkCredit)

/-- The port that leads to a peer sends at once: nothing waits for room in its retry window, and there is room (R403). -/
def portSends (s : State) (dev : Nat) : Bool :=
  match route s dev with
  | .ok k => (s.pkg.ports[k]?).any (fun p => p.mode != 2 || (p.waiting.isEmpty && windowRoom p (frameSize [])))
  | .error _ => true

/-- A LINKOUT has credit for a token, whatever its kind (R53, R240): its LINKIN on this device is live and takes it, or few enough
of its tokens are not acknowledged by the peer and its port sends (R403, log 19). -/
def linkCredit (s : State) (c n : Nat) (x : Cell) (nd : Node) : Bool :=
  if linkDev nd = 0 then linkRoom s x.crew.asid (linkChan nd)
  else portSends s (linkDev nd) && decide ((s.fl.ops.filter (fun o => match o.issuer with
    | .linkout d m _ => d == c && m == n
    | _ => false)).length < Config.linkCredit)

/-- A LINKOUT to a peer that cannot be reached meets LINK (R313). -/
def noRoute (s : State) (nd : Node) : Option Flt :=
  if linkDev nd = 0 then none
  else match route s (linkDev nd) with
    | .error f => some f
    | .ok _ => none

/-- What a LINKOUT does in place of sending its next token: it is held for proof (R289), it waits for credit, or, where no port
reaches the peer, it takes POISON LINK as a sink and its cell halts (R313). None where it sends, and at every other node. -/
def linkGate (s : State) (c n : Nat) (x : Cell) (nd : Node) : Option State :=
  if !isLinkout nd then none
  else if linkHeld s x nd then some (holdNode s c n)
  else match noRoute s nd with
    | some f => some (haltCell s c (poisonOf x n f.1 f.2 (nd.port 0).pos))
    | none => if linkCredit s c n x nd then none else some s

/-- SINK_HALT (R158): a sink accepts a POISON, and its cell halts. A LINKOUT sends it first, with credit as for any token (R187);
where no port reaches the peer it cannot cross, and the record of this POISON stands for the loss. -/
def execSinkHalt (c n p : Nat) (s : State) : Host.Outcome State Fault Refusal :=
  .next (match aget s.cells c with
    | none => s
    | some x =>
      match x.nodes[n]? with
      | none => s
      | some nd =>
        match nd.head p with
        | some (.poison q) =>
          if !cellRuns s x || !isSink nd then s
          else if linkHeld s x nd then holdNode s c n
          else if isLinkout nd && (noRoute s nd).isNone && !linkCredit s c n x nd then s
          else
            let s1 := updNode s c n (fun z => popHead z p)
            haltCell (if isLinkout nd then linkSend s1 c n nd (.poison q) else s1) c q
        | _ => s)

/-! ### SLUICE (R159) -/

/-- Nothing that results from tokens ahead of a sluice is still inside a node (R159, R209). A sluice may stand within a stream (R133): a MEM
node then has performed every beat ahead of it; one whose stream has ended has its DONE to send first. -/
def idleInside (nd : Node) : Bool :=
  match nd.st with
  | .mma m => m.emits.isEmpty && m.tiles.all (fun t => t.1 != .draining)
  | .row r => r.due == 0 && decide (r.out.length < nd.ord.lanes)
  | .mem m => m.out.isEmpty && nd.held.isNone && !(m.begun && (nd.port 0).ended)
  | .conv _ out _ => decide (out.length < nd.ord.lanes)
  | _ => true

/-- Operations of a node that a peer or the host has not answered. -/
def nodeOps (s : State) (c n : Nat) : List RemoteOp :=
  s.fl.ops.filter (fun o => match o.issuer with
    | .nodeLoad d m _ => d == c && m == n
    | .nodeStore d m _ => d == c && m == n
    | _ => false)

/-- Every port that a node reads holds a SLUICE. -/
def sluiceReady (nd : Node) : Bool :=
  let rs := readsOf nd
  !rs.isEmpty && rs.all (fun k => (nd.head k).elim false Token.isSluice) && !rs.all (fun k => (nd.port k).ended) &&
  nd.word.kind != kLOOP && idleInside nd && nd.sentAll

/-- The signal of the SLUICE at a port, with its identifier. -/
def sluiceAt (nd : Node) (k : Nat) : Nat × Sig :=
  match nd.head k with
  | some (.sluice sid g) => (sid, g)
  | _ => (0, Sig.zero)

/-- Labels at the forwarding of a sluice (R315): a join records a DRAIN edge whose producer is the port whose sluice arrived
last; a node that reads one port merges the label. -/
def sluiceLabels (s : State) (c : Nat) (x : Cell) (n : Nat) (nd : Node) : State :=
  let rs := readsOf nd
  match rs with
  | [k] => { s with cells := aset s.cells c (mergeNode s x n (sluiceAt nd k).2) }
  | _ =>
    let last := rs.foldl (fun b k => if (sluiceAt nd b).2.stamp ≤ (sluiceAt nd k).2.stamp then k else b) (rs.headD 0)
    let first := rs.foldl (fun m k => min m (sluiceAt nd k).2.stamp) (sluiceAt nd last).2.stamp
    let s1 := rs.foldl (fun st k => if k = last then st else
      match aget st.cells c with
      | some y => { st with cells := aset st.cells c (mergeNode st y n (sluiceAt nd k).2) }
      | none => st) s
    endWaitNode s1 c n (sluiceAt nd last).2 2 (nodeUnit s x (nd.port last).src) ((sluiceAt nd last).2.stamp - first)

/-- SLUICE_FORWARD (R159): the sluice leaves on every output with port A's identifier; a sink has been reached (R133). A
LINKOUT sends it over its channel (R187). Where port A is unfed, at MERGE RROBIN or CONCAT, the rule names no identifier: the model
takes that of the first fed port (DESIGN CHOICE, log 42). -/
def execSluiceForward (c n : Nat) (s : State) : Host.Outcome State Fault Refusal :=
  .next (match aget s.cells c with
    | none => s
    | some x =>
      match x.nodes[n]? with
      | none => s
      | some nd =>
        if !cellRuns s x || !sluiceReady nd || !roomAll x n || !(nodeOps s c n).isEmpty then s
        else match linkGate s c n x nd with
        | some s1 => s1
        | none =>
          let sid := (sluiceAt nd ((readsOf nd).headD 0)).1
          let s1 := sluiceLabels s c x n nd
          match aget s1.cells c with
          | none => s
          | some y =>
            let z := setNode y n (fun w => (readsOf nd).foldl popHead w)
            let g := nodeSig s1 z n
            let s2 := { s1 with cells := aset s1.cells c (noteFire s1 (emitPend (sendBoth z n (.sluice sid g)) n) n) }
            let s3 := if isLinkout nd then linkSend s2 c n nd (.sluice sid g) else s2
            if isSink nd then reachSink s3 c n sid else s3)

/-! ### SNAP (R160) -/

/-- The epoch of the SNAP at a port. -/
def snapAt (nd : Node) (k : Nat) : Option Nat :=
  match nd.head k with
  | some (.snap e) => some e
  | _ => none

/-- A SNAP leaves a node on every output, with its REGION record (R396). -/
def snapOut (s : State) (c n : Nat) (nd : Node) (e : Nat) (late : List (Nat × Nat)) : State :=
  let s1 := updCell s c (fun x =>
    let y := setNode x n (fun z =>
      let w := (readsOf nd).foldl (fun a k => if snapAt a k = some e then popHead a k else a) z
      { w with snap := none, late := w.late ++ late })
    emitPend (sendBoth y n (.snap e)) n)
  let s2 := if isLinkout nd then linkSend s1 c n nd (.snap e) else s1
  snapRegion s2 e c n

/-- SNAP_ALIGN (R160): a SNAP that is late goes; a node that reads one port forwards it in place; a join holds the port
until every port has it, where a SLUICE stands for one that is missing. R160 does not say what becomes of a SNAP that comes behind the
SLUICE that stood for it: it goes as a late one does, and the DATA ahead of it is logged (DESIGN CHOICE, log 42). -/
def execSnapAlign (c n : Nat) (s : State) : Host.Outcome State Fault Refusal :=
  .next (match aget s.cells c with
    | none => s
    | some x =>
      match x.nodes[n]? with
      | none => s
      | some nd =>
        let rs := readsOf nd
        if !cellRuns s x || nd.word.kind == kLOOP || !roomAll x n || !nd.sentAll || !rs.any (fun k => (snapAt nd k).isSome) then s
        else match linkGate s c n x nd with
        | some s1 => s1
        | none =>
          match rs.find? (fun k => nd.late.any (fun e => e.1 == k && snapAt nd k == some e.2)) with
          | some k => updNode s c n (fun z => { popHead z k with late := z.late.filter (fun e => !(e.1 == k && snapAt nd k == some e.2)) })
          | none =>
            match rs.find? (fun k => (snapAt nd k).isSome) with
            | none => s
            | some k =>
              let e := (snapAt nd k).getD 0
              if rs.length = 1 then snapOut s c n nd e []
              else if rs.all (fun j => snapAt nd j == some e || (nd.head j).elim false Token.isSluice) then
                snapOut s c n nd e ((rs.filter (fun j => snapAt nd j != some e)).map (fun j => (j, e)))
              else
                match nd.snap with
                | some _ => s
                | none => updNode s c n (fun z => { z with snap := some (e, s.cycle, [k]) }))

/-- SNAP_ALIGN_TIMEOUT (R160): after CKP.ALIGN cycles the SNAP is forwarded, and the ports that lack it are late. -/
def execSnapAlignTimeout (c n : Nat) (s : State) : Host.Outcome State Fault Refusal :=
  .next (match aget s.cells c with
    | none => s
    | some x =>
      match x.nodes[n]?, aget s.ctxs x.crew.asid with
      | some nd, some cx =>
        (match nd.snap with
         | none => s
         | some (e, since, _) =>
           if !cellRuns s x || !roomAll x n || !nd.sentAll || decide (s.cycle < since + cx.log.align.toNat) then s
           else snapOut s c n nd e (((readsOf nd).filter (fun j => snapAt nd j != some e)).map (fun j => (j, e))))
      | _, _ => s)

/-! ### Reorder stores (R231 to R237) -/

/-- Positions of the stream in a store. -/
def Store.total (st : Store) : Nat := countOf st.cons st.len

/-- The consumer positions of beat j. -/
def Store.beat (st : Store) (j : Nat) : List Nat :=
  (List.range st.cons.lanes).filterMap (fun i => if j * st.cons.lanes + i < st.total then some (j * st.cons.lanes + i) else none)

/-- A consumer position is in the store. -/
def Store.has (st : Store) (p : Nat) : Bool := st.held.any (fun e => e.1 == p) || st.reg.any (fun e => e.1 == p)

/-- The next consumer beat has all its positions. -/
def Store.ready (st : Store) : Bool := !(st.beat st.cbeat).isEmpty && (st.beat st.cbeat).all st.has

/-- The input register's elements move into the granules once every beat that they complete has left (R231). -/
def Store.settle (st : Store) : Store := if st.ready then st else { st with held := st.held ++ st.reg, reg := [] }

/-- An END waits in the store. -/
def Store.ending (st : Store) : Bool := st.tail.any (fun e => match e.1 with
  | .fin _ _ => true
  | _ => false)

/-- A producer beat enters the input register: each position goes to its consumer position (R230). -/
def Store.takeBeat (st : Store) (xs : Lanes) : Store :=
  let pos := reposition st.prod st.cons st.len
  let k := min st.prod.lanes (pos.length - st.ppos)
  let els := (List.range k).map (fun i => (pos.getD (st.ppos + i) 0, xs.getD i none))
  let over1 := (xs.drop k).any Option.isSome || k == 0
  let st1 := { st with reg := els, ppos := st.ppos + k }
  (if over1 then { st1 with tail := st1.tail ++ [(.data (padTo st.cons.lanes (xs.drop k)), [])] } else st1).settle

/-- A token that leaves a store, or passes it, goes through the adapter behind it (R229). -/
def afterStore (p : Port) (t : Token) : Port :=
  match adaptStep { p with link := [t] } with
  | some q => { q with link := p.link }
  | none => { p with q := p.q ++ [t] }

/-- A token enters a store: the port after it, none while it must wait (R231, R234). A DONE passes as END does. A SLUICE behind an
END that waits follows that END, and so no element of the next stream. -/
def storeAccept (s : State) (p : Port) (st : Store) : Option Port :=
  match p.link with
  | .poison q :: r => some (afterStore { p with link := r } (.poison q))
  | .snap e :: r => some (afterStore { p with link := r } (.snap e))
  | .scale o b :: r => some (afterStore { p with link := r } (.scale o b))
  | .done n g :: r => some { p with link := r, store := some { st with tail := st.tail ++ [(.done n g, [])], label := mergeLabel s st.label g } }
  | .sluice sid g :: r =>
    let ahead := if st.ending then [] else (st.held ++ st.reg).map Prod.fst
    let st1 := { st with tail := st.tail ++ [(.sluice sid g, ahead)], label := mergeLabel s st.label g }
    some { p with link := r, store := some st1 }
  | .fin n g :: r =>
    if st.dropping then some { p with link := r, store := some { st with tail := st.tail ++ [(.fin 0 g, [])] } }
    else some { p with link := r, store := some { st with tail := st.tail ++ [(.fin n g, [])], label := mergeLabel s st.label g } }
  | .data xs :: r =>
    if st.ending || !st.reg.isEmpty then none
    else if st.dropping then some { p with link := r }
    else some { p with link := r, store := some (st.takeBeat xs) }
  | _ => none

/-- REORDER_STORE_ACCEPT (R231): the next token of port p's edge enters the store, or passes it (R234). -/
def execReorderStoreAccept (c n p : Nat) (s : State) : Host.Outcome State Fault Refusal :=
  .next (match aget s.cells c, nodeOf s c n with
    | some x, some nd =>
      (match (nd.port p).store with
       | none => s
       | some st =>
         if !cellRuns s x then s
         else match storeAccept s (nd.port p) st with
           | none => s
           | some q =>
             let s1 := updNode s c n (fun z => setPort z p (fun _ => q))
             match (nd.port p).link.head? with
             | some (.snap e) =>
               regionRec s1 x.crew.asid (dieOf x.cluster) e (nodeUnit s x n) st.label (.store c n p { q with q := [], link := [] })
             | _ => s1)
    | _, _ => s)

/-- The node that emits the LEN of the stream on a producer's output (R236), on fuel. The trace crosses SCAN too, which passes a LEN
in place (R220). -/
def lenOriginGo (ns : List Node) : Nat → Nat → Nat
  | 0, k => k
  | f + 1, k =>
    match ns[k]? with
    | none => k
    | some nd =>
      let w := nd.word
      let fwd := w.kind == kMAP || w.kind == kTRANSC || (w.kind == kCONV && w.mode == 0) || w.kind == kFILTER ||
        (w.kind == kMERGE && w.mode == 1) || w.kind == kSCAN || w.kind == kLOOP || (w.kind == kAGEN && w.mode == 1) ||
        (w.kind == kMEM && decide (w.mode ≤ 2))
      if fwd then lenOriginGo ns f (nd.port 0).src else k

/-- The LEN origin of an edge. -/
def lenOrigin (ns : List Node) (n p : Nat) : Nat := lenOriginGo ns (ns.length + 1) ((ns[n]?).elim 0 (fun nd => (nd.port p).src))

/-- The actual extents fit a store (R237). -/
def storeFits (st : Store) (len : List Nat) : Bool :=
  decide (reorderHeld st.prod st.cons (some len) * halfBytes st.prod.ebytes ≤ 8192 * st.granules.length)

/-- The LEN origin of an edge is an AGEN of its own cell, so the STRM has made the check (R237). -/
def ownAgen (ns : List Node) (n p : Nat) : Bool :=
  match ns[lenOrigin ns n p]? with
  | some nd => nd.word.kind == kAGEN && nd.word.mode != 1
  | none => false

/-- REORDER_LEN_CHECK (R237): a LEN enters a store and leaves at once; where its origin is no AGEN of the cell and the
extents do not fit, POISON stands in its place and the stream is discarded. -/
def execReorderLenCheck (c n p : Nat) (s : State) : Host.Outcome State Fault Refusal :=
  .next (match aget s.cells c, nodeOf s c n with
    | some x, some nd =>
      (match (nd.port p).store, (nd.port p).link with
       | some st, .len a b d e :: r =>
         if !cellRuns s x || st.ending then s
         else
           let l := [a, b, d, e]
           let bad := !ownAgen x.nodes n p && !storeFits st l
           updNode s c n (fun z => setPort z p (fun q =>
             if bad then
               { q with link := r, q := q.q ++ [.poison (poisonOf x n cCONNECT 8 0)], store := some { st with dropping := true } }
             else afterStore { q with link := r, store := some { st with len := some l } } (.len a b d e)))
       | _, _ => s)
    | _, _ => s)

/-- The lanes of consumer beat j; a position that never came is a hole. -/
def Store.lanesOf (st : Store) (j : Nat) : Lanes :=
  padTo st.cons.lanes ((st.beat j).map (fun p => match (st.held ++ st.reg).find? (fun e => e.1 == p) with
    | some e => e.2
    | none => none))

/-- A beat leaves a store. -/
def Store.leave (st : Store) : Store :=
  let b := st.beat st.cbeat
  { st with held := st.held.filter (fun e => !b.contains e.1), reg := st.reg.filter (fun e => !b.contains e.1), cbeat := st.cbeat + 1,
            label := { st.label with busy := st.label.busy + 1 } }.settle

/-- A store between two streams. -/
def Store.cleared (st : Store) (tail : List (Token × List Nat)) : Store :=
  { st with held := [], reg := [], ppos := 0, cbeat := 0, len := none, tail := tail, dropping := false }

/-- What leaves a store next (R231, R234): a token whose elements have gone, or the next beat. After an END that came too
early, beats leave with holes in the positions that never came. `part` says that the adapter behind the store holds part of
a beat, for which a SLUICE waits too. -/
def storeEmit (s : State) (st : Store) (part : Bool) : Option (Token × Store) :=
  let empty := st.held.isEmpty && st.reg.isEmpty
  let beat : Option (Token × Store) := if st.ready || (st.ending && !empty) then some (.data (st.lanesOf st.cbeat), st.leave) else none
  match st.tail with
  | (.sluice sid g, waits) :: rest =>
    if !part && waits.all (fun p => !st.has p) then some (.sluice sid (labelSig s st.label g.pts), { st with tail := rest }) else beat
  | (.fin n g, _) :: rest => if empty then some (.fin n (labelSig s st.label g.pts), st.cleared rest) else beat
  | (.done n g, _) :: rest => if empty then some (.done n (labelSig s st.label g.pts), { st with tail := rest }) else beat
  | (t, _) :: rest => if empty then some (t, { st with tail := rest }) else beat
  | [] => beat

/-- REORDER_STORE_EMIT (R231): the next consumer beat, or a token that waited for elements ahead of it, leaves. A POISON that is
ready to leave goes first (R243). -/
def execReorderStoreEmit (c n p : Nat) (s : State) : Host.Outcome State Fault Refusal :=
  .next (match aget s.cells c, nodeOf s c n with
    | some x, some nd =>
      (match (nd.port p).store with
       | none => s
       | some st =>
         if !cellRuns s x || decide (Config.linkCredit ≤ (nd.port p).q.length) || (nd.port p).link.head?.elim false Token.isPoison then s
         else match storeEmit s st (!(nd.port p).rest.isEmpty) with
           | none => s
           | some r => updNode s c n (fun z => setPort z p (fun q => afterStore { q with store := some r.2 } r.1)))
    | _, _ => s)

end Sys2Proof.Machine
end

