-- ==== Sys2Proof/Machine/Nodes.lean ====
section
/-! DEFINITION. The element and record-flow operators (R152 to R175): MAP, TRANSC, CONV, FILTER, MERGE and LOOP. -/

namespace Sys2Proof.Machine

/-! ### Beats in and out -/

/-- Consume a beat at each lockstep port, and the scalars that a beat takes (R155). -/
def consume (nd : Node) (ls : List Nat) : Node :=
  let n1 := ls.foldl (fun x k => setPort x k takeBeat) nd
  (repPorts nd).foldl (fun x e => if e.2 then setPort x e.1 (fun p => { p with scalar := none }) else x) n1

/-- Emit beats of n positions in all on OUTA and its copy. -/
def emitBeats (c : Cell) (n : Nat) (bs : List Lanes) (k : Nat) : Cell :=
  setNode (bs.foldl (fun x l => sendBoth x n (.data l)) c) n (fun nd => { nd with outPosA := nd.outPosA + k, outPosB := nd.outPosB + k })

/-- The operand of port k in lane i: of a lockstep beat, of the scalar latched, or 0 at a port that the mode does not read. -/
def laneOperand (nd : Node) (ls : List Nat) (xs : List Lanes) (i k : Nat) : Option Nat :=
  if ls.contains k then (xs.getD (ls.idxOf k) []).getD i none
  else if (nd.port k).fed then ((nd.port k).scalar.getD none)
  else some 0

/-- One element result: pattern, flags, whether it is a NaN made of operands that are none (R45, R47). -/
abbrev Elem := Nat × BitVec 6 × Bool

/-- Count element results of node n of a cell (R45, R47, R48). -/
def countElems (n : Nat) (c : Cell) (l : List Elem) : Cell :=
  setNode c n (fun nd => { nd with exc := l.foldl (fun x e => countResult x e.2.1 e.2.2) nd.exc })

/-- Flags that node n raises beside its element results (R45). -/
def raiseFlags (n : Nat) (c : Cell) (f : BitVec 6) : Cell :=
  setNode c n (fun nd => { nd with exc := { nd.exc with flags := nd.exc.flags ||| f } })

/-- A result of a floating-point type with its NaN mark. -/
def elemOf (t : Nat) (nanIn : Bool) (r : Nat × BitVec 6) : Elem :=
  (r.1, r.2, !nanIn && (isFloat t || t == 15) && (decodeF t r.1).isNan)

/-! ### MAP (R161 to R164) -/

/-- MapFloat (R162). -/
def mapFloat (w : NodeWord) (a b c : Nat) : Elem :=
  let t := w.type
  let x := flushIn t a w.ftz
  let y := flushIn t b w.ftz
  let z := flushIn t c w.ftz
  let unary := w.mode == 6 || w.mode == 7
  let three := w.mode == 3 || w.mode == 21
  let nanIn := x.isNan || (!unary && y.isNan) || (three && z.isNan)
  let arith (v : Fl) : Elem :=
    let r := narrowF t w.rm w.sat w.ftz v
    elemOf t nanIn (r.1, r.2 ||| nvOf nanIn v)
  let move (v : Fl) : Elem := ((narrowF t 0 false false v).1, 0, false)
  match w.mode with
  | 0 => arith (addF w.rm x y)
  | 1 => arith (addF w.rm x y.negate)
  | 2 => arith (mulF x y)
  | 3 => arith (addF w.rm (mulF x y) z)
  | m =>
    if nanIn then (nanPat t, 0, false)
    else
      match m with
      | 4 => move (minF x y)
      | 5 => move (maxF x y)
      | 21 => move (minF (maxF x y) z)
      | 6 => move (if x.neg then x.negate else x)
      | _ => move x.negate

/-- MAP on an integer type (R163). -/
def mapInt (w : NodeWord) (a b c : Nat) : Elem :=
  let t := w.type
  let bits := typeBits t
  let x := ival t a
  let y := ival t b
  let z := ival t c
  let arith (v : Int) : Elem := let r := narrowI t w.sat v; (r.1, r.2, false)
  let sh := b % bits
  match w.mode with
  | 0 => arith (x + y)
  | 1 => arith (x - y)
  | 2 => arith (x * y)
  | 3 => arith (x * y + z)
  | 4 => (wrapTo bits (min x y), 0, false)
  | 5 => (wrapTo bits (max x y), 0, false)
  | 21 => (wrapTo bits (min (max x y) z), 0, false)
  | 6 => arith (if x < 0 then -x else x)
  | 7 => arith (-x)
  | 8 => (a &&& b, 0, false)
  | 9 => (a ||| b, 0, false)
  | 10 => (a ^^^ b, 0, false)
  | 11 => (pow2 bits - 1 - a % pow2 bits, 0, false)
  | 12 => (a * pow2 sh % pow2 bits, 0, false)
  | 13 => (a % pow2 bits / pow2 sh, 0, false)
  | _ => (wrapTo bits (x / (pow2 sh : Nat)), 0, false)

/-- MAP on .pred (R163): truth values. -/
def mapPred (m a b : Nat) : Elem :=
  let x := a % 256 != 0
  let y := b % 256 != 0
  let r := match m with
    | 8 => x && y
    | 9 => x || y
    | 10 => x != y
    | _ => !x
  ((if r then 1 else 0), 0, false)

/-- Compares (R164). `ta` is the type of the inputs. -/
def mapCompare (m ta a b : Nat) : Elem :=
  let out (v : Bool) (f : BitVec 6) : Elem := ((if v then 1 else 0), f, false)
  if isWide ta then
    let x := decodeF ta a
    let y := decodeF ta b
    if x.isNan || y.isNan then out (m == 16) (if m = 17 ∨ m = 18 then fNV else 0)
    else match m with
      | 15 => out (leF x y && leF y x) 0
      | 16 => out (!(leF x y && leF y x)) 0
      | 17 => out (ltF x y) 0
      | _ => out (leF x y) 0
  else
    let x := ival ta a
    let y := ival ta b
    match m with
    | 15 => out (a == b) 0
    | 16 => out (a != b) 0
    | 17 => out (decide (x < y)) 0
    | _ => out (decide (x ≤ y)) 0

/-- One lane of a MAP. -/
def mapLane (w : NodeWord) (ta a b c : Nat) : Elem :=
  if w.mode = 19 then ((if c % 256 != 0 then a else b), 0, false)
  else if w.mode = 20 then (a, 0, false)
  else if 15 ≤ w.mode ∧ w.mode ≤ 18 then mapCompare w.mode ta a b
  else if w.type = 32 then mapPred w.mode a b
  else if isWide w.type then mapFloat w a b c
  else mapInt w a b c

/-- The lockstep ports of a MAP: those that it reads and that are not replicate. -/
def lockPorts (nd : Node) : List Nat := (readsOf nd).filter (fun k => !(nd.port k).rep)

/-- A beat of a MAP: nothing before its scalars are there, POISON ahead of the first beat that lacks one (R63). -/
def mapBeat (x : Cell) (n : Nat) (nd : Node) (xs : List Lanes) : Cell :=
  let ls := lockPorts nd
  if !repReady nd then x
  else match repShort nd with
    | some e => repPoison x n e.1 e.2
    | none =>
      let rs : List (Option Elem) := (List.range (nd.port 0).le).map (fun i =>
        match laneOperand nd ls xs i 0, laneOperand nd ls xs i 1, laneOperand nd ls xs i 2 with
        | some a, some b, some c => some (mapLane nd.word (nd.port 0).elem a b c)
        | _, _, _ => none)
      let k := beatPositions (nd.port 0)
      countElems n (emitBeats (setNode x n (fun z => consume z ls)) n [rs.map (Option.map Prod.fst)] k) (rs.filterMap id)

/-- A node whose beats come in lockstep: `go` takes a beat. -/
def lockNode (s : State) (c n : Nat) (kind : Nat) (mode : Nat → Bool) (ls : Node → List Nat) (sc : Node → Nat → Nat) (fwd : Bool)
    (go : Cell → Node → List Lanes → Cell) : State :=
  nodeEvent s c n (fun w => w.kind == kind && mode w.mode) (fun x nd =>
    match lockAct s x n nd (ls nd) (sc nd) fwd with
    | .idle => x
    | .cell y => y
    | .beat xs => go x nd xs
    | .fin => lockEnd s x n (sc nd 0) nd (ls nd))

/-- SCALE is forwarded at port A (R156). -/
def scaleFwd (_ : Node) (k : Nat) : Nat := if k = 0 then 1 else 0

/-- MAP_FIRE (R161 to R164). -/
def execMapFire (c n : Nat) (s : State) : Host.Outcome State Fault Refusal :=
  .next (lockNode s c n kMAP (fun _ => true) lockPorts scaleFwd true (fun x nd xs => mapBeat x n nd xs))

/-! ### TRANSC (R165) -/

/-- One lane of a TRANSC (R42 to R44, R165). -/
def transcLane (w : NodeWord) (ta a : Nat) : Elem :=
  let x := flushIn ta a w.ftz
  let r := transcF32 w.mode w.rm w.sat w.ftz x
  if w.type = 11 then elemOf 11 x.isNan r
  else
    let y := narrowF w.type w.rm w.sat w.ftz (decodeF 11 r.1)
    elemOf w.type x.isNan (y.1, r.2 ||| y.2)

/-- A beat of lanes each computed by itself. -/
def laneBeat (x : Cell) (n : Nat) (nd : Node) (xs : List Lanes) (f : Nat → Elem) : Cell :=
  let rs : List (Option Elem) := (xs.headD []).map (Option.map f)
  countElems n (emitBeats (setNode x n (fun z => consume z [0])) n [rs.map (Option.map Prod.fst)] (beatPositions (nd.port 0))) (rs.filterMap id)

/-- TRANSC_FIRE (R165). -/
def execTranscFire (c n : Nat) (s : State) : Host.Outcome State Fault Refusal :=
  .next (lockNode s c n kTRANSC (fun _ => true) (fun _ => [0]) scaleFwd true (fun x nd xs =>
    laneBeat x n nd xs (transcLane nd.word (nd.port 0).elem)))

/-! ### CONV (R166 to R169) -/

/-- The block of scales that CVT takes (R166): 0 where it takes none. -/
def cvtBlock (w : NodeWord) : Nat := if w.flags.getLsbD 4 then (if w.flags.getLsbD 5 then 32 else 16) else 0

/-- How CVT takes a SCALE on port A. -/
def cvtScale (nd : Node) (k : Nat) : Nat := if k ≠ 0 then 0 else if cvtBlock nd.word = 0 then 1 else cvtBlock nd.word

/-- One lane of CVT at a position: none where a scale is needed and none is latched. -/
def cvtLane (w : NodeWord) (p : Port) (pos a : Nat) : Option Elem :=
  let b := cvtBlock w
  if b = 0 then
    let nanIn := (isFloat p.elem || p.elem == 15) && (decodeF p.elem a).isNan
    some (elemOf w.type nanIn (convertVal p.elem w.type w.rm w.sat w.ftz a none))
  else match scaleAt p b pos with
    | none => none
    | some sc =>
      let v := match decodeF 15 sc with
        | .fin _ _ e => scaleF (flushIn p.elem a w.ftz) e
        | _ => Fl.nan
      some (elemOf w.type v.isNan (convertVal p.elem w.type w.rm w.sat w.ftz a (some v)))

/-- Split lanes into beats of k. -/
def chunks (k : Nat) (l : Lanes) : List Lanes := (List.range (l.length / k)).map (fun j => (l.drop (j * k)).take k)

/-- A CONV's state with other fields. -/
def setConv (nd : Node) (inp out : List (Option Nat)) (warned : Bool) : Node := { nd with st := .conv inp out warned }

/-- The state of a CONV. -/
def convOf (nd : Node) : List (Option Nat) × List (Option Nat) × Bool :=
  match nd.st with
  | .conv i o w => (i, o, w)
  | _ => ([], [], false)

/-- A beat of CVT: POISON SUB 4 once in the stream, ahead of a beat with a position that has no scale; output beats that
hold no counted position are not emitted (R166). A hole needs no scale: R166 leaves open whether it is a position that arrives
(DESIGN CHOICE, log 42). -/
def cvtBeat (x : Cell) (n : Nat) (nd : Node) (xs : List Lanes) : Cell :=
  let p := nd.port 0
  let l := xs.headD []
  let k := beatPositions p
  let bare := (List.range k).find? (fun i => (l.getD i none).isSome && cvtBlock nd.word != 0 && (scaleAt p (cvtBlock nd.word) (p.pos + i)).isNone)
  if bare.isSome && !(convOf nd).2.2 then
    setNode (emitPoison x n cLENGTH 4 (p.pos + bare.getD 0)) n (fun z => setConv z [] [] true)
  else
    let rs : List (Option Elem) := (List.range p.le).map (fun i => match l.getD i none with
      | some a => cvtLane nd.word p (p.pos + i) a
      | none => none)
    let bs := (chunks nd.ord.lanes (rs.map (Option.map Prod.fst))).take ((k + nd.ord.lanes - 1) / nd.ord.lanes)
    countElems n (emitBeats (setNode x n (fun z => consume z [0])) n bs k) (rs.filterMap id)

/-- CONV_CVT (R166). -/
def execConvCvt (c n : Nat) (s : State) : Host.Outcome State Fault Refusal :=
  .next (nodeEvent s c n (fun w => w.kind == kCONV && w.mode == 0) (fun x nd =>
    match lockAct s x n nd [0] (cvtScale nd) true with
    | .idle => x
    | .cell y => y
    | .beat xs => cvtBeat x n nd xs
    | .fin => setNode (lockEnd s x n (cvtScale nd 0) nd [0]) n (fun z => setConv z [] [] false)))

/-- Emit every whole beat of the output elements of a CONV, and at the end what is left. -/
def convEmit (x : Cell) (n : Nat) (nd : Node) (inp out : List (Option Nat)) (ends : Bool) : Cell :=
  let l := nd.ord.lanes
  let whole := chunks l out
  let left := out.drop (whole.length * l)
  let bs := if ends ∧ left ≠ [] then whole ++ [padTo l left] else whole
  let k := if ends then out.length else whole.length * l
  emitBeats (setNode x n (fun z => setConv z inp (if ends then [] else left) false)) n bs k

/-- A CONV mode that regroups elements: `f` takes the input elements that wait and the new ones, and gives those that wait,
those that come out, and the element of the new ones at which SUB 3 is found. Where one input beat completes several groups with
a hole among valid parts, R167 does not say whether each has its POISON: the model emits one, for the first (DESIGN CHOICE, log 42). -/
def regroup (x : Cell) (n : Nat) (nd : Node) (xs : List Lanes) (f : List (Option Nat) → List (Option Nat) × List (Option Nat) × Option Nat) : Cell :=
  let p := nd.port 0
  let st := convOf nd
  let r := f (st.1 ++ (xs.headD []).take (beatPositions p))
  let x1 := match r.2.2 with
    | some e => emitPoison x n cLENGTH 3 (p.pos - st.1.length + e)
    | none => x
  convEmit (setNode x1 n (fun z => consume z [0])) n nd r.1 (st.2.1 ++ r.2.1) false

/-- The end of such a stream. -/
def regroupEnd (s : State) (x : Cell) (n : Nat) (nd : Node) (f : List (Option Nat) → List (Option Nat)) (cut : Option Nat) : Cell :=
  let st := convOf nd
  let out := st.2.1 ++ f st.1
  let out1 := match cut with
    | some m => out.take (m - nd.outPosA)
    | none => out
  lockEnd s (convEmit x n nd [] out1 true) n 0 nd [0]

/-- Split an element into r of w bits, the lowest first (R167). -/
def splitElem (w r : Nat) (v : Option Nat) : List (Option Nat) :=
  (List.range r).map (fun j => v.map (fun a => a / pow2 (w * j) % pow2 w))

/-- Pack r elements of w bits, the first lowest (R167). -/
def packElem (w : Nat) (l : List (Option Nat)) : Option Nat :=
  if l.all Option.isSome then some (l.reverse.foldl (fun a v => a * pow2 w + v.getD 0) 0) else none

/-- WIDTH on the elements that are there. -/
def widthStep (wa wt : Nat) (l : List (Option Nat)) : List (Option Nat) × List (Option Nat) × Option Nat :=
  if wt < wa then ([], l.flatMap (splitElem wt (wa / wt)), none)
  else
    let r := wt / wa
    let gs := chunks r l
    let bad := (List.range gs.length).find? (fun j => let g := gs.getD j []; g.any Option.isSome && g.any Option.isNone)
    (l.drop (gs.length * r), gs.map (packElem wa),
     bad.map (fun j => j * r + (gs.getD j []).findIdx (fun v => v.isNone)))

/-- CONV_WIDTH (R167). -/
def execConvWidth (c n : Nat) (s : State) : Host.Outcome State Fault Refusal :=
  .next (nodeEvent s c n (fun w => w.kind == kCONV && w.mode == 1) (fun x nd =>
    match lockAct s x n nd [0] (fun _ => 0) false with
    | .idle => x
    | .cell y => y
    | .beat xs => regroup x n nd xs (widthStep (typeBits (nd.port 0).elem) (typeBits nd.word.type))
    | .fin => regroupEnd s x n nd (fun _ => []) none))

/-- The K planes of 256 elements (R29, R168): a hole reads as code 0. -/
def planesFrom (k : Nat) (l : List (Option Nat)) : List (Option Nat) :=
  (List.range k).map (fun j => some ((List.range 256).foldr (fun i a =>
    2 * a + (((l.getD i none).getD 0) / pow2 (7 - j)) % 2) 0))

/-- LPACK on the elements that are there. -/
def lpackStep (k : Nat) (l : List (Option Nat)) : List (Option Nat) × List (Option Nat) × Option Nat :=
  let gs := chunks 256 l
  (l.drop (gs.length * 256), gs.flatMap (planesFrom k), none)

/-- LPACK (R168). -/
def execLpack (c n : Nat) (s : State) : Host.Outcome State Fault Refusal :=
  .next (nodeEvent s c n (fun w => w.kind == kCONV && w.mode == 2) (fun x nd =>
    match lockAct s x n nd [0] (fun _ => 0) false with
    | .idle => x
    | .cell y => y
    | .beat xs => regroup x n nd xs (lpackStep (lamPlanes nd.word.type))
    | .fin => regroupEnd s x n nd (fun l => if l = [] then [] else planesFrom (lamPlanes nd.word.type) l) none))

/-- The 256 elements of K planes, of which the first p are read (R30, R169); a hole among these makes holes. -/
def elemsFrom (signed : Bool) (p : Nat) (l : List (Option Nat)) : List (Option Nat) :=
  (List.range 256).map (fun i =>
    if (l.take p).all Option.isSome then
      some (wrapTo 8 (laminateOf signed ((l.take p).map (fun v => (v.getD 0) / pow2 i % 2 == 1))))
    else none)

/-- LUNPACK on the planes that are there. -/
def lunpackStep (ta p : Nat) (l : List (Option Nat)) : List (Option Nat) × List (Option Nat) × Option Nat :=
  let gs := chunks (lamPlanes ta) l
  (l.drop (gs.length * lamPlanes ta), gs.flatMap (elemsFrom (lamSigned ta) p), none)

/-- LUNPACK (R169): elements past the declared count are dropped. -/
def execLunpack (c n : Nat) (s : State) : Host.Outcome State Fault Refusal :=
  .next (nodeEvent s c n (fun w => w.kind == kCONV && w.mode == 3) (fun x nd =>
    match lockAct s x n nd [0] (fun _ => 0) false with
    | .idle => x
    | .cell y => y
    | .beat xs =>
      regroup x n nd xs (fun l =>
        let r := lunpackStep (nd.port 0).elem (prmField nd.params 0 0 4) l
        (r.1, r.2.1.take (declared nd.ord - nd.outPosA - (convOf nd).2.1.length), none))
    | .fin => regroupEnd s x n nd (fun _ => []) (some (declared nd.ord))))

/-! ### FILTER (R170) -/

/-- FILTER_FIRE (R170). -/
def execFilterFire (c n : Nat) (s : State) : Host.Outcome State Fault Refusal :=
  .next (lockNode s c n kFILTER (fun _ => true) (fun _ => [0, 1]) scaleFwd true (fun x nd xs =>
    let a := xs.getD 0 []
    let b := xs.getD 1 []
    let pick (v : Bool) : Lanes := (List.range a.length).map (fun i => match b.getD i none with
      | some q => if (q % 256 != 0) = v then a.getD i none else none
      | none => none)
    let k := beatPositions (nd.port 0)
    let y := setNode x n (fun z => { consume z [0, 1] with outPosA := z.outPosA + k, outPosB := z.outPosB + k })
    sendB (sendA y n (.data (pick true))) n (.data (if nd.word.mode = 0 then pick false else pick true))))

/-! ### MERGE (R171, R172) -/

/-- MERGE_ORDERED (R171). -/
def execMergeOrdered (c n : Nat) (s : State) : Host.Outcome State Fault Refusal :=
  .next (lockNode s c n kMERGE (fun m => m == 1) (fun _ => [0, 1]) scaleFwd true (fun x nd xs =>
    let a := xs.getD 0 []
    let b := xs.getD 1 []
    let clash (i : Nat) : Bool := (a.getD i none).isSome && (b.getD i none).isSome
    let out := (List.range a.length).map (fun i => if clash i then none else ((a.getD i none).or (b.getD i none)))
    let x1 := match (List.range a.length).find? clash with
      | some i => emitPoison x n cLENGTH 3 ((nd.port 0).pos + i)
      | none => x
    emitBeats (setNode x1 n (fun z => consume z [0, 1])) n [out] (beatPositions (nd.port 0))))

/-- The state of a MERGE: pointer, whether its LEN is out. -/
def mergeOf (nd : Node) : Nat × Bool :=
  match nd.st with
  | .merge p l => (p, l)
  | _ => (0, false)

/-- A head of a RROBIN or CONCAT port that is not DATA to be served: LEN, SCALE, END, and what breaks the stream's rules. -/
def mergePort (s : State) (x : Cell) (n : Nat) (nd : Node) (k : Nat) : Option Cell :=
  let p := nd.port k
  let drop := setNode x n (fun z => popHead z k)
  if p.ended then none
  else if lenBad nd k then some (emitPoison drop n cLENGTH 2 0)
  else match nd.head k with
    | some (.scale _ _) => some (emitPoison drop n cCONNECT 5 0)
    | some (.len a b d e) => some (setNode drop n (fun z => setPort z k (fun q => { q with len := some [a, b, d, e], begun := true })))
    | some (.fin cnt g) =>
      if lenDue p then some (emitPoison x n cLENGTH 2 0)
      else match endBad p cnt with
        | some r => some (setNode (emitPoison drop n cLENGTH 3 r) n (fun z => setPort z k (fun q => { q with ended := true })))
        | none => some (mergeNode s (setNode drop n (fun z => setPort z k (fun q => { q with ended := true }))) n g)
    | some (.data xs) =>
      if lenDue p then some (emitPoison x n cLENGTH 2 0)
      else match beatBad p xs with
        | some r => some (emitPoison drop n cLENGTH 3 r)
        | none => none
    | _ => none

/-- The LEN of a ragged output (R172): L times the beats of every input. -/
def mergeLen (nd : Node) : Nat :=
  nd.ord.lanes * (readsOf nd).foldl (fun a k =>
    let p := nd.port k
    a + (countOf p.exp p.len + nd.ord.lanes - 1) / nd.ord.lanes) 0

/-- A port that is ready with a beat. -/
def mergeServes (nd : Node) (k : Nat) : Bool := isData (nd.head k) && !(nd.port k).ended

/-- The port that is served: CONCAT the first not ended, RROBIN the first ready at or after the pointer. -/
def mergePick (nd : Node) : Option Nat :=
  let rs := readsOf nd
  if nd.word.mode = 2 then
    match rs.find? (fun k => !(nd.port k).ended) with
    | some k => if mergeServes nd k then some k else none
    | none => none
  else
    let p := (mergeOf nd).1
    ((rs.filter (fun k => decide (p ≤ k))) ++ (rs.filter (fun k => decide (k < p)))).find? (mergeServes nd)

/-- A RROBIN or CONCAT node's step, and the port that it served. -/
def mergeStep (s : State) (x : Cell) (n : Nat) (nd : Node) : Cell × Option Nat :=
  let rs := readsOf nd
  if !roomAll x n then (x, none)
  else match rs.findSome? (mergePort s x n nd) with
    | some y => (y, none)
    | none =>
      if rs.all (fun k => (nd.port k).ended) then
        (setNode (endNode s x n 0 none) n (fun z => { z with st := .merge 0 false }), none)
      else if nd.ord.anyRagged && !(mergeOf nd).2 then
        (if rs.all (fun k => !lenDue (nd.port k)) then
          (setNode (sendBoth x n (.len (mergeLen nd) 1 1 1)) n (fun z => { z with st := .merge (mergeOf nd).1 true }), none)
        else (x, none))
      else match mergePick nd with
        | none => (x, none)
        | some k =>
          let l := match nd.head k with
            | some (.data d) => d
            | _ => []
          let y := setNode x n (fun z => { setPort z k takeBeat with st := .merge ((k + 1) % 3) (mergeOf nd).2 })
          (emitBeats y n [padTo nd.ord.lanes l] nd.ord.lanes, some k)

/-- MERGE_CONCAT (R172). -/
def execMergeConcat (c n : Nat) (s : State) : Host.Outcome State Fault Refusal :=
  .next (nodeEvent s c n (fun w => w.kind == kMERGE && w.mode == 2) (fun x nd => (mergeStep s x n nd).1))

/-- RROBIN's step; under replay the port is that of the next ORDER record (R398). -/
def rrobinStep (s : State) (c n : Nat) (x : Cell) (nd : Node) : Cell × Option Nat :=
  let o := nextOrder s x.crew.asid
  let nd1 : Node := if replays s x.crew.asid && (o.drop 1).take 3 == [2, w64 c, w64 n] then
    { nd with st := .merge (o.getD 4 0).toNat (mergeOf nd).2 } else nd
  let r := mergeStep s x n nd1
  match r.2 with
  | some k => if mayCome s x.crew.asid 2 [w64 c, w64 n, w64 k] then r else (x, none)
  | none => r

/-- MERGE_RROBIN (R172), with the ORDER record of its pick (R397). -/
def execMergeRrobin (c n : Nat) (s : State) : Host.Outcome State Fault Refusal :=
  .next (
    let s1 := nodeEvent s c n (fun w => w.kind == kMERGE && w.mode == 0) (fun x nd => (rrobinStep s c n x nd).1)
    match aget s.cells c, nodeOf s c n with
    | some x, some nd =>
      if nd.word.kind = kMERGE ∧ nd.word.mode = 0 ∧ cellRuns s x = true ∧ nd.sentAll = true then
        match (rrobinStep s c n x nd).2 with
        | some k => orderRec s1 x.crew.asid (dieOf x.cluster) nd.pts 2 [w64 c, w64 n, w64 k]
        | none => s1
      else s1
    | _, _ => s1)

/-! ### LOOP (R173 to R175) -/

/-- CAP and MAXTRIP. -/
def loopCap (nd : Node) : Nat := prmField nd.params 0 0 4 + 1
/-- Largest number of trips, 0 for no limit. -/
def loopMax (nd : Node) : Nat := prmField nd.params 0 16 16

/-- The beat table of a LOOP, and whether its END or a sluice is in the body. -/
def loopOf (nd : Node) : List LoopEntry × Bool × Bool :=
  match nd.st with
  | .loop t e sl => (t, e, sl)
  | _ => ([], false, false)

/-- A LOOP with another table. -/
def setLoop (x : Cell) (n : Nat) (t : List LoopEntry) (e sl : Bool) : Cell := setNode x n (fun z => { z with st := .loop t e sl })

/-- A POISON of the LOOP's own leaves on OUTB alone (R175). -/
def loopPoison (x : Cell) (n : Nat) (sub : BitVec 8) (rec : Nat) : Cell :=
  noChecks (sendB x n (.poison (poisonOf x n cLENGTH sub rec))) n

/-- The entry of the body that returns next: the one sent longest ago. -/
def loopOldest (t : List LoopEntry) : Option Nat :=
  (List.range t.length).foldl (fun b k => match t[k]? with
    | none => b
    | some e =>
      if e.sent = 0 then b
      else match b with
        | none => some k
        | some j => (match t[j]? with
          | some d => if e.sent < d.sent then some k else b
          | none => some k)) none

/-- The next place in the send order. -/
def loopNextSent (t : List LoopEntry) : Nat := t.foldl (fun m e => max m e.sent) 0 + 1

/-- A returning beat meets its entry (R174). -/
def loopReturn (maxTrip : Nat) (e : LoopEntry) (b c : Lanes) : LoopEntry :=
  let idx := List.range e.value.length
  let leaves (i : Nat) : Bool := e.cont.getD i false && (b.getD i none).isSome && c.getD i none == some 0
  let v := idx.map (fun i => if leaves i then b.getD i none else e.value.getD i none)
  let ct := idx.map (fun i => e.cont.getD i false && !leaves i)
  if maxTrip ≠ 0 ∧ e.trips + 1 = maxTrip then
    { value := idx.map (fun i => if ct.getD i false then none else v.getD i none), cont := ct.map (fun _ => false),
      trips := e.trips + 1, sent := 0 }
  else { value := v, cont := ct, trips := e.trips + 1, sent := 0 }

/-- The oldest admitted entry leaves where nothing of it continues (R174). -/
def loopExit (x : Cell) (n : Nat) : Cell :=
  match x.nodes[n]? with
  | none => x
  | some nd =>
    let st := loopOf nd
    match st.1 with
    | [] => x
    | e :: rest =>
      if e.cont.any id || !roomAt x nd.word.outB then x
      else
        let k := min nd.ord.lanes (countOf nd.ord (nd.port 0).len - nd.outPosB)
        setNode (setLoop (sendB x n (.data e.value)) n rest st.2.1 st.2.2) n (fun z => { z with outPosB := z.outPosB + k })

/-- A beat sent into the body. -/
def loopSend (x : Cell) (n : Nat) (l : Lanes) : Cell :=
  setNode (sendA x n (.data l)) n (fun z => { z with outPosA := z.outPosA + z.ord.lanes })

/-- A returning beat on B and C. A lane of it that is a hole on B or C goes on as a hole (R153). -/
def loopBack (x : Cell) (n : Nat) (nd : Node) (b c : Lanes) : Cell :=
  let st := loopOf nd
  let x1 := setNode x n (fun z => setPort (setPort z 1 takeBeat) 2 takeBeat)
  match loopOldest st.1 with
  | none => loopPoison x1 n 1 (nd.port 1).pos
  | some k =>
    match st.1[k]? with
    | none => x1
    | some e =>
      let e1 := loopReturn (loopMax nd) e b c
      if e1.cont.any id then
        let l := (List.range b.length).map (fun i => if e1.cont.getD i false && (c.getD i none).isSome then b.getD i none else none)
        setLoop (loopSend x1 n l) n (st.1.set k { e1 with sent := loopNextSent st.1 }) st.2.1 st.2.2
      else setLoop x1 n (st.1.set k e1) st.2.1 st.2.2

/-- A beat of A admitted. -/
def loopAdmit (x : Cell) (n : Nat) (nd : Node) (a : Lanes) : Cell :=
  let st := loopOf nd
  let ct := a.map Option.isSome
  let x1 := setNode x n (fun z => setPort z 0 takeBeat)
  let e : LoopEntry := ⟨a, ct, 0, if ct.any id then loopNextSent st.1 else 0⟩
  let x2 := if ct.any id then loopSend x1 n a else x1
  setLoop x2 n (st.1 ++ [e]) st.2.1 st.2.2

/-- A LOOP between two streams, whatever ended the last one. -/
def loopReset (x : Cell) (n : Nat) : Cell :=
  setLoop (setNode x n (fun z => { z with ports := z.ports.map (resetPort 0), outPosA := 0, outPosB := 0, failing := false })) n [] false false

/-- The END of the exit stream: the body's END has come back. -/
def loopEnds (s : State) (x : Cell) (n : Nat) (nd : Node) : Cell :=
  let merge (y : Cell) (k : Nat) : Cell := match nd.head k with
    | some (.fin _ g) => mergeNode s (setNode y n (fun z => popHead z k)) n g
    | _ => y
  let x1 := merge (merge x 1) 2
  loopReset (sendB x1 n (.fin nd.outPosB (nodeSig s x1 n))) n

/-- Port A of a LOOP: what is not a beat to admit. A POISON stands in the place of an END that breaks R65. -/
def loopEntryStep (s : State) (x : Cell) (n : Nat) (nd : Node) : Option Cell :=
  let p := nd.port 0
  let st := loopOf nd
  let drop := setNode x n (fun z => popHead z 0)
  if st.2.1 || st.2.2 then none
  else if lenBad nd 0 then some (loopPoison drop n 2 0)
  else match nd.head 0 with
    | some (.scale _ _) => some (noChecks (sendB drop n (.poison (poisonOf x n cCONNECT 5 0))) n)
    | some (.len a b d e) =>
      some (sendB (setNode drop n (fun z => setPort z 0 (fun q => { q with len := some [a, b, d, e], begun := true }))) n (.len a b d e))
    | some (.data xs) =>
      if lenDue p then some (loopPoison x n 2 0)
      else match beatBad p xs with
        | some r => some (loopPoison drop n 3 r)
        | none => if st.1.length < loopCap nd then some (loopAdmit x n nd xs) else none
    | some (.fin cnt g) =>
      if lenDue p then some (loopPoison x n 2 0)
      else if !st.1.isEmpty then none
      else match endBad p cnt with
        | some r => some (loopReset (loopPoison drop n 3 r) n)
        | none =>
          let y := mergeNode s drop n g
          some (setLoop (sendA y n (.fin nd.outPosA (nodeSig s y n))) n [] true false)
    | _ => none

/-- What breaks a stream that comes back on port B or C of a LOOP: a SCALE, for no port of LOOP takes one (R156), a LEN, which a
circulating stream does not carry, lanes beyond L (R173). -/
def loopBodyBad (x : Cell) (n : Nat) (nd : Node) (k : Nat) : Option Cell :=
  let drop := setNode x n (fun z => popHead z k)
  match nd.head k with
  | some (.scale _ _) => some (noChecks (sendB drop n (.poison (poisonOf x n cCONNECT 5 0))) n)
  | some (.len _ _ _ _) => some (loopPoison drop n 2 0)
  | some (.data xs) => (beatBad (nd.port k) xs).map (fun r => loopPoison drop n 3 r)
  | _ => none

/-- Ports B and C of a LOOP come to a mismatch (R154): SUB 1, then the discard. A SLUICE in the body stays there. -/
def loopMismatch (x : Cell) (n : Nat) (nd : Node) (rec : Nat) : Cell :=
  setNode (setLoop (loopPoison x n 1 rec) n [] false (loopOf nd).2.2) n (fun z => { z with failing := true })

/-- LoopCycle on a cell (R174): a return first, else an admission; then the oldest entry may leave. DATA on B or C whose partner is held at a
SLUICE has no partner (R159). -/
def loopStep (s : State) (x : Cell) (n : Nat) (nd : Node) : Cell :=
  let st := loopOf nd
  if nd.failing then
    match (readsOf nd).findSome? (discardPort s x n) with
    | some y => y
    | none =>
      if (readsOf nd).all (fun k => (nd.port k).ended) && !st.2.2 && roomAt x nd.word.outB then
        loopReset (sendB x n (.fin nd.outPosB (nodeSig s x n))) n
      else x
  else match [1, 2].findSome? (loopBodyBad x n nd) with
  | some y => y
  | none =>
    match nd.head 1, nd.head 2 with
    | some (.data b), some (.data c) => if roomAt x nd.word.outA then loopExit (loopBack x n nd b c) n else loopExit x n
    | some (.fin _ _), some (.fin _ _) =>
      if !st.2.1 || !st.1.isEmpty then loopMismatch x n nd (nd.port 1).pos
      else if roomAt x nd.word.outB then loopEnds s x n nd else x
    | some (.data _), some (.fin _ _) => loopMismatch x n nd (nd.port 2).pos
    | some (.data _), some (.sluice _ _) => loopMismatch x n nd (nd.port 2).pos
    | some (.fin _ _), some (.data _) => loopMismatch x n nd (nd.port 1).pos
    | some (.sluice _ _), some (.data _) => loopMismatch x n nd (nd.port 1).pos
    | _, _ =>
      if roomAll x n then
        match loopEntryStep s x n nd with
        | some y => loopExit y n
        | none => loopExit x n
      else loopExit x n

/-- The SLUICE and the SNAP of a LOOP (R175): the entry stops until the table is empty; a SLUICE goes round the body, a SNAP
does not. None where there is nothing of the kind to do. -/
def loopMarker (s : State) (c n : Nat) (x : Cell) (nd : Node) : Option State :=
  let st := loopOf nd
  match nd.head 0, nd.head 1, nd.head 2 with
  | _, some (.sluice sid g1), some (.sluice _ g2) =>
    if st.2.2 ∧ roomAt x nd.word.outB = true then
      let late := if g1.stamp ≤ g2.stamp then 2 else 1
      let y := setNode x n (fun z => popHead (popHead z 1) 2)
      let s1 := { s with cells := aset s.cells c (mergeNode s y n (if late = 2 then g1 else g2)) }
      let s2 := endWaitNode s1 c n (if late = 2 then g2 else g1) 2 (nodeUnit s x (nd.port late).src) (max g1.stamp g2.stamp - min g1.stamp g2.stamp)
      some (updCell s2 c (fun z => setLoop (sendB z n (.sluice sid (nodeSig s2 z n))) n st.1 st.2.1 false))
    else none
  | some (.sluice sid g), _, _ =>
    if st.1.isEmpty && !st.2.1 && !st.2.2 && roomAt x nd.word.outA then
      let y := mergeNode s (setNode x n (fun z => popHead z 0)) n g
      some { s with cells := aset s.cells c (setLoop (sendA y n (.sluice sid (nodeSig s y n))) n [] false true) }
    else none
  | some (.snap e), _, _ =>
    if st.1.isEmpty && !st.2.1 && !st.2.2 && roomAt x nd.word.outB then
      let y := sendB (setNode x n (fun z => popHead z 0)) n (.snap e)
      some (snapRegion { s with cells := aset s.cells c y } e c n)
    else none
  | _, _, _ => none

/-- LOOP_CYCLE (R174, R175). -/
def execLoopCycle (c n : Nat) (s : State) : Host.Outcome State Fault Refusal :=
  .next (match aget s.cells c, nodeOf s c n with
    | some x, some nd =>
      if nd.word.kind = kLOOP ∧ cellRuns s x = true then
        match (if nd.sentAll then loopMarker s c n x nd else none) with
        | some s1 => updCell s1 c (fun y => emitPend y n)
        | none => nodeEvent s c n (fun w => w.kind == kLOOP) (fun y m => loopStep s y n m)
      else s
    | _, _ => s)

end Sys2Proof.Machine
end

