-- ==== Sys2Proof/Machine/Row.lean ====
section
/-! DEFINITION. The row operators (R212 to R226): PERM, SCAN and RED. -/

namespace Sys2Proof.Machine

/-! ### State of a row node -/

/-- The registers of a row node as CFG leaves them (R225). -/
def RowState.fresh (ptab : List Nat) : RowState :=
  { ptab := ptab, rs := List.replicate 64 0, started := [], due := 0, codes := [], buf := [], ltab := [0, 0], col := 0, grp := 0,
    acc := List.replicate 64 (some 0), skip := false, out := [] }

/-- The registers of a row node. -/
def rowOf (nd : Node) : RowState :=
  match nd.st with
  | .row r => r
  | _ => RowState.fresh (List.replicate 64 0)

/-- Change the registers of a row node. -/
def setRow (x : Cell) (n : Nat) (f : RowState → RowState) : Cell :=
  setNode x n (fun nd => { nd with st := .row (f (rowOf nd)) })

/-- Between streams nothing of the last stream is left: the start of the next is clean. Where a POISON stands in the place of an END that
breaks R65, elements that do not fill an output beat yet go: the rules do not say that they leave ahead of it (DESIGN CHOICE, log 42). -/
def rowBetween (x : Cell) (n : Nat) : Cell :=
  match x.nodes[n]? with
  | none => x
  | some nd =>
    if (readsOf nd).all (fun k => (nd.port k).pos == 0) && (rowOf nd).due == 0 && !nd.failing then
      setRow x n (fun r => { r with started := [], buf := [], col := 0, grp := 0, skip := false, out := [] })
    else x

/-- A step of a row node. -/
def rowEvent (s : State) (c n kind : Nat) (mode : Nat → Bool) (f : Cell → Node → Cell) : State :=
  nodeEvent s c n (fun w => w.kind == kind && mode w.mode) (fun x nd => rowBetween (f x nd) n)

/-- Node n of a cell discards its inputs after a mismatch. -/
def failingAt (x : Cell) (n : Nat) : Bool := (x.nodes[n]?).any (fun nd => nd.failing)

/-- Output elements leave in whole beats; at the end what is left of a beat leaves too. -/
def flushOut (x : Cell) (n : Nat) (nd : Node) (more : List (Option Nat)) (ends : Bool) : Cell :=
  let l := nd.ord.lanes
  let out := (rowOf nd).out ++ more
  let whole := chunks l out
  let left := out.drop (whole.length * l)
  let last : List Lanes := if ends ∧ left ≠ [] then [padTo l left] else []
  let k := if ends then out.length else whole.length * l
  setRow (emitBeats x n (whole ++ last) k) n (fun r => { r with out := if ends then [] else left })

/-! ### PERM (R215 to R218) -/

/-- PERM_TABLE (R216): output lane i is input lane PTAB[i]. -/
def execPermTable (c n : Nat) (s : State) : Host.Outcome State Fault Refusal :=
  .next (rowEvent s c n kPERM (fun m => m == 0) (fun x nd =>
    match lockAct s x n nd [0] (fun _ => 0) false with
    | .idle => x
    | .cell y => y
    | .fin => lockEnd s x n 0 nd [0]
    | .beat xs =>
      let a := xs.headD []
      let out := (List.range a.length).map (fun i => a.getD ((rowOf nd).ptab.getD i 0) none)
      emitBeats (setNode x n (fun z => consume z [0])) n [out] (beatPositions (nd.port 0))))

/-- The codes of a group: 0 to 15, 16 for a hole (R217). -/
def rankCodes (l : Lanes) : List Nat := l.map (fun v => match v with
  | some a => a % 16
  | none => 16)

/-- RankBeat (R217): the lanes in the stable order of their codes. -/
def rankTable (k : List Nat) : List Nat :=
  (List.range 17).flatMap (fun v => (List.range k.length).filter (fun i => k.getD i 0 == v))

/-- PTAB after the table of a group. -/
def rankLoad (old new : List Nat) : List Nat := new ++ old.drop new.length

/-- The END of a rated port: while its partner still owes it beats it is a mismatch with SUB 1, whatever R65 says of its positions
(R214). -/
def ratedEnds (x : Cell) (n : Nat) (nd : Node) (k : Nat) : Bool := !nd.failing && isEnd (nd.head k) && roomAll x n

/-- PERM_RANK (R217): a code beat is ranked; then COLS data beats leave in its order. A SLUICE or an END that comes before
the columns of the group are there is a mismatch (R214, R225). -/
def execPermRank (c n : Nat) (s : State) : Host.Outcome State Fault Refusal :=
  .next (rowEvent s c n kPERM (fun m => m == 1) (fun x nd =>
    let r := rowOf nd
    let cols := prmField nd.params 0 0 16
    if r.due ≠ 0 ∧ ratedEnds x n nd 1 = true then setRow (mismatch x n (nd.port 1).pos) n (fun q => { q with due := 0 })
    else if r.due = 0 ∨ nd.failing = true then
      match lockAct s x n nd [0, 1] (fun _ => 0) false with
      | .idle => x
      | .cell y => if nd.failing then setRow y n (fun q => { q with due := 0, skip := false }) else y
      | .fin => lockEnd s x n 0 nd [0, 1]
      | .beat xs =>
        let k := rankCodes (xs.headD [])
        setRow (setNode x n (fun z => consume z [0])) n (fun q =>
          { q with ptab := rankLoad q.ptab (rankTable k), codes := k.map some, due := cols, skip := false })
    else
      match lockAct s x n nd [1] (fun _ => 0) false with
      | .cell y => y
      | .idle =>
        if (nd.head 1).elim false Token.isSluice && roomAll x n then
          setRow (mismatch x n (nd.port 1).pos) n (fun q => { q with due := 0 })
        else x
      | .fin => setRow (mismatch x n (nd.port 1).pos) n (fun q => { q with due := 0 })
      | .beat xs =>
        let b := xs.headD []
        let y := setRow (setNode x n (fun z => consume z [1])) n (fun q => { q with due := q.due - 1 })
        if r.skip then y
        else
          let code (i : Nat) : Option Nat := match (r.codes.getD i none).getD 16 with
            | 16 => none
            | v => some v
          let lanes := (List.range b.length).map (fun j => r.ptab.getD j 0)
          let outA := lanes.map (fun i => if (code i).isNone then none else b.getD i none)
          let k := beatPositions (nd.port 1)
          setNode (sendB (sendA y n (.data outA)) n (.data (lanes.map code))) n (fun z =>
            { z with outPosA := z.outPosA + k, outPosB := z.outPosB + k })))

/-- Lane c of every beat of a block. -/
def blockColumn (buf : List Lanes) (c : Nat) : Lanes := buf.map (fun l => l.getD c none)

/-- A TRANSPOSE node takes a beat of the next block while it emits the current one: the two fit its buffer of L beats (R218). -/
def transposeReady (nd : Node) : Bool :=
  nd.sentAll || (isData (nd.head 0) && decide ((rowOf nd).buf.length + max nd.pendA.length nd.pendB.length < nd.ord.lanes))

/-- PERM_TRANSPOSE (R218): a block of L beats leaves once it is whole. -/
def execPermTranspose (c n : Nat) (s : State) : Host.Outcome State Fault Refusal :=
  .next (nodeEventWhen transposeReady s c n (fun w => w.kind == kPERM && w.mode == 2) (fun x nd => rowBetween (
    match lockAct s x n nd [0] (fun _ => 0) false with
    | .idle => x
    | .cell y => y
    | .fin => lockEnd s x n 0 nd [0]
    | .beat xs =>
      let l := nd.ord.lanes
      let buf := (rowOf nd).buf ++ [xs.headD []]
      let y := setNode x n (fun z => consume z [0])
      if buf.length < l then setRow y n (fun r => { r with buf := buf })
      else emitBeats (setRow y n (fun r => { r with buf := [] })) n ((List.range l).map (blockColumn buf)) (l * l)) n))

/-! ### SCAN (R219 to R221) -/

/-- Widen a floating-point operand to an f32 pattern, flushed (R26, R220). -/
def toF32 (t : Nat) (ftz : Bool) (a : Nat) : Nat := (narrowF 11 0 false false (flushIn t a ftz)).1

/-- Convert of R220: the value of a running register in a type, with flags. -/
def rowConvert (w : NodeWord) (fl : Bool) (v : Int) : Nat × BitVec 6 :=
  if fl then narrowF w.type w.rm w.sat w.ftz (decodeF 11 v.toNat) else narrowI w.type (w.sat && w.type != 7) v

/-- The maximum of two f32 patterns (R162): NaN if either is. -/
def maxPat32 (a b : Nat) : Nat :=
  let x := decodeF 11 a
  let y := decodeF 11 b
  if x.isNan || y.isNan then nanPat 11 else (narrowF 11 0 false false (maxF x y)).1

/-- The minimum of two f32 patterns (R162). -/
def minPat32 (a b : Nat) : Nat :=
  let x := decodeF 11 a
  let y := decodeF 11 b
  if x.isNan || y.isNan then nanPat 11 else (narrowF 11 0 false false (minF x y)).1

/-- One lane of ScanBeat: the register after it and the output element. `reset` says that the operand starts the sum anew. -/
def scanLane (w : NodeWord) (ta : Nat) (reset : Bool) (rs : Int) (a : Nat) : Int × Elem :=
  if isWide ta then
    let x := toF32 ta w.ftz a
    let nanIn := (decodeF 11 x).isNan || (!reset && (decodeF 11 rs.toNat).isNan)
    let r : Nat × BitVec 6 :=
      if reset then (x, 0)
      else if w.mode = 3 then (maxPat32 rs.toNat x, 0)
      else accAdd w.ftz rs.toNat (decodeF 11 x)
    let o := rowConvert w true (r.1 : Nat)
    ((r.1 : Nat), elemOf w.type nanIn (o.1, r.2 ||| o.2))
  else
    let v := ival ta a
    let r : Int := if reset then v else if w.mode = 3 then max rs v else sval 48 (wrapTo 48 (rs + v))
    let o := rowConvert w false r
    (r, (o.1, o.2, false))

/-- ScanBeat (R220). -/
def scanBeat (x : Cell) (n : Nat) (nd : Node) (xs : List Lanes) : Cell :=
  let r := rowOf nd
  let a := xs.headD []
  let p := xs.getD 1 []
  let lane (i : Nat) : Option (Int × Elem) :=
    match a.getD i none with
    | none => none
    | some v =>
      let seg := nd.word.mode == 1 && (match p.getD i none with
        | some q => q % 256 != 0
        | none => false)
      some (scanLane nd.word (nd.port 0).elem (!r.started.getD i false || seg) (r.rs.getD i 0) v)
  let res := (List.range a.length).map lane
  let ls := lockPorts nd
  let y := setRow (setNode x n (fun z => consume z ls)) n (fun q => { q with
    rs := (List.range 64).map (fun i => match res.getD i none with
      | some e => e.1
      | none => q.rs.getD i 0),
    started := (List.range 64).map (fun i => (res.getD i none).isSome || q.started.getD i false) })
  countElems n (emitBeats y n [res.map (Option.map (fun e => e.2.1))] (beatPositions (nd.port 0)))
    (res.filterMap (Option.map Prod.snd))

/-- SCAN_BEAT (R220): SUM, SEGSUM and MAX. -/
def execScanBeat (c n : Nat) (s : State) : Host.Outcome State Fault Refusal :=
  .next (rowEvent s c n kSCAN (fun m => m != 2) (fun x nd =>
    match lockAct s x n nd (lockPorts nd) (fun _ => 0) true with
    | .idle => x
    | .cell y => y
    | .fin => lockEnd s x n 0 nd (lockPorts nd)
    | .beat xs => scanBeat x n nd xs))

/-- The lanes that are valid on both ports of a BOUNDARY beat: lane, activation, code. -/
def boundaryLanes (a k : Lanes) : List (Nat × Nat × Nat) :=
  (List.range a.length).filterMap (fun i => match a.getD i none, k.getD i none with
    | some v, some q => some (i, v, q)
    | _, _ => none)

/-- The first lane whose code is lower than the one before it. -/
def boundaryFault : List (Nat × Nat × Nat) → Option Nat
  | e :: d :: rest => if d.2.2 < e.2.2 then some d.1 else boundaryFault (d :: rest)
  | _ => none

/-- Running sum of a BOUNDARY beat (R221, R41): f32 pattern or integer, flags, whether an operand was NaN. -/
def boundaryAdd (w : NodeWord) (ta : Nat) (rs : Int × BitVec 6 × Bool) (a : Nat) : Int × BitVec 6 × Bool :=
  if ta = 10 then
    let x := toF32 10 w.ftz a
    let r := accAdd w.ftz rs.1.toNat (decodeF 11 x)
    ((r.1 : Nat), rs.2.1 ||| r.2, rs.2.2 || (decodeF 11 x).isNan)
  else (rs.1 + ival 1 a, 0, false)

/-- The output element of a running sum. -/
def boundaryElem (ta : Nat) (rs : Int × BitVec 6 × Bool) : Elem :=
  if ta = 10 then elemOf 11 rs.2.2 (rs.1.toNat, rs.2.1) else (wrapTo 32 rs.1, 0, false)

/-- BoundaryBeat (R221): the sixteen output lanes, and the running sum at the end. -/
def boundaryGo (w : NodeWord) (ta : Nat) : List (Nat × Nat × Nat) → Int × BitVec 6 × Bool → List (Option Elem) →
    List (Option Elem) × (Int × BitVec 6 × Bool)
  | [], rs, out => (out, rs)
  | e :: rest, rs, out =>
    let rs1 := boundaryAdd w ta rs e.2.1
    let last := match rest with
      | [] => true
      | d :: _ => d.2.2 != e.2.2
    boundaryGo w ta rest rs1 (if last then out.set (e.2.2 % 16) (some (boundaryElem ta rs1)) else out)

/-- SCAN_BOUNDARY (R221). -/
def execScanBoundary (c n : Nat) (s : State) : Host.Outcome State Fault Refusal :=
  .next (rowEvent s c n kSCAN (fun m => m == 2) (fun x nd =>
    match lockAct s x n nd [0, 1] (fun _ => 0) false with
    | .idle => x
    | .cell y => y
    | .fin => lockEnd s x n 0 nd [0, 1]
    | .beat xs =>
      let l := boundaryLanes (xs.headD []) (xs.getD 1 [])
      let y := setNode x n (fun z => consume z [0, 1])
      match boundaryFault l with
      | some i => emitPoison y n cLENGTH 3 ((nd.port 0).pos + i)
      | none =>
        let ta := (nd.port 0).elem
        let r := boundaryGo nd.word ta l (0, 0, false) (List.replicate 16 none)
        let out := r.1.set 15 (some (boundaryElem ta r.2))
        let z := setRow y n (fun q => { q with rs := q.rs.set 0 r.2.1 })
        countElems n (emitBeats z n [out.map (Option.map Prod.fst)] 16) (out.filterMap id)))

/-! ### RED (R222 to R224) -/

/-- The reduction of the valid lanes of a beat of floats, from f32 patterns (R222). -/
def redFloat (w : NodeWord) (l : List (Nat × Nat)) : Option Elem :=
  match l with
  | [] => none
  | (_, x) :: rest =>
    let nanIn := l.any (fun e => (decodeF 11 e.2).isNan)
    match w.mode with
    | 0 =>
      let r := rest.foldl (fun (t : Nat × BitVec 6) e => let q := accAdd w.ftz t.1 (decodeF 11 e.2); (q.1, t.2 ||| q.2)) (x, 0)
      let o := rowConvert w true (r.1 : Nat)
      some (elemOf w.type nanIn (o.1, r.2 ||| o.2))
    | 1 => let o := rowConvert w true ((rest.foldl (fun t e => maxPat32 t e.2) x : Nat)); some (elemOf w.type nanIn (o.1, 0))
    | 2 => let o := rowConvert w true ((rest.foldl (fun t e => minPat32 t e.2) x : Nat)); some (elemOf w.type nanIn (o.1, 0))
    | _ =>
      let best := rest.foldl (fun t e => maxPat32 t e.2) x
      match l.find? (fun e => (decodeF 11 e.2).isNan) with
      | some e => some (e.1, 0, false)
      | none => some (((l.find? (fun e => e.2 == best)).getD (0, 0)).1, 0, false)

/-- The reduction of the valid lanes of a beat of integers (R222). -/
def redInt (w : NodeWord) (l : List (Nat × Int)) : Option Elem :=
  match l with
  | [] => none
  | (_, x) :: rest =>
    match w.mode with
    | 0 => let r := narrowI w.type w.sat (l.foldl (fun t e => t + e.2) 0); some (r.1, r.2, false)
    | 1 => some (wrapTo (typeBits w.type) (rest.foldl (fun t e => max t e.2) x), 0, false)
    | 2 => some (wrapTo (typeBits w.type) (rest.foldl (fun t e => min t e.2) x), 0, false)
    | _ => let best := rest.foldl (fun t e => max t e.2) x; some (((l.find? (fun e => e.2 == best)).getD (0, 0)).1, 0, false)

/-- The element of a beat (R222). -/
def redBeat (w : NodeWord) (ta : Nat) (a : Lanes) : Option Elem :=
  let l : List (Nat × Nat) := (List.range a.length).filterMap (fun i => (a.getD i none).map (fun v => (i, v)))
  if isWide ta then redFloat w (l.map (fun e => (e.1, toF32 ta w.ftz e.2))) else redInt w (l.map (fun e => (e.1, ival ta e.2)))

/-- RED_BEAT (R222): SUM, MAX, MIN and ARGMAX. -/
def execRedBeat (c n : Nat) (s : State) : Host.Outcome State Fault Refusal :=
  .next (rowEvent s c n kRED (fun m => decide (m ≤ 3)) (fun x nd =>
    match lockAct s x n nd [0] (fun _ => 0) false with
    | .idle => x
    | .cell y => y
    | .fin => lockEnd s (flushOut x n nd [] true) n 0 nd [0]
    | .beat xs =>
      let e := redBeat nd.word (nd.port 0).elem (xs.headD [])
      countElems n (flushOut (setNode x n (fun z => consume z [0])) n nd [e.map Prod.fst] false) (e.toList)))

/-- d_j of a level table (R212). -/
def levelD (t : List Nat) (j : Nat) : Nat := (t.getD (if j < 8 then 0 else 1) 0) / pow2 (if j < 8 then 32 + 4 * j else 4 * (j - 8)) % 16

/-- VTOP of a level table, a bf16 operand, flushed under FTZ (R26). -/
def levelTop (t : List Nat) (ftz : Bool) : Fl := flushIn 10 (t.getD 0 0 % 65536) ftz

/-- E of a level table. -/
def levelE (t : List Nat) : Int := sval 8 (t.getD 0 0 / 65536)

/-- The boundary terms of a column (R224): D and S for each valid lane below 15, in ascending order; those with D = 0 are not
formed. -/
def daccTerms (t : List Nat) (f32 ftz : Bool) (a : Lanes) : List (Fl × Fl) :=
  (List.range 15).filterMap (fun j => match a.getD j none with
    | none => none
    | some v =>
      let nxt := ((List.range 16).find? (fun i => decide (j < i) && (a.getD i none).isSome)).getD 15
      let d := (List.range (nxt - j)).foldl (fun m i => m + levelD t (j + i)) 0
      if d = 0 then none
      else some (.fin false d (levelE t), if f32 then flushIn 11 v ftz else ofInt (ival 5 v)))

/-- DaccColumn (R224) on a column whose lane 15 holds `top`: y as an f32 pattern, flags, whether an operand was NaN. -/
def daccColumn (w : NodeWord) (nbv : Nat) (t : List Nat) (f32 : Bool) (a : Lanes) (top : Nat) : Nat × BitVec 6 × Bool :=
  let vt := levelTop t w.ftz
  let st := if f32 then flushIn 11 top w.ftz else ofInt (ival 5 top)
  let terms := daccTerms t f32 w.ftz a
  let r := if f32 then daccF32 vt st terms nbv w.rm w.sat w.ftz else daccI32 vt st terms w.rm w.sat w.ftz
  ((narrowF 11 0 false false r.1).1, r.2, vt.isNan || st.isNan || terms.any (fun e => e.2.isNan))

/-- What an ACC register keeps beside its value: the flags of what went into it, and 64 where an operand was NaN. -/
def accMark (f : BitVec 6) (nan : Bool) : Nat := f.toNat + (if nan then 64 else 0)

/-- A row's values leave as elements, counted (R47, R224). -/
def daccEmit (x : Cell) (n : Nat) (nd : Node) : Cell :=
  let r := rowOf nd
  let cols := prmField nd.params 0 0 16
  let es : List (Option Elem) := (List.range cols).map (fun b => (r.acc.getD b none).map (fun v =>
    let m := (r.codes.getD b none).getD 0
    elemOf 11 (decide (64 ≤ m)) (v, BitVec.ofNat 6 m)))
  countElems n (flushOut x n nd (es.map (Option.map Prod.fst)) false) (es.filterMap id)

/-- One column of DACC (R224): ACC[b] takes y, or adds it. -/
def daccStep (x : Cell) (n : Nat) (nd : Node) (a : Lanes) : Cell :=
  let r := rowOf nd
  let w := nd.word
  let y := setRow (setNode x n (fun z => consume z [0])) n (fun q => { q with due := q.due - 1, col := q.col + 1 })
  if r.skip then y
  else match a.getD 15 none with
    | none => setRow (emitPoison y n cLENGTH 3 ((nd.port 0).pos + 15)) n (fun q => { q with skip := true })
    | some top =>
      let b := r.col
      let col := daccColumn w x.cfg.nbv.toNat r.ltab ((nd.port 0).elem == 11) a top
      let hole := r.ltab.isEmpty
      let old := r.acc.getD b none
      let v : Option Nat × BitVec 6 :=
        if hole then (none, 0)
        else if r.grp = 0 then (some col.1, col.2.1)
        else match old with
          | none => (none, 0)
          | some o => let q := accAdd w.ftz o (decodeF 11 col.1); (some q.1, col.2.1 ||| q.2)
      let m0 := if r.grp = 0 then 0 else (r.codes.getD b none).getD 0
      let mark := accMark (v.2 ||| BitVec.ofNat 6 m0) (col.2.2 || decide (64 ≤ m0))
      let put (l : List (Option Nat)) (e : Option Nat) : List (Option Nat) := if b < l.length then l.set b e else padTo b l ++ [e]
      let z := setRow y n (fun q => { q with acc := put q.acc v.1, codes := put q.codes (some mark) })
      raiseFlags n z v.2

/-- The last column of a group has been taken: the next group, or the end of the row. -/
def daccGroup (x : Cell) (n : Nat) : Cell :=
  match x.nodes[n]? with
  | none => x
  | some nd =>
    let r := rowOf nd
    if r.due ≠ 0 then x
    else if r.grp + 1 < prmField nd.params 0 16 16 then setRow x n (fun q => { q with grp := q.grp + 1, col := 0 })
    else
      let y := if r.skip then x else daccEmit x n nd
      setRow y n (fun q => { q with grp := 0, col := 0, skip := false })

/-- A level table takes effect (R212, R224); a lane of it that is a hole makes the group's values holes. -/
def daccTable (l : Lanes) : List Nat :=
  match l.getD 0 none, l.getD 1 none with
  | some a, some b => [a, b]
  | _, _ => []

/-- What DACC's two ports offer between columns. Where that is a mismatch, the values of whole rows that do not fill a beat leave ahead
of its POISON (R154, R224). -/
def daccAct (s : State) (x : Cell) (n : Nat) (nd : Node) : Act :=
  match lockAct s x n nd [0, 1] (fun _ => 0) false with
  | .cell y => if !nd.failing && failingAt y n then lockAct s (flushOut x n nd [] true) n nd [0, 1] (fun _ => 0) false else .cell y
  | a => a

/-- RED_DACC_COLUMN (R224): a level table governs COLS boundary beats. A row that END or a SLUICE cuts short emits nothing and
is a mismatch (R214); the whole rows before it do. -/
def execRedDaccColumn (c n : Nat) (s : State) : Host.Outcome State Fault Refusal :=
  .next (rowEvent s c n kRED (fun m => m == 4) (fun x nd =>
    let r := rowOf nd
    let cols := prmField nd.params 0 0 16
    let clean (y : Cell) : Cell := setRow y n (fun q => { q with due := 0, grp := 0, col := 0, skip := false })
    let cut : Cell := clean (mismatch (flushOut x n nd [] true) n (nd.port 0).pos)
    if (r.due ≠ 0 ∨ (r.grp ≠ 0 ∧ isEnd (nd.head 1) = true)) ∧ ratedEnds x n nd 0 = true then cut
    else if r.due = 0 ∨ nd.failing = true then
      match daccAct s x n nd with
      | .idle => x
      | .cell y => if nd.failing then clean y else y
      | .fin => lockEnd s (flushOut x n nd [] true) n 0 nd [0, 1]
      | .beat xs =>
        setRow (setNode x n (fun z => consume z [1])) n (fun q => { q with ltab := daccTable (xs.getD 1 []), due := cols, col := 0 })
    else
      match lockAct s x n nd [0] (fun _ => 0) false with
      | .cell y => y
      | .idle =>
        if (nd.head 0).elim false Token.isSluice && roomAll x n then cut else x
      | .fin => cut
      | .beat xs => daccGroup (daccStep x n nd (xs.headD [])) n))

end Sys2Proof.Machine
end

