-- ==== Sys2Proof/Machine/MemNode.lean ====
section
/-! DEFINITION. Nodes that touch memory (R179 to R190): address generators, MEM LOAD, STORE and RMW, DONE streams, circular
buffers at a MEM node, and link nodes (R187, R240 to R242). -/

namespace Sys2Proof.Machine

/-! ### State of a memory node -/

/-- Change the state of a memory node of a cell. -/
def setMem (x : Cell) (n : Nat) (f : MemState → MemState) : Cell := setNode x n (fun nd => nd.withMem f)

/-! ### Accesses of a node (R186) -/

/-- Where an access of a node leads, whether it is at CELL scope, and whether its line is tracked. -/
structure NodeLoc where
  loc : Loc
  cell : Bool
  trk : Bool
  deriving DecidableEq, Repr

/-- Why an access of a node does not go on: a fault, or a page that is on its way. -/
inductive NodeErr where
  | fault (code sub : BitVec 8)
  | stall
  deriving DecidableEq, Repr

/-- As whom a node accesses an address. -/
def nodeWho (s : State) (x : Cell) (va : W) (n : Nat) : Who :=
  ⟨x.crew.asid, x.cfg.level, dieOf x.cluster, crewWindow s x.crew va n⟩

/-- A scratch bank of the node's own cell, at a tag 0x8 address (R186). -/
def nodeScratch (s : State) (c : Nat) (va : W) : Except NodeErr NodeLoc :=
  if field va 22 38 ≠ 0 then .error (.fault cPROT 0)
  else
    match cellBank s c (field va 15 7) with
    | some b => if b.b.mode = .scratch then .ok ⟨.mem (sramKey b.store b.bank (field va 0 15)), true, false⟩ else .error (.fault cPROT 0)
    | none => .error (.fault cPROT 0)

/-- The circular buffer of a POP or PUSH node (R183). -/
def nodeFifo (s : State) (c : Nat) (nd : Node) : Option BankAt :=
  if nd.word.kind = kMEM ∧ nd.word.mode ≤ 1 ∧ nd.word.flags.getLsbD 4 = true then cellBank s c (prmField nd.params 0 0 7) else none

/-- An offset in the slot that a POP or PUSH node holds (R189). -/
def nodeSlot (b : BankAt) (slot : Option Nat) (va : W) : Except NodeErr NodeLoc :=
  match slot with
  | none => .error (.fault cPROT 0)
  | some k =>
    if field va 60 4 ≠ 8 then .error (.fault (if field va 60 4 = 0 ∧ field va 56 4 = 0 then cPROT else cXLATE) 0)
    else if pow2 b.b.slotlog ≤ field va 0 60 then .error (.fault cPROT 0)
    else .ok ⟨.mem (fifoAddr b k (field va 0 60)), true, false⟩

/-- Where an address leads (R186). `remote` says that the access may be at PEER or HOST scope. -/
def nodeLoc (s : State) (c n : Nat) (x : Cell) (nd : Node) (k : AccKind) (remote : Bool) (size : Nat) (va : W) : Except NodeErr NodeLoc :=
  if va.toNat % size ≠ 0 then .error (.fault cALIGN 0)
  else
    match nodeFifo s c nd with
    | some b => nodeSlot b (memOf nd).slot va
    | none =>
      match field va 60 4 with
      | 0 =>
        if pageStalled s x.crew.asid (.node c n) va then .error .stall
        else
          (match xlate s (nodeWho s x va size) k va with
           | .error f => if recoverable s x.crew.asid f then .error .stall else .error (.fault f.1 f.2)
           | .ok r => if isRemote r.loc && !remote then .error (.fault cPROT 0) else .ok ⟨r.loc, false, r.trk⟩)
      | 8 => nodeScratch s c va
      | _ => .error (.fault cXLATE 0)

/-- Bytes of an element (R181). -/
def elemBytes (t : Nat) : Nat := typeBits t / 8

/-! ### Timestamps of a node's streams (R246, R247, R250) -/

/-- The pts with which a stream of a memory node begins: after its own events, and after the STRMs that started the cell's
streams. -/
def streamPts (x : Cell) (nd : Node) : Nat :=
  x.nodes.foldl (fun t m => if m.word.kind = kAGEN then max t (memOf m).ts else t) nd.pts

/-- The point of the memory order at which a STREAM load stream that begins now performs (R250): after every write. -/
def streamPoint (s : State) (pts : Nat) : Nat := s.mem.lines.foldl (fun t e => max t e.2.1) pts

/-! ### A step of a memory node -/

/-- A POISON that the node itself has just raised, at the head of its port A. -/
def ownPoison (x : Cell) (n : Nat) (nd nd1 : Node) : Option Poison :=
  match nd1.head 0 with
  | some (.poison p) => if p.node.toNat = n ∧ p.origin = cellCoord x ∧ nd.head 0 ≠ some (.poison p) then some p else none
  | _ => none

/-- A step of a MEM or AGEN node. While tokens of an earlier step have not left, sending the next is all that it does (R152). A
POISON that a MEM node raises is accepted at once: its cell halts (R158). -/
def memEvent (s : State) (c n : Nat) (ok : NodeWord → Bool) (f : Cell → Node → State) : State :=
  match aget s.cells c with
  | none => s
  | some x =>
    match x.nodes[n]? with
    | none => s
    | some nd =>
      if !cellRuns s x || !ok nd.word then s
      else
        let s1 := if nd.sentAll then f x nd else s
        match aget s1.cells c with
        | none => s1
        | some y0 =>
          let y := emitPend y0 n
          if s1 = s ∧ y = x then s
          else
            match y.nodes[n]? with
            | none => s1
            | some nd1 =>
              let s2 := if y = x then s1 else noteLate (putCell s1 c (noteFire s1 y n)) c n nd nd1
              let s3 := if (nd.port 0).pos < (nd1.port 0).pos then noteBreak s2 c n (nd.port 0).pos (nd1.port 0).pos else s2
              match ownPoison x n nd nd1 with
              | none => s3
              | some p =>
                let s4 := if nd.word.kind = kMEM ∧ nd.word.mode = 4 then linkSend s3 c n nd (.poison p) else s3
                haltCell (updNode s4 c n (fun z => popHead z 0)) c p

/-! ### AGEN (R179, R180) -/

/-- STRIDE of dim d. -/
def strideOf (nd : Node) (d : Nat) : Int := sval 64 (prmField nd.params (d / 2) (64 * (d % 2)) 64)

/-- The address of AgenAddr from an offset (R180). -/
def agenAddr (base : W) (o : Int) : Nat := (base.extractLsb' 60 4 ++ (base.extractLsb' 0 60 + BitVec.ofInt 60 o)).toNat

/-- The strided part of an offset, without the dim that a table gives. -/
def agenSum (nd : Node) (coord : List Nat) (skip : Option Nat) : Int :=
  (List.range 4).foldl (fun (a : Int) d => if skip = some d then a else a + (coord.getD d 0 : Int) * strideOf nd d) 0

/-- OffTable(k): the .n64 at BASE1 + 8k in the memory of the STRM's commit (R180), or the fault of its read. -/
def offTable (s : State) (c n : Nat) (x : Cell) (nd : Node) (base1 : W) (k : Nat) : Except NodeErr (Nat × List (Nat × Nat)) :=
  let va := leaInt base1 (8 * (k : Int))
  let im := (memOf nd).image
  match nodeLoc (withVis s x.crew.asid im) c n x nd .load false 8 va with
  | .error e => .error e
  | .ok r =>
    let y := withImage s im
    if locPoisoned y x.crew.asid r.loc 8 then .error (.fault cPOISON 0)
    else if locPacked y r.loc then .error (.fault cPACKED 0)
    else .ok (leVal (locBytes y x.crew.asid y.mem.bytes r.loc 8), locSpans s x.crew.asid r.loc 8)

/-- The lanes of a beat of addresses: the lanes, the places and addresses that the offset table was read from, the first fault with its
position, and the address of an entry whose page is on its way. -/
structure AgenBeat where
  lanes : Lanes
  spans : List (Nat × Nat)
  vas : List W
  bad : Option (BitVec 8 × BitVec 8 × Nat)
  stall : Option W
  deriving DecidableEq, Repr

/-- A beat of an AFFINE or RAGGED stream, lane by lane. -/
def agenBeat (s : State) (c n : Nat) (x : Cell) (nd : Node) (b0 b1 : W) (len : Option (List Nat)) (cur : Nat) (cs : List (List Nat)) : AgenBeat :=
  ((List.range cs.length).foldl (fun (a : AgenBeat) i =>
    let p := cs.getD i []
    if !inActual nd.ord len p then { a with lanes := a.lanes ++ [none] }
    else if nd.word.mode = 2 then
      let r := prmField nd.params 2 0 2
      match offTable s c n x nd b1 (p.getD r 0) with
      | .ok v => { a with
          lanes := a.lanes ++ [some (agenAddr b0 ((v.1 : Int) + agenSum nd p (some r)))], spans := a.spans ++ v.2,
          vas := a.vas ++ [leaInt b1 (8 * (p.getD r 0 : Int))] }
      | .error (.fault code sub) =>
        { a with lanes := a.lanes ++ [none], bad := a.bad.or (some (code, sub, cur + i)) }
      | .error .stall => { a with lanes := a.lanes ++ [none], stall := some (leaInt b1 (8 * (p.getD r 0 : Int))) }
    else { a with lanes := a.lanes ++ [some (agenAddr b0 (agenSum nd p none))] }) ⟨[], [], [], none, none⟩)

/-- The places of the offset table that a RAGGED stream reads, as they are translated now (R180). -/
def tableSpans (s : State) (c n : Nat) (b1 : W) (len : List Nat) : List (Nat × Nat) :=
  match aget s.cells c, nodeOf s c n with
  | some x, some nd =>
    if nd.word.kind = kAGEN ∧ nd.word.mode = 2 then
      (List.range ((actualExt nd.ord (some len)).getD (prmField nd.params 2 0 2) 0)).flatMap (fun k =>
        match nodeLoc s c n x nd .load false 8 (leaInt b1 (8 * (k : Int))) with
        | .ok r => locSpans s x.crew.asid r.loc 8
        | .error _ => [])
    else []
  | _, _ => []

/-- A SLUICE that a DRAIN injected leaves an AGEN once the streams ahead of it have ended (R133), with the AGEN's own label, for it
is the AGEN that emits it (R314; DEDUCED, log 18). -/
def agenSluice (s : State) (c n : Nat) (x : Cell) (nd : Node) : Option State :=
  match (memOf nd).sluices with
  | (0, sid) :: rest =>
    let y := setMem x n (fun m => { m with sluices := rest })
    let s1 := putCell s c (sendBoth y n (.sluice sid (nodeSig s y n)))
    some (if isSink nd then reachSink s1 c n sid else s1)
  | _ => none

/-- A stream of an AGEN has ended: its END carries a signal. -/
def agenDone (g : Sig) (m : MemState) : MemState :=
  { m with starts := m.starts.drop 1, begun := false, cur := 0, streams := m.streams + 1, endSig := g,
           sluices := m.sluices.map (fun e => (e.1 - 1, e.2)) }

/-- The next token of an AFFINE or RAGGED stream: LEN, a beat, or END (R180). -/
def agenStep (s : State) (c n : Nat) (x : Cell) (nd : Node) (b0 b1 : W) (l : List Nat) : State :=
  let m := memOf nd
  let len := if nd.ord.anyRagged then some l else none
  if !m.begun then
    let y := setMem x n (fun q => { q with begun := true, cur := 0 })
    putCell s c (if nd.ord.anyRagged then sendBoth y n (.len (l.getD 0 0) (l.getD 1 0) (l.getD 2 0) (l.getD 3 0)) else y)
  else
    let total := countOf nd.ord len
    if total ≤ m.cur then
      let y := sendBoth x n (.fin total (nodeSig s x n))
      putCell s c (setMem (setNode y n (fun z => { z with outPosA := 0, outPosB := 0 })) n (agenDone (nodeSig s x n)))
    else
      let cs := ((coords nd.ord len).drop m.cur).take nd.ord.lanes
      let b := agenBeat s c n x nd b0 b1 len m.cur cs
      match b.stall with
      | some va => pageRequest s x.crew.asid (.node c n) va false
      | none =>
        let seen := withImage s m.image
        let s1 := b.vas.foldl (fun q va => fillTlb q (nodeWho s x va 8) va)
          (noteForeign { s with mem := b.spans.foldl (fun q p => q.leased m.ts p.1 p.2) s.mem } seen.mem x.crew.asid (dieOf x.cluster) m.ts
            (nodeUnit s x n) b.spans)
        let y0 := setNode ((b.spans.flatMap (fun p => trackedSigs seen p.1 p.2)).foldl (fun y g => mergeNode s y n g) x) n
          (fun z => { z with pts := max z.pts m.ts })
        let y := match b.bad with
          | some e => emitPoison y0 n e.1 e.2.1 e.2.2
          | none => y0
        putCell s1 c (setMem (emitBeats y n [padTo nd.ord.lanes b.lanes] cs.length) n (fun q => { q with cur := q.cur + cs.length }))

/-- The next step of an INDEX stream (R180): element n of port A gives the address of element n. -/
def agenIndex (s : State) (c n : Nat) (x : Cell) (nd : Node) (b0 : W) : State :=
  match lockAct s x n nd [0] (fun _ => 0) true with
  | .idle => s
  | .cell y => putCell s c y
  | .fin => let y := lockEnd s x n 0 nd [0]; putCell s c (setMem y n (agenDone (nodeSig s y n)))
  | .beat xs =>
    let stride := sval 64 (prmField nd.params 0 0 64)
    let out := (xs.headD []).map (Option.map (fun v => agenAddr b0 (ival (nd.port 0).elem v * stride)))
    putCell s c (emitBeats (setNode x n (fun z => consume z [0])) n [out] (beatPositions (nd.port 0)))

/-- AGEN_EMIT (R180). -/
def execAgenEmit (c n : Nat) (s : State) : Host.Outcome State Fault Refusal :=
  .next (memEvent s c n (fun w => w.kind == kAGEN) (fun x nd =>
    if !roomAll x n then s
    else
      let m := memOf nd
      if nd.word.mode ≠ 1 ∧ m.begun = false ∧ (agenSluice s c n x nd).isSome = true then (agenSluice s c n x nd).getD s
      else
        match m.starts with
        | [] => s
        | (b0, b1, l, _) :: _ => if nd.word.mode = 1 then agenIndex s c n x nd b0 else agenStep s c n x nd b0 b1 l))

/-! ### The streams of a MEM node (R182, R184) -/

/-- Ports that carry a MEM's elements: the address alone, or data and address. -/
def memPorts (nd : Node) : List Nat := if nd.word.mode = 0 then [0] else [0, 1]
/-- The port that carries addresses. -/
def addrPort (nd : Node) : Nat := if nd.word.mode = 1 then 1 else 0
/-- The port that carries data, where there is one. -/
def dataPort (nd : Node) : Nat := if nd.word.mode = 1 then 0 else 1

/-- The DONE token of port C that a stream waits for (R182): it is consumed, its label merged, the producer's events come
before this node's. -/
def memDone (s : State) (x : Cell) (n : Nat) (nd : Node) : Option Cell :=
  if !(nd.port 2).fed then none
  else match nd.head 2 with
    | some (.done _ g) =>
      let from0 := (x.nodes[(nd.port 2).src]?).elim 0 (fun p => p.pts)
      some (setNode (mergeNode s (setNode x n (fun z => popHead z 2)) n g) n (fun z =>
        { z.withMem (fun m => { m with dones := m.dones + 1 }) with pts := max z.pts from0 }))
    | some (.fin _ g) => some (mergeNode s (setNode x n (fun z => popHead z 2)) n g)
    | _ => none

/-- The first token of the next stream stands at port A. -/
def memReady (nd : Node) : Bool := isData (nd.head 0) || isLen (nd.head 0) || isEnd (nd.head 0) || isScale (nd.head 0)

/-- A stream may begin: its first token, its DONE, its slot (R184). -/
def memMayBegin (s : State) (c : Nat) (nd : Node) : Bool :=
  memReady nd && (!(nd.port 2).fed || decide ((memOf nd).streams < (memOf nd).dones)) &&
  ((nodeFifo s c nd).isNone || (memOf nd).slot.isSome)

/-- A stream begins. STREAM loads fix the point at which they perform (R250). -/
def memBegin (s : State) (x : Cell) (n : Nat) (nd : Node) : Cell :=
  let p := streamPts x nd
  let stream := nd.word.mode == 0 && nd.word.mclass == 0
  let t := if stream then streamPoint s (max p (lastPub s x.crew.asid)) else p
  let im := if stream then some (StreamImage.now s x.crew.asid) else none
  setNode x n (fun z => { z.withMem (fun m => { m with begun := true, count := 0, out := [], ts := t, image := im }) with pts := t })

/-- The point at which a STREAM load stream performs goes into the peat log (R397). -/
def streamRec (s : State) (x : Cell) (c n : Nat) (nd : Node) : State :=
  if nd.word.mode = 0 ∧ nd.word.mclass = 0 then
    orderRec s x.crew.asid (dieOf x.cluster) (streamPoint s (max (streamPts x nd) (lastPub s x.crew.asid))) 4 [w64 c, w64 n]
  else s

/-- A STREAM load stream may fix its point (R398). -/
def streamFree (s : State) (x : Cell) (c n : Nat) (nd : Node) : Bool :=
  !(nd.word.mode == 0 && nd.word.mclass == 0) || mayCome s x.crew.asid 4 [w64 c, w64 n]

/-- The load of a position is on its way. -/
def loadOut (s : State) (c n pos : Nat) : Bool := s.fl.ops.any (fun o => o.issuer == .nodeLoad c n pos)

/-- The beat of a MEM node: the lanes of addresses and of data. -/
structure MemBeat where
  addr : Lanes
  data : Lanes
  k : Nat
  deriving DecidableEq, Repr

/-- The beat at the ports. -/
def memBeat (nd : Node) (xs : List Lanes) : MemBeat :=
  { addr := if nd.word.mode = 1 then xs.getD 1 [] else xs.getD 0 [],
    data := if nd.word.mode = 0 then [] else if nd.word.mode = 1 then xs.getD 0 [] else xs.getD 1 [],
    k := beatPositions (nd.port 0) }

/-- Lane i of a beat has an access to perform (R186): its address is valid, and its data where there is data. -/
def lanePerforms (nd : Node) (b : MemBeat) (i : Nat) : Bool :=
  decide (i < b.k) && (b.addr.getD i none).isSome && (nd.word.mode == 0 || (b.data.getD i none).isSome)

/-- The lanes that still have to perform. -/
def lanesDue (nd : Node) (b : MemBeat) : List Nat :=
  (List.range b.k).filter (fun i => lanePerforms nd b i && !(memOf nd).out.any (fun e => e.1 == i))

/-- Two accesses of the same size overlap. -/
def overlap (a b n : Nat) : Bool := decide (a < b + n) && decide (b < a + n)

/-- Accesses of the same size at two places reach a byte in common. -/
def locsMeet (s : State) (asid : Nat) (l m : Loc) (size : Nat) : Bool :=
  match l, m with
  | .peer i a, .peer j b => i == j && overlap a b size
  | .host a, .host b => overlap a b size
  | l, m => (locSpans s asid l size).any (fun p => (locSpans s asid m size).any (fun q =>
      decide (p.1 < q.1 + q.2) && decide (q.1 < p.1 + p.2)))

/-- The comparator of R184 holds lane i: an earlier access to one of its bytes, wherever the addresses lead, has not completed. -/
def laneHeld (s : State) (c n : Nat) (x : Cell) (at0 : Nat → Option Loc) (due : List Nat) (i size : Nat) (loc : Loc) : Bool :=
  due.any (fun j => decide (j < i) && (at0 j).any (fun l => locsMeet s x.crew.asid l loc size)) ||
  (nodeOps s c n).any (fun o => match loc with
    | .peer ix pa => o.peer == ix && o.port != some 16 && o.port != some 17 && overlap o.addr.toNat pa size
    | .host h => (o.port == some 16 || o.port == some 17) && overlap o.addr.toNat h size
    | _ => false)

/-- The element at a lane has performed: it is noted with its value. -/
def laneDone (x : Cell) (n i : Nat) (v : Option Nat) (ts : Nat) : Cell :=
  setNode x n (fun z => { z.withMem (fun m => { m with out := m.out ++ [(i, v)], count := m.count + 1 }) with pts := max z.pts ts })

/-- A MEM node poisons an element (R186). -/
def laneFault (s : State) (c n : Nat) (x : Cell) (nd : Node) (i : Nat) (code sub : BitVec 8) : State :=
  putCell s c (emitPoison x n code sub ((nd.port 0).pos + i))

/-- The element is outside the window of an unconfirmed crew and not at CELL scope (R289). -/
def laneProof (s : State) (x : Cell) (va : W) (size : Nat) (r : NodeLoc) : Bool :=
  unconfirmed s x.crew && !r.cell && !crewWindow s x.crew va size

/-- Send an element access to a peer or to the host. -/
def laneRemote (s : State) (c n : Nat) (x : Cell) (nd : Node) (i : Nat) (write : Bool) (loc : Loc) (bytes : List Byte) : State :=
  let pos := (nd.port 0).pos + i
  let who : Issuer := if write then .nodeStore c n pos else .nodeLoad c n pos
  let go (peer : Nat) (port : Nat) (a : Nat) : State :=
    let s1 := sendOp s who peer (some port) write (w64 a) bytes
    if write then putCell s1 c (laneDone x n i none 0) else s1
  match loc with
  | .peer ix pa =>
    (match route s ix with
     | .error f => laneFault s c n x nd i f.1 f.2
     | .ok port => go ix port pa)
  | .host a => go 0 (hostPort s x.crew.asid) a
  | _ => s

/-- What a load or an RMW finds that it cannot read (R186, R194). -/
def laneReadFault (s : State) (asid size : Nat) (l : Loc) : Option (BitVec 8) :=
  if locPoisoned s asid l size then some cPOISON else if locPacked s l then some cPACKED else none

/-- The labels of tracked lines that a load touches merge into the node's (R316). -/
def laneTracked (s : State) (x : Cell) (n : Nat) (r : NodeLoc) (spans : List (Nat × Nat)) : Cell :=
  if r.trk then (spans.flatMap (fun p => trackedSigs s p.1 p.2)).foldl (fun y g => mergeNode s y n g) x else x

/-- Perform the load of lane i (R184, R186). -/
def laneLoad (s : State) (c n : Nat) (x : Cell) (nd : Node) (i : Nat) (va : W) (r : NodeLoc) (size : Nat) : State :=
  let m := memOf nd
  let a := x.crew.asid
  let seen := withImage s m.image
  match laneReadFault seen a size r.loc with
  | some code => laneFault s c n x nd i code 0
  | none =>
    let sp := locSpans s a r.loc size
    let ev := match m.image with
      | some _ => (m.ts, sp.foldl (fun (q : Memory) (p : Nat × Nat) => q.leased m.ts p.1 p.2) s.mem)
      | none => loadEvent s.mem (max nd.pts (bufTs s a va)) sp
    let v := leVal (locBytes seen a seen.mem.bytes r.loc size)
    let s1 := fillTlb { s with mem := ev.2 } (nodeWho s x va size) va
    if foreignWaits s a (nodeUnit s x n) sp then s
    else
      putCell (noteForeign s1 seen.mem a (dieOf x.cluster) ev.1 (nodeUnit s x n) sp) c
        (laneDone (laneTracked seen x n r sp) n i (some v) ev.1)

/-- The write of an element: the bytes at a place as one event (R249), or the fault that it meets. -/
def laneWrite (s : State) (x : Cell) (n : Nat) (nd : Node) (va : W) (r : NodeLoc) (size v : Nat) :
    Except (BitVec 8 × BitVec 8 × State) (State × Nat) :=
  let a := x.crew.asid
  let pts := max nd.pts (bufTs s a va)
  match locMeta s a r.loc size with
  | some u => .error (cPOISON, 1, metaError s a pts u)
  | none =>
    let ts := locStoreTs s a pts r.loc size
    match locEvent s a ts (if r.trk then some (nodeSig s x n) else none) false r.loc (leBytes size v) with
    | none => .error (cFORMAT, 0, s)
    | some s1 => .ok (s1, ts)

/-- Perform the store of lane i. -/
def laneStore (s : State) (c n : Nat) (x : Cell) (nd : Node) (i : Nat) (va : W) (r : NodeLoc) (size v : Nat) : State :=
  match laneWrite s x n nd va r size v with
  | .error e => putCell e.2.2 c (emitPoison x n e.1 e.2.1 ((nd.port 0).pos + i))
  | .ok (s1, ts) => updCell (fillTlb s1 (nodeWho s x va size) va) c (fun z => laneDone z n i none ts)

/-- The new value of an RMW (R185), with FADD's flags. -/
def rmwNew (op t old v : Nat) : Elem :=
  let bits := typeBits t
  let int (r : Int) : Elem := (wrapTo bits r, 0, false)
  match op with
  | 0 => int (ival t old + ival t v)
  | 1 => (old &&& v, 0, false)
  | 2 => (old ||| v, 0, false)
  | 3 => (old ^^^ v, 0, false)
  | 4 => int (min (ival t old) (ival t v))
  | 5 => int (max (ival t old) (ival t v))
  | 6 => (v, 0, false)
  | _ =>
    let a := decodeF t old
    let b := decodeF t v
    let nanIn := a.isNan || b.isNan
    let q := addF 0 a b
    let r := narrowF t 0 false false q
    elemOf t nanIn (r.1, r.2 ||| nvOf nanIn q)

/-- Perform the RMW of lane i as one atomic event (R185). -/
def laneRmw (s : State) (c n : Nat) (x : Cell) (nd : Node) (i : Nat) (va : W) (r : NodeLoc) (size v : Nat) : State :=
  let a := x.crew.asid
  match r.loc with
  | .mem adr =>
    (match laneReadFault s a size r.loc with
     | some code => laneFault s c n x nd i code 0
     | none =>
       let old := leVal (locBytes s a s.mem.bytes r.loc size)
       let e := rmwNew (nd.word.flags.toNat / 16) nd.word.type old v
       let sp := locSpans s a r.loc size
       if foreignWaits s a (nodeUnit s x n) sp then s
       else match laneWrite s x n nd va r size e.1 with
       | .error f => putCell f.2.2 c (emitPoison x n f.1 f.2.1 ((nd.port 0).pos + i))
       | .ok (s1, ts) =>
         let s2 := heat (fillTlb s1 (nodeWho s x va size) va) a x.cluster adr
         updCell (noteForeign s2 s.mem a (dieOf x.cluster) ts (nodeUnit s x n) sp) c (fun z =>
           let y := laneTracked s z n r sp
           laneDone (if nd.word.flags.toNat / 16 = 7 then countElems n y [e] else y) n i (some old) ts))
  | _ => laneFault s c n x nd i cFORMAT 0

/-- The kind of a MEM node's accesses (R184). -/
def memKind (nd : Node) : AccKind := if nd.word.mode = 0 then .load else if nd.word.mode = 1 then .store else .atomic

/-- Where an address of a MEM node leads, through the copies that its stream sees (R184, R251). -/
def memLoc (s : State) (c n : Nat) (x : Cell) (nd : Node) (a : W) : Except NodeErr NodeLoc :=
  nodeLoc (withVis s x.crew.asid (memOf nd).image) c n x nd (memKind nd) (nd.word.mclass == 1 && nd.word.mode != 2)
    (elemBytes nd.word.type) a

/-- The address of lane i of a beat. -/
def laneAddr (b : MemBeat) (i : Nat) : W := w64 ((b.addr.getD i none).getD 0)

/-- Where lane i of a beat leads, if anywhere. -/
def laneLoc (s : State) (c n : Nat) (x : Cell) (nd : Node) (b : MemBeat) (i : Nat) : Option Loc :=
  match memLoc s c n x nd (laneAddr b i) with
  | .ok r => some r.loc
  | .error _ => none

/-- The lane that performs next (R184): the one that the event names where the class is RANDOM, else the first that is left, so
that a stream is split at one place (R254). -/
def laneNext (nd : Node) (b : MemBeat) (e : Nat) : Option Nat :=
  match lanesDue nd b with
  | [] => none
  | first :: rest => if nd.word.mclass = 1 ∧ (first :: rest).contains e = true then some e else some first

/-- Perform the access of lane i, where nothing holds it. -/
def laneStep (s : State) (c n : Nat) (x : Cell) (nd : Node) (b : MemBeat) (due : List Nat) (i : Nat) : State :=
  let w := nd.word
  let size := elemBytes w.type
  let va := laneAddr b i
  let v := (b.data.getD i none).getD 0
  match memLoc s c n x nd va with
  | .error .stall => pageRequest s x.crew.asid (.node c n) va (w.mode != 0)
  | .error (.fault code sub) => laneFault s c n x nd i code sub
  | .ok r =>
    if laneHeld s c n x (laneLoc s c n x nd b) due i size r.loc then s
    else if w.mode ≠ 0 ∧ laneProof s x va size r = true then holdNode s c n
    else if isRemote r.loc then
      (let s1 := fillTlb s (nodeWho s x va size) va
       if w.mode = 0 then laneRemote s1 c n x nd i false r.loc (List.replicate size 0)
       else laneRemote s1 c n x nd i true r.loc (leBytes size v))
    else if w.mode = 0 then laneLoad s c n x nd i va r size
    else if w.mode = 1 then laneStore s c n x nd i va r size v
    else laneRmw s c n x nd i va r size v

/-- What a LOAD emits for a position with no access: +0 outside the actual box of a ZERO-padded order, else a hole (R186). -/
def laneHole (nd : Node) (i : Nat) : Option Nat :=
  let p := nd.port 0
  if nd.word.mode = 0 ∧ nd.ord.pad = 1 ∧ nd.ord.anyRagged = true ∧
      inActual nd.ord p.len ((coords nd.ord p.len).getD (p.pos + i) []) = false then some 0 else none

/-- Every lane of the beat has performed: it is consumed, and a LOAD or RMW emits its lanes. -/
def beatDone (x : Cell) (n : Nat) (nd : Node) (b : MemBeat) : Cell :=
  let m := memOf nd
  let y := setMem (setNode x n (fun z => consume z (memPorts nd))) n (fun q => { q with out := [] })
  if nd.word.mode = 1 then y
  else
    let lanes := (List.range b.addr.length).map (fun i => match m.out.find? (fun e => e.1 == i) with
      | some e => e.2
      | none => if i < b.k then laneHole nd i else none)
    setNode (sendA y n (.data lanes)) n (fun z => { z with outPosA := z.outPosA + b.k })

/-- A beat at the ports: its next element performs, and the last completes the beat. -/
def beatStep (s : State) (c n : Nat) (x : Cell) (nd : Node) (xs : List Lanes) (e : Nat) : State :=
  let b := memBeat nd xs
  match laneNext nd b e with
  | none => putCell s c (beatDone x n nd b)
  | some i => if loadOut s c n ((nd.port 0).pos + i) then s else laneStep s c n x nd b (lanesDue nd b) i

/-- The END of a MEM's stream: the ports' ENDs are taken, a LOAD or RMW ends its data; DONE follows (R182). -/
def memFin (s : State) (x : Cell) (n : Nat) (nd : Node) : Cell :=
  let y := (memPorts nd).foldl (fun z k => match nd.head k with
    | some (.fin _ g) => mergeNode s (setNode z n (fun q => setPort (popHead q k) k (fun p => { p with ended := true }))) n g
    | _ => z) x
  if nd.word.mode = 1 then y else sendA y n (.fin nd.outPosA (nodeSig s y n))

/-- The LEN of port A is forwarded with the data (R66, R181). -/
def memLen (nd : Node) (y : Cell) (n : Nat) : Cell :=
  match y.nodes[n]? with
  | some nd1 =>
    (match nd.head 0, (nd.port 0).len, (nd1.port 0).len with
     | some (.len a b d e), none, some _ => if nd.word.mode = 1 then y else sendA y n (.len a b d e)
     | _, _, _ => y)
  | none => y

/-- A stream begins at a node: with its record in the peat log, and with every line leased to the point of a STREAM snapshot. -/
def memBegins (s : State) (c n : Nat) (x : Cell) (nd : Node) : State :=
  let y := memBegin s x n nd
  let t := if nd.word.mode = 0 ∧ nd.word.mclass = 0 then (y.nodes[n]?).elim 0 (fun z => z.pts) else 0
  raiseFloor (putCell (streamRec s x c n nd) c y) t

/-- A step of a MEM LOAD, STORE or RMW (R184). -/
def memStep (s : State) (c n e : Nat) (x : Cell) (nd : Node) : State :=
  let m := memOf nd
  match memDone s x n nd with
  | some y => putCell s c y
  | none =>
    if !m.begun then (if memMayBegin s c nd && streamFree s x c n nd then memBegins s c n x nd else s)
    else if (memPorts nd).all (fun k => (nd.port k).ended) then s
    else
      match lockAct s x n nd (memPorts nd) (fun _ => 0) false with
      | .idle => s
      | .cell y => putCell s c (memLen nd y n)
      | .fin => putCell s c (memFin s x n nd)
      | .beat xs => beatStep s c n x nd xs e

/-- MEM_LOAD (R184, R186). -/
def execMemLoad (c n e : Nat) (s : State) : Host.Outcome State Fault Refusal :=
  .next (memEvent s c n (fun w => w.kind == kMEM && w.mode == 0) (fun x nd => memStep s c n e x nd))

/-- MEM_STORE (R184, R186). -/
def execMemStore (c n e : Nat) (s : State) : Host.Outcome State Fault Refusal :=
  .next (memEvent s c n (fun w => w.kind == kMEM && w.mode == 1) (fun x nd => memStep s c n e x nd))

/-- MEM_RMW (R185). -/
def execMemRmw (c n e : Nat) (s : State) : Host.Outcome State Fault Refusal :=
  .next (memEvent s c n (fun w => w.kind == kMEM && w.mode == 2) (fun x nd => memStep s c n e x nd))

/-- The slot of a POP or PUSH stream that has ended (R189): a reader releases it, a writer has written it. -/
def slotEnds (s : State) (c n : Nat) (nd : Node) : State :=
  match nodeFifo s c nd, (memOf nd).slot with
  | some b, some k => updFifo s b (fun r => if nd.word.mode = 0 then fifoRelease r k (c, n) else fifoWritten r k)
  | _, _ => s

/-- DONE_EMIT (R182): every access of the stream has performed. -/
def execDoneEmit (c n : Nat) (s : State) : Host.Outcome State Fault Refusal :=
  .next (memEvent s c n (fun w => w.kind == kMEM && decide (w.mode ≤ 2)) (fun x nd =>
    let m := memOf nd
    if !m.begun || !(memPorts nd).all (fun k => (nd.port k).ended) || !(nodeOps s c n).isEmpty || !roomAll x n then s
    else
      let g := nodeSig s x n
      let send (y : Cell) (t : Token) : Cell := if nd.word.mode = 1 then sendBoth y n t else sendB y n t
      let y := send (send x (.done m.count g)) (.fin 0 g)
      let after (p : MemState) : MemState :=
        { p with begun := false, streams := p.streams + 1, image := none, slot := none, out := [], count := 0 }
      let ports (q : Node) : List Port :=
        (List.range q.ports.length).map (fun k => if (memPorts nd).contains k then resetPort 0 (q.port k) else q.port k)
      let z := setNode y n (fun q => { q.withMem after with outPosA := 0, outPosB := 0, failing := false, ports := ports q })
      slotEnds (putCell s c z) c n nd))

/-! ### Circular buffers at a MEM node (R189) -/

/-- A POP or PUSH node that wants a slot for its next stream, and the run. -/
def nodeWants (s : State) (c : Nat) (nd : Node) : Option (BankAt × FifoRun) :=
  let m := memOf nd
  if m.begun || m.slot.isSome || !memReady nd then none
  else match nodeFifo s c nd with
    | none => none
    | some b => match fifoOf s b with
      | some f => some (b, f)
      | none => none

/-- The pts of the writer of a slot: the reader's accesses follow its writes (R247). -/
def writerPts (s : State) (w : Option FifoWriter) : Nat :=
  match w with
  | some (.channel e ch) => (chanOf s e ch).elim 0 (fun c => c.pts)
  | some (.node c n) => (nodeOf s c n).elim 0 (fun nd => nd.pts)
  | none => 0

/-- A wait on FREE or FILLED ends with its CIRCBUF edge; a node that never waited records none. -/
def circbufEdge (s : State) (c n : Nat) (nd : Node) (g : Sig × W) : State :=
  match nd.held with
  | some t0 => updNode (endWaitNode s c n g.1 12 g.2 (s.cycle - t0)) c n (fun z => { z with held := none })
  | none => s

/-- FIFO_READER_ACQUIRE (R189): a POP reader takes slot HEAD, or waits on FILLED. -/
def execFifoReaderAcquire (c n : Nat) (s : State) : Host.Outcome State Fault Refusal :=
  .next (memEvent s c n (fun w => w.kind == kMEM && w.mode == 0) (fun _ nd =>
    match nodeWants s c nd with
    | none => s
    | some (b, f) =>
      if f.filled = 0 then holdNode s c n
      else
        let w := (f.slots[f.head]?).elim none (fun e => e.2)
        let s1 := circbufEdge s c n nd (match w with
          | some q => writerSig s q
          | none => (Sig.zero, 0))
        updNode (updFifo s1 b fifoRead) c n (fun z =>
          { z.withMem (fun m => { m with slot := some f.head }) with pts := max z.pts (writerPts s w) })))

/-- A channel waits on FREE of a run: channels take slots before the PUSH node (R189). -/
def runWaited (s : State) (b : BankAt) : Bool := s.esets.any (fun e => esetRuns s e.2 && e.2.channels.any (waitsFree s e.2 b))

/-- A PUSH node takes slot TAIL, or waits on FREE. -/
def nodeAcquires (s : State) (c n : Nat) : State :=
  memEvent s c n (fun w => w.kind == kMEM && w.mode == 1) (fun _ nd =>
    match nodeWants s c nd with
    | none => s
    | some (b, f) =>
      if f.free = 0 || runWaited s b then holdNode s c n
      else
        let s1 := circbufEdge s c n nd (readerSig s f)
        updNode (updFifo s1 b (fun r => fifoTake r (.node c n))) c n (fun z => z.withMem (fun m => { m with slot := some f.tail })))

/-- FIFO_WRITER_ACQUIRE (R189). -/
def execFifoWriterAcquire (w : FifoWriter) (s : State) : Host.Outcome State Fault Refusal :=
  .next (match w with
    | .channel e ch => channelAcquires s e ch
    | .node c n => nodeAcquires s c n)

/-! ### Links (R187, R240 to R242) -/

/-- What stands first for a channel of a context among what has come in. -/
def chanHead (s : State) (asid chan : Nat) : Option (Nat × Inbound) :=
  match s.fl.inbound.findIdx? (ofChan asid chan) with
  | some k => (match s.fl.inbound[k]? with
    | some i => some (k, i)
    | none => none)
  | none => none

/-- Something that came in has been taken. -/
def takeInbound (s : State) (k : Nat) : State := { s with fl := { s.fl with inbound := dropAt s.fl.inbound k } }

/-- LINKIN_DESCRIPTOR_RECEIVE (R241): the descriptor is compared with ORD, TYPE and CTRL; a difference breaks the link. A link that its port
has lost stays broken (R313). -/
def execLinkinDescriptorReceive (c n : Nat) (s : State) : Host.Outcome State Fault Refusal :=
  .next (memEvent s c n (fun w => w.kind == kMEM && w.mode == 3) (fun x nd =>
    match chanHead s x.crew.asid (linkChan nd) with
    | some (k, .descriptor _ _ ord ty ctrl port) =>
      let sub : Option (BitVec 8) := if ord ≠ nd.ord.raw then some 4 else if ty ≠ nd.word.type ∨ ctrl ≠ nd.word.ctrl then some 5 else none
      updNode (takeInbound s k) c n (fun z => z.withMem (fun m =>
        { m with desc := some (ord, ty, ctrl, port), begun := false,
                 broken := if m.broken.any (fun p => p.code == cLINK) then m.broken else sub.map (fun q => poisonOf x n cCONNECT q 0) }))
    | _ => s))

/-- A token of a broken channel (R241, R313): POISON and END stand for each stream; what comes is consumed. -/
def brokenToken (s : State) (x : Cell) (n : Nat) (m : MemState) (p : Poison) (t : Token) : Cell :=
  let start (y : Cell) : Cell := if m.begun then y else sendBoth (sendBoth y n (.poison p)) n (.fin 0 (nodeSig s y n))
  match t with
  | .fin _ g => let y := mergeNode s x n g; setMem (start y) n (fun q => { q with begun := false })
  | .data _ | .scale _ _ | .len _ _ _ _ | .done _ _ => setMem (start x) n (fun q => { q with begun := true })
  | .sluice sid g => let y := mergeNode s x n g; sendBoth y n (.sluice sid (nodeSig s y n))
  | .snap e => sendBoth x n (.snap e)
  | .poison _ => x

/-- A token that a LINKIN emits: signals carry its own label (R314, R315). It counts the positions of its stream (R64); it keeps
the stream's LEN at port A, which nothing feeds. -/
def linkToken (s : State) (x : Cell) (n : Nat) (t : Token) : Cell :=
  match t with
  | .fin k g =>
    let y := mergeNode s x n g
    setMem (setNode (sendBoth y n (.fin k (nodeSig s y n))) n (fun z => setPort z 0 (fun p => { p with len := none }))) n
      (fun q => { q with begun := false, cur := 0 })
  | .done k g => let y := mergeNode s x n g; setMem (sendBoth y n (.done k (nodeSig s y n))) n (fun q => { q with begun := true })
  | .sluice sid g => let y := mergeNode s x n g; sendBoth y n (.sluice sid (nodeSig s y n))
  | .data l =>
    let left (z : Node) (q : MemState) : Nat := min z.ord.lanes (countOf z.ord (z.port 0).len - q.cur)
    setNode (sendBoth x n (.data l)) n (fun z => z.withMem (fun q => { q with begun := true, cur := q.cur + left z q }))
  | .len a b d e =>
    setMem (setNode (sendBoth x n (.len a b d e)) n (fun z => setPort z 0 (fun p => { p with len := some [a, b, d, e] }))) n
      (fun q => { q with begun := true })
  | .scale o b => setMem (sendBoth x n (.scale o b)) n (fun q => { q with begun := true })
  | t => sendBoth x n t

/-- The pts of the LINKOUT of this device that sends on a channel of a context (R242). -/
def chanPts (s : State) (asid chan : Nat) : Nat :=
  s.cells.foldl (fun t e => if e.2.crew.asid = asid then e.2.nodes.foldl (fun u nd =>
    if nd.word.kind = kMEM ∧ nd.word.mode = 4 ∧ linkChan nd = chan ∧ prmField nd.params 0 16 16 = 0 then max u nd.pts else u) t else t) 0

/-- What comes next of a channel: a token, or the end of what its port delivers. -/
inductive Came where
  | token (t : Token)
  | lost
  deriving DecidableEq, Repr

/-- Its words in an ORDER record. -/
def cameWords (e : Came) : List W :=
  match e with
  | .token t => tokenWords t
  | .lost => [9]

/-- What comes next at a LINKIN and the state without it: of the channel, or under replay of the next ORDER record (R398). A token waits for
the descriptor (R241). -/
def linkinNext (s : State) (c n : Nat) (x : Cell) (nd : Node) : Option (State × Came) :=
  let a := x.crew.asid
  if replays s a then
    let o := nextOrder s a
    if (o.drop 1).take 3 = [3, w64 c, w64 n] then some (s, if o.getD 4 0 = 9 then .lost else .token (tokenOf s.cycle (o.drop 4))) else none
  else match chanHead s a (linkChan nd) with
    | some (k, .token _ _ t) => if (memOf nd).desc.isSome then some (takeInbound s k, .token t) else none
    | some (k, .down _ _) => some (takeInbound s k, .lost)
    | _ => none

/-- The streams of a LINKIN whose port has gone down (R313): POISON and END in place of the current one, with the position that it had come to
(R64); what is left of it goes, and POISON and END stand for each later one. -/
def linkinLoses (s : State) (x : Cell) (n : Nat) (m : MemState) : Cell :=
  let y := if m.begun && m.broken.isNone then
      setMem (sendBoth (sendBoth { x with entered := x.entered + 1 } n (.poison (poisonOf x n cLINK 2 m.cur))) n (.fin 0 (nodeSig s x n))) n (fun q => { q with cur := 0 })
    else x
  setMem y n (fun q => { q with broken := some (poisonOf x n cLINK 2 0) })

/-- LINKIN_RECEIVE (R187, R241, R313): the next token of the channel, once the descriptor is there; or the loss of its port, behind what that
had delivered. -/
def execLinkinReceive (c n : Nat) (s : State) : Host.Outcome State Fault Refusal :=
  .next (memEvent s c n (fun w => w.kind == kMEM && w.mode == 3) (fun x nd =>
    let m := memOf nd
    match agenSluice s c n x nd with
    | some s1 => s1
    | none =>
      match linkinNext s c n x nd with
      | some (s0, e) =>
        if !roomAll x n then s
        else
          let z := match e, m.broken with
            | .lost, _ => linkinLoses s x n m
            | .token t, some p => brokenToken s { x with entered := x.entered + 1 } n m p t
            | .token t, none => linkToken s { x with entered := x.entered + 1 } n t
          let s1 := orderRec s0 x.crew.asid (dieOf x.cluster) nd.pts 3 (w64 c :: w64 n :: cameWords e)
          putCell s1 c (setNode z n (fun q => { q with pts := max q.pts (chanPts s x.crew.asid (linkChan nd)) }))
      | none => s))

/-- What a LINKOUT's stream breaks (R65). -/
def linkBad (nd : Node) (t : Token) : Option (BitVec 8 × Nat) :=
  let p := nd.port 0
  match t with
  | .len _ _ _ _ => if lenBad nd 0 then some (2, 0) else none
  | .data xs => if lenDue p then some (2, 0) else (beatBad p xs).map (fun r => (3, r))
  | .fin k _ => if lenDue p then some (2, 0) else (endBad p k).map (fun r => (3, r))
  | _ => none

/-- LINKOUT_SEND (R187): the next token of port A leaves over the channel, where it may (R53, R240, R289, R313). -/
def execLinkoutSend (c n : Nat) (s : State) : Host.Outcome State Fault Refusal :=
  .next (memEvent s c n (fun w => w.kind == kMEM && w.mode == 4) (fun x nd =>
    match nd.head 0 with
    | none => s
    | some t =>
      if t.isPoison || t.isSluice || t.isSnap then s
      else match linkGate s c n x nd with
      | some s1 => s1
      | none =>
        match linkBad nd t with
        | some e => putCell s c (emitPoison (setNode x n (fun z => popHead z 0)) n cLENGTH e.1 e.2)
        | none =>
          let from0 := (x.nodes[(nd.port 0).src]?).elim 0 (fun p => p.pts)
          let y := setNode x n (fun z => { z with pts := max z.pts from0 })
          let pop (z : Cell) (f : Port → Port) : Cell := setNode z n (fun q => setPort (popHead q 0) 0 f)
          match t with
          | .data _ => linkSend (putCell s c (setNode y n (fun z => setPort z 0 takeBeat))) c n nd t
          | .len a b d e => linkSend (putCell s c (pop y (fun p => { p with len := some [a, b, d, e], begun := true }))) c n nd t
          | .fin k g =>
            let z := mergeNode s (pop y (resetPort 0)) n g
            linkSend (putCell s c z) c n nd (.fin k (nodeSig s z n))
          | .done k g =>
            let z := mergeNode s (pop y id) n g
            linkSend (putCell s c z) c n nd (.done k (nodeSig s z n))
          | _ => linkSend (putCell s c (pop y (fun p => { p with begun := true }))) c n nd t))

end Sys2Proof.Machine
end

