-- ==== Sys2Proof/Machine/Mma.lean ====
section
/-! DEFINITION. The matrix operator (R195 to R211): operand tiles, product streams, passes, emission, the stationary B and the
near-bank B. -/

namespace Sys2Proof.Machine

/-! ### State and parameters -/

/-- An operand path with nothing in it. -/
def OpPath.fresh : OpPath := ⟨[], [], []⟩

/-- A tile of zeros. -/
def zeroTile : List Nat := List.replicate 4096 0

/-- An MMA as CFG leaves it (R201). -/
def MmaState.fresh (unit : Option Nat) : MmaState :=
  { tiles := List.replicate 4 (.empty, zeroTile), a := OpPath.fresh, b := OpPath.fresh, s := 0, begun := false, decay := none,
    ksteps := 0, emits := [], statB := none, j := 0, used := 0, unit := unit, upts := 0, ulabel := Label.zero, drop := false, dropB := false, made := [] }

/-- The state of an MMA node. -/
def mmaOf (nd : Node) : MmaState :=
  match nd.st with
  | .mma m => m
  | _ => MmaState.fresh none

/-- Change the state of an MMA node. -/
def setMma (x : Cell) (n : Nat) (f : MmaState → MmaState) : Cell := setNode x n (fun nd => { nd with st := .mma (f (mmaOf nd)) })

/-- ATYPE or BTYPE (R198). -/
def mmaType (nd : Node) (k : Nat) : Nat := prmField nd.params 0 (6 * k) 6
/-- APLANES or BPLANES. -/
def mmaPlanes (nd : Node) (k : Nat) : Nat := prmField nd.params 0 (12 + 4 * k) 4
/-- The block size of the scales of a port: 0 for none (R198). -/
def mmaBlock (nd : Node) (k : Nat) : Nat := match prmField nd.params 0 (20 + 2 * k) 2 with | 1 => 16 | 2 => 32 | _ => 0
/-- NACCM1 + 1. -/
def mmaTiles (nd : Node) : Nat := prmField nd.params 0 24 2 + 1
/-- REUSE. -/
def mmaReuse (nd : Node) : Nat := prmField nd.params 0 64 16
/-- BSTRIDE. -/
def mmaStride (nd : Node) : Int := sval 48 (prmField nd.params 0 80 48)
/-- STACK. -/
def mmaStack (nd : Node) : Nat := prmField nd.params 0 36 3

/-- The tile of the product stream in progress (R201). -/
def mmaTile (nd : Node) (m : MmaState) : Nat := m.s % mmaTiles nd

/-! ### Operand tiles (R202) -/

/-- An operand element: its pattern and the scale in effect at its position. -/
abbrev Operand := Option (Nat × Option Nat)

/-- A tile is full. -/
def OpTile.full (t : OpTile) : Bool := t.last || t.cols.length == 64

/-- A path can take a beat: fewer than two full tiles. -/
def OpPath.room (p : OpPath) : Bool := decide ((p.tiles.filter OpTile.full).length < 2)

/-- One k-step enters the tile that fills. -/
def OpPath.addCol (p : OpPath) (col : List Operand) : OpPath :=
  match p.tiles.getLast? with
  | some t => if t.full then { p with tiles := p.tiles ++ [⟨[col], false⟩] }
    else { p with tiles := p.tiles.dropLast ++ [⟨t.cols ++ [col], false⟩] }
  | none => { p with tiles := [⟨[col], false⟩] }

/-- Elements enter a path; each 64 make a k-step. -/
def OpPath.add : Nat → OpPath → List Operand → OpPath
  | 0, p, _ => p
  | f + 1, p, l =>
    let all := p.part ++ l
    if all.length < 64 then { p with part := all } else OpPath.add f ({ p with part := [] }.addCol (all.take 64)) (all.drop 64)

/-- The END of a path's stream. -/
def OpPath.ends (p : OpPath) : OpPath :=
  let q := if p.part = [] then p else { p with part := [] }.addCol (p.part ++ List.replicate (64 - p.part.length) none)
  match q.tiles.getLast? with
  | some t => if t.full then { q with tiles := q.tiles ++ [⟨[], true⟩] } else { q with tiles := q.tiles.dropLast ++ [⟨t.cols, true⟩] }
  | none => { q with tiles := [⟨[], true⟩] }

/-- The 256 elements of a laminate block of which p planes are read (R30, R197); a plane of 2^256 stands for a hole. -/
def laminateElems (signed : Bool) (p : Nat) (planes : List Nat) : List Operand :=
  let read := planes.take p
  (List.range 256).map (fun i =>
    if read.any (fun v => v == pow2 256) then none
    else some (wrapTo 16 (laminateOf signed (read.map (fun v => v / pow2 i % 2 == 1))), none))

/-- The planes of a stream enter a path; each Kp make a block of four k-steps. -/
def OpPath.addPlanes (t p : Nat) : Nat → OpPath → List Nat → OpPath
  | 0, q, _ => q
  | f + 1, q, l =>
    let all := q.planes ++ l
    let k := lamPlanes t
    if all.length < k then { q with planes := all }
    else OpPath.addPlanes t p f (OpPath.add 8 { q with planes := [] } (laminateElems (lamSigned t) p (all.take k))) (all.drop k)

/-- A path after a beat of a port. -/
def mmaAdd (nd : Node) (k : Nat) (p : OpPath) (xs : Lanes) : OpPath :=
  let q := nd.port k
  let l := xs.take (beatPositions q)
  let t := mmaType nd k
  if isLam t then OpPath.addPlanes t (mmaPlanes nd k) (l.length + 1) p (l.map (fun v => v.getD (pow2 256)))
  else
    let b := mmaBlock nd k
    OpPath.add (l.length + 1) p ((List.range l.length).map (fun i => (l.getD i none).map (fun v =>
      (v, if b = 0 then none else scaleAt q b (q.pos + i)))))

/-- Path A or B. -/
def mmaPath (m : MmaState) (k : Nat) : OpPath := if k = 0 then m.a else m.b
/-- Change path A or B. -/
def setPath (m : MmaState) (k : Nat) (f : OpPath → OpPath) : MmaState := if k = 0 then { m with a := f m.a } else { m with b := f m.b }

/-- The ports whose operand streams the product stream in progress takes (R195, R206). -/
def mmaPorts (nd : Node) (m : MmaState) : List Nat :=
  match nd.word.mode with
  | 0 => [0, 1]
  | 1 => if m.statB.isNone && (memReady nd || (nd.port 0).begun || (nd.port 0).ended) then [0, 1] else [0]
  | _ => [0]

/-- A POISON that the node raises, on the stream of port B where `b`, hits the product stream (R200, R203, R209). -/
def mmaPoison (x : Cell) (n : Nat) (code sub : BitVec 8) (rec : Nat) (b : Bool) : Cell :=
  setMma (emitPoison x n code sub rec) n (fun m => { m with drop := true, dropB := m.dropB || b })

/-- A step of an operand port: SCALE, LEN, a beat, END, and the checks of its stream (R65, R200, R202). -/
def mmaTake (s : State) (x : Cell) (n : Nat) (nd : Node) (k : Nat) : Option Cell :=
  let p := nd.port k
  let drop := setNode x n (fun z => popHead z k)
  let b := mmaBlock nd k
  if p.ended then none
  else if lenBad nd k then some (mmaPoison drop n cLENGTH 2 0 (k == 1))
  else match nd.head k with
    | some (.scale off bs) =>
      if b = 0 then some (mmaPoison drop n cCONNECT 5 0 (k == 1))
      else (match latchScale p b off bs with
        | some q => some (setNode x n (fun z => setPort z k (fun _ => q)))
        | none => some (mmaPoison drop n cLENGTH 4 (p.pos + off) (k == 1)))
    | some (.len a e d f) => some (setNode drop n (fun z => setPort z k (fun q => { q with len := some [a, e, d, f], begun := true })))
    | some (.data xs) =>
      if lenDue p then some (mmaPoison x n cLENGTH 2 0 (k == 1))
      else match beatBad p xs with
        | some r => some (mmaPoison drop n cLENGTH 3 r (k == 1))
        | none =>
          let bare := (List.range (min xs.length (beatPositions p))).find? (fun i =>
            b != 0 && (xs.getD i none).isSome && (scaleAt p b (p.pos + i)).isNone)
          match bare with
          | some i => some (mmaPoison x n cLENGTH 4 (p.pos + i) (k == 1))
          | none =>
            if (mmaPath (mmaOf nd) k).room then
              some (setMma (setNode x n (fun z => setPort z k takeBeat)) n (fun m => setPath m k (fun q => mmaAdd nd k q xs)))
            else none
    | some (.fin cnt g) =>
      if lenDue p then some (mmaPoison x n cLENGTH 2 0 (k == 1))
      else match endBad p cnt with
        | some r => some (mmaPoison x n cLENGTH 3 r (k == 1))
        | none =>
          some (setMma (mergeNode s (setNode drop n (fun z => setPort z k (fun q => { q with ended := true }))) n g) n
            (fun m => setPath m k OpPath.ends))
    | _ => none

/-! ### Products (R38, R39, R197) -/

/-- The integer value of an operand. -/
def operandInt (t v : Nat) : Int := if isLam t then sval 16 v else ival t v

/-- The value of a float operand under its scale (R27, R200). FTZ never flushes an operand element (R26, R38). -/
def operandFl (t : Nat) (e : Nat × Option Nat) : Fl :=
  let v := decodeF t e.1
  match e.2 with
  | none => v
  | some sc => match decodeF 15 sc with
    | .fin _ _ k => scaleF v k
    | _ => Fl.nan

/-- The float products of one element of the tile, k-step by k-step; a hole forms none (R196). -/
def floatProducts (nd : Node) (ca cb : List (List Operand)) (i j : Nat) : List (Option (Fl × Bool)) :=
  (ca.zip cb).map (fun e => match e.1.getD i none, e.2.getD j none with
    | some a, some b =>
      let u := operandFl (mmaType nd 0) a
      let v := operandFl (mmaType nd 1) b
      some (mulF u v, u.isNan || v.isNan)
    | _, _ => none)

/-- The exact integer sum of the products of one element. -/
def intProducts (nd : Node) (ca cb : List (List Operand)) (i j : Nat) : Int :=
  (ca.zip cb).foldl (fun (t : Int) e => match e.1.getD i none, e.2.getD j none with
    | some a, some b => t + operandInt (mmaType nd 0) a.1 * operandInt (mmaType nd 1) b.1
    | _, _ => t) 0

/-- The node works on integers (R197). -/
def mmaIsInt (nd : Node) : Bool := mmaInt (mmaType nd 0)

/-- A pattern of the accumulator is NaN. -/
def accNan (v : Nat) : Bool := (decodeF 11 v).isNan

/-- One pass on a tile (R203): its elements, the flags raised, and the elements whose NaN this pass made of operands none of which
was one (R47). -/
def mmaAccumulate (nd : Node) (nbv : Nat) (acc : List Nat) (ca cb : List (List Operand)) : List Nat × BitVec 6 × List Nat :=
  if mmaIsInt nd then
    ((List.range 4096).map (fun q => wrapTo 32 ((acc.getD q 0 : Int) + intProducts nd ca cb (q / 64) (q % 64))), 0, [])
  else
    let r := (List.range 4096).map (fun q =>
      let ps := floatProducts nd ca cb (q / 64) (q % 64)
      let v := accumulatePass nbv nd.word.ftz (acc.getD q 0) ps
      (v, accNan v.1 && !accNan (acc.getD q 0) && !ps.any (fun p => p.elim false Prod.snd)))
    (r.map (fun e => e.1.1), r.foldl (fun f e => f ||| e.1.2) 0,
     (List.range 4096).filter (fun q => (r[q]?).elim false Prod.snd))

/-- The decay multiply of an element (R203). -/
def mmaDecay (ftz : Bool) (d acc : Nat) : Nat × BitVec 6 :=
  let x := flushIn 11 acc ftz
  let y := flushIn 11 d ftz
  let v := mulF x y
  let r := narrowF 11 0 false ftz v
  (r.1, r.2 ||| nvOf (x.isNan || y.isNan) v)

/-- The prelude of a product stream (R203): the tile's values as the stream finds them, the flags raised, and the elements that
hold a NaN made of operands none of which was one. -/
def mmaPrelude (nd : Node) (m : MmaState) (d : Option Nat) : List Nat × BitVec 6 × List Nat :=
  let t := m.tiles.getD (mmaTile nd m) (.empty, zeroTile)
  let clear := nd.word.flags.getLsbD 4 || t.1 == .empty
  let acc := if clear then zeroTile else t.2
  let old := if clear then [] else (m.made.filter (fun e => e.1 == mmaTile nd m)).map Prod.snd
  match d with
  | none => (acc, 0, old)
  | some v =>
    let r := acc.map (mmaDecay nd.word.ftz v)
    (r.map Prod.fst, r.foldl (fun f e => f ||| e.2) 0,
     old ++ (List.range acc.length).filter (fun q => accNan ((r.getD q (0, 0)).1) && !accNan (acc.getD q 0) && !accNan v))

/-! ### The near-bank B (R208) -/

/-- One row of bytes that a pass reads: its first k-step, its address, its length (0 where the pass needs none of it), and the k-steps
that it gives. -/
structure BankRow where
  k : Nat
  va : W
  len : Nat
  deriving DecidableEq, Repr

/-- The rows of the k-steps from k0 on. A k-step whose column of A is all holes forms no product, so the pass does not need its row
(R196, R208). -/
def bankRows (nd : Node) (base : W) (k0 : Nat) (ca : List (List Operand)) : List BankRow :=
  let t := mmaType nd 1
  let need (l : List (List Operand)) : Bool := l.any (fun col => col.any Option.isSome)
  if isLam t then (List.range ((ca.length + 3) / 4)).map (fun i =>
    ⟨k0 + 4 * i, leaInt base ((k0 / 4 + i : Nat) * mmaStride nd), if need ((ca.drop (4 * i)).take 4) then 32 * lamPlanes t else 0⟩)
  else (List.range ca.length).map (fun i =>
    ⟨k0 + i, leaInt base ((k0 + i : Nat) * mmaStride nd), if need ((ca.drop i).take 1) then 8 * typeBits t else 0⟩)

/-- What reading a row comes to. -/
inductive BankRead where
  | ok (bytes : List Byte) (spans : List (Nat × Nat))
  | fault (code sub : BitVec 8) (pos : Nat)
  | stall (va : W)
  deriving DecidableEq, Repr

/-- A memory address lies on an HBM stack (R335). -/
def onStack (a k : Nat) : Bool := !isSram a && (a / 2 ^ 36) % 8 == k && decide (2 ^ 40 ≤ a)

/-- A line of a row, checked (R186, R208) and read. -/
def bankLine (s : State) (c k : Nat) (x : Cell) (nd : Node) (va : W) (n pos : Nat) : BankRead :=
  match nodeLoc s c k x nd .load false 1 va with
  | .error .stall => .stall va
  | .error (.fault code sub) => .fault code sub pos
  | .ok r =>
    match r.loc with
    | .mem a =>
      if !onStack a (mmaStack nd) then .fault cPROT 3 pos
      else if locPoisoned s x.crew.asid r.loc n then .fault cPOISON 0 pos
      else .ok (locBytes s x.crew.asid s.mem.bytes r.loc n) [(a, n)]
    | _ => .fault cPROT 3 pos

/-- The lines of a row from byte `off` on. -/
def bankRow (s : State) (c k : Nat) (x : Cell) (nd : Node) (r : BankRow) : Nat → Nat → List Byte → List (Nat × Nat) → BankRead
  | 0, _, bs, sp => .ok bs sp
  | f + 1, off, bs, sp =>
    if r.len ≤ off then .ok bs sp
    else
      let n := min 64 (r.len - off)
      let pos := 64 * r.k + (if isLam (mmaType nd 1) then 0 else off * 8 / typeBits (mmaType nd 1))
      match bankLine s c k x nd (r.va + w64 off) n pos with
      | .ok b t => bankRow s c k x nd r f (off + n) (bs ++ b) (sp ++ t)
      | e => e

/-- Every row of a pass. -/
def bankAll (s : State) (c k : Nat) (x : Cell) (nd : Node) : List BankRow → List (List Byte) → List (Nat × Nat) →
    Except BankRead (List (List Byte) × List (Nat × Nat))
  | [], acc, sp => .ok (acc, sp)
  | r :: rest, acc, sp =>
    match bankRow s c k x nd r (r.len / 64 + 1) 0 [] [] with
    | .ok b t => bankAll s c k x nd rest (acc ++ [b]) (sp ++ t)
    | e => .error e

/-- The k-steps that a row's bytes hold; holes where the row was not read. -/
def bankCols (nd : Node) (bs : List Byte) : List (List Operand) :=
  let t := mmaType nd 1
  let v := leVal bs
  if bs = [] then List.replicate (if isLam t then 4 else 1) (List.replicate 64 none)
  else if isLam t then
    let planes := (List.range (lamPlanes t)).map (fun j => v / pow2 (256 * j) % pow2 256)
    let l := laminateElems (lamSigned t) (mmaPlanes nd 1) planes
    (List.range 4).map (fun i => (l.drop (64 * i)).take 64)
  else
    let w := typeBits t
    [(List.range 64).map (fun i => some (v / pow2 (w * i) % pow2 w, none))]

/-! ### Passes (R202, R203) -/

/-- What the node's replicate scalar of a product stream is: still to come, missing or without a valid lane, or there. -/
inductive Scalar where
  | wait
  | bad (rec : Nat)
  | ok (v : Nat)
  deriving DecidableEq, Repr

/-- The scalar of a replicate port. -/
def scalarOf (p : Port) : Scalar :=
  match p.scalar with
  | some (some v) => .ok v
  | some none => .bad 0
  | none => if p.ended then .bad p.nscal else .wait

/-- The operands of the next pass: the k-steps of A and of B, whether the pass is the stream's last, and the spans that B was
read from. -/
inductive PassIn where
  | wait
  | short (rec : Nat)
  | poison (code sub : BitVec 8) (rec : Nat)
  | stall (va : W)
  | go (ca cb : List (List Operand)) (last : Bool) (spans : List (Nat × Nat))
  deriving DecidableEq, Repr

/-- The K fields of two LENs differ (R204): the first k-step that one lacks. -/
def lenSplit (nd : Node) : Option Nat :=
  match (nd.port 0).len, (nd.port 1).len with
  | some a, some b =>
    if (nd.port 0).exp.isRagged 1 && (nd.port 1).exp.isRagged 1 && a.getD 1 0 != b.getD 1 0 then some (min (a.getD 1 0) (b.getD 1 0)) else none
  | _, _ => none

/-- The operands of a pass. -/
def passIn (s : State) (c n : Nat) (x : Cell) (nd : Node) (m : MmaState) : PassIn :=
  match nd.word.mode with
  | 0 =>
    (match lenSplit nd with
     | some k => .short (64 * k)
     | none =>
       match m.a.tiles.head?, m.b.tiles.head? with
       | some a, some b =>
         if !a.full || !b.full then .wait
         else if a.cols.length ≠ b.cols.length ∨ a.last ≠ b.last then .short (64 * (m.ksteps + min a.cols.length b.cols.length))
         else .go a.cols b.cols a.last []
       | _, _ => .wait)
  | 1 =>
    (match m.statB with
     | none => .wait
     | some b =>
       if !(nd.port 0).ended || m.begun then .wait
       else match lenSplit nd with
       | some k => .short (64 * k)
       | none =>
         let ca := m.a.tiles.flatMap (fun t => t.cols)
         if ca.length ≠ b.cols.length then .short (64 * min ca.length b.cols.length) else .go ca b.cols true [])
  | _ =>
    match m.a.tiles.head? with
    | none => .wait
    | some a =>
      if !a.full then .wait
      else match scalarOf (nd.port 1) with
        | .wait => .wait
        | .bad r => .poison cLENGTH 5 r
        | .ok v =>
          if a.cols = [] then .go [] [] a.last []
          else if v % 64 ≠ 0 ∨ mmaStride nd % 64 ≠ 0 then .poison cALIGN 0 (64 * m.ksteps)
          else if mmaBlock nd 1 ≠ 0 then .poison cLENGTH 4 (64 * m.ksteps)
          else match bankAll s c n x nd (bankRows nd (w64 v) m.ksteps a.cols) [] [] with
            | .error (.fault code sub pos) => .poison code sub pos
            | .error (.stall va) => .stall va
            | .error _ => .wait
            | .ok r => .go a.cols ((r.1.flatMap (bankCols nd)).take a.cols.length) a.last r.2

/-- The decay scalar of the stream's first pass (R203). -/
def passDecay (nd : Node) (m : MmaState) : Scalar :=
  if nd.word.flags.getLsbD 6 && !m.begun then scalarOf (nd.port 2) else .ok 0

/-- A mismatch of the operands' lengths (R204). -/
def mmaShort (x : Cell) (n rec : Nat) : Cell :=
  setNode (mmaPoison x n cLENGTH 1 rec false) n (fun z => { z with failing := true })

/-- One pass (R203), as one update of the tile. -/
def mmaPass (x : Cell) (n : Nat) (nd : Node) (d : Option Nat) (ca cb : List (List Operand)) : Cell :=
  let m := mmaOf nd
  let t := mmaTile nd m
  let was := (m.made.filter (fun e => e.1 == t)).map Prod.snd
  let pre := if m.begun then ((m.tiles.getD t (.empty, zeroTile)).2, (0 : BitVec 6), was) else mmaPrelude nd m d
  let r := mmaAccumulate nd x.cfg.nbv.toNat pre.1 ca cb
  let y := setMma x n (fun q => { q with
    tiles := q.tiles.set t (.live, r.1), made := q.made.filter (fun e => e.1 != t) ++ (pre.2.2 ++ r.2.2).map (fun e => (t, e)), begun := true, decay := some d, ksteps := q.ksteps + ca.length,
    a := { q.a with tiles := if nd.word.mode = 1 then [] else q.a.tiles.drop 1 },
    b := if nd.word.mode = 0 then { q.b with tiles := q.b.tiles.drop 1 } else q.b })
  raiseFlags n y (pre.2.1 ||| r.2.1)

/-- The ports of a node between streams, but for a stationary B that stays in use. -/
def mmaReset (nd : Node) (keepB : Bool) : Node :=
  { nd with ports := (List.range nd.ports.length).map (fun k => if k = 1 ∧ keepB = true then nd.port k else resetPort (mmaBlock nd k) (nd.port k)),
            failing := false }

/-- A product stream has ended (R203): it is emitted, kept or cleared; a stream that POISON hit clears its tile and emits
nothing (R209). -/
def mmaClose (s : State) (x : Cell) (n : Nat) (nd : Node) : Cell :=
  let m := mmaOf nd
  let t := mmaTile nd m
  let old := m.tiles.getD t (.empty, zeroTile)
  let emit := nd.word.flags.getLsbD 7 && !m.drop
  let kept := nd.word.flags.getLsbD 5 && !m.drop
  let tile : TileState × List Nat := if emit then (.draining, old.2) else if kept then old else (.empty, zeroTile)
  let again := decide (m.used + 1 < mmaReuse nd)
  let keepB := nd.word.mode == 1 && again
  let x1 := if nd.failing then sendBoth x n (.fin 0 (nodeSig s x n)) else x
  let y := setMma x1 n (fun q => { q with
    tiles := q.tiles.set t tile, s := q.s + 1, begun := false, decay := none, ksteps := 0, drop := false, dropB := false,
    made := if emit || kept then q.made else q.made.filter (fun e => e.1 != t),
    emits := if emit then q.emits ++ [(t, 0)] else q.emits,
    a := OpPath.fresh, b := OpPath.fresh,
    statB := if nd.word.mode ≠ 1 then none else if again then some (q.statB.getD ⟨[], true⟩) else none,
    used := if nd.word.mode ≠ 1 ∨ again = false then 0 else q.used + 1,
    j := if nd.word.mode = 1 ∧ again = false then q.j + 1 else q.j })
  setNode y n (fun z => mmaReset z keepB)

/-- The ports that the product stream in progress must have ended on before it closes. -/
def mmaMust (nd : Node) (m : MmaState) : List Nat :=
  (readsOf nd).filter (fun k => !(nd.word.mode == 1 && k == 1 && m.statB.isSome))

/-- A product stream that POISON on A hit before its stationary B was there still takes that B, which serves the A streams to come
(R206, R209). -/
def takesB (nd : Node) (m : MmaState) : Bool := nd.word.mode == 1 && m.statB.isNone && !m.dropB

/-- The stationary B is there (R206). -/
def mmaStation (x : Cell) (n : Nat) (nd : Node) : Option Cell :=
  let m := mmaOf nd
  if nd.word.mode = 1 ∧ m.statB = none ∧ (nd.port 1).ended = true ∧ m.dropB = false then
    some (setMma x n (fun q => { q with statB := some ⟨q.b.tiles.flatMap (fun t => t.cols), true⟩, b := OpPath.fresh }))
  else none

/-- The addresses at which a near-bank pass reads. -/
def bankVas (nd : Node) (m : MmaState) (ca : List (List Operand)) : List W :=
  match scalarOf (nd.port 1) with
  | .ok v => (bankRows nd (w64 v) m.ksteps ca).flatMap (fun r => if r.len = 0 then [] else [r.va, r.va + w64 (r.len - 1)])
  | _ => []

/-- A near-bank pass reads its rows as one STREAM snapshot of the unit (R208, R250): after the STRMs that started the cell's streams (R247)
and after the publication of the copies that it reads (R251), with the labels of tracked lines (R316) and the translations used (R336).
The unit's label goes on to its node (DEDUCED, log 18). -/
def bankPass (s : State) (c n : Nat) (x : Cell) (nd : Node) (vas : List W) (sp : List (Nat × Nat)) (y : Cell) : State :=
  let m := mmaOf nd
  let a := x.crew.asid
  let ev := loadEvent s.mem (vas.foldl (fun t va => max t (bufTs s a va)) (max (max (streamPts x nd) m.upts) (lastPub s a))) sp
  let l := (sp.flatMap (fun p => trackedSigs s p.1 p.2)).foldl (mergeLabel s) { m.ulabel with busy := m.ulabel.busy + 1 }
  let z := setNode (setMma y n (fun q => { q with upts := ev.1, ulabel := l })) n (fun q =>
    { q with pts := ev.1, label := if l.edge = m.ulabel.edge then q.label else mergeLabel s q.label (labelSig s l ev.1) })
  putCell (vas.foldl (fun q va => fillTlb q (nodeWho s x va 1) va)
    (noteForeign { s with mem := ev.2 } s.mem a (dieOf x.cluster) ev.1 (nodeUnit s x n) sp)) c z

/-- A step of an MMA: a scalar, an operand token, a pass, the end of a product stream, or a discard. -/
def mmaStep (s : State) (c n : Nat) (x : Cell) (nd : Node) : State :=
  let m := mmaOf nd
  if !roomAll x n then s
  else match repAct s x n nd with
    | some y => putCell s c y
    | none =>
      if m.drop then
        let gone := (mmaMust nd m).filter (fun k => !(k == 1 && takesB nd m))
        match gone.findSome? (discardPort s x n) with
        | some y => putCell s c y
        | none =>
          match (if takesB nd m then (mmaTake s x n nd 1).or (mmaStation x n nd) else none) with
          | some y => putCell s c y
          | none =>
            if (mmaMust nd m).all (fun k => (nd.port k).ended) && !takesB nd m && (!nd.failing || m.emits.isEmpty) &&
                (m.tiles.getD (mmaTile nd m) (.empty, [])).1 != .draining then putCell s c (mmaClose s x n nd) else s
      else match (mmaPorts nd m).findSome? (mmaTake s x n nd) with
        | some y => putCell s c y
        | none =>
          match mmaStation x n nd with
          | some y => putCell s c y
          | none =>
            if m.begun && (nd.port 0).ended && m.a.tiles.isEmpty then
              (if (mmaMust nd m).all (fun k => (nd.port k).ended) then putCell s c (mmaClose s x n nd) else s)
            else if (m.tiles.getD (mmaTile nd m) (.empty, [])).1 = .draining then s
            else match passDecay nd m with
              | .wait => s
              | .bad r => putCell s c (mmaPoison x n cLENGTH 5 r false)
              | .ok d =>
                match passIn s c n x nd m with
                | .wait => s
                | .short r => putCell s c (mmaShort x n r)
                | .poison code sub r => putCell s c (mmaPoison x n code sub r false)
                | .stall va => pageRequest s x.crew.asid (.node c n) va false
                | .go ca cb _ sp =>
                  let y := mmaPass x n nd (if nd.word.flags.getLsbD 6 then some d else none) ca cb
                  if nd.word.mode = 2 then bankPass s c n x nd (bankVas nd m ca) sp y else putCell s c y

/-- MMA_PASS (R202, R203). -/
def execMmaPass (c n : Nat) (s : State) : Host.Outcome State Fault Refusal :=
  .next (memEvent s c n (fun w => w.kind == kMMA) (fun x nd => mmaStep s c n x nd))

/-! ### Emission (R205) -/

/-- An element of the tile in the output type. A NaN in the accumulator counts as an operand unless it was made there of operands none
of which was one: that NaN counts when the element is emitted (R47, R203). -/
def mmaOut (nd : Node) (made : Bool) (v : Nat) : Elem :=
  let w := nd.word
  if mmaIsInt nd then let r := narrowI w.type w.sat (sval 32 v); (r.1, r.2, false)
  else
    let x := decodeF 11 v
    elemOf w.type (x.isNan && !made) (narrowF w.type w.rm w.sat w.ftz x)

/-- MMA_EMIT (R205): the next beat of the oldest emission, or its END. -/
def execMmaEmit (c n : Nat) (s : State) : Host.Outcome State Fault Refusal :=
  .next (nodeEvent s c n (fun w => w.kind == kMMA) (fun x nd =>
    let m := mmaOf nd
    match m.emits with
    | [] => x
    | (t, pos) :: rest =>
      if !roomAll x n then x
      else if 4096 ≤ pos then
        let y := sendBoth x n (.fin 4096 (nodeSig s x n))
        setMma y n (fun q => { q with
          emits := rest,
          made := if nd.word.flags.getLsbD 5 then q.made else q.made.filter (fun e => e.1 != t),
          tiles := q.tiles.set t (if nd.word.flags.getLsbD 5 then (.live, (q.tiles.getD t (.empty, zeroTile)).2) else (.empty, zeroTile)) })
      else
        let l := nd.ord.lanes
        let vs := ((m.tiles.getD t (.empty, zeroTile)).2.drop pos).take l
        let es := (List.range vs.length).map (fun i => mmaOut nd (m.made.contains (t, pos + i)) (vs.getD i 0))
        let y := sendBoth x n (.data (es.map (fun e => some e.1)))
        countElems n (setMma y n (fun q => { q with emits := (t, pos + l) :: rest })) es))

end Sys2Proof.Machine
end

