-- ==== Sys2Proof/Machine/Cells.lean ====
section
/-! DEFINITION. Configuring cells (R12, R17, R69 to R71, R131, R176, R178, R207, R277), starting streams (R132) and draining
(R133), with the interval records of R385. -/

namespace Sys2Proof.Machine

/-! ### Pages and near-bank units (R12, R207, R283) -/

/-- The region of a context on a cluster has been read out (R356). -/
def regionOut (s : State) (asid cluster : Nat) : Bool :=
  match s.regions.find? (fun r => r.asid == asid && r.cluster == cluster) with
  | some r => r.phase == .readOut
  | none => false

/-- The region of a context on a cluster does not run: its pages, thread slots, channels and crossbar stand in the inactive register sets
or in an image, and the active sets are free (R137, R355, R356). -/
def regionAway (s : State) (asid cluster : Nat) : Bool := !regionRuns s asid cluster

/-- The crews of placed launches on a cluster, unless they have been retired or their region does not run. -/
def placedCrews (s : State) (cluster : Nat) : List (CrewId × CrewState) :=
  s.ctxs.flatMap (fun c => if regionAway s c.1 cluster then [] else
    c.2.launches.flatMap (fun l => l.2.crews.filterMap (fun x =>
      if x.cluster = cluster ∧ x.retired = false then some (⟨c.1, l.1, x.crew⟩, x) else none)))

/-- The cell of an index of a crew. -/
def cellAt (s : State) (crew : CrewId) (index : Nat) : Option (Nat × Cell) :=
  s.cells.find? (fun e => e.2.crew == crew && e.2.cfg.index == index)

/-- Pages that the cells of a crew hold. -/
def crewHeld (s : State) (crew : CrewId) : Nat :=
  s.cells.foldl (fun a e => if e.2.crew = crew then a + e.2.pages.length else a) 0

/-- A crew's spill page stays with the crew while cell 0 is not configured (R283). -/
def spillWaits (s : State) (crew : CrewId) (x : CrewState) : Nat :=
  if x.spill.isSome && (cellAt s crew 0).isNone then 1 else 0

/-- Pages of a crew's reservation that no cell of it holds. -/
def unusedReserve (s : State) (crew : CrewId) (x : CrewState) : Nat := x.reserve - (crewHeld s crew + spillWaits s crew x)

/-- Pages of a cluster that are neither held nor reserved (R12). -/
def freePages (s : State) (cluster : Nat) : Nat :=
  let cells := s.cells.foldl (fun a e =>
    if e.2.cluster = cluster ∧ regionAway s e.2.crew.asid cluster = false then a + e.2.pages.length else a) 0
  let kept := (placedCrews s cluster).foldl (fun a e => a + spillWaits s e.1 e.2 + unusedReserve s e.1 e.2) 0
  Config.pagesPerCluster - (cells + kept)

/-- The physical pages of a cluster that something stands on. -/
def usedPhys (s : State) (cluster : Nat) : List Nat :=
  s.cells.flatMap (fun e => if e.2.cluster = cluster ∧ regionAway s e.2.crew.asid cluster = false then e.2.pages.map (fun p => p.phys) else []) ++
  (placedCrews s cluster).filterMap (fun e => match e.2.spill with
    | some p => some p.phys
    | none => none)

/-- The lowest n physical pages of a cluster that nothing stands on. -/
def freePhys (s : State) (cluster : Nat) (n : Nat) : List Nat :=
  ((List.range Config.pagesPerCluster).filter (fun k => !(usedPhys s cluster).contains k)).take n

/-- The crew's spill page, where it has one. -/
def spillOf (s : State) (crew : CrewId) : Option Page :=
  match crewStateOf s crew with
  | some (_, x) => x.spill
  | none => none

/-- Pages that a CFG of a cell of a crew can take now (R12, R131, R283). -/
def pagesAvail (s : State) (crew : CrewId) (cluster index : Nat) : Nat :=
  let own := (cellAt s crew index).elim 0 (fun e => e.2.pages.length)
  let kept := match crewStateOf s crew with
    | some (_, x) => unusedReserve s crew x + (if index = 0 then spillWaits s crew x else 0)
    | none => 0
  freePages s cluster + kept + own

/-- Near-bank units in use: stack × 8 + unit (R207). They have one register set, so a gated region's are in use until it has been read out
(R355). -/
def usedUnits (s : State) (but : Nat) : List Nat :=
  s.cells.flatMap (fun e => if e.1 = but ∨ regionOut s e.2.crew.asid e.2.cluster = true then [] else
    e.2.nodes.filterMap (fun n => match n.st with
      | .mma m => m.unit
      | _ => none))

/-- A unit for every NEARBANK node of a graph, in node order; none while a stack has too few. -/
def bindUnits (g : GraphBlock) (used : List Nat) : List Nat → List (Nat × Nat) → Option (List (Nat × Nat))
  | [], acc => some acc
  | n :: rest, acc =>
    match g.words[n]? with
    | none => bindUnits g used rest acc
    | some w =>
      if w.kind = kMMA ∧ w.mode = 2 then
        let k := prmField (g.prmOf w) 0 36 3
        match (List.range 8).find? (fun i => !used.contains (k * 8 + i) && !acc.any (fun e => e.2 == k * 8 + i)) with
        | some i => bindUnits g used rest (acc ++ [(n, k * 8 + i)])
        | none => none
      else bindUnits g used rest acc

/-! ### CFG (R131) -/

/-- A CONNECT fault: TRAPADDR names the port and the node (R238). -/
def connFault (s : State) (c : Conn) : Fired := .fault s cCONNECT (BitVec.ofNat 8 c.1) (w64 (c.2.2 * 128 + c.2.1))

/-- CONNECT with subcode BADENC that names no node. -/
def badEnc (s : State) : Fired := connFault s (uBADENC, 0, 0)

/-- The role of page k in a cell descriptor. -/
def roleOf (desc : W) (k : Nat) : Nat := field desc (8 + 2 * k) 2

/-- The descriptor's roles are those of its pages, and its reserved fields are zero (R131). -/
def rolesOk (desc : W) (pages : Nat) : Bool :=
  (List.range 16).all (fun k => if k < pages then roleOf desc k != 3 else roleOf desc k == 0)

/-- The places and bytes of a fetch, piece by piece, for the commit to see whether they still hold (R122). -/
def fetchParts (s : State) (th : Thread) (va : W) (n : Nat) : List (Loc × List Byte) :=
  match piecesOf s (whoThread s th va n) .graph va n with
  | .error _ => []
  | .ok ps => ps.map (fun p => (p.1.loc, locBytes s (asidOf th) s.mem.bytes p.1.loc p.2))

/-- The mode of a bank-map entry (R176). -/
def modeOf (m : Nat) : BankMode := match m with | 0 => .cache | 1 => .scratch | 2 => .fifo | 3 => .reorder | _ => .spill

/-- A bank of an old page is released or changes its mode under a graph's bank map (R277). -/
def bankChanges (g : GraphBlock) (old : Cell) (k b : Nat) : Bool :=
  match old.pages[k]? with
  | none => false
  | some p =>
    match p.banks[b]? with
    | none => false
    | some x => decide (g.pages ≤ k) || x.mode != modeOf (mapMode g k b)

/-- A bank that the CFG changes or releases is in use by a copy (R277). -/
def banksHeld (s : State) (crew : CrewId) (g : GraphBlock) (old : Option (Nat × Cell)) : Bool :=
  match old with
  | none => false
  | some e => (List.range e.2.pages.length).any (fun k => (List.range 8).any (fun b =>
      bankChanges g e.2 k b && bankBusy s crew e.1 k b))

/-- The last event that a CFG can have waited for: the drain of the old configuration at its last sink, or the release of the
configuration that last gave back pages of the cluster, whichever came later; its cycle, signal and unit word (R150). -/
def cfgCause (s : State) (cluster : Nat) (old : Option (Nat × Cell)) : Sig × W :=
  let sink : Option (Sig × W) := old.map (fun e => (e.2.drainSig, nodeUnit s e.2 e.2.lastSink))
  match sink, aget s.released cluster with
  | some a, some b => if a.1.stamp < b.1.stamp then b else a
  | some a, none => a
  | none, some b => b
  | none, none => (Sig.zero, 0)

/-- The edge of a CFG (R150). -/
def cfgEnds (s : State) (q : Firing) (old : Option (Nat × Cell)) : State :=
  let c := cfgCause s q.th.home.cluster old
  gateEnds s q c.1 6 c.2

/-- The dies of a context's partition. -/
def diesOf (s : State) (asid : Nat) : BitVec 4 :=
  match partOf s asid with
  | some p => p.dies
  | none => 0

/-- The graph block that the configuration cache of a crew's cell holds for an address and a CHECK (R70). -/
def cachedGraph (s : State) (crew : CrewId) (index : Nat) (l : W) (check : BitVec 32) : Option (List Byte) :=
  (s.cache.find? (fun e => e.crew == crew && e.index == index && e.addr == l && e.check == check)).map (fun e => e.graph)

/-- The graph block of a CFG whose header has been fetched: the cached one, or the fetch of the whole (R70, R71). -/
def graphOrFetch (s : State) (q : Firing) (l r : W) (h : BitVec 128) : Option (List Byte) :=
  match cachedGraph s q.th.home.crew (field r 0 4) l (h.extractLsb' 96 32) with
  | some bs => some bs
  | none => fetchBytes s (whoThread s q.th l (graphBytes h)) .graph l (graphBytes h)

/-- Bytes that a CFG fetches: the header alone where the configuration cache holds the block (R70). -/
def fetchedBytes (s : State) (q : Firing) (l r : W) (h : BitVec 128) : Nat :=
  if (cachedGraph s q.th.home.crew (field r 0 4) l (h.extractLsb' 96 32)).isSome then 16 else graphBytes h

/-- The crew keeps within its 16 pages (R12). -/
def pagesFit (s : State) (crew : CrewId) (old : Option (Nat × Cell)) (pages : Nat) : Bool :=
  decide (pages + (crewHeld s crew - old.elim 0 (fun e => e.2.pages.length)) ≤ 16)

/-- What a CFG waits for holds: pages that are free (R131), banks that no copy uses (R277), near-bank units (R207). -/
def cfgOpen (s : State) (th : Thread) (index : Nat) (g : GraphBlock) (old : Option (Nat × Cell)) : Bool :=
  decide (g.pages ≤ pagesAvail s th.home.crew th.home.cluster index) && !banksHeld s th.home.crew g old &&
  (bindUnits g (usedUnits s (old.elim s.nextId (fun e => e.1))) (List.range g.words.length) []).isSome

/-- CFG once pages are there: the whole fetch, the checks, and what may still hold it. -/
def cfgChecks (s : State) (q : Firing) (l r : W) (h : BitVec 128) (old : Option (Nat × Cell)) : Fired :=
  let crew := q.th.home.crew
  match graphOrFetch s q l r h with
  | none => .fault s cBLOCKFETCH 0 l
  | some bs =>
    let g := graphOf bs
    let roles := (List.range 16).map (roleOf r)
    match connCheck s g bs roles (diesOf s crew.asid) crew.asid (old.elim s.nextId (fun e => e.1)) (field r 0 4) (spillOf s crew) with
    | some c => connFault s c
    | none =>
      if !cfgOpen s q.th (field r 0 4) g old then .held
      else
        let n := fetchedBytes s q l r h
        let s1 := fillPages (cfgEnds s q old) (whoThread s q.th l n) (n / 4096 + 2) l n
        .done s1 (addEff (noteRecs q.b (fetchParts s q.th l n)) (.cfg q.k l r bs))

/-- CFG fires (R131). -/
def fireCfg (s : State) (q : Firing) : Fired :=
  let l := q.sl.l.getD 0
  let r := q.sl.r.getD 0
  let crew := q.th.home.crew
  let old := cellAt s crew (field r 0 4)
  if l.toNat % 16 ≠ 0 then .fault s cALIGN 0 l
  else if field r 40 24 ≠ 0 then badEnc s
  else if !old.elim true (fun e => drained e.2) then .held
  else
    match fetchBytes s (whoThread s q.th l 16) .graph l 16 with
    | none => .fault s cBLOCKFETCH 0 l
    | some hb =>
      let h : BitVec 128 := BitVec.ofNat 128 (leVal hb)
      let pages := (h.extractLsb' 29 8).toNat
      if h.extractLsb' 0 4 ≠ 2 ∨ pages = 0 ∨ pagesFit s crew old pages = false ∨ rolesOk r pages = false then badEnc s
      else if pagesAvail s crew q.th.home.cluster (field r 0 4) < pages then .held
      else cfgChecks s q l r h old

/-- CFG (R131). -/
def execCfg (p : Pm) (s : State) : Host.Outcome State Fault Refusal := .next (fire s (.cfg p) (fireCfg s))

/-- CFG_GATE_OPEN (R131, R277). -/
def execCfgGateOpen (t k : Nat) (s : State) : Host.Outcome State Fault Refusal :=
  .next (retryGate s t k (fun i st => match i with
    | .cfg p => nextOf (execCfg p st) st
    | _ => s))

/-! ### Placing a configuration -/

/-- The INTERVAL record of a configuration that ends (R385, R390). -/
def intervalRec (s : State) (x : Cell) : State :=
  match aget s.ctxs x.crew.asid with
  | none => s
  | some c =>
    if c.pmc.ctl.getLsbD 1 then
      sampleRec s x.crew.asid (dieOf x.cluster) 2
        ([w64 ((cellCoord x).toNat + x.cfg.sntid.toNat * 2 ^ 32), w64 (s.cycle - x.cfg.since)] ++
          x.nodes.flatMap (fun n => [w64 (n.cnt.busy + n.cnt.starved * 2 ^ 32), w64 (n.cnt.blocked + n.cnt.idle * 2 ^ 32)]))
    else s

/-- A bank newly in a mode: empty (R178). -/
def freshBank (g : GraphBlock) (k b : Nat) : Bank :=
  { mode := modeOf (mapMode g k b), cont := mapCont g k b, slotlog := mapSlot g k b, packed := 0, fifo := none }

/-- Banks of the FIFO run of a graph's bank map that begins at bank b of page k. -/
def mapRun (g : GraphBlock) (k b : Nat) : Nat :=
  1 + ((List.range 8).takeWhile (fun j => decide (b + 1 + j < 8) && mapMode g k (b + 1 + j) == 2 && mapCont g k (b + 1 + j))).length

/-- The first bank of the run that bank b continues. -/
def mapFirst (g : GraphBlock) (k : Nat) : Nat → Nat
  | 0 => 0
  | b + 1 => if mapCont g k (b + 1) then mapFirst g k b else b + 1

/-- The contents of bank b of an old page carry over (R178). -/
def bankKept (g : GraphBlock) (p : Page) (k b : Nat) : Bool :=
  match p.banks[b]? with
  | none => false
  | some x =>
    let m := modeOf (mapMode g k b)
    if x.mode = .scratch ∧ m = .scratch then true
    else if x.mode = .spill ∧ m = .spill then true
    else if x.mode = .fifo ∧ m = .fifo then
      let f := mapFirst g k b
      match p.banks[f]? with
      | some y => isFifoFirst y && y.slotlog == mapSlot g k f && runBanks p f == mapRun g k f
      | none => false
    else false

/-- A page under a new bank map, from what stood on it (R178, R188). -/
def mapPage (g : GraphBlock) (k : Nat) (p : Page) (role : Nat) : Page :=
  { p with
    role := role,
    banks := (List.range 8).map (fun b =>
      if bankKept g p k b then (p.banks[b]?).getD (freshBank g k b)
      else if mapMode g k b = 2 ∧ mapCont g k b = false then
        { freshBank g k b with fifo := some (FifoRun.fresh (mapRun g k b * Config.bankBytes / pow2 (mapSlot g k b))) }
      else freshBank g k b) }

/-- Memory without the contents of the banks that do not carry over. -/
def clearBanks (g : GraphBlock) (k : Nat) (p : Page) (bytes : List Host.Cell) : List Host.Cell :=
  (List.range 8).foldl (fun m b => if bankKept g p k b then m else clearBytes m (sramKey p.store b 0) Config.bankBytes) bytes

/-- A page that nothing stood on. -/
def barePage (phys store : Nat) : Page := ⟨phys, store, 0, []⟩

/-- Memory without the contents of a page. -/
def clearPage (bytes : List Host.Cell) (p : Page) : List Host.Cell := clearBytes bytes (sramKey p.store 0 0) (8 * Config.bankBytes)

/-- The pages that a new configuration stands on: the old ones in order, then new ones with new contents. -/
def takePages (s : State) (cluster : Nat) (kept : List Page) (n : Nat) : List Page × State :=
  let fresh := (freePhys s cluster (n - kept.length))
  let s1 := { s with nextId := s.nextId + fresh.length }
  (kept.take n ++ (List.range fresh.length).map (fun i => barePage (fresh.getD i 0) (s.nextId + i)), s1)

/-- A store of an edge as CFG allocates it (R233). -/
def storeAt (g : GraphBlock) (alloc : List (Nat × Nat × List Nat)) (n p : Nat) : Option Store :=
  match alloc.find? (fun e => e.1 == n && e.2.1 == p) with
  | some e => some { granules := e.2.2, prod := portOrder g n p, cons := expectOrder g n p, held := [], reg := [], ppos := 0, cbeat := 0,
                     len := none, tail := [], dropping := false, label := Label.zero }
  | none => none

/-- A port as CFG connects it. The ports of a memory node take beats of its own LANES. -/
def portAt (g : GraphBlock) (alloc : List (Nat × Nat × List Nat)) (n p : Nat) (w : NodeWord) : Port :=
  match feeder g.words n p with
  | none => Port.idle
  | some (k, _) =>
    let e := expectOrder g n p
    let st := storeAt g alloc n p
    let own := (w.kind = kMEM ∧ w.mode ≤ 2 ∧ p ≤ 1) ∨ (w.kind = kAGEN ∧ w.mode = 1 ∧ p = 0)
    { Port.idle with
      fed := true, src := k, rep := repPort w p, free := isDonePort g n p || circulates g.words n p,
      lp := if st.isSome then e.lanes else (portOrder g n p).lanes, le := if own then (g.order w.ord).lanes else e.lanes, exp := e,
      elem := portType g n p, store := st }

/-- PTAB of a TABLE record (R216). -/
def tableOf (ps : List (BitVec 128)) : List Nat :=
  (List.range 64).map (fun i => ((ps.getD 2 0 ++ ps.getD 1 0 ++ ps.getD 0 0 : BitVec 384).extractLsb' (6 * i) 6).toNat)

/-- What a node keeps beside its ports, as CFG leaves it. -/
def stateAt (w : NodeWord) (ps : List (BitVec 128)) (unit : Option Nat) : NodeState :=
  match w.kind with
  | 2 => .conv [] [] false
  | 4 => .merge 0 false
  | 5 => .loop [] false false
  | 6 => .mma (MmaState.fresh unit)
  | 7 => .row (RowState.fresh (if w.mode = 0 then tableOf ps else List.replicate 64 0))
  | 8 => .row (RowState.fresh [])
  | 9 => .row (RowState.fresh [])
  | 10 => .mem MemState.fresh
  | 11 => .mem MemState.fresh
  | _ => .plain

/-- A node as CFG places it. -/
def nodeAt (g : GraphBlock) (alloc : List (Nat × Nat × List Nat)) (units : List (Nat × Nat)) (now n : Nat) (w : NodeWord) : Node :=
  { word := w, params := g.prmOf w, ord := g.order w.ord, ports := (List.range 3).map (fun p => portAt g alloc n p w),
    st := stateAt w (g.prmOf w) ((units.find? (fun e => e.1 == n)).map (fun e => e.2)), outPosA := 0, outPosB := 0, failing := false,
    label := ⟨0, 0, 0, now⟩, pts := 0, held := none, snap := none, late := [], lastFire := 0, probed := false, cnt := ⟨0, 0, 0, 0⟩, pendA := [], pendB := [],
    exc := ExcCount.zero }

/-- The descriptors that the LINKOUTs of a new configuration send ahead of any token (R241). -/
def sendDescriptors (s : State) (asid : Nat) (g : GraphBlock) : State :=
  (List.range g.words.length).foldl (fun st n => match g.words[n]? with
    | none => st
    | some w =>
      if w.kind = kMEM ∧ w.mode = 4 then
        let d : Inbound := .descriptor asid (prmField (g.prmOf w) 0 0 16) (portOrder g n 0).raw w.type w.ctrl none
        let dev := prmField (g.prmOf w) 0 16 16
        if dev = 0 then { st with fl := { st.fl with inbound := st.fl.inbound ++ [d] } }
        else { st with fl := { st.fl with out := st.fl.out ++ [.peerSent dev d] } }
      else st) s

/-- The configuration cache with a graph block that a cell has been configured with (R70). -/
def cacheGraph (l : List CachedGraph) (e : CachedGraph) : List CachedGraph :=
  e :: l.filter (fun x => !(x.crew == e.crew && x.index == e.index && x.addr == e.addr && x.check == e.check))

/-- What a configuration that gives back pages says of it (R150): its last sink, with its label as it is now. -/
def releaseSig (s : State) (x : Cell) : Sig × W :=
  ((x.nodes[x.lastSink]?).elim Sig.zero (fun nd => labelSig s nd.label nd.pts), nodeUnit s x x.lastSink)

/-- CFG at commit (R131, R176, R178): the old configuration goes, the new one stands, from the block that has been fetched and
checked; CTX.NBV is latched as it is at the block's snapshot (R37, R109). Flags and counts of a cell that poison has halted, which no
sluice has committed, go with it (DESIGN CHOICE, log 42). -/
def applyCfg (s : State) (t : Nat) (l r : W) (bs : List Byte) (snap : ThreadRegs) : State :=
  match aget s.threads t with
  | none => s
  | some th =>
    let crew := th.home.crew
    let index := field r 0 4
    let old := cellAt s crew index
    let g := graphOf bs
    let id := old.elim s.nextId (fun e => e.1)
    let s1 := match old with
      | some e => intervalRec s e.2
      | none => { s with nextId := s.nextId + 1 }
    let kept := match old with
      | some e => e.2.pages
      | none => if index = 0 then (spillOf s crew).toList else []
    let s2 := { s1 with cells := adel s1.cells id }
    let taken := takePages s2 th.home.cluster kept g.pages
    let pages := (List.range taken.1.length).filterMap (fun k => match taken.1[k]? with
      | some p => some (mapPage g k p (roleOf r k))
      | none => none)
    let cleared := (kept.drop g.pages).foldl clearPage
      ((List.range taken.1.length).foldl (fun m k => match taken.1[k]? with
        | some p => clearBanks g k p m
        | none => m) s2.mem.bytes)
    let alloc := match allocGo (storesOf g) (reorderGranules g) [] with
      | .ok a => a
      | .error _ => []
    let units := (bindUnits g (usedUnits s2 id) (List.range g.words.length) []).getD []
    let cell : Cell :=
      { crew := crew, cluster := th.home.cluster,
        cfg := { block := l, check := g.hdr.extractLsb' 96 32, sntid := g.hdr.extractLsb' 64 32, npages := g.pages, orders := g.orders,
                 params := g.params, nbv := snap.nbv, thread := t, level := snap.priv, index := index, stage := field r 4 4,
                 since := s.cycle },
        pages := pages,
        nodes := (List.range g.words.length).filterMap (fun n => match g.words[n]? with
          | some w => some (nodeAt g alloc units s.cycle n w)
          | none => none),
        halted := false, gated := false, sluices := [], entered := 0,
        drainedAt := 0, lastSink := 0, drainSig := Sig.zero, movedAt := 0, deferred := [] }
    let freed : List (Nat × Sig × W) := match old with
      | some e => if g.pages < e.2.pages.length then aset taken.2.released th.home.cluster (releaseSig s e.2) else taken.2.released
      | none => taken.2.released
    let s3 := { taken.2 with released := freed }
    sendDescriptors { s3 with
      cells := aset s3.cells id cell, cache := cacheGraph s3.cache ⟨crew, index, l, g.hdr.extractLsb' 96 32, bs⟩, mem := { s3.mem with bytes := cleared } } crew.asid g

/-- A configuration is released at the completion of its launch or the retirement of its crew (R385): its pages are free, but
for the crew's spill page. Flags and counts of a cell that poison has halted, which no sluice has committed, go with it (DESIGN CHOICE,
log 42). -/
def releaseCell (s : State) (c : Nat) : State :=
  match aget s.cells c with
  | none => s
  | some x =>
    let s1 := intervalRec s x
    let sp := (spillOf s x.crew).map (fun p => p.store)
    let bytes := (x.pages.filter (fun p => some p.store != sp)).foldl clearPage s1.mem.bytes
    { s1 with
      cells := adel s1.cells c, released := aset s1.released x.cluster (releaseSig s1 x),
      mem := { s1.mem with bytes := bytes } }

/-! ### STRM (R132) -/

/-- The consumer and port of the first store whose LEN origin is node n and that a LEN does not fit (R237). -/
def strmOver (x : Cell) (n : Nat) (len : List Nat) : Option (Nat × Nat) :=
  (List.range x.nodes.length).findSome? (fun k => match x.nodes[k]? with
    | none => none
    | some nd => ((List.range 3).find? (fun p => match (nd.port p).store with
        | some st => lenOrigin x.nodes k p == n && ownAgen x.nodes k p && !storeFits st len
        | none => false)).map (fun p => (k, p)))

/-- The checks of a stream start, once its record has been read. R180 has an INDEX AGEN ignore the LEN of its record; whether R60's check of
it still holds is left open: it is made of every AGEN (DESIGN CHOICE, log 42). -/
def strmChecks (q : Firing) (c n : Nat) (x : Cell) (nd : Node) (s : State) (ws : List W) (b : Block) : Fired :=
  let w2 := ws.getD 2 0
  let len := (List.range 4).map (fun d => field w2 (16 * d) 16)
  if ws.getD 3 0 ≠ 0 then badEnc s
  else if nd.ord.anyRagged && lenOver nd.ord len then connFault s (uORDER, n, 0)
  else
    match (if nd.ord.anyRagged then strmOver x n len else none) with
    | some e => connFault s (uRAGGED, e.1, e.2 + 1)
    | none =>
      .done (gateEnds s q (memOf nd).endSig 6 (nodeUnit s x n)) (addEff b (.strm c n (ws.getD 0 0) (ws.getD 1 0) len))

/-- STRM fires (R132). -/
def fireStrm (s : State) (q : Firing) : Fired :=
  let l := q.sl.l.getD 0
  let r := q.sl.r.getD 0
  if r.toNat % 16 ≠ 0 then .fault s cALIGN 0 r
  else if field l 11 53 ≠ 0 then badEnc s
  else
    match cellAt s q.th.home.crew (field l 0 4) with
    | none => badEnc s
    | some e =>
      match e.2.nodes[field l 4 7]? with
      | none => badEnc s
      | some nd =>
        if nd.word.kind ≠ kAGEN then badEnc s
        else if !(memOf nd).starts.isEmpty && !e.2.halted then .held
        else withRecord s q r 32 (strmChecks q e.1 (field l 4 7) e.2 nd)

/-- STRM (R132). -/
def execStrm (p : Pm) (s : State) : Host.Outcome State Fault Refusal := .next (fire s (.strm p) (fireStrm s))

/-- STRM_GATE_OPEN (R132): the node's previous stream has issued its END. -/
def execStrmGateOpen (t k : Nat) (s : State) : Host.Outcome State Fault Refusal :=
  .next (retryGate s t k (fun i st => match i with
    | .strm p => nextOf (execStrm p st) st
    | _ => s))

/-- Memory leased by a snapshot at a timestamp that reads some places. -/
def leasedAt (s : State) (ts : Nat) (spans : List (Nat × Nat)) : State :=
  { s with mem := spans.foldl (fun m p => m.leased ts p.1 p.2) s.mem }

/-- STRM after the commit (R132): the stream begins; a token enters the configuration (R133). A RAGGED AGEN reads its table
from memory as it is now, at the timestamp of the commit, which the block's event has taken past every write of the table (R180, R246). -/
def applyStrm (s : State) (c n : Nat) (b0 b1 : W) (len : List Nat) (ts : Nat) : State :=
  let table := tableSpans s c n b1 len
  updCell (if (nodeOf s c n).any (fun nd => nd.word.mode == 2) then raiseFloor (leasedAt s ts table) ts else s) c (fun x => setMem { x with entered := x.entered + 1 } n (fun m =>
    { m with starts := m.starts ++ [(b0, b1, len, ts)], ts := ts,
             image := match x.nodes[n]? with
               | some nd => if nd.word.mode = 2 then some (StreamImage.now s x.crew.asid) else none
               | none => none }))

/-! ### DRAIN (R133) -/

/-- Inject a sluice in each of some cells; the cells that a wait stands on, with the sluices that must complete there. -/
def injectAll (s : State) (cs : List Nat) (sid : Nat) : State × List (Nat × Nat) :=
  cs.foldl (fun (a : State × List (Nat × Nat)) c => match aget a.1.cells c with
    | none => a
    | some x => if drainable x then (putCell a.1 c (injectSluice x sid), a.2 ++ [(c, x.sluices.length + 1)]) else a) (s, [])

/-- DRAIN fires: its fields are checked. -/
def fireDrain (s : State) (q : Firing) (all : Bool) : Fired :=
  let l := q.sl.l.getD 0
  if field l 32 32 ≠ 0 ∨ field l 4 12 ≠ 0 ∨ (all = true ∧ field l 0 4 ≠ 0) then badEnc s
  else .done s (addEff q.b (.drain all (field l 0 4) (field l 16 16)))

/-- DRAIN.CELL (R133). -/
def execDrainCell (p : Pm) (s : State) : Host.Outcome State Fault Refusal :=
  .next (fire s (.drainCell p) (fun q => fireDrain s q false))
/-- DRAIN.ALL (R133). -/
def execDrainAll (p : Pm) (s : State) : Host.Outcome State Fault Refusal :=
  .next (fire s (.drainAll p) (fun q => fireDrain s q true))

/-- DRAIN after the commit (R133): the sluices are injected, and the trailing wait begins. -/
def applyDrain (s : State) (t : Nat) (all : Bool) (cell sid : Nat) : State :=
  match aget s.threads t with
  | none => s
  | some th =>
    let cs := if all then (s.cells.filter (fun e => e.2.cfg.thread == t)).map (fun e => e.1)
      else ((cellAt s th.home.crew cell).toList).map (fun e => e.1)
    let r := injectAll s cs sid
    trail r.1 t (.drain r.2 sid)

/-- A cell of a drain has been drained: its sluices have completed, or it is gone or halted. -/
def drainEntryDone (s : State) (e : Nat × Nat) : Bool :=
  e.2 == 0 || (match aget s.cells e.1 with
    | none => true
    | some x => x.halted)

/-- The last sink that a drain's sluices reached: its signal as it was then, after everything that the sinks of all the cells have done
(R150, R247), and its unit word. -/
def lastSinkOf (s : State) (cs : List (Nat × Nat)) : Option (Sig × W) :=
  let es : List (Sig × W) := cs.filterMap (fun e => (aget s.cells e.1).map (fun x => (x.drainSig, nodeUnit s x x.lastSink)))
  match es with
  | [] => none
  | e :: r =>
    let m := r.foldl (fun (a : Sig × W) b => if a.1.stamp ≤ b.1.stamp then b else a) e
    some ({ m.1 with pts := es.foldl (fun t b => max t b.1.pts) 0 }, m.2)

/-- A drain whose cells have all been drained. -/
def drainOver (s : State) (w : Waiting) : Bool :=
  match w with
  | .drain cs _ => cs.all (drainEntryDone s)
  | _ => false

/-- DRAIN_COMPLETE (R133): every sink has been reached in every cell that is still there and not halted. -/
def execDrainComplete (t : Nat) (s : State) : Host.Outcome State Fault Refusal :=
  .next (match aget s.threads t with
    | none => s
    | some th =>
      match th.waits.find? (drainOver s) with
      | some (.drain cs sid) =>
        if !threadRuns s th then s
        else
          let r := (lastSinkOf s cs).getD (Sig.zero, 0)
          endTrailEdge s t (.drain cs sid) r.1 2 r.2
      | _ => s)

end Sys2Proof.Machine
end

