-- ==== Sys2Proof/Machine/Launch.lean ====
section
/-! DEFINITION. Launches (R143, R280 to R286), the scheduler's ranking and placement (R370, R371), proofing (R287 to R294) and
SHAPE (R144). -/

namespace Sys2Proof.Machine

/-! ### The launch record (R280) -/

/-- SHARDS. -/
def wShards (ws : List W) : Nat := field (ws.getD 1 0) 0 3
/-- CREWS. -/
def wCrews (ws : List W) : Nat := field (ws.getD 1 0) 3 7
/-- RPAGES. -/
def wRpages (ws : List W) : Nat := field (ws.getD 1 0) 10 5
/-- SPILLK. -/
def wSpillk (ws : List W) : Nat := field (ws.getD 1 0) 15 7
/-- IRMODE. -/
def wIrmode (ws : List W) : Nat := field (ws.getD 1 0) 22 2
/-- PROOF. -/
def wProof (ws : List W) : Bool := (ws.getD 1 0).getLsbD 24
/-- CMBEN. -/
def wCmben (ws : List W) : Bool := (ws.getD 1 0).getLsbD 25
/-- CMB. -/
def wCmb (ws : List W) : Nat := field (ws.getD 1 0) 26 4
/-- DEPKIND. -/
def wDepkind (ws : List W) : Nat := field (ws.getD 1 0) 30 2
/-- DEPIDX. -/
def wDepidx (ws : List W) : Nat := field (ws.getD 1 0) 32 6
/-- HELPERS. -/
def wHelpers (ws : List W) : Nat := field (ws.getD 1 0) 38 4
/-- IBEGIN. -/
def wIbegin (ws : List W) : Nat := field (ws.getD 2 0) 0 32
/-- IEND. -/
def wIend (ws : List W) : Nat := field (ws.getD 2 0) 32 32
/-- PKEY. -/
def wPkey (ws : List W) : BitVec 32 := (ws.getD 3 0).extractLsb' 0 32
/-- CELLROWS. -/
def wCellrows (ws : List W) : Nat := field (ws.getD 3 0) 32 16
/-- PDEFAULT. -/
def wPdefault (ws : List W) : Nat := field (ws.getD 4 0) 0 32
/-- ROWBYTES. -/
def wRowbytes (ws : List W) : Nat := field (ws.getD 4 0) 32 32
/-- OBASE. -/
def wObase (ws : List W) : W := ws.getD 5 0

/-- Dies of a partition. -/
def dieCount (m : BitVec 4) : Nat := ((List.range 4).filter (fun k => m.getLsbD k)).length

/-- Bytes of the output window (R281). -/
def windowBytes (ws : List W) : Nat := wRowbytes ws * 64 * wCellrows ws

/-- What raises PROT (R281, R283). -/
def launchProt (dies : BitVec 4) (ws : List W) : Bool :=
  field (ws.getD 1 0) 42 22 != 0 || field (ws.getD 3 0) 48 16 != 0 || wIrmode ws == 3 || wDepkind ws == 3 ||
  field (ws.getD 0 0) 60 4 != 0 || field (ws.getD 0 0) 0 4 != 0 ||
  wShards ws == 0 || decide (4 < wShards ws) || decide (dieCount dies < wShards ws) ||
  decide (64 < wCrews ws) || (wCrews ws == 0 && !wProof ws) || decide (16 < wRpages ws) || decide (64 < wSpillk ws) ||
  decide (256 < (1 + wHelpers ws) * wSpillk ws) || (!wProof ws && decide (wIend ws < wIbegin ws)) ||
  (wDepkind ws == 1 && decide (14 < wDepidx ws)) || (wCmben ws && wCmb ws == 15) || (!wCmben ws && wCmb ws != 0) ||
  (!wProof ws && (wObase ws != 0 || wRowbytes ws != 0 || wPdefault ws != 0 || wCellrows ws != 0 || wPkey ws != 0)) ||
  (wSpillk ws != 0 && wRpages ws == 0)

/-- A range lies within one publishable buffer. -/
def inOneBuf (c : Context) (va n : Nat) : Bool :=
  match bufOf c va with
  | none => false
  | some i => match c.xlat.bufs[i]? with
    | some b => decide (va + n ≤ b.va.toNat + b.len * 4096)
    | none => false

/-- What raises PROOF (R281). -/
def launchProof (c : Context) (ws : List W) : Bool :=
  wProof ws && (wShards ws != 1 || wCrews ws != 0 || wIrmode ws != 1 || wIend ws != 0 || wCellrows ws == 0 || wRowbytes ws == 0 ||
    wPdefault ws == 0 || field (wObase ws) 60 4 != 0 || !inOneBuf c (wObase ws).toNat (windowBytes ws))

/-- Launches of a block that wait for its commit, by queue. -/
def launchesOf (b : Block) (q : Nat) : Nat :=
  (b.effs.filter (fun e => match e with
    | .launch k _ _ => k == q
    | _ => false)).length

/-- LAUNCH fires (R143, R281, R282): the record is read and checked, then the queue must have room. The ID is taken as it fires. -/
def fireLaunch (s : State) (q : Firing) (t : Target) (queue : Nat) : Fired :=
  let l := q.sl.l.getD 0
  let a := asidOf q.th
  if l.toNat % 64 ≠ 0 then .fault s cALIGN 0 l
  else withRecord s q l 64 (fun st ws b =>
    match aget s.ctxs a with
    | none => .held
    | some c =>
      if launchProt (diesOf s a) ws then .fault st cPROT 0 l
      else if launchProof c ws then .fault st cPROOF 0 l
      else if unconfirmed s q.th.home.crew then .proof none
      else if Config.launchQueue ≤ (c.queues.getD queue []).length + launchesOf b queue then .held
      else
        let s1 := updCtx st a (fun x => { x with nextLaunch := x.nextLaunch + 1 })
        .done s1 (addEff (deliver b q.k t (w64 c.nextLaunch)) (.launch queue c.nextLaunch ws)))

/-- LAUNCH (R143). -/
def execLaunch (t : Target) (q : BitVec 3) (p : Pm) (s : State) : Host.Outcome State Fault Refusal :=
  .next (fire s (.launch t q p) (fun f => fireLaunch s f t q.toNat))

/-- LAUNCH_QUEUE_ROOM (R282): a LAUNCH held by a full queue goes on. -/
def execLaunchQueueRoom (t k : Nat) (s : State) : Host.Outcome State Fault Refusal :=
  .next (retryGate s t k (fun i st => match i with
    | .launch g q p => nextOf (execLaunch g q p st) st
    | _ => s))

/-- LAUNCH after the commit: the launch enters its queue (R143) with CTX.NBV as it is at the block's snapshot (R109). -/
def applyLaunch (s : State) (t q id : Nat) (ws : List W) (snap : ThreadRegs) : State :=
  match aget s.threads t with
  | none => s
  | some th =>
    updCtx s (asidOf th) (fun c => { c with
      queues := modAt c.queues q (fun l => l ++ [id]),
      launches := aset c.launches id
        { words := ws, thread := t, nbv := snap.nbv, priv := lUSER, q := q, queued := true, telig := none, target := none, prio := q,
          placedAt := 0, rows := 0, shape := none, crews := [], lastHalt := t, lineMet := false } })

/-! ### Eligibility and rank (R282, R370, R371) -/

/-- A launch's dependence is met (R282). -/
def depMet (s : State) (l : Launch) : Bool :=
  match wDepkind l.words with
  | 1 => (match aget s.threads l.thread with
    | some th => th.mfull.getLsbD (wDepidx l.words)
    | none => false)
  | 2 => l.lineMet
  | _ => true

/-- A launch is eligible: at the head of its queue, its dependence met (R370). -/
def eligible (s : State) (a : Nat) (id : Nat) (l : Launch) : Bool :=
  l.queued && depMet s l && (match aget s.ctxs a with
    | some c => (c.queues.getD l.q []).head? == some id
    | none => false)

/-- EffPri (R370). -/
def effPri (age now : Nat) (l : Launch) : Nat :=
  if age = 0 then l.q else min 7 (l.q + (now - l.telig.getD now) / age)

/-- AGE of a context's partition. -/
def ageOf (s : State) (a : Nat) : Nat := (partOf s a).elim 0 (fun p => p.age.toNat)

/-- The eligible launches of a partition: context, ID, launch. -/
def eligibleOf (s : State) (part : Nat) : List (Nat × Nat × Launch) :=
  s.ctxs.flatMap (fun c => if c.2.part = part then
    c.2.launches.filterMap (fun l => if eligible s c.1 l.1 l.2 then some (c.1, l.1, l.2) else none) else [])

/-- The first ranks above the second (R371). -/
def ranksAbove (s : State) (x y : Nat × Nat × Launch) : Bool :=
  let px := effPri (ageOf s x.1) s.cycle x.2.2
  let py := effPri (ageOf s y.1) s.cycle y.2.2
  let tx := x.2.2.telig.getD s.cycle
  let ty := y.2.2.telig.getD s.cycle
  decide (py < px) || (px == py && (decide (tx < ty) || (tx == ty && (decide (x.1 < y.1) || (x.1 == y.1 && decide (x.2.2.q < y.2.2.q))))))

/-- Launches that have just become eligible keep the cycle (R370). -/
def noteEligible (s : State) : State :=
  { s with ctxs := s.ctxs.map (fun c => (c.1, { c.2 with launches := c.2.launches.map (fun l =>
      if l.2.telig.isNone && eligible s c.1 l.1 l.2 then (l.1, { l.2 with telig := some s.cycle }) else l) })) }

/-! ### Placement (R283) -/

/-- Thread slots of a cluster that nobody has. -/
def freeSlots (s : State) (cluster : Nat) : List Nat :=
  (List.range Config.threadsPerCluster).filter (fun k => !s.threads.any (fun e =>
    e.2.home.cluster == cluster && e.2.home.slot == k && !regionAway s (asidOf e.2) cluster))

/-- A launch crew holds the engine set of a cluster (R137): that of a gated region stands in the inactive set. -/
def esetHeld (s : State) (cluster : Nat) : Bool :=
  s.esets.any (fun e => e.2.cluster == cluster && e.2.crew.launch != 0 && !regionAway s e.2.crew.asid cluster)

/-- Channels of an engine set have a copy queued or running, or a start that waits for room in a queue. -/
def copiesLeft (e : EngineSet) : Bool :=
  e.channels.any (fun c => !c.queue.isEmpty || c.cur.isSome) || e.terms.any (fun t => !t.fired.isEmpty)

/-- Resident threads keep a cluster from launches (R137): their engine set has a copy queued or running, or a term or a counter
enabled. -/
def residentsBusy (s : State) (cluster : Nat) : Bool :=
  s.esets.any (fun e => e.2.cluster == cluster && e.2.crew.launch == 0 && !regionAway s e.2.crew.asid cluster &&
    (copiesLeft e.2 || e.2.terms.any (fun t => t.mask != 0) || e.2.counters.any (fun c => c.thresh != 0)))

/-- A crew of a launch of a context fits a cluster. -/
def clusterFits (s : State) (a : Nat) (ws : List W) (cluster : Nat) : Bool :=
  !esetHeld s cluster && !residentsBusy s cluster && regionRuns s a cluster && decide (1 + wHelpers ws ≤ (freeSlots s cluster).length) &&
  decide (wRpages ws ≤ freePages s cluster)

/-- The clusters of a die that a crew fits. -/
def fitsOn (s : State) (a : Nat) (ws : List W) (die : Nat) : List Nat :=
  ((List.range Config.clustersPerDie).map (fun k => die * Config.clustersPerDie + k)).filter (clusterFits s a ws)

/-- Extents limited to whole proof cells. -/
def ceilDiv (a b : Nat) : Nat := if b = 0 then 0 else (a + b - 1) / b

/-- P of a proofed launch that leaves its queue (R287). -/
def predicted (c : Context) (ws : List W) : Nat :=
  let cr := wCellrows ws
  let m := match c.proof.find? (fun e => e.key == wPkey ws) with
    | some e => e.extents.foldl (fun a x => max a x.toNat) 0
    | none => wPdefault ws
  min (cr * ceilDiv m cr) (64 * cr)

/-- Crews for each shard of a launch that leaves its queue: of a proofed launch, those that P or a SHAPE that came first gives
(R288, R292). -/
def crewsDue (c : Context) (l : Launch) : Nat :=
  if wProof l.words then
    (match l.shape with
     | some e => ceilDiv e.toNat (wCellrows l.words)
     | none => predicted c l.words / wCellrows l.words)
  else wCrews l.words

/-- A tail that a SHAPE above P added and that has not been placed yet: its crews (R291). -/
def tailDue (l : Launch) : Nat :=
  if l.queued || !wProof l.words then 0
  else match l.shape with
    | some e => if l.rows < e.toNat then ceilDiv e.toNat (wCellrows l.words) - l.crews.length else 0
    | none => 0

/-- Dies of a mask, ascending. -/
def diesIn (m : BitVec 4) : List Nat := (List.range 4).filter (fun k => m.getLsbD k)

/-- A target of a launch (R371): a die for each shard, a cluster for each crew, those with the lowest numbers. -/
def fixTarget (s : State) (a : Nat) (l : Launch) : List Nat :=
  let n := (aget s.ctxs a).elim 0 (fun c => crewsDue c l)
  ((diesIn (diesOf s a)).take (wShards l.words)).flatMap (fun d => (List.range n).map (fun k => d * Config.clustersPerDie + k))

/-- An unplaced launch has been eligible for PART.AGE cycles (R371). -/
def targetDue (s : State) (a : Nat) (l : Launch) : Bool := l.queued && l.telig.any (fun t => decide (t + ageOf s a ≤ s.cycle))

/-- The target that keeps launches of lower rank off its dies: that of a launch which has been eligible for PART.AGE cycles. A target that
is fixed before that, for a pre-emption, keeps nobody off (R371, R372). -/
def targetOf (s : State) (a : Nat) (l : Launch) : List Nat := if targetDue s a l then l.target.getD (fixTarget s a l) else []

/-- Dies that launches of higher rank need by their targets (R371). -/
def diesKept (s : State) (x : Nat × Nat × Launch) : List Nat :=
  match aget s.ctxs x.1 with
  | none => []
  | some c => (eligibleOf s c.part).flatMap (fun y => if ranksAbove s y x then (targetOf s y.1 y.2.2).map dieOf else [])

/-- Clusters for the crews of a launch or of its tail, as (crew number, cluster); none where they do not fit. -/
def choosePlace (s : State) (a id : Nat) (l : Launch) : Option (List (Nat × Nat)) :=
  match aget s.ctxs a with
  | none => none
  | some c =>
    let base := if l.queued then 0 else l.crews.length
    let n := if l.queued then crewsDue c l else tailDue l
    let m := if l.queued then wShards l.words else 1
    let dies := match (if l.queued then none else l.crews.head?) with
      | some x => [dieOf x.cluster]
      | none => (diesIn (diesOf s a)).filter (fun d => !(diesKept s (a, id, l)).contains d)
    let fit := (dies.map (fitsOn s a l.words)).filter (fun f => decide (n ≤ f.length))
    if fit.length < m then none
    else some ((List.range m).flatMap (fun k => (List.range n).map (fun j => (k * 64 + base + j, (fit.getD k []).getD j 0))))

/-- CTX.IRANGE of the leader of a crew (R285, R288): NEXT and END. -/
def leaderRange (ws : List W) (crew : Nat) (shape : Option (BitVec 32)) : Nat × Nat :=
  let ib := wIbegin ws
  if wProof ws then
    let cr := wCellrows ws
    let hi := (crew + 1) * cr
    (ib + crew * cr, ib + match shape with
      | some e => min hi e.toNat
      | none => hi)
  else
    let q := crew / 64 * wCrews ws + crew % 64
    let nq := wShards ws * wCrews ws
    let n := wIend ws - ib
    match wIrmode ws with
    | 1 => (ib + q * n / nq, ib + (q + 1) * n / nq)
    | 2 => (ib, wIend ws)
    | _ => (0, 0)

/-- A thread as a launch starts it (R284). -/
def startedThread (now : Nat) (home : Home) (l : Launch) (pts : Nat) (range : Nat × Nat) : Thread :=
  let th := Thread.fresh home (l.words.getD 0 0) l.priv l.nbv
  { th with
    gs := ((th.gs.set 1 (l.words.getD 6 0)).set 2 (l.words.getD 7 0)).set 3 (w64 home.helper),
    regs := { th.regs with
      csize := BitVec.ofNat 7 (wSpillk l.words), irNext := BitVec.ofNat 32 range.1, irEnd := BitVec.ofNat 32 range.2 },
    label := { Label.zero with since := now }, pts := pts }

/-- The crew's spill page at placement (R283): its last banks are SPILL and read zero. -/
def spillPage (ws : List W) (phys store : Nat) : Page :=
  let n := ceilDiv ((1 + wHelpers ws) * wSpillk ws) 32
  { phys := phys, store := store, role := 0,
    banks := (List.range 8).map (fun b =>
      ⟨if 8 ≤ b + n then .spill else .cache, false, 0, 0, none⟩) }

/-- A region that a placement needs on a cluster (R354): its slice counts from here (R372, R374). A floor comes with a restore
alone (R362). -/
def needRegion (s : State) (a cluster : Nat) : State :=
  let sl := match aget s.ctxs a with
    | some c => c.regs.slice.toNat
    | none => 0
  if s.regions.any (fun r => r.asid == a && r.cluster == cluster) then
    { s with regions := s.regions.map (fun r => if r.asid = a ∧ r.cluster = cluster then { r with ranAt := s.cycle, slice := sl } else r) }
  else { s with regions := s.regions ++ [⟨a, cluster, .running, [], 0, s.cycle, sl, 0, []⟩] }

/-- Place one crew: its engine set, its threads, its spill page. -/
def placeCrew (s : State) (a id : Nat) (l : Launch) (conf : Bool) (e : Nat × Nat) : State :=
  let crew : CrewId := ⟨a, id, e.1⟩
  let ws := l.words
  let cl := e.2
  let slots := (freeSlots s cl).take (1 + wHelpers ws)
  let es := s.nextId
  let t0 := s.nextId + 1
  let n := slots.length
  let phys := (freePhys s cl 1).headD 0
  let sp := if wSpillk ws = 0 then none else some (spillPage ws phys (t0 + n))
  let pts := (aget s.threads l.thread).elim 0 (fun th => th.pts)
  let ths := (List.range n).map (fun k =>
    (t0 + k, startedThread s.cycle ⟨cl, slots.getD k 0, crew, es, k, BitVec.ofNat 8 (e.1 / 64), BitVec.ofNat 8 (e.1 % 64), false⟩ l pts
      (if k = 0 then leaderRange ws e.1 l.shape else (0, 0))))
  let cr := wCellrows ws
  let x : CrewState :=
    { crew := e.1, cluster := cl, eset := es, threads := ths.map (fun t => t.1), reserve := wRpages ws, spill := sp, lo := e.1 * cr,
      hi := (e.1 + 1) * cr, confirmed := conf || !wProof ws, retired := false }
  let s1 := needRegion { s with nextId := t0 + n + 1, threads := ths.foldl (fun m t => aset m t.1 t.2) s.threads,
                                esets := aset s.esets es (EngineSet.fresh crew cl) } a cl
  updLaunch s1 a id (fun y => { y with crews := y.crews ++ [x] })

/-- A launch that may be placed now: eligible, or with a tail; its context is neither stopped nor merging (R363, R381). -/
def mayLeave (s : State) (a id : Nat) (l : Launch) : Bool :=
  (eligible s a id l || tailDue l != 0) && (match aget s.ctxs a with
    | some c => !c.stopped && !c.merging
    | none => false)

/-- LAUNCH_PLACE (R283, R370, R371): the launch leaves its queue and is placed as a whole, unless a launch of higher rank can be
placed now. -/
def execLaunchPlace (a id : Nat) (s : State) : Host.Outcome State Fault Refusal :=
  .next (match aget s.ctxs a, launchOf s a id with
    | some c, some l =>
      if !mayLeave s a id l then s
      else if (eligibleOf s c.part).any (fun y => ranksAbove s y (a, id, l) && mayLeave s y.1 y.2.1 y.2.2 &&
          (choosePlace s y.1 y.2.1 y.2.2).isSome) && l.queued then s
      else
        match choosePlace s a id l with
        | none => s
        | some pl =>
          let s1 := if l.queued then updCtx (updLaunch s a id (fun y => { y with
              queued := false, prio := effPri (ageOf s a) s.cycle l, placedAt := s.cycle,
              rows := if wProof l.words then (if l.shape.isSome then crewsDue c l * wCellrows l.words else predicted c l.words) else 0 })) a
            (fun x => { x with queues := modAt x.queues l.q (fun y => y.filter (fun k => k != id)) }) else s
          pl.foldl (fun st e => placeCrew st a id l l.shape.isSome e) s1
    | _, _ => s)

/-- LAUNCH_AGE_TARGET (R371): an unplaced launch has been eligible for PART.AGE cycles; its target is fixed. -/
def execLaunchAgeTarget (a id : Nat) (s : State) : Host.Outcome State Fault Refusal :=
  .next (match launchOf s a id with
    | none => s
    | some l => if targetDue s a l && l.target.isNone then updLaunch s a id (fun y => { y with target := some (fixTarget s a l) }) else s)

/-! ### SHAPE (R144, R290 to R294) -/

/-- SHAPE fires (R144, R291). -/
def fireShape (s : State) (q : Firing) : Fired :=
  let id := (q.sl.l.getD 0).toNat
  let r := q.sl.r.getD 0
  let a := asidOf q.th
  match launchOf s a id with
  | none => .fault s cSHAPE 0 q.b.addr
  | some l =>
    if !wProof l.words || l.shape.isSome || s.fl.shapes.any (fun m => m.asid == a && m.id == id) || field r 32 32 != 0 ||
        decide (64 * wCellrows l.words < field r 0 32) then .fault s cSHAPE 0 q.b.addr
    else if unconfirmed s q.th.home.crew then .proof none
    else .done s (addEff q.b (.shape id (r.extractLsb' 0 32)))

/-- SHAPE (R144). -/
def execShape (p : Pm) (s : State) : Host.Outcome State Fault Refusal := .next (fire s (.shape p) (fireShape s))

/-- SHAPE after the commit: it is on its way to its launch. -/
def applyShape (s : State) (t id : Nat) (e : BitVec 32) : State :=
  match aget s.threads t with
  | none => s
  | some th => { s with fl := { s.fl with shapes := s.fl.shapes ++ [⟨asidOf th, id, e, t, threadSig s th⟩] } }

/-- The proofing table after an extent of a key (R287): the entry of the key comes first; the last falls out. -/
def pushExtent (l : List ProofEntry) (key e : BitVec 32) : List ProofEntry :=
  let old := match l.find? (fun x => x.key == key) with
    | some x => x.extents
    | none => []
  (⟨key, (e :: old).take 4⟩ :: l.filter (fun x => x.key != key)).take Config.proofEntries

/-- A party of a SHAPE's edges (R294): the launch itself, or what a hold keeps. -/
inductive ShapeParty where
  | launch
  | thread (t : Nat)
  | node (c n since : Nat)
  | chan (es ch since : Nat)
  deriving DecidableEq, Repr

/-- Threads of a crew that are held for proof, with their unit words. -/
def heldThreads (s : State) (x : CrewState) : List (Nat × ShapeParty) :=
  x.threads.filterMap (fun t => match aget s.threads t with
    | none => none
    | some th =>
      match th.mode with
      | .proofHeld _ => some ((threadUnit s th).toNat, .thread t)
      | _ => none)

/-- Nodes of a crew's cells that wait for proof: a memory node that works on a circular buffer waits for a slot instead. -/
def heldNodes (s : State) (c : Nat) (x : Cell) : List (Nat × ShapeParty) :=
  (List.range x.nodes.length).filterMap (fun n => match x.nodes[n]? with
    | some nd => (match nd.held with
      | some t0 => if nd.word.mode ≤ 1 && nd.word.flags.getLsbD 4 then none else some ((nodeUnit s x n).toNat, .node c n t0)
      | none => none)
    | none => none)

/-- Channels of a crew whose next copy is held. -/
def heldChans (s : State) (es : Nat) : List (Nat × ShapeParty) :=
  match aget s.esets es with
  | none => []
  | some e => (List.range 16).filterMap (fun ch => match e.channels[ch]? with
    | none => none
    | some c =>
      match c.held, c.cur with
      | some t0, none => some ((chanUnit s e ch).toNat, .chan es ch t0)
      | some t0, some r => if r.parked then some ((chanUnit s e ch).toNat, .chan es ch t0) else none
      | none, _ => none)

/-- Everything of a crew that is held for proof. -/
def heldOf (s : State) (crew : CrewId) (x : CrewState) : List (Nat × ShapeParty) :=
  heldThreads s x ++ (s.cells.filter (fun e => e.2.crew == crew)).flatMap (fun e => heldNodes s e.1 e.2) ++ heldChans s x.eset

/-- A party in its place among others, by unit word. -/
def insertParty (x : Nat × ShapeParty) : List (Nat × ShapeParty) → List (Nat × ShapeParty)
  | [] => [x]
  | y :: r => if x.1 < y.1 then x :: y :: r else y :: insertParty x r

/-- The unit word and the die of a launch. -/
def launchDie (s : State) (l : Launch) : Nat :=
  match l.crews.head? with
  | some x => dieOf x.cluster
  | none => (aget s.threads l.thread).elim 0 (fun th => dieOf th.home.cluster)

/-- The cycles of a hold that began at a cycle: up to the gate of the party's region where that is gated (R294, R359). -/
def heldCycles (s : State) (asid cluster t0 : Nat) : Nat := regionNow s asid cluster - t0

/-- The edge of one party, and the end of its hold (R290, R294). -/
def releaseParty (s : State) (id : Nat) (l : Launch) (g : Sig) (producer : W) : ShapeParty → State
  | .launch => (newEdge s (launchDie s l) (launchUnit s (launchDie s l) id) producer 10 g.edge (arrives s g) (s.cycle - l.placedAt) 0 0 0).1
  | .thread t =>
    (match aget s.threads t with
     | none => s
     | some th =>
       resumeBusy (updThread (endWaitThread s t g 13 producer (heldCycles s (asidOf th) th.home.cluster th.waitAt)) t (fun y => { y with mode := .ready })) t)
  | .node c n t0 =>
    let d := (aget s.cells c).elim 0 (fun x => heldCycles s x.crew.asid x.cluster t0)
    updNode (endWaitNode s c n g 13 producer d) c n (fun z => { z with held := none })
  | .chan es ch t0 =>
    let d := (aget s.esets es).elim 0 (fun x => heldCycles s x.crew.asid x.cluster t0)
    updChan (endWaitChan s es ch g 13 producer d) es ch (fun y => { y with held := none })

/-- Deferred trap records, four words each, written at last (R290, R349). -/
def deferredTraps (asid die : Nat) (dst : Nat) (g : Sig) (unit : W) : Nat → List W → State → State
  | 0, _, s => s
  | n + 1, ws, s =>
    match ws with
    | [] => s
    | w :: _ => deferredTraps asid die dst g unit n (ws.drop 4)
        (sendWrite (logTrap s asid die (ws.take 4)) ⟨dst, 15, w, g, unit, false, none⟩)

/-- The deferred records of a crew's cells. -/
def releaseDeferred (s : State) (crew : CrewId) : State :=
  (s.cells.filter (fun e => e.2.crew == crew)).foldl (fun st e =>
    let x := e.2
    let s1 := deferredTraps x.crew.asid (dieOf x.cluster) x.cfg.thread ⟨0, 0, st.cycle, 0, 0⟩ (nodeUnit st x x.lastSink) x.deferred.length
      x.deferred st
    updCell s1 e.1 (fun y => { y with deferred := [] })) s

/-- A crew is confirmed (R290). -/
def confirmCrew (s : State) (a id : Nat) (x : CrewState) : State :=
  releaseDeferred (updLaunch s a id (fun l => { l with crews := l.crews.map (fun y =>
    if y.crew = x.crew then { y with confirmed := true } else y) })) ⟨a, id, x.crew⟩

/-- The leader's range of a ragged crew ends at the true extent (R290). -/
def raggedCrew (s : State) (x : CrewState) (ib e : Nat) : State :=
  match x.threads with
  | [] => s
  | t :: _ => updThread s t (fun th => { th with regs := { th.regs with irEnd := BitVec.ofNat 32 (min th.regs.irEnd.toNat (ib + e)) } })

/-- A crew is retired (R290): its threads halt, its cells and copies end without any effect, its reservations are retracted. -/
def retireCrew (s : State) (a id : Nat) (x : CrewState) : State :=
  let crew : CrewId := ⟨a, id, x.crew⟩
  let s1 := (s.cells.filter (fun e => e.2.crew == crew)).foldl (fun st e => releaseCell st e.1) s
  let s2 := updEset s1 x.eset (fun y => { y with
    channels := y.channels.map (fun c => { c with queue := [], cur := none, held := none }),
    terms := y.terms.map (fun t => { t with bound := none, fired := [] }), staged := [] })
  let s3 := x.threads.foldl (fun st t => haltThread (abandon st t) t) s2
  let bytes := match x.spill with
    | some p => clearPage s3.mem.bytes p
    | none => s3.mem.bytes
  updLaunch { s3 with mem := { s3.mem with bytes := bytes } } a id (fun l => { l with crews := l.crews.map (fun y =>
    if y.crew = x.crew then { y with retired := true, spill := none } else y) })

/-- A crew that a SHAPE of extent e confirms, whole or ragged (R290). -/
def confirms (e : Nat) (x : CrewState) : Bool := !x.confirmed && !x.retired && decide (x.lo < e)

/-- What a SHAPE does to a placed launch (R290): its edges in ascending order of the waiter's unit word (R317), then the crews. -/
def shapeCrews (s : State) (a id : Nat) (l : Launch) (e : Nat) (g : Sig) (producer : W) : State :=
  let held := (l.crews.filter (confirms e)).flatMap (fun x => heldOf s ⟨a, id, x.crew⟩ x)
  let parties := held.foldr insertParty [((launchUnit s (launchDie s l) id).toNat, .launch)]
  let s1 := parties.foldl (fun st p => releaseParty st id l g producer p.2) s
  l.crews.foldl (fun st x =>
    if x.confirmed || x.retired then st
    else if x.hi ≤ e then confirmCrew st a id x
    else if x.lo < e then confirmCrew (raggedCrew st x (wIbegin l.words) e) a id x
    else retireCrew st a id x) s1

/-! ### Publication (R251, R293) -/

/-- A physical address as an address of the memory list. -/
def physOf (p : Partition) (pa : Nat) : Option Nat :=
  match regionOf p pa with
  | some (.mem m) => some m
  | _ => none

/-- The timestamp of a publication of buffer i (R251): past the leases of both copies, and past the last publication. -/
def pubTs (s : State) (a i pts : Nat) : Nat :=
  match (aget s.ctxs a).bind (fun c => c.xlat.bufs[i]?), partOf s a with
  | some b, some p =>
    (List.range b.len).foldl (fun t k => [b.pa0, b.pa1].foldl (fun t1 base => match physOf p (base.toNat + 4096 * k) with
      | some m => s.mem.storeTs t1 m 4096
      | none => t1) t) (max pts (b.ts + 1))
  | _, _ => pts

/-- A publishable buffer's mapping swaps, as an event at a timestamp. -/
def swapBuf (s : State) (a i ts : Nat) : State :=
  updCtx s a (fun c => { c with xlat := { c.xlat with bufs := modAt c.xlat.bufs i (fun b => { b with vis := !b.vis, ts := ts }) } })

/-- The visible and the shadow base of a buffer. -/
def bufBases (b : PubBuf) : Nat × Nat := if b.vis then (b.pa1.toNat, b.pa0.toNat) else (b.pa0.toNat, b.pa1.toNat)

/-- 256 bytes of the copy that becomes visible: those of the window's first rows come from the shadow, the others from the copy that
was visible. -/
def mergedChunk (bytes : List Host.Cell) (v sh va lo hi : Nat) : List Byte :=
  (List.range 256).map (fun i => if lo ≤ va + i ∧ va + i < hi then cellsGet bytes (sh + i) else cellsGet bytes (v + i))

/-- Publish the outputs [0, E) of a proofed launch (R293): only those rows change in what is seen. It is one event, past a pts and the
leases of both copies; its timestamp goes along. -/
def publishRows (s : State) (a pts : Nat) (ws : List W) (e : Nat) : State × Nat :=
  match aget s.ctxs a, partOf s a with
  | some c, some p =>
    (match bufOf c (wObase ws).toNat with
     | none => (s, pts)
     | some i =>
       match c.xlat.bufs[i]? with
       | none => (s, pts)
       | some b =>
         let ts := pubTs s a i pts
         let lo := (wObase ws).toNat
         let hi := lo + e * wRowbytes ws
         let bytes := (List.range (b.len * 16)).foldl (fun m k =>
           match physOf p ((bufBases b).1 + 256 * k), physOf p ((bufBases b).2 + 256 * k) with
           | some v, some sh => cellsPut m sh (mergedChunk m v sh (b.va.toNat + 256 * k) lo hi)
           | _, _ => m) s.mem.bytes
         (swapBuf { s with mem := { s.mem with bytes := bytes } } a i ts, ts))
  | _, _ => (s, pts)

/-! ### Completion (R286) -/

/-- Every thread of a launch has halted or been retired. -/
def allHalted (s : State) (l : Launch) : Bool :=
  l.crews.all (fun x => x.retired || x.threads.all (fun t => match aget s.threads t with
    | some th => th.mode == .halted
    | none => true))

/-- The cells of a launch. -/
def launchCells (s : State) (a id : Nat) : List (Nat × Cell) := s.cells.filter (fun e => e.2.crew.asid == a && e.2.crew.launch == id)

/-- The copies of a launch's engine sets have ended: their writes at PACKAGE scope have performed before the landing (R286). -/
def copiesDone (s : State) (l : Launch) : Bool :=
  l.crews.all (fun x => (aget s.esets x.eset).all (fun e => !copiesLeft e))

/-- Every region of a launch runs: a gated one performs nothing (R356). -/
def launchRuns (s : State) (a : Nat) (l : Launch) : Bool := l.crews.all (fun x => x.retired || regionRuns s a x.cluster)

/-- A launch is complete (R286, R291, R292). Its publication and its completion write wait for a region of it that is gated (R356). -/
def launchDone (s : State) (a id : Nat) (l : Launch) : Bool :=
  !l.queued && launchRuns s a l && (!wProof l.words || (l.shape.isSome && tailDue l == 0)) && allHalted s l &&
  (launchCells s a id).all (fun e => drained e.2) && copiesDone s l

/-- What a halted thread of a launch leaves the launching thread (R286): both its flag groups and its counts. -/
def foldFlags (r : ThreadRegs) (h : ThreadRegs) : ThreadRegs :=
  { r with gflag := r.gflag ||| h.tflag ||| h.gflag, nancnt := satAdd r.nancnt h.nancnt.toNat, satcnt := satAdd r.satcnt h.satcnt.toNat,
           ofcnt := satAdd r.ofcnt h.ofcnt.toNat, ufcnt := satAdd r.ufcnt h.ufcnt.toNat }

/-- The flags and counts of a launch's threads, but for retired ones. -/
def launchFlags (s : State) (l : Launch) : State :=
  (l.crews.filter (fun x => !x.retired)).foldl (fun st x => x.threads.foldl (fun st1 t =>
    match aget st1.threads t with
    | some th => updThread st1 l.thread (fun y => { y with regs := foldFlags y.regs th.regs })
    | none => st1) st) s

/-- A context has something on a cluster: a thread, a cell or an engine set. -/
def regionLives (s : State) (a cluster : Nat) : Bool :=
  s.threads.any (fun e => asidOf e.2 == a && e.2.home.cluster == cluster) ||
  s.cells.any (fun e => e.2.crew.asid == a && e.2.cluster == cluster) ||
  s.esets.any (fun e => e.2.crew.asid == a && e.2.cluster == cluster)

/-- The regions of a context that have nothing left end, with the requests that were made of them (R354, R383). -/
def endRegions (s : State) (a : Nat) : State :=
  { s with regions := s.regions.filter (fun r => r.asid != a || regionLives s a r.cluster) }

/-- What a launch held is free again. -/
def releaseLaunch (s : State) (a id : Nat) (l : Launch) : State :=
  let s1 := (launchCells s a id).foldl (fun st e => releaseCell st e.1) s
  let gone := l.crews.flatMap (fun x => x.threads)
  let bytes := l.crews.foldl (fun m x => match x.spill with
    | some p => clearPage m p
    | none => m) s1.mem.bytes
  endRegions (updCtx { s1 with
    threads := s1.threads.filter (fun e => !gone.contains e.1),
    esets := s1.esets.filter (fun e => !l.crews.any (fun x => x.eset == e.1)),
    cache := s1.cache.filter (fun e => !(e.crew.asid == a && e.crew.launch == id)),
    mem := { s1.mem with bytes := bytes } } a (fun c => { c with launches := adel c.launches id })) a

/-- The largest pts of a launch's threads, cells and copies: what it has performed precedes its completion (R247, R286). -/
def launchPts (s : State) (a id : Nat) (l : Launch) : Nat :=
  let ths := l.crews.flatMap (fun x => x.threads.map (fun t => (aget s.threads t).elim 0 (fun th => th.pts)))
  let nds := (launchCells s a id).flatMap (fun e => e.2.nodes.map (fun n => n.pts))
  let chs := l.crews.flatMap (fun x => (aget s.esets x.eset).elim [] (fun e => e.channels.map (fun c => c.pts)))
  (ths ++ nds ++ chs).foldl max 0

/-- The completion write of a launch (R286), after its writes and its publication. -/
def completionWrite (s : State) (id pts : Nat) (l : Launch) : State :=
  if wCmben l.words then
    match aget s.threads l.lastHalt with
    | some th =>
      sendWrite s ⟨l.thread, BitVec.ofNat 4 (wCmb l.words), w64 id, labelSig s th.label (max th.pts pts),
        launchUnit s (dieOf th.home.cluster) id, true, none⟩
    | none => sendWrite s ⟨l.thread, BitVec.ofNat 4 (wCmb l.words), w64 id, ⟨0, 0, s.cycle, 0, pts⟩, launchUnit s 0 id, true, none⟩
  else s

/-- LAUNCH_COMPLETE (R286): publication, flags and counts, the completion write, the release. -/
def execLaunchComplete (a id : Nat) (s : State) : Host.Outcome State Fault Refusal :=
  .next (match launchOf s a id with
    | none => s
    | some l =>
      if !launchDone s a id l then s
      else
        let pts := launchPts s a id l
        let x := match l.shape with
          | some e => if wProof l.words then publishRows s a pts l.words e.toNat else (s, pts)
          | none => (s, pts)
        releaseLaunch (completionWrite (launchFlags x.1 l) id x.2 l) a id l)

end Sys2Proof.Machine
end

