-- ==== Sys2Proof/Machine/Coll.lean ====
section
/-! DEFINITION. Collectives (R142, R301 to R312) and publication by PUB (R141, R251). -/

namespace Sys2Proof.Machine

/-! ### The template (R301, R302) -/

/-- COUNT. -/
def cCount (ws : List W) : Nat := field (ws.getD 3 0) 0 32
/-- TYPE. -/
def cType (ws : List W) : Nat := field (ws.getD 3 0) 32 6
/-- OP: 0 SUM, 1 MAX. -/
def cOp (ws : List W) : Nat := field (ws.getD 3 0) 38 2
/-- CMB. -/
def cCmb (ws : List W) : Nat := field (ws.getD 3 0) 40 4
/-- CMBEN. -/
def cCmben (ws : List W) : Bool := (ws.getD 3 0).getLsbD 44
/-- GROUP. -/
def cGroup (ws : List W) : BitVec 32 := (ws.getD 4 0).extractLsb' 0 32
/-- NLEV. -/
def cNlev (ws : List W) : Nat := field (ws.getD 4 0) 32 2
/-- Level descriptor j. -/
def cLev (ws : List W) (j : Nat) : W := ws.getD (5 + j) 0
/-- MODE of a level: 1 NEAR, 2 FAR. -/
def vMode (v : W) : Nat := field v 0 2
/-- MEMM1. -/
def vMemm1 (v : W) : Nat := field v 4 4
/-- RANK. -/
def vRank (v : W) : Nat := field v 8 4
/-- EF. -/
def vEf (v : W) : Bool := v.getLsbD 15
/-- CODEC. -/
def vCodec (v : W) : Nat := field v 16 4
/-- STALE. -/
def vStale (v : W) : Nat := field v 20 4
/-- PORTMASK. -/
def vPorts (v : W) : BitVec 16 := v.extractLsb' 32 16
/-- PBASE. -/
def vPbase (v : W) : Nat := field v 48 16

/-- Bytes of a source or result element. -/
def cSize (ws : List W) : Nat := if cType ws = 10 then 2 else 4

/-- The levels in use. -/
def cLevels (ws : List W) : List Nat := List.range (cNlev ws)

/-- The ranks of the other members of a level. -/
def vOthers (v : W) : List Nat := (List.range (vMemm1 v + 1)).filter (fun k => k != vRank v)

/-- A level keeps RESID in the engine-state area, and LAST of how many members (R307). -/
def keepsLast (v : W) : Bool := vMode v == 2 && vStale v != 0

/-- The engine-state area is needed (R307). -/
def needsArea (ws : List W) : Bool := (cLevels ws).any (fun j => vEf (cLev ws j) || keepsLast (cLev ws j))

/-- Index of the first element of RESID_j in the area (R307). -/
def residAt (ws : List W) (j : Nat) : Nat := ((List.range j).filter (fun i => vEf (cLev ws i))).length * cCount ws

/-- Index of the first element of LAST_k of the FAR level j. -/
def lastAt (ws : List W) (j k : Nat) : Nat :=
  (((cLevels ws).filter (fun i => vEf (cLev ws i))).length + ((vOthers (cLev ws j)).filter (fun i => decide (i < k))).length) * cCount ws

/-- A level descriptor is well made (R304). -/
def levelOk (ws : List W) (j : Nat) : Bool :=
  let v := cLev ws j
  field v 2 2 == 0 && field v 12 3 == 0 && field v 24 8 == 0 && (vMode v == 1 || vMode v == 2) && vMemm1 v != 0 &&
  decide (vRank v ≤ vMemm1 v) && (vMode v != 2 || j + 1 == cNlev ws) && (vMode v == 2 || vStale v == 0) && decide (vCodec v ≤ 4) &&
  !(vEf v && vCodec v == 0) && (vCodec v == 0 || cOp ws != 1) && vPorts v != 0

/-- A template is well made (R304). -/
def collOk (ws : List W) : Bool :=
  field (ws.getD 3 0) 45 19 == 0 && field (ws.getD 4 0) 34 30 == 0 && cNlev ws != 0 &&
  (cLevels ws).all (levelOk ws) && ((List.range 3).filter (fun j => decide (cNlev ws ≤ j))).all (fun j => cLev ws j == 0) &&
  decide (cOp ws ≤ 1) && (cType ws == 10 || cType ws == 11) && decide (1 ≤ cCount ws) && decide (cCount ws ≤ 16777216) &&
  !(cCmben ws && cCmb ws == 15) && (cCmben ws || cCmb ws == 0) && !(needsArea ws && ws.getD 2 0 == 0)

/-! ### The instructions (R303 to R305) -/

/-- The collective context of a template address. -/
def collOf (s : State) (asid : Nat) (addr : W) : Option (Nat × Coll) :=
  s.colls.find? (fun e => e.2.asid == asid && e.2.addr == addr)

/-- The first check of COLL.START that fails (R304): code and subcode. -/
def collFault (s : State) (th : Thread) (addr : W) (step : BitVec 32) (ws : List W) : Option Flt :=
  let a := asidOf th
  let die := dieOf th.home.cluster
  let sz := cSize ws
  let tagged := (List.range 3).any (fun k => field (ws.getD k 0) 60 4 != 0)
  let inBuf := match aget s.ctxs a with
    | some c => inOneBuf c (ws.getD 1 0).toNat (cCount ws * sz)
    | none => false
  let held := collOf s a addr
  if tagged || !inBuf then some (cPROT, 0)
  else if (ws.getD 0 0).toNat % sz ≠ 0 ∨ (ws.getD 1 0).toNat % sz ≠ 0 ∨ (ws.getD 2 0).toNat % 4 ≠ 0 then some (cALIGN, 0)
  else if !collOk ws then some (cENGINE, 0)
  else
    let clash : Bool := match held with
      | some e => step != e.2.lstep + 1 || e.2.cstep != e.2.lstep
      | none => s.colls.any (fun e => e.2.asid == a && cGroup e.2.tmpl == cGroup ws && e.2.addr != addr) ||
          decide (Config.collContexts ≤ (s.colls.filter (fun e => e.2.die == die)).length)
    if clash then some (cENGINE, 0)
    else if (cLevels ws).any (fun j => (vOthers (cLev ws j)).any (fun k => match aget s.pkg.peers (vPbase (cLev ws j) + k) with
        | some p => !p.valid
        | none => true)) then some (cLINK, 1)
    else none

/-- COLL.START fires (R303, R304). -/
def fireCollStart (s : State) (q : Firing) : Fired :=
  let l := q.sl.l.getD 0
  let r := q.sl.r.getD 0
  if l.toNat % 64 ≠ 0 then .fault s cALIGN 0 l
  else if field r 32 32 ≠ 0 then .fault s cENGINE 0 l
  else withRecord s q l 64 (fun st ws b =>
    match collFault st q.th l (r.extractLsb' 0 32) ws with
    | some f => .fault st f.1 f.2 l
    | none => if unconfirmed s q.th.home.crew then .proof none else .done st (addEff b (.collStart l ws (r.extractLsb' 0 32))))

/-- COLL.START (R303, R304). -/
def execCollStart (p : Pm) (s : State) : Host.Outcome State Fault Refusal := .next (fire s (.collStart p) (fireCollStart s))

/-- The collective context that a WAIT or an END names, on the thread's die (R305). -/
def collHere (s : State) (th : Thread) (addr : W) : Option (Nat × Coll) :=
  match collOf s (asidOf th) addr with
  | some e => if e.2.die = dieOf th.home.cluster then some e else none
  | none => none

/-- The edge of a wait on a collective (R305): its signal is that of the last completion (R314). -/
def collEnds (s : State) (q : Firing) (c : Coll) : State := gateEnds s q c.doneSig 11 (collUnit s c.die)

/-- COLL.WAIT fires (R305). -/
def fireCollWait (s : State) (q : Firing) : Fired :=
  let l := q.sl.l.getD 0
  let r := q.sl.r.getD 0
  if l.toNat % 64 ≠ 0 then .fault s cALIGN 0 l
  else if field r 32 32 ≠ 0 then .fault s cENGINE 0 l
  else if unconfirmed s q.th.home.crew then .proof none
  else
    match collHere s q.th l with
    | none => .fault s cENGINE 0 l
    | some e =>
      if e.2.some_ && decide ((e.2.cstep - r.extractLsb' 0 32).toNat < 2 ^ 31) then .done (collEnds s q e.2) q.b else .held

/-- COLL.WAIT (R303, R305). -/
def execCollWait (p : Pm) (s : State) : Host.Outcome State Fault Refusal := .next (fire s (.collWait p) (fireCollWait s))

/-- COLL.END fires (R305). -/
def fireCollEnd (s : State) (q : Firing) : Fired :=
  let l := q.sl.l.getD 0
  if l.toNat % 64 ≠ 0 then .fault s cALIGN 0 l
  else if q.sl.r.getD 0 ≠ 0 then .fault s cENGINE 0 l
  else if unconfirmed s q.th.home.crew then .proof none
  else
    match collHere s q.th l with
    | none => .fault s cENGINE 0 l
    | some e => if e.2.cstep = e.2.lstep then .done (collEnds s q e.2) (addEff q.b (.collEnd l)) else .held

/-- COLL.END (R303, R305). -/
def execCollEnd (p : Pm) (s : State) : Host.Outcome State Fault Refusal := .next (fire s (.collEnd p) (fireCollEnd s))

/-- COLL_WAIT_SATISFIED (R305). -/
def execCollWaitSatisfied (t k : Nat) (s : State) : Host.Outcome State Fault Refusal :=
  .next (retryGate s t k (fun i st => match i with
    | .collWait p => nextOf (execCollWait p st) st
    | _ => s))

/-- COLL_END_SATISFIED (R305). -/
def execCollEndSatisfied (t k : Nat) (s : State) : Host.Outcome State Fault Refusal :=
  .next (retryGate s t k (fun i st => match i with
    | .collEnd p => nextOf (execCollEnd p st) st
    | _ => s))

/-- A step as it begins, with the handle that its START takes. -/
def CollRun.fresh (step : BitVec 32) (born : Nat) : CollRun :=
  { step := step, level := 0, v := [], dq := [], sent := false, flags := 0, maxlag := 0, writes := [], image := [], fault := none,
    sentState := false, born := born }

/-- The payload is for a collective context. -/
def forColl (c : Coll) (p : Payload) : Bool := p.asid == c.asid && p.group == cGroup c.tmpl

/-- COLL.START after the commit (R304, R316): the step begins, at the level of the block's snapshot (R109). -/
def applyCollStart (s : State) (t : Nat) (addr : W) (ws : List W) (step : BitVec 32) (lvl : BitVec 2) : State :=
  match aget s.threads t with
  | none => s
  | some th =>
    let a := asidOf th
    let g := threadSig s th
    let label : Label := ⟨g.path, g.edge, 0, s.cycle⟩
    match collOf s a addr with
    | some e => updColl { s with nextId := s.nextId + 1 } e.1 (fun c => { c with
        lstep := step, begun := true, cur := some (CollRun.fresh step s.nextId), label := label, pts := max c.pts th.pts, starter := t,
        level := lvl, eset := th.home.eset, lastAct := s.cycle })
    | none =>
      let c : Coll :=
        { die := dieOf th.home.cluster, asid := a, addr := addr, tmpl := ws, lstep := step, cstep := step - 1, begun := true, some_ := false,
          cur := some (CollRun.fresh step s.nextId), kept := [], label := label, pts := th.pts, starter := t, level := lvl,
          eset := th.home.eset, aborted := [], lastAct := s.cycle, probed := false, doneSig := Sig.zero }
      let mine := s.fl.unmatched.filter (forColl c)
      { s with nextId := s.nextId + 1, colls := aset s.colls s.nextId { c with kept := mine },
               fl := { s.fl with unmatched := s.fl.unmatched.filter (fun p => !forColl c p),
                                 ended := s.fl.ended.filter (fun e => !(e.1 == a && e.2.1 == cGroup ws)) } }

/-- COLL.END at commit (R305): the context is released; what arrives later for it is discarded. -/
def applyCollEnd (s : State) (t : Nat) (addr : W) : State :=
  match aget s.threads t with
  | none => s
  | some th =>
    match collOf s (asidOf th) addr with
    | none => s
    | some e =>
      { s with colls := adel s.colls e.1,
               fl := { s.fl with ended := (e.2.asid, cGroup e.2.tmpl, e.2.cstep) ::
                 s.fl.ended.filter (fun x => !(x.1 == e.2.asid && x.2.1 == cGroup e.2.tmpl)) } }

/-! ### Memory accesses of a step (R276, R306) -/

/-- A collective's address to a place. -/
def collLoc (s : State) (h : Nat) (c : Coll) (k : AccKind) (va : W) : Except EngErr Resolved :=
  if pageStalled s c.asid (.coll h) va then .error (.stall va (k == .store))
  else
    match xlate s ⟨c.asid, c.level, c.die, k == .store⟩ k va with
    | .error f =>
      if recoverable s c.asid f then .error (.stall va (k == .store))
      else if f.1 = cXLATE then .error (.fault 4 0 va) else .error (.fault 5 1 va)
    | .ok r => .ok r

/-- The accesses of a step use the translations of some ranges of addresses (R336). -/
def collUses (s : State) (c : Coll) (l : List (W × Nat)) : State :=
  l.foldl (fun st e => fillPages st ⟨c.asid, c.level, c.die, false⟩ (e.2 / 4096 + 2) e.1 e.2) s

/-- What a step has read: the patterns, the memory that they stand on, the labels of the tracked lines among it (R316), and the least
timestamp that publications leave (R251). -/
structure CollSeen where
  vals : List Nat
  spans : List (Nat × Nat)
  sigs : List Sig
  pts : Nat
  deriving DecidableEq, Repr

/-- n elements of sz bytes from an address. -/
def collRead (s : State) (h : Nat) (c : Coll) (image : List (Nat × Nat)) (sz : Nat) : Nat → W → CollSeen → Except EngErr CollSeen
  | 0, _, a => .ok { a with vals := a.vals.reverse }
  | n + 1, va, a =>
    match collLoc s h c .load va with
    | .error e => .error e
    | .ok r =>
      if isRemote r.loc then
        match image.find? (fun e => e.1 == remoteKey r.loc) with
        | some e => collRead s h c image sz n (va + w64 sz)
            { a with vals := leVal (((leBytes 8 e.2).drop (va.toNat % 8)).take sz) :: a.vals }
        | none => .error (.ask r.loc va)
      else if locPoisoned s c.asid r.loc sz then .error (.fault 6 0 va)
      else if locPacked s r.loc then .error (.fault 0x0D 0 va)
      else
        let sp := locSpans s c.asid r.loc sz
        collRead s h c image sz n (va + w64 sz)
          { vals := leVal (locBytes s c.asid s.mem.bytes r.loc sz) :: a.vals, spans := a.spans ++ sp,
            sigs := if r.trk then a.sigs ++ sp.flatMap (fun p => trackedSigs s p.1 p.2) else a.sigs,
            pts := max a.pts (bufTs s c.asid va) }

/-- A write of one element at an address. -/
def collWrite (s : State) (h : Nat) (c : Coll) (pts : Nat) (va : W) (sz pat : Nat) : Except PutErr (State × Nat) :=
  let bs := leBytes sz pat
  match collLoc s h c .store va with
  | .error e => .error (e, none)
  | .ok r =>
    match r.loc with
    | .peer ix pa =>
      (match route s ix with
       | .error f => .error (.fault 0x10 f.2.toNat va, none)
       | .ok port => .ok (sendOp s (.coll h c.lstep.toNat) ix (some port) true (w64 pa) bs, pts))
    | .host p => .ok (sendOp s (.coll h c.lstep.toNat) 0 (some (hostPort s c.asid)) true (w64 p) bs, pts)
    | .aper _ => .error (.fault 4 0 va, none)
    | l =>
      let ts := locStoreTs s c.asid (max pts (bufTs s c.asid va)) l sz
      match locMeta s c.asid l sz with
      | some a => .error (.fault 6 0 va, some a)
      | none => (match locEvent s c.asid ts (if r.trk then some (labelSig s c.label c.pts) else none) false l bs with
         | some s1 => .ok (s1, ts)
         | none => .error (.fault 0x0E 0 va, none))

/-- Write a list of elements from an address upward. -/
def collWrites (s : State) (h : Nat) (c : Coll) (sz : Nat) : Nat → W → List Nat → Except PutErr (State × Nat)
  | pts, _, [] => .ok (s, pts)
  | pts, va, x :: rest =>
    match collWrite s h c pts va sz x with
    | .error e => .error e
    | .ok r => collWrites r.1 h c sz r.2 (va + w64 sz) rest

/-- A step meets an obstacle: it stalls for a page, asks for words, or ends with a fault (R312). -/
def collObstacle (s : State) (h : Nat) (c : Coll) (e : EngErr) : State :=
  let fail (st sub : Nat) : State :=
    updColl s h (fun x => { x with cur := x.cur.map (fun r => { r with fault := some (st, sub) }) })
  match e with
  | .fault st sub _ => fail st sub
  | .stall va wr => pageRequest s c.asid (.coll h) va wr
  | .ask l _ =>
    if s.fl.ops.any (fun o => o.issuer == .coll h c.lstep.toNat && !o.write) then s
    else
      match l with
      | .peer ix pa =>
        (match route s ix with
         | .error f => fail 0x10 f.2.toNat
         | .ok port => sendOp s (.coll h c.lstep.toNat) ix (some port) false (w64 (pa / 8 * 8)) (List.replicate 8 0))
      | .host p => sendOp s (.coll h c.lstep.toNat) 0 (some (hostPort s c.asid)) false (w64 (p / 8 * 8)) (List.replicate 8 0)
      | _ => s

/-! ### Encode (R307) -/

/-- RoundNE(x + y, f32) of two f32 patterns, with its flags. -/
def addNe (x y : Nat) : Nat × BitVec 6 :=
  let a := decodeF 11 x
  let b := decodeF 11 y
  let v := addF 0 a b
  let r := narrowF 11 0 false false v
  (r.1, r.2 ||| nvOf (a.isNan || b.isNan) v)

/-- The element format and block size of a block codec (R302). -/
def codecOf (c : Nat) : Nat × Nat := match c with | 2 => (12, 32) | 3 => (14, 16) | _ => (14, 32)

/-- One block of a block codec (R307): its ue8m0 byte and its q, and the flags. Of a block that is not finite the spec states no q. -/
def encodeBlock (fmt : Nat) (us : List Nat) : List Nat × BitVec 6 :=
  let xs := us.map (decodeF 11)
  if !xs.all Fl.finite then (0xFF :: (List.range us.length).map Config.nanBlockElem, fNV)
  else
    let e : Int := (blockExp fmt (maxAbs xs) : Nat)
    let qs := xs.map (fun x => narrowF fmt 0 true false (scaleF x (127 - e)))
    (e.toNat :: qs.map (fun q => q.1), qs.foldl (fun f q => f ||| q.2) 0)

/-- The blocks of a vector, on fuel. -/
def encodeBlocks (fmt b : Nat) : Nat → List Nat → List Nat × BitVec 6
  | 0, _ => ([], 0)
  | n + 1, us =>
    match us with
    | [] => ([], 0)
    | _ =>
      let x := encodeBlock fmt (us.take b)
      let y := encodeBlocks fmt b n (us.drop b)
      (x.1 ++ y.1, x.2 ||| y.2)

/-- The wire payload that a codec makes of u, and its flags. -/
def encodeWith (codec : Nat) (us : List Nat) : List Nat × BitVec 6 :=
  match codec with
  | 0 => (us, 0)
  | 1 =>
    let l := us.map (fun u => narrowF 10 0 false false (decodeF 11 u))
    (l.map (fun r => r.1), l.foldl (fun f r => f ||| r.2) 0)
  | k => let p := codecOf k; encodeBlocks p.1 p.2 (us.length + 1) us

/-- dq of one block: exact, or NaN where the block's ue8m0 is 0xFF. -/
def rebuildBlock (fmt : Nat) (l : List Nat) : List Fl :=
  match l with
  | [] => []
  | e :: qs => if e = 0xFF then qs.map (fun _ => .nan) else qs.map (fun q => scaleF (decodeF fmt q) ((e : Int) - 127))

/-- dq of the blocks of a payload, on fuel. -/
def rebuildBlocks (fmt b : Nat) : Nat → List Nat → List Fl
  | 0, _ => []
  | n + 1, l =>
    match l with
    | [] => []
    | _ => rebuildBlock fmt (l.take (b + 1)) ++ rebuildBlocks fmt b n (l.drop (b + 1))

/-- dq as a receiver rebuilds it from a payload, exactly (R307). -/
def rebuild (codec : Nat) (l : List Nat) : List Fl :=
  match codec with
  | 0 => l.map (decodeF 11)
  | 1 => l.map (decodeF 10)
  | k => let p := codecOf k; rebuildBlocks p.1 p.2 (l.length + 1) l

/-- dq as the f32 values that the engine-state area keeps (R307, R308). -/
def asF32 (l : List Fl) : List Nat := l.map (fun x => (narrowF 11 0 false false x).1)

/-- RESID of the next step (R307). -/
def residNew (u : Nat) (d : Fl) : Nat × BitVec 6 :=
  if d.isNan then (0, 0)
  else
    let v := addF 0 (decodeF 11 u) d.negate
    let r := narrowF 11 0 false false v
    (r.1, r.2 ||| nvOf (decodeF 11 u).isNan v)

/-- What Encode gives: the wire payload, the residual to be written where there is one, the flags. -/
structure Encoded where
  pay : List Nat
  resid : Option (List Nat)
  flags : BitVec 6
  deriving DecidableEq, Repr

/-- Encode (R307) with the old residuals. -/
def encodeLevel (v : W) (xs resid : List Nat) : Encoded :=
  let us := if vEf v then (List.range xs.length).map (fun i => addNe (xs.getD i 0) (resid.getD i 0)) else xs.map (fun x => (x, 0))
  let u := us.map (fun r => r.1)
  let e := encodeWith (vCodec v) u
  let fl := us.foldl (fun f r => f ||| r.2) e.2
  if vEf v then
    let dq := rebuild (vCodec v) e.1
    let rs := (List.range u.length).map (fun i => residNew (u.getD i 0) (dq.getD i .nan))
    ⟨e.1, some (rs.map (fun r => r.1)), rs.foldl (fun f r => f ||| r.2) fl⟩
  else ⟨e.1, none, fl⟩

/-! ### Levels (R306, R308, R309) -/

/-- The port by which a member of a level is reached: one of PORTMASK that serves it and is up. -/
def levelPort (s : State) (v : W) (ix : Nat) : Option Nat :=
  match aget s.pkg.peers ix with
  | none => none
  | some p => (List.range 16).find? (fun k => (vPorts v).getLsbD k && p.ports.getLsbD k && (match s.pkg.ports[k]? with
      | some q => q.up
      | none => false))

/-- Send the payload of a level to every other member; none where a port is down. -/
def sendPayload (s : State) (h : Nat) (v : W) (p : Payload) : List Nat → Option State
  | [] => some s
  | k :: rest =>
    let ix := vPbase v + k
    match levelPort s v ix with
    | none => none
    | some port =>
      let s1 := sendOp s (.coll h p.step.toNat) ix (some port) true 0 []
      sendPayload { s1 with fl := { s1.fl with out := s1.fl.out ++ [.peerSent ix (.payload p)] } } h v p rest

/-- The payload of this device at a level. -/
def payloadOf (s : State) (c : Coll) (r : CollRun) (pay : List Nat) : Payload :=
  let v := cLev c.tmpl r.level
  { asid := c.asid, group := cGroup c.tmpl, level := r.level, step := r.step, rank := vRank v, count := cCount c.tmpl, type := cType c.tmpl,
    op := cOp c.tmpl, codec := vCodec v, memm1 := vMemm1 v, vals := pay, sig := labelSig s c.label c.pts, unit := collUnit s c.die }

/-- A payload disagrees with the receiver's level (R309). -/
def payloadBad (c : Coll) (p : Payload) : Bool :=
  let v := cLev c.tmpl p.level
  p.count != cCount c.tmpl || p.type != cType c.tmpl || p.op != cOp c.tmpl || p.codec != vCodec v || p.memm1 != vMemm1 v ||
  p.rank == vRank v

/-- The payloads that have come for a level: of its step, and of the earlier steps that STALE still admits (R308). -/
def levelPayloads (c : Coll) (r : CollRun) : List Payload :=
  c.kept.filter (fun p => p.level == r.level && decide ((r.step - p.step).toNat ≤ vStale (cLev c.tmpl r.level)))

/-- A payload breaks R309: it disagrees with the level, or its rank has come twice for its step. -/
def payloadBreaks (c : Coll) (p : Payload) : Bool :=
  payloadBad c p || decide (1 < (c.kept.filter (fun q => q.level == p.level && q.step == p.step && q.rank == p.rank)).length)

/-- The payloads that break R309 in a step: of any level of the step itself, and of earlier steps that its level admits. -/
def breaking (c : Coll) (r : CollRun) : List Payload :=
  c.kept.filter (fun p => (p.step == r.step || (levelPayloads c r).contains p) && payloadBreaks c p)

/-- The payload of member k that is used at a level (R308): the latest at or before the step, at most STALE behind. -/
def termOf (c : Coll) (r : CollRun) (k : Nat) : Option Payload :=
  ((levelPayloads c r).filter (fun p => p.rank == k)).foldl (fun (m : Option Payload) p => match m with
    | some q => if (r.step - p.step).toNat < (r.step - q.step).toNat then some p else m
    | none => some p) none

/-- The terms of the other members, by rank; none while one is missing. -/
def termsOf (c : Coll) (r : CollRun) : Option (List (Nat × Payload)) :=
  (vOthers (cLev c.tmpl r.level)).foldr (fun k acc => match acc, termOf c r k with
    | some l, some p => some ((k, p) :: l)
    | _, _ => none) (some [])

/-- The sum of exact terms in rank order, rounded at each step (R306). -/
def sumTerms (v : Fl) (l : List Fl) : Nat × BitVec 6 :=
  let a := l.foldl (fun (a : Fl × BitVec 6) y =>
    let z := addF 0 a.1 y
    let r := narrowF 11 0 false false z
    (decodeF 11 r.1, a.2 ||| r.2 ||| nvOf (a.1.isNan || y.isNan) z)) (v, 0)
  ((narrowF 11 0 false false a.1).1, a.2)

/-- Combine one element over the members in rank order (R306): MAX has no codec (R304), so its terms are f32 values. -/
def combineElem (op : Nat) (cs : List Fl) : Nat × BitVec 6 :=
  match cs with
  | [] => (0, 0)
  | x :: rest =>
    if op = 0 then sumTerms x rest
    else (rest.foldl (fun a y => maxPat32 a (narrowF 11 0 false false y).1) (narrowF 11 0 false false x).1, 0)

/-- Combine a level. -/
def combineLevel (op count : Nat) (terms : List (List Fl)) : List Nat × BitVec 6 :=
  let l := (List.range count).map (fun i => combineElem op (terms.map (fun t => t.getD i .nan)))
  (l.map (fun r => r.1), l.foldl (fun f r => f ||| r.2) 0)

/-- The edge of a level (R316): its producer is the engine whose payload arrived last, or the engine itself. -/
def levelEdge (s : State) (h : Nat) (c : Coll) (ps : List (Nat × Payload)) : State :=
  let late := (ps.map (fun p => p.2)).filter (fun p => decide (c.lastAct < p.sig.stamp))
  let own : Sig := labelSig s c.label c.pts
  let last := late.foldl (fun (m : Option Payload) p => match m with
    | some q => if q.sig.stamp ≤ p.sig.stamp then some p else m
    | none => some p) none
  let g := match last with
    | some p => p.sig
    | none => own
  let u := match last with
    | some p => p.unit
    | none => collUnit s c.die
  let r := chooseWait s (labelOwn c.label) c.label.edge g
  let pts := (ps.map (fun p => p.2.sig.pts)).foldl max c.pts
  let e := newEdge s c.die (collUnit s c.die) u 11 r.1 r.2 (s.cycle - c.lastAct) pts 0 0
  updColl e.1 h (fun x => { x with label := ⟨r.2, e.2, 0, s.cycle⟩, pts := pts })

/-- Change the step in progress. -/
def updCollRun (s : State) (h : Nat) (f : CollRun → CollRun) : State := updColl s h (fun c => { c with cur := c.cur.map f })

/-- The engine works in this cycle. -/
def collActs (s : State) (h : Nat) : State :=
  updColl s h (fun c => { c with label := { c.label with busy := c.label.busy + 1 }, lastAct := s.cycle, probed := false })

/-- What a level starts from: at level 0 the source, widened (R306). -/
def collInput (s : State) (h : Nat) (c : Coll) (r : CollRun) : Except EngErr CollSeen :=
  if r.level ≠ 0 then .ok ⟨r.v, [], [], c.pts⟩
  else
    match collRead s h c r.image (cSize c.tmpl) (cCount c.tmpl) (c.tmpl.getD 0 0) ⟨[], [], [], c.pts⟩ with
    | .error e => .error e
    | .ok x => .ok { x with vals := x.vals.map (fun p => if cType c.tmpl = 10 then p * 65536 else p) }

/-- RESID of a level, as far as it has one (R307), read after its input. -/
def collResid (s : State) (h : Nat) (c : Coll) (r : CollRun) (x : CollSeen) : Except EngErr CollSeen :=
  if vEf (cLev c.tmpl r.level) then
    collRead s h c r.image 4 (cCount c.tmpl) (c.tmpl.getD 2 0 + w64 (4 * residAt c.tmpl r.level)) { x with vals := [] }
  else .ok { x with vals := [] }

/-- A level begins: the contribution is encoded and sent (R306, R307); the labels of the tracked lines that it read merge (R316). -/
def collEncode (s : State) (h : Nat) (c : Coll) (r : CollRun) : State :=
  let v := cLev c.tmpl r.level
  match collInput s h c r with
  | .error e => collObstacle s h c e
  | .ok xs =>
    match collResid s h c r xs with
    | .error e => collObstacle s h c e
    | .ok rs =>
      let e := encodeLevel v xs.vals rs.vals
      let ev := loadEvent s.mem rs.pts rs.spans
      let c1 := { c with pts := ev.1, label := rs.sigs.foldl (mergeLabel s) c.label }
      let s0 := collUses (noteForeign { s with mem := ev.2 } s.mem c.asid c.die ev.1 (collUnit s c.die) rs.spans) c
        (if r.level = 0 then [(c.tmpl.getD 0 0, cCount c.tmpl * cSize c.tmpl)] else [])
      let s1 := updColl (if vEf v then collUses s0 c [(c.tmpl.getD 2 0 + w64 (4 * residAt c.tmpl r.level), 4 * cCount c.tmpl)] else s0) h
        (fun x => { x with pts := c1.pts, label := c1.label })
      match sendPayload s1 h v (payloadOf s1 c1 r e.pay) (vOthers v) with
      | none => updCollRun s1 h (fun x => { x with fault := some (0x10, 2) })
      | some s2 =>
        collActs (updCollRun s2 h (fun x => { x with
          v := xs.vals, dq := e.pay, sent := true, flags := x.flags ||| e.flags,
          writes := match e.resid with
            | some l => x.writes ++ [(residAt c.tmpl r.level, l)]
            | none => x.writes })) h

/-- What breaks R309 ends the step and goes. -/
def collBreaks (s : State) (h : Nat) (c : Coll) (r : CollRun) : State :=
  updCollRun (updColl s h (fun x => { x with kept := x.kept.filter (fun p => !(breaking c r).contains p) })) h
    (fun x => { x with fault := some (0x10, 3) })

/-- The terms of a level are there: they are combined in the order of rank (R306, R308). -/
def collCombine (s : State) (h : Nat) (c : Coll) (r : CollRun) : State :=
  let v := cLev c.tmpl r.level
  match termsOf c r with
  | none => s
  | some ps =>
    let dq (l : List Nat) : List Fl := rebuild (vCodec v) l
    let terms := (List.range (vMemm1 v + 1)).map (fun k => if k = vRank v then dq r.dq else match ps.find? (fun e => e.1 == k) with
      | some e => dq e.2.vals
      | none => [])
    let w := combineLevel (cOp c.tmpl) (cCount c.tmpl) terms
    let lag := ps.foldl (fun m e => max m (r.step - e.2.step).toNat) r.maxlag
    let lasts := if keepsLast v then ps.map (fun e => (lastAt c.tmpl r.level e.1, asF32 (dq e.2.vals))) else []
    let ws (e : Nat × Payload) : List W := [w64 h, w64 (e.1 + 16 * r.level), BitVec.zeroExtend 64 e.2.step]
    if replays s c.asid && ((((aget s.ctxs c.asid).elim [] (fun x => x.log.replay)).take ps.length).map (List.drop 1)) != ps.map (fun e => 8 :: ws e) then s
    else
    let s1 := ps.foldl (fun st e => orderRec st c.asid c.die c.pts 8 (ws e)) s
    collActs (updCollRun (levelEdge s1 h c ps) h (fun x => { x with
      v := w.1, flags := x.flags ||| w.2, maxlag := lag, level := x.level + 1, sent := false, writes := x.writes ++ lasts })) h

/-- COLL_LEVEL_COMBINE (R306 to R309): the next move of a step at its level: the contribution leaves, or the terms combine; a payload
that breaks R309, for whichever level of the step, ends it. -/
def execCollLevelCombine (h : Nat) (s : State) : Host.Outcome State Fault Refusal :=
  .next (match aget s.colls h with
    | none => s
    | some c =>
      match c.cur with
      | none => s
      | some r =>
        if r.fault.isSome then s
        else if !(breaking c r).isEmpty && !r.sentState then collBreaks s h c r
        else if decide (cNlev c.tmpl ≤ r.level) then s
        else if r.sent then collCombine s h c r else collEncode s h c r)

/-! ### Arrivals -/

/-- A payload or an abort of a step that a released context has ended (R305). -/
def endedFor (s : State) (asid : Nat) (group step : BitVec 32) : Bool :=
  s.fl.ended.any (fun e => e.1 == asid && e.2.1 == group && decide ((e.2.2 - step).toNat < 2 ^ 31))

/-- COLL_PAYLOAD_ARRIVE (R309): what has come in at place k is a payload; it is kept at its context, or until there is one. -/
def execCollPayloadArrive (k : Nat) (s : State) : Host.Outcome State Fault Refusal :=
  .next (match s.fl.inbound[k]? with
    | some (.payload p) =>
      let s1 := takeInbound s k
      (match s1.colls.find? (fun e => forColl e.2 p) with
       | some e =>
         if e.2.some_ && decide ((e.2.cstep - p.step).toNat < 2 ^ 31) && decide (15 < (e.2.cstep - p.step).toNat) then s1
         else updColl s1 e.1 (fun c => { c with kept := c.kept ++ [p] })
       | none =>
         if endedFor s1 p.asid p.group p.step then s1
         else { s1 with fl := { s1.fl with unmatched := s1.fl.unmatched ++ [p] } })
    | _ => s)

/-- COLL_ABORT_ARRIVE (R312): the step ends with SUB 4, if it has not ended; an abort that comes first is kept. A step whose writes to an
engine-state area outside the device have left has ended for an abort (DESIGN CHOICE, log 42). -/
def execCollAbortArrive (k : Nat) (s : State) : Host.Outcome State Fault Refusal :=
  .next (match s.fl.inbound[k]? with
    | some (.abort asid group step) =>
      (match s.colls.find? (fun e => e.2.asid == asid && cGroup e.2.tmpl == group) with
       | none => if endedFor s asid group step then takeInbound s k else s
       | some e =>
         let s1 := takeInbound s k
         match e.2.cur with
         | some r =>
           if r.step = step then
             (if r.sentState then s1 else updCollRun s1 e.1 (fun x => { x with fault := some (x.fault.getD (0x10, 4)) }))
           else if e.2.some_ && decide ((e.2.cstep - step).toNat < 2 ^ 31) then s1
           else updColl s1 e.1 (fun c => { c with aborted := c.aborted ++ [step] })
         | none =>
           if e.2.some_ && decide ((e.2.cstep - step).toNat < 2 ^ 31) then s1
           else updColl s1 e.1 (fun c => { c with aborted := c.aborted ++ [step] }))
    | _ => s)

/-! ### The end of a step (R310 to R312) -/

/-- The completion word (R311). -/
def completionWord (r : CollRun) (st sub : Nat) : W :=
  BitVec.ofNat 8 st ++ BitVec.ofNat 8 sub ++ r.flags ++ (0 : BitVec 2) ++ BitVec.ofNat 8 r.maxlag ++ r.step

/-- A step has ended: CSTEP, line 32 and the completion word; payloads that no later step can use go. -/
def collEnded (s : State) (h : Nat) (c : Coll) (r : CollRun) (st sub : Nat) : State :=
  let g := labelSig s c.label c.pts
  let s1 := updColl s h (fun x => { x with
    cstep := r.step, some_ := true, cur := none, doneSig := g,
    kept := x.kept.filter (fun p => !decide (15 < (r.step - p.step).toNat && (r.step - p.step).toNat < 2 ^ 31)),
    aborted := x.aborted.filter (fun a => a != r.step) })
  let s2 := pulseLine s1 c.eset 32 g
  if cCmben c.tmpl then
    sendWrite s2 ⟨c.starter, BitVec.ofNat 4 (cCmb c.tmpl), completionWord r st sub, g, collUnit s c.die, false, none⟩
  else s2

/-- Aborts to every member of every level (R312). -/
def sendAborts (s : State) (c : Coll) (step : BitVec 32) : State :=
  (cLevels c.tmpl).foldl (fun st j => (vOthers (cLev c.tmpl j)).foldl (fun st1 k =>
    { st1 with fl := { st1.fl with out := st1.fl.out ++ [.peerSent (vPbase (cLev c.tmpl j) + k) (.abort c.asid (cGroup c.tmpl) step)] } }) st) s

/-- A step ends with a nonzero STATUS (R312). -/
def collFails (s : State) (h : Nat) (c : Coll) (r : CollRun) (st sub : Nat) : State :=
  let s1 := reportTrap s c.asid c.die cENGINE (BitVec.ofNat 8 st) ⟨3, 0, 0xFFFFFFFF, 0⟩ 0 0 (some c.starter) (labelSig s c.label c.pts)
    (collUnit s c.die) none
  sendAborts (collEnded s1 h c r st sub) c r.step

/-- The writes of a step to the engine-state area (R306, R310). -/
def collArea (s : State) (h : Nat) (c : Coll) (r : CollRun) : Except PutErr (State × Nat) :=
  r.writes.foldl (fun (a : Except PutErr (State × Nat)) w => match a with
    | .error e => .error e
    | .ok x => collWrites x.1 h c 4 x.2 (c.tmpl.getD 2 0 + w64 (4 * w.1)) w.2) (.ok (s, c.pts))

/-- The elements of the result with their flags (R306). -/
def collOut (c : Coll) (r : CollRun) : List (Nat × BitVec 6) :=
  r.v.map (fun p => if cType c.tmpl = 10 then narrowF 10 0 false false (decodeF 11 p) else (p, 0))

/-- The writes of a step to the shadow of DBASE (R306, R310). -/
def collResult (s : State) (h : Nat) (c : Coll) (r : CollRun) (pts : Nat) : Except PutErr (State × Nat) :=
  collWrites s h c (cSize c.tmpl) pts (c.tmpl.getD 1 0) ((collOut c r).map (fun p => p.1))

/-- Writes of a step to a peer or the host have not been acknowledged; a payload carries no bytes of memory. -/
def stateUnacked (s : State) (h : Nat) (c : Coll) : Bool :=
  s.fl.ops.any (fun o => o.issuer == .coll h c.lstep.toNat && o.write && !o.bytes.isEmpty)

/-- The publication of a step's result and its completion (R310): one event, and the last writer of the shadow is the engine. -/
def collPublish (s : State) (h : Nat) (c : Coll) (r : CollRun) (pts : Nat) : State :=
  let va := (c.tmpl.getD 1 0).toNat
  let ix := (aget s.ctxs c.asid).bind (fun cx => bufOf cx va)
  let ts := ix.elim pts (fun i => pubTs s c.asid i pts)
  let c1 := { c with pts := ts }
  let s1 := updColl (noteShadow s c.asid (fun lo hi => decide (lo ≤ va) && decide (va < hi)) (labelSig s c.label pts, collUnit s c.die)) h
    (fun y => { y with pts := ts })
  let s2 := ix.elim s1 (fun i => swapBuf s1 c.asid i ts)
  collEnded s2 h c1 { r with flags := (collOut c r).foldl (fun f p => f ||| p.2) r.flags } 0 0

/-- The end of a step (R310): the engine-state area, then the shadow; where a part of the area lies with a peer or the host the
shadow follows the acknowledgements (R248). A write that fails leaves all unwritten (R312). -/
def collFinish (s : State) (h : Nat) (c : Coll) (r : CollRun) : State :=
  let fails (e : PutErr) : State := (fun y : EngErr × State => collObstacle y.2 h c y.1) (putFailed s c.asid c.pts e)
  match (if r.sentState then .ok (s, c.pts) else collArea s h c r) with
  | .error e => fails e
  | .ok x =>
    match collResult x.1 h c r x.2 with
    | .error e => fails e
    | .ok y =>
      if x.1.fl.ops.length = s.fl.ops.length then
        collPublish (collUses y.1 c ((c.tmpl.getD 1 0, cCount c.tmpl * cSize c.tmpl) :: r.writes.map (fun w =>
          (c.tmpl.getD 2 0 + w64 (4 * w.1), 4 * w.2.length)))) h c r y.2
      else updCollRun (updColl x.1 h (fun z => { z with pts := x.2 })) h (fun z => { z with sentState := true })

/-- COLL_STEP_COMPLETE (R310, R312): the writes, the publication and the completion, or the end with a fault. -/
def execCollStepComplete (h : Nat) (s : State) : Host.Outcome State Fault Refusal :=
  .next (match aget s.colls h with
    | none => s
    | some c =>
      match c.cur with
      | none => s
      | some r =>
        match r.fault with
        | some f => collFails s h c r f.1 f.2
        | none =>
          if c.aborted.contains r.step && !r.sentState then collFails s h c r 0x10 4
          else if !(breaking c r).isEmpty && !r.sentState then collBreaks s h c r
          else if decide (r.level < cNlev c.tmpl) || stateUnacked s h c then s
          else collFinish s h c r)

/-! ### PUB (R141, R251) -/

/-- The starts of copies of a channel that have not completed: what runs, with its run, what is queued, what a term holds for it. -/
def startsOf (e : EngineSet) (ch : Nat) : List (CopyStart × Option CopyRun) :=
  (e.channels[ch]?).elim [] (fun c =>
    (match c.cur with
     | some r => [(r.start, some r)]
     | none => []) ++ c.queue.map (fun st => (st, none))) ++
  e.terms.flatMap (fun t => (t.fired.filter (fun f => f.1 == ch)).map (fun f => (f.2, none)))

/-- The channels that still write a buffer's shadow with copies started before a bound: engine set, channel (R141, R258). -/
def shadowWriters (s : State) (asid lo hi born : Nat) : List (Nat × Nat) :=
  s.esets.flatMap (fun e => if e.2.crew.asid = asid then
    (List.range e.2.channels.length).filterMap (fun ch =>
      if (startsOf e.2 ch).any (fun q => decide (q.1.born < born) && copyReaches q.1 (knownIndex s e.2 q.1 q.2) lo hi) then some (e.1, ch)
      else none)
    else [])

/-- The collectives that still write a buffer's shadow with a step started before a bound. -/
def shadowColls (s : State) (asid lo hi born : Nat) : List Nat :=
  (s.colls.filter (fun e => e.2.asid == asid && e.2.cur.any (fun r => decide (r.born < born)) &&
    decide (lo ≤ (e.2.tmpl.getD 1 0).toNat) && decide ((e.2.tmpl.getD 1 0).toNat < hi))).map (fun e => e.1)

/-- No engine write that started before a bound is still to come to a buffer's shadow (R141). -/
def shadowQuiet (s : State) (asid lo hi born : Nat) : Bool :=
  (shadowWriters s asid lo hi born).isEmpty && (shadowColls s asid lo hi born).isEmpty

/-- The engine that wrote a buffer's shadow last (R150). -/
def lastWriter (s : State) (asid i : Nat) : Sig × W :=
  ((aget s.ctxs asid).bind (fun c => (c.xlat.bufs[i]?).bind (fun b => b.writer))).getD (Sig.zero, 0)

/-- The buffer that PUB names: its number and its addresses. -/
def pubBuf (s : State) (asid : Nat) (va : W) : Option (Nat × Nat × Nat) :=
  match aget s.ctxs asid with
  | none => none
  | some c =>
    if field va 60 4 ≠ 0 then none
    else match bufOf c va.toNat with
      | none => none
      | some i => match c.xlat.bufs[i]? with
        | some b => some (i, b.va.toNat, b.va.toNat + b.len * 4096)
        | none => none

/-- PUB fires (R141). -/
def firePub (s : State) (q : Firing) : Fired :=
  let l := q.sl.l.getD 0
  let a := asidOf q.th
  match pubBuf s a l with
  | none => .fault s cPROT 0 l
  | some (i, lo, hi) =>
    if unconfirmed s q.th.home.crew then .proof none
    else if shadowQuiet s a lo hi q.b.born then
      .done (gateEnds s q (lastWriter s a i).1 5 (lastWriter s a i).2) (addEff q.b (.publish i))
    else .held

/-- PUB (R141). -/
def execPub (p : Pm) (s : State) : Host.Outcome State Fault Refusal := .next (fire s (.pub p) (firePub s))

/-- PUB_GATE_OPEN (R141). -/
def execPubGateOpen (t k : Nat) (s : State) : Host.Outcome State Fault Refusal :=
  .next (retryGate s t k (fun i st => match i with
    | .pub p => nextOf (execPub p st) st
    | _ => s))

end Sys2Proof.Machine
end

