-- ==== Sys2Proof/Machine/Image.lean ====
section
/-! DEFINITION. Context images (R363, R366 to R368): header, directory, sections, where they are written, what the device keeps of the
sections whose layout is its own, and what a section puts back. -/

namespace Sys2Proof.Machine

/-! ### What the device keeps (R360, R367, log 33) -/

/-- The threads of a context on a cluster. -/
def regionThreads (s : State) (a cl : Nat) : List (Nat × Thread) :=
  s.threads.filter (fun e => asidOf e.2 == a && e.2.home.cluster == cl)

/-- The cells of a context on a cluster. -/
def regionCells (s : State) (a cl : Nat) : List (Nat × Cell) :=
  s.cells.filter (fun e => e.2.crew.asid == a && e.2.cluster == cl)

/-- The engine sets of a context on a cluster. -/
def regionEsets (s : State) (a cl : Nat) : List (Nat × EngineSet) :=
  s.esets.filter (fun e => e.2.crew.asid == a && e.2.cluster == cl)

/-- The clusters of a context's regions. -/
def regionClusters (s : State) (a : Nat) : List Nat := (s.regions.filter (fun r => r.asid == a)).map (fun r => r.cluster)

/-- The clusters of its regions that have been read out. -/
def outClusters (s : State) (a : Nat) : List Nat :=
  (s.regions.filter (fun r => r.asid == a && r.phase == .readOut)).map (fun r => r.cluster)

/-- The contents of some pages. -/
def sramOf (s : State) (ps : List Page) : List Host.Cell :=
  ps.flatMap (fun p => s.mem.bytes.filter (fun c => decide (sramKey p.store 0 0 ≤ c.1) && decide (c.1 < sramKey (p.store + 1) 0 0)))

/-- What the device keeps of a thread: a block in flight is abandoned and starts again from its fetch (R357). -/
def savedThread (t : Nat) (th : Thread) : Saved :=
  .thread t { th with
    pc := th.block.elim th.pc (fun b => b.addr), block := none,
    mode := match th.mode with
      | .mwait => .ready
      | m => m }

/-- What the device keeps of a cell, with its banks. -/
def savedCell (s : State) (c : Nat) (x : Cell) : Saved := .cell c x (sramOf s x.pages)

/-- What the device keeps of a launch, with the spill pages of its crews. -/
def savedLaunch (s : State) (id : Nat) (l : Launch) : Saved := .launch id l (sramOf s (l.crews.filterMap (fun x => x.spill)))

/-- What the device keeps of a context beside its units (R360). -/
def savedCtx (s : State) (a : Nat) (c : Context) : Saved :=
  .ctx { xlat := c.xlat, traplog := c.regs.traplog, tlcnt := c.regs.tlcnt, nextLaunch := c.nextLaunch, queues := c.queues, proof := c.proof,
         reqs := c.reqs, regions := s.regions.filter (fun r => r.asid == a) }

/-- Everything that the regions of a context on some clusters hold, and the context's own (R360). -/
def savedUnits (s : State) (a : Nat) (cls : List Nat) : List Saved :=
  match aget s.ctxs a with
  | none => []
  | some c =>
    savedCtx s a c :: (cls.flatMap (fun cl =>
      (regionThreads s a cl).map (fun e => savedThread e.1 e.2) ++ (regionCells s a cl).map (fun e => savedCell s e.1 e.2) ++
      (regionEsets s a cl).map (fun e => .eset e.1 e.2)) ++ c.launches.map (fun l => savedLaunch s l.1 l.2))

/-- The vault with a unit's state in it. -/
def keepUnit (v : List Saved) (u : Saved) : List Saved := if v.contains u then v else v ++ [u]

/-- The place of a unit's state in the vault, counted from 1; 0 where it is not there. -/
def vaultPlace (s : State) (u : Saved) : Nat := if s.vault.contains u then s.vault.idxOf u + 1 else 0

/-- The device keeps what an image of some regions stands for, and the context remembers which. -/
def keepImage (s : State) (a : Nat) (cls : List Nat) : State :=
  let us := savedUnits s a cls
  let s1 := { s with vault := us.foldl keepUnit s.vault }
  updCtx s1 a (fun c => { c with kept := us.map (vaultPlace s1) })

/-! ### Sections (R367, R368) -/

/-- A section of an image: the fields of its directory entry and its words. -/
structure Section where
  kind : Nat
  shard : Nat
  crew : Nat
  index : Nat
  words : List W
  deriving DecidableEq, Repr

/-- A section whose layout is the device's own: it names the unit, and the place of what the device keeps of it. -/
def ownSection (kind shard crew index : Nat) (name : W) (k : Nat) : Section := ⟨kind, shard, crew, index, name :: w64 k :: List.replicate 6 0⟩

/-- Logical shard and crew of a directory entry; outside any launch both bytes are those of R13. -/
def crewBytes (c : CrewId) : Nat × Nat := if c.launch = 0 then (0xFF, 0xFF) else (c.crew / 64, c.crew % 64)

/-- The near-bank units bound to a cell, with their nodes. -/
def cellUnits (x : Cell) : List (Nat × Nat) :=
  (List.range x.nodes.length).filterMap (fun n => match x.nodes[n]? with
    | some nd => (match nd.st with
      | .mma m => m.unit.map (fun u => (n, u))
      | _ => none)
    | none => none)

/-- The sections of the regions of a context on some clusters (R360, R367). -/
def sectionsOf (s : State) (a : Nat) (cls : List Nat) : List Section :=
  let threads := cls.flatMap (fun cl => (regionThreads s a cl).map (fun e =>
    let b := crewBytes e.2.home.crew
    (⟨2, b.1, b.2, e.2.home.slot, threadSection s e.1 e.2 (vaultPlace s (savedThread e.1 e.2))⟩ : Section)))
  let cells := cls.flatMap (fun cl => (regionCells s a cl).map (fun e =>
    let b := crewBytes e.2.crew
    ownSection 3 b.1 b.2 e.2.cfg.index (nodeUnit s e.2 0) (vaultPlace s (savedCell s e.1 e.2))))
  let sets := cls.flatMap (fun cl => (regionEsets s a cl).flatMap (fun e =>
    let b := crewBytes e.2.crew
    [4, 5, 6].map (fun k => ownSection k b.1 b.2 0 (chanUnit s e.2 0) (vaultPlace s (.eset e.1 e.2)))))
  let near := cls.flatMap (fun cl => (regionCells s a cl).flatMap (fun e =>
    let b := crewBytes e.2.crew
    (cellUnits e.2).map (fun u => ownSection 7 b.1 b.2 u.1 (nodeUnit s e.2 u.1) (vaultPlace s (savedCell s e.1 e.2)))))
  match aget s.ctxs a with
  | some c => ownSection 1 0 0 0 (w64 a) (vaultPlace s (savedCtx s a c)) :: (threads ++ cells ++ sets ++ near ++
      c.launches.map (fun l => ownSection 8 0 0 (l.1 % 65536) (w64 l.1) (vaultPlace s (savedLaunch s l.1 l.2))))
  | none => []

/-! ### The image (R366, R367) -/

/-- Words of the directory with its padding. -/
def dirWords (n : Nat) : Nat := (2 * n + 7) / 8 * 8

/-- The directory of sections that begin at a word of the image. -/
def dirOf : Nat → List Section → List W
  | _, [] => []
  | w, q :: rest =>
    (BitVec.ofNat 32 q.index ++ BitVec.ofNat 8 q.crew ++ BitVec.ofNat 8 q.shard ++ BitVec.ofNat 16 q.kind) ::
    (BitVec.ofNat 32 (8 * q.words.length) ++ BitVec.ofNat 32 (8 * w)) :: dirOf (w + q.words.length) rest

/-- Everything after the header. -/
def bodyWords (qs : List Section) : List W :=
  let d := dirOf (8 + dirWords qs.length) qs
  d ++ List.replicate (dirWords qs.length - d.length) 0 ++ qs.flatMap (fun q => q.words)

/-- A header (R366). -/
def headerWords (nsect asid result len needed : Nat) (icrc fseq : BitVec 32) : List W :=
  [BitVec.ofNat 16 nsect ++ (3 : BitVec 16) ++ (0x49585443 : BitVec 32), BitVec.ofNat 32 result ++ BitVec.ofNat 32 asid, w64 len,
   w64 needed, fseq ++ icrc, 0, 0, 0]

/-- FSEQ of a context. -/
def fseqOf (s : State) (a : Nat) : BitVec 32 := (aget s.ctxs a).elim 0 (fun c => c.regs.fseq)

/-- The image of some regions of a context, RESULT 0. -/
def imageWords (s : State) (a : Nat) (cls : List Nat) : List W :=
  let qs := sectionsOf s a cls
  let body := bodyWords qs
  headerWords qs.length a 0 (64 + 8 * body.length) 0 (crc32c (wordBytes body)) (fseqOf s a) ++ body

/-- Bytes of that image. -/
def imageSize (s : State) (a : Nat) (cls : List Nat) : Nat := 64 + 8 * (bodyWords (sectionsOf s a cls)).length

/-- The header alone of an image that did not fit (R365): it holds nothing, and says what would be needed. -/
def shortHeader (s : State) (a needed : Nat) : List W := headerWords 0 a 1 64 needed (crc32c []) (fseqOf s a)

/-- An image of n bytes fits the save area of a context (R373). -/
def saveFits (s : State) (a n : Nat) : Bool :=
  match aget s.ctxs a with
  | some c => c.regs.savebase != 0 && c.regs.savelen != 0 && decide (n ≤ 4096 * c.regs.savelen.toNat)
  | none => false

/-- Bytes that the device writes from the start of a unit of memory, unit by unit: only the last can be a partial write (R192). -/
def unitPuts (s : State) (asid a : Nat) (bs : List Byte) : State :=
  (List.range ((bs.length + 511) / 512)).foldl (fun st k => devPut st asid (a + 512 * k) ((bs.drop (512 * k)).take 512)) s

/-- Write the image again where it lies: where CTXSAVE put it, else in the save area, where it fits that (R359, R363, R373). -/
def rewriteImage (s : State) (a : Nat) : State :=
  match aget s.ctxs a with
  | some c =>
    let cls := outClusters s a
    let s1 := keepImage s a cls
    let bs := wordBytes (imageWords s1 a cls)
    (match c.image with
     | some (ca, die, base) => (vaPut s1 ca die base bs).getD s1
     | none => if cls.isEmpty || !saveFits s a (imageSize s a cls) then s1 else unitPuts s1 a (c.regs.savebase &&& frameMask).toNat bs)
  | none => s

/-- What has changed in regions that lie in an image changes in the image too, as one event (R359). -/
def imageFollows (s : State) (a : Nat) : State := if (outClusters s a).isEmpty then s else rewriteImage s a

/-- A write has landed in a thread: where the thread lies in an image, it lands in the image as one event (R359). -/
def landedIn (s : State) (t : Nat) : State :=
  match aget s.threads t with
  | none => s
  | some th => if regionOut s (asidOf th) th.home.cluster then rewriteImage s (asidOf th) else s

/-- A mailbox write that lands wherever the thread's state lies (R127, R359). -/
def landAnywhere (s : State) (t : Nat) (n : BitVec 4) (v : W) (g : Sig) (unit : W) (launch : Bool) : State :=
  landedIn (landMail s t n v g unit launch) t

/-! ### Reading a THREAD section back (R364, R368) -/

/-- The per-thread CTX registers that a section holds. -/
def sectionRegs (ws : List W) (r : ThreadRegs) : ThreadRegs :=
  let c (k : Nat) : W := ws.getD (96 + k) 0
  { r with
    tflag := (c 1).extractLsb' 0 6, gflag := (c 1).extractLsb' 8 6,
    ufcnt := (c 2).extractLsb' 0 16, ofcnt := (c 2).extractLsb' 16 16, satcnt := (c 2).extractLsb' 32 16, nancnt := (c 2).extractLsb' 48 16,
    csize := (c 3).extractLsb' 8 7, spc := (c 3).extractLsb' 16 20, ovfptr := c 4 &&& 0xFFFFFFFFFFFFFFF8#64, mbovr := (c 5).extractLsb' 0 16,
    irNext := (c 6).extractLsb' 0 32, irEnd := (c 6).extractLsb' 32 32, nbv := (c 8).extractLsb' 0 2,
    priv := (c 9).extractLsb' 0 2, ppriv := (c 9).extractLsb' 2 2, intrap := (c 9).getLsbD 4,
    trapinfo := c 10 &&& 0xFFFFFFFF00FFFFFF#64, trapaddr := c 11, trappc := c 12 &&& 0xFFFFFFFFFFFFFFF0#64 }

/-- STATE of a section, which does not say how a thread has halted: a thread held for proof or in a trailing wait goes on with what the device kept of the wait. -/
def sectionMode (st : W) (m : Mode) : Mode :=
  match field st 0 8, m with
  | 1, .fallen => .fallen
  | 1, _ => .halted
  | 2, .proofHeld t => .proofHeld t
  | 3, .trailing ws a => .trailing ws a
  | _, _ => .ready

/-- A thread as its section says. -/
def loadSection (ws : List W) (th : Thread) : Thread :=
  { th with
    pc := ws.getD 0 0, gs := Vector.ofFn (fun i => if i.val = 0 then 0 else ws.getD i.val 0),
    ms := Vector.ofFn (fun i => ws.getD (64 + i.val) 0), ras := ((ws.drop 80).take 16).take (field (ws.getD 99 0) 0 5),
    mfull := (ws.getD 114 0).extractLsb' 0 16, mode := sectionMode (ws.getD 115 0) th.mode, regs := sectionRegs ws th.regs,
    label := { th.label with path := field (ws.getD 117 0) 0 32, edge := (ws.getD 117 0).extractLsb' 32 32, busy := 0 },
    tag := (ws.getD 118 0).extractLsb' 0 32, block := none }

/-- The words of an image's directory entry k. -/
def dirEntry (img : List W) (k : Nat) : W × W := (img.getD (8 + 2 * k) 0, img.getD (9 + 2 * k) 0)

/-- Entries of an image's directory. -/
def entriesOf (img : List W) : List Nat := List.range (field (img.getD 0 0) 48 16)

/-- The words of section k of an image. -/
def sectionAt (img : List W) (k : Nat) : List W := (img.drop (field (dirEntry img k).2 0 32 / 8)).take (field (dirEntry img k).2 32 32 / 8)

/-- The THREAD section of an image for a thread: WAITARG has its handle (log 33). -/
def sectionFor (img : List W) (t : Nat) : Option (List W) :=
  ((entriesOf img).find? (fun k => field (dirEntry img k).1 0 16 == 2 && field ((sectionAt img k).getD 116 0) 0 32 == t)).map (sectionAt img)

/-- The places in the vault that an image's sections name. -/
def placesOf (img : List W) : List Nat :=
  ((entriesOf img).map (fun k => if field (dirEntry img k).1 0 16 = 2 then field ((sectionAt img k).getD 116 0) 32 29
    else ((sectionAt img k).getD 1 0).toNat)).filter (fun k => k != 0)

/-! ### Units put back from the vault (R364, R365) -/

/-- The contents of some pages, put back. -/
def sramBack (s : State) (ps : List Page) (l : List Host.Cell) : State :=
  let m := ps.foldl clearPage s.mem.bytes
  { s with mem := { s.mem with bytes := l.foldl (fun b c => cellsPut b c.1 [c.2]) m } }

/-- The context's own part, put back: its regions lie in the image. -/
def ctxBack (s : State) (a : Nat) (k : CtxSave) : State :=
  let s1 := updCtx s a (fun c => { c with
    xlat := k.xlat, regs := { c.regs with traplog := k.traplog, tlcnt := k.tlcnt }, nextLaunch := k.nextLaunch, queues := k.queues,
    proof := k.proof, reqs := k.reqs })
  { s1 with regions := s1.regions.filter (fun r => r.asid != a) ++ k.regions.map (fun r => { r with phase := .readOut, requests := [] }) }

/-- A unit of a context, put back. -/
def savedBack (a : Nat) (s : State) (u : Saved) : State :=
  match u with
  | .ctx k => ctxBack s a k
  | .thread t th => { s with threads := aset s.threads t th }
  | .cell c x l => sramBack { s with cells := aset s.cells c x } x.pages l
  | .eset e x => { s with esets := aset s.esets e x }
  | .launch id l m => sramBack (updCtx s a (fun c => { c with launches := aset c.launches id l })) (l.crews.filterMap (fun x => x.spill)) m

/-- The units of a context go, before those of an image take their place. -/
def dropUnits (s : State) (a : Nat) : State :=
  updCtx { s with
    threads := s.threads.filter (fun e => asidOf e.2 != a), cells := s.cells.filter (fun e => e.2.crew.asid != a),
    esets := s.esets.filter (fun e => e.2.crew.asid != a) } a (fun c => { c with launches := [] })

/-- A context's units as an image has them: those that stand here where it is the last image of the context, else those that the device
keeps for it (R364, R365, log 33). -/
def unitsBack (s : State) (a : Nat) (img : List W) : State :=
  let ks := (placesOf img).dedup
  if (aget s.ctxs a).elim true (fun c => ks.all c.kept.contains && c.kept.all ks.contains) || ks.isEmpty then s
  else (ks.filterMap (fun k => s.vault[k - 1]?)).foldl (savedBack a) (dropUnits s a)

/-! ### SHAPE and a gated launch (R290, R359) -/

/-- SHAPE_ARRIVE (R287, R290 to R294): SHAPE k of those on their way. It applies to a launch wherever its crews' state lies (R359). -/
def execShapeArrive (k : Nat) (s : State) : Host.Outcome State Fault Refusal :=
  .next (match s.fl.shapes[k]? with
    | none => s
    | some m =>
      let s0 := { s with fl := { s.fl with shapes := dropAt s.fl.shapes k } }
      let ws : List W := [w64 m.id, BitVec.zeroExtend 64 m.e]
      if !mayCome s m.asid 5 ws then s
      else
        match launchOf s m.asid m.id with
        | none => s0
        | some l =>
          let s1 := orderRec s0 m.asid ((aget s.threads m.thread).elim 0 (fun th => dieOf th.home.cluster)) m.sig.pts 5 ws
          let s2 := updCtx s1 m.asid (fun c => { c with proof := pushExtent c.proof (wPkey l.words) m.e })
          let s3 := updLaunch s2 m.asid m.id (fun y => { y with shape := some m.e })
          if l.queued then s3
          else imageFollows (shapeCrews s3 m.asid m.id l m.e.toNat m.sig (threadUnitAt s m.thread)) m.asid)

end Sys2Proof.Machine
end

