-- ==== Sys2Proof/Machine/Message.lean ====
section
/-! DEFINITION. Messages (R127, R129, R130), the host mailbox (R400), work ranges and stealing (R145 to R147), YIELD (R148)
and the critical-path instructions (R149). What an instruction sends leaves after the commit of its block. -/

namespace Sys2Proof.Machine

/-! ### Destinations (R129) -/

/-- Where a destination word leads: threads of this device, a peer, or the host mailbox of the sender's partition. -/
inductive Dest where
  | here (ts : List Nat)
  | peer (ix : Nat)
  | host
  deriving DecidableEq, Repr

/-- The thread of a context on a thread slot of a cluster. -/
def threadAt (s : State) (asid cluster slot : Nat) : Option Nat :=
  match s.threads.find? (fun e => asidOf e.2 == asid && e.2.home.cluster == cluster && e.2.home.slot == slot) with
  | some e => some e.1
  | none => none

/-- The leader of a crew of a launch. -/
def leaderOf (s : State) (asid launch crew : Nat) : Option Nat :=
  match s.threads.find? (fun e => e.2.home.crew == ⟨asid, launch, crew⟩ && e.2.home.helper == 0) with
  | some e => some e.1
  | none => none

/-- The threads that a word with DEVICE 0 names (R129, R130). -/
def destHere (s : State) (th : Thread) (d : W) (bcast : Bool) : Except Flt Dest :=
  let asid := asidOf th
  let c := field d 4 6
  let die := field d 10 2
  if d.getLsbD 12 then
    if bcast || th.home.crew.launch == 0 || field d 0 4 != 0 then .error (cPROT, 0)
    else match leaderOf s asid th.home.crew.launch (die * 64 + c) with
      | some t => .ok (.here [t])
      | none => .error (cPROT, 0)
  else
    let cl := die * 64 + c
    let ks := if bcast then (List.range 16).filter (fun k => d.getLsbD (48 + k)) else [field d 0 4]
    let ts := ks.map (threadAt s asid cl)
    if ts.all Option.isSome then .ok (.here (ts.filterMap id)) else .error (cPROT, 0)

/-- The checks of R129 as the instruction fires. A DEVICE that no entry maps raises LINK whatever LG says: the spec gives the two no order
(DESIGN CHOICE, log 42). -/
def destOf (s : State) (th : Thread) (d : W) (bcast steal : Bool) : Except Flt Dest :=
  if field d 32 16 ≠ 0 ∨ field d 13 3 ≠ 0 ∨ (!bcast ∧ field d 48 16 ≠ 0) then .error (cPROT, 0)
  else
    let dev := field d 16 16
    if dev = 0 then destHere s th d bcast
    else if steal then .error (cPROT, 0)
    else match aget s.pkg.peers dev with
      | none => .error (cLINK, 1)
      | some e =>
        if !e.valid then .error (cLINK, 1)
        else if e.host then
          (if bcast || field d 0 16 != 0 || field d 48 16 != 0 then .error (cPROT, 0) else .ok .host)
        else if d.getLsbD 12 then .error (cPROT, 0)
        else .ok (.peer dev)

/-! ### The instructions -/

/-- A message instruction fires: its destination is checked; an unconfirmed crew is held (R289). -/
def fireSend (s : State) (q : Firing) (bcast : Bool) (e : Eff) : Fired :=
  match destOf s q.th (q.sl.l.getD 0) bcast false with
  | .error f => .fault s f.1 f.2 q.b.addr
  | .ok _ => if unconfirmed s q.th.home.crew then .proof none else .done s (addEff q.b e)

/-- MSEND (R130). -/
def execMsend (n : BitVec 4) (p : Pm) (s : State) : Host.Outcome State Fault Refusal :=
  .next (fire s (.msend n p) (fun q => fireSend s q false (.send n (q.sl.l.getD 0) (q.sl.r.getD 0) false)))
/-- MSENDW (R130). -/
def execMsendw (n : BitVec 4) (p : Pm) (s : State) : Host.Outcome State Fault Refusal :=
  .next (fire s (.msendw n p) (fun q => fireSend s q false (.send n (q.sl.l.getD 0) (q.sl.r.getD 0) true)))
/-- MBCAST (R130). -/
def execMbcast (n : BitVec 4) (p : Pm) (s : State) : Host.Outcome State Fault Refusal :=
  .next (fire s (.mbcast n p) (fun q => fireSend s q true (.bcast n (q.sl.l.getD 0) (q.sl.r.getD 0))))

/-- The count that TAKE delivers (R146). -/
def takeCount (ir l : W) : Nat := min (max (field l 0 32) 1) (field ir 32 32 - field ir 0 32)

/-- TAKE (R146): values of the snapshot; the range moves at commit. -/
def execTake (v t : Target) (p : Pm) (s : State) : Host.Outcome State Fault Refusal :=
  .next (fire s (.take v t p) (fun q =>
    let n := takeCount q.b.irange (q.sl.l.getD 0)
    .done s (addEff (deliver (deliver q.b q.k t (w64 (field q.b.irange 0 32))) q.k v (w64 n)) (.take (BitVec.ofNat 32 n)))))
/-- STEAL (R147). -/
def execSteal (p : Pm) (s : State) : Host.Outcome State Fault Refusal :=
  .next (fire s (.steal p) (fun q =>
    match destOf s q.th (q.sl.l.getD 0) false true with
    | .error f => .fault s f.1 f.2 q.b.addr
    | .ok (.here [d]) => if unconfirmed s q.th.home.crew then .proof none else .done s (addEff q.b (.steal d))
    | .ok _ => .fault s cPROT 0 q.b.addr))
/-- YIELD (R148). -/
def execYield (p : Pm) (s : State) : Host.Outcome State Fault Refusal :=
  .next (fireEff s (.yield p) (fun _ _ => .yield))
/-- CPTAG (R149). -/
def execCptag (p : Pm) (s : State) : Host.Outcome State Fault Refusal :=
  .next (fireEff s (.cptag p) (fun l _ => .cptag (l.extractLsb' 0 32)))
/-- CPMARK (R149). -/
def execCpmark (p : Pm) (s : State) : Host.Outcome State Fault Refusal :=
  .next (fireEff s (.cpmark p) (fun l _ => .cpmark (l.extractLsb' 0 32)))

/-! ### After the commit -/

/-- One message toward a thread of this device or toward the host. -/
def sendMsg (s : State) (t : Nat) (th : Thread) (host : Option Nat) (dst : Nat) (n : BitVec 4) (v : W) (wait : Bool) : State :=
  let m : Msg := ⟨s.nextId, t, asidOf th, host, dst, n, v, wait, threadSig s th⟩
  { s with nextId := s.nextId + 1, fl := { s.fl with msgs := s.fl.msgs ++ [m] } }

/-- The trap record of a message or store that a link lost or a peer refused (R129, R313). -/
def reportLost (s : State) (t : Nat) (code sub : BitVec 8) (slot : Nat) (addr : W) (ends : Option Waiting) : State :=
  match aget s.threads t with
  | none => s
  | some th =>
    reportTrap s (asidOf th) (dieOf th.home.cluster) code sub ⟨0, slot, threadCoord th, 0⟩ addr 0 (some t)
      (threadSig s th) (threadUnit s th) ends

/-- A thread's trailing wait is on a message. -/
def waitsFor (s : State) (t id : Nat) : Bool :=
  match aget s.threads t with
  | some th => th.waits.contains (.msendw id)
  | none => false

/-- The trailing wait on a message that its loss or refusal ends, where its sender waits for it. -/
def lostWait (s : State) (t id : Nat) : Option Waiting := if waitsFor s t id then some (.msendw id) else none

/-- A message to a peer leaves on the channel of the device (R53, R129). -/
def sendPeerMsg (s : State) (t : Nat) (th : Thread) (slot : Nat) (addr : W) (ix : Nat) (d : W) (n : BitVec 4) (v : W) (wait : Bool) : State :=
  match route s ix with
  | .error f => reportLost { s with nextId := s.nextId + 1 } t cLINK f.2 slot addr (if wait then some (.msendw s.nextId) else none)
  | .ok port =>
    let s1 := sendOp s (.message t s.nextId slot addr) ix (some port) true 0 (leBytes 8 v.toNat)
    let body : Inbound := .message (asidOf th) (d &&& 0xFFFFFFFF0000FFFF#64) n v wait (threadSig s th) (threadUnit s th)
    { s1 with fl := { s1.fl with out := s1.fl.out ++ [.peerSent ix body] } }

/-- MSEND and MSENDW after the commit (R130). A destination that the firing's check passed and that fails it now (its thread has gone) gets
no message, and leaves no record and no wait: the spec is silent on it (DESIGN CHOICE, log 42). -/
def applySend (s : State) (t slot : Nat) (addr : W) (n : BitVec 4) (d v : W) (wait : Bool) : State :=
  match aget s.threads t with
  | none => s
  | some th =>
    match destOf s th d false false with
    | .error _ => s
    | .ok (.here ts) =>
      let s1 := ts.foldl (fun st x => sendMsg st t th none x n v wait) s
      if wait then trail s1 t (.msendw s.nextId) else s1
    | .ok (.peer ix) =>
      let s1 := sendPeerMsg s t th slot addr ix d n v wait
      if wait then trail s1 t (.msendw s.nextId) else s1
    | .ok .host =>
      let part := (aget s.ctxs (asidOf th)).elim 0 (fun c => c.part)
      let s1 := sendMsg s t th (some part) 0 n v wait
      if wait then trail s1 t (.msendw s.nextId) else s1

/-- MBCAST after the commit (R130): one message to each selected thread. -/
def applyBcast (s : State) (t slot : Nat) (addr : W) (n : BitVec 4) (d v : W) : State :=
  match aget s.threads t with
  | none => s
  | some th =>
    match destOf s th d true false with
    | .error _ => s
    | .ok (.here ts) => ts.foldl (fun st x => sendMsg st t th none x n v false) s
    | .ok (.peer ix) => if field d 48 16 = 0 then s else sendPeerMsg s t th slot addr ix d n v false
    | .ok .host => s

/-- TAKE at commit (R146): the range moves; one request that landed before the snapshot is served. -/
def applyTake (s : State) (t : Nat) (n : BitVec 32) : State :=
  match aget s.threads t with
  | none => s
  | some th =>
    let next := th.regs.irNext + n
    let s1 := updThread s t (fun x => { x with regs := { x.regs with irNext := next } })
    match th.thieves with
    | (thief, true) :: rest =>
      let h := (th.regs.irEnd.toNat - next.toNat) / 2
      let g := threadSig s th
      if 1 ≤ h then
        let lo := th.regs.irEnd - BitVec.ofNat 32 h
        let s2 := updThread s1 t (fun x => { x with thieves := rest, regs := { x.regs with irEnd := lo } })
        { s2 with fl := { s2.fl with steals := s2.fl.steals ++ [⟨thief, t, true, some (lo, th.regs.irEnd), g⟩] } }
      else refuseThief (updThread s1 t (fun x => { x with thieves := rest })) t thief g
    | _ => s1

/-- STEAL after the commit (R147). -/
def applySteal (s : State) (t victim : Nat) : State :=
  match aget s.threads t with
  | none => s
  | some th =>
    let s1 := trail s t (.steal victim)
    { s1 with fl := { s1.fl with steals := s1.fl.steals ++ [⟨t, victim, false, none, threadSig s th⟩] } }

/-- YIELD after the commit (R148): it waits for the other threads of the cluster that are ready now. -/
def applyYield (s : State) (t : Nat) : State :=
  match aget s.threads t with
  | none => s
  | some th =>
    let left := s.threads.filterMap (fun e =>
      if e.1 ≠ t ∧ e.2.home.cluster = th.home.cluster ∧ startReady s e.2 = true then some e.1 else none)
    trail s t (.yield left)

/-- CPMARK at commit (R149, R320): a MARK edge, then the walker of the thread's die starts at it. -/
def applyMark (s : State) (t : Nat) (st : BitVec 32) : State :=
  match aget s.threads t with
  | none => s
  | some th =>
    let s1 := endWaitThread s t ⟨0, th.label.edge, s.cycle, 0, 0⟩ 14 (threadUnit s th) 0
    match aget s1.threads t with
    | none => s1
    | some th1 =>
      let w : Walk := ⟨s1.nextId, asidOf th, dieOf th.home.cluster, th1.label.edge, th1.label.edge, [], st, threadUnit s th⟩
      { s1 with nextId := s1.nextId + 1, fl := { s1.fl with walks := s1.fl.walks ++ [w] } }

/-! ### Landings -/

/-- Two messages go to one mailbox: of one thread, or the host mailbox of one partition, which has no number (R129). -/
def sameBox (x m : Msg) : Bool := x.host == m.host && (m.host.isSome || (x.dst == m.dst && x.n == m.n))

/-- Messages of one sender to one mailbox land in the order of their commits (R130). -/
def mayLand (l : List Msg) (k : Nat) (m : Msg) : Bool := (l.take k).all (fun x => !(x.src == m.src && sameBox x m))

/-- The sender's trailing wait on a message ends (R130). -/
def endSendWait (s : State) (m : Msg) (g : Sig) (producer : W) : State :=
  match aget s.threads m.src with
  | none => s
  | some _ => endTrailEdge s m.src (.msendw m.id) g 7 producer

/-- A message to a thread of this device lands (R127, R130). Where that thread is gone, the message goes without a record, and a wait of its
sender on it does not end: the spec is silent on it (DESIGN CHOICE, log 42). -/
def landMsg (s : State) (k : Nat) (m : Msg) : State :=
  match aget s.threads m.dst with
  | none => { s with fl := { s.fl with msgs := dropAt s.fl.msgs k } }
  | some th =>
    if m.wait && th.mfull.getLsbD m.n.toNat then s
    else if !mayMail s m.dst m.n m.v (threadUnitAt s m.src) then s
    else
      let s1 := { s with fl := { s.fl with msgs := dropAt s.fl.msgs k } }
      let s2 := landAnywhere s1 m.dst m.n m.v m.sig (threadUnitAt s m.src) false
      if m.wait then endSendWait s2 m (threadSig s th) (threadUnit s th) else s2

/-- A destination word of a message that has come in leads to the mailbox of another's thread: where it is an MBCAST's, to each thread that
its TMASK selects (R129, R130). -/
def boxesMeet (e d : W) : Bool :=
  if field e 48 16 = 0 then e.extractLsb' 0 16 == d.extractLsb' 0 16
  else e.extractLsb' 4 12 == d.extractLsb' 4 12 && e.getLsbD (48 + field d 0 4)

/-- Nothing that came in earlier keeps a message of another device from landing: the accesses of its sender's thread (R259 note 27),
and an earlier message of that sender to the same mailbox (R130). -/
def mayLandInbound (l : List Inbound) (k asid : Nat) (d : W) (n : BitVec 4) (unit : W) : Bool :=
  (l.take k).all (fun i => match i with
    | .access _ _ _ _ u _ => u != unit
    | .message a e m _ _ _ u => !(u == unit && a == asid && m == n && boxesMeet e d)
    | _ => true)

/-- The message of an MBCAST as one message to each selected thread (R130). -/
def splitBcast (d : W) : List W :=
  if field d 48 16 = 0 then [d]
  else ((List.range 16).filter (fun j => d.getLsbD (48 + j))).map (fun j => (d &&& 0xFFF0#64) ||| w64 j)

/-- The first of an MBCAST's messages stands by itself, the others stay behind it. -/
def unfoldBcast (s : State) (k : Nat) (f : W → Inbound) (ds : List W) : State :=
  { s with fl := { s.fl with inbound := s.fl.inbound.take k ++ ds.map f ++ s.fl.inbound.drop (k + 1) } }

/-- One message of another device lands, waits, or is refused (R129, R130). Of one that its sender waits for the landing is reported, with
the thread that had emptied the mailbox (R150). -/
def landPeer (s : State) (k asid : Nat) (d : W) (n : BitVec 4) (v : W) (wait : Bool) (g : Sig) (unit : W) : State :=
  let gone := takeInbound s k
  match (if (aget s.ctxs asid).isNone || d.getLsbD 12 then none else threadAt s asid (field d 10 2 * 64 + field d 4 6) (field d 0 4)) with
  | none => { gone with fl := { gone.fl with out := gone.fl.out ++ [.refusedMsg asid d] } }
  | some t =>
    if (wait && (aget s.threads t).any (fun th => th.mfull.getLsbD n.toNat)) || replays s asid then s
    else
      let s1 := landAnywhere gone t n v g unit false
      match aget s.threads t with
      | some th =>
        if wait then { s1 with fl := { s1.fl with out := s1.fl.out ++ [.landedMsg asid d (threadSig s th) (threadUnit s th)] } } else s1
      | none => s1

/-- What a peer says of a message ends the operation that sent it, where its sender still waits for it. -/
def dropMessage (s : State) (t id : Nat) : State :=
  { s with fl := { s.fl with ops := s.fl.ops.filter (fun o => match o.issuer with
      | .message u i _ _ => !(u == t && i == id && waitsFor s t id)
      | _ => true) } }

/-- What another device sent of messages: one lands, or is refused (R129), each message of an MBCAST by itself; a peer refuses one that this
device sent, with a record for each thread that it does not reach, or says that one has landed and ends its sender's wait (R130). -/
def landInbound (s : State) (k : Nat) : State :=
  match s.fl.inbound[k]? with
  | some (.message asid d n v wait g unit) =>
    if field d 48 16 ≠ 0 then unfoldBcast s k (fun e => .message asid e n v wait g unit) (splitBcast d)
    else if mayLandInbound s.fl.inbound k asid d n unit then landPeer s k asid d n v wait g unit
    else s
  | some (.refused t id slot a) => reportLost (dropMessage (takeInbound s k) t id) t cPROT 6 slot a (lostWait s t id)
  | some (.landed t id g unit) => endTrailEdge (dropMessage (takeInbound s k) t id) t (.msendw id) g 7 unit
  | _ => s

/-- MESSAGE_LAND (R130): message k of those in flight here, counted on into those that have arrived from other devices. -/
def execMessageLand (k : Nat) (s : State) : Host.Outcome State Fault Refusal :=
  .next (match s.fl.msgs[k]? with
    | some m => if m.host.isNone && mayLand s.fl.msgs k m then landMsg s k m else s
    | none => landInbound s (k - s.fl.msgs.length))

/-- Stores to the host that a message's sender issued before it and that have not been acknowledged: the message follows them on the
link (R260). -/
def hostStoresBefore (s : State) (m : Msg) : Bool :=
  s.fl.ops.any (fun o => o.write && decide (o.id < m.id) && (o.port == some 16 || o.port == some 17) && (match o.issuer with
    | .threadStore t _ _ => t == m.src
    | _ => false))

/-- A message lands in HMB (R129, R400); it reaches the host port's label (R315). -/
def landHost (s : State) (k : Nat) (m : Msg) (part : Nat) : State :=
  match aget s.parts part with
  | none => { s with fl := { s.fl with msgs := dropAt s.fl.msgs k } }
  | some p =>
    if (m.wait && p.full) || hostStoresBefore s m then s
    else
      let out := if p.full then s.fl.out else s.fl.out ++ [.msix part 0]
      let s1 := { s with fl := { s.fl with msgs := dropAt s.fl.msgs k, out := out } }
      let s2 := outsideActs (updPart s1 part (fun x => { x with hmb := m.v, full := true, ovr := x.ovr || x.full })) (.host part) m.sig.pts [m.sig]
      if m.wait then
        endSendWait s2 m p.hmbSig (portUnit s (if p.dies.getLsbD 0 then 0 else 1) (if p.dies.getLsbD 0 then 16 else 17))
      else s2

/-- HOST_MAILBOX_LAND (R129). -/
def execHostMailboxLand (k : Nat) (s : State) : Host.Outcome State Fault Refusal :=
  .next (match s.fl.msgs[k]? with
    | some m =>
      (match m.host with
       | some part => if mayLand s.fl.msgs k m then landHost s k m part else s
       | none => s)
    | none => s)

/-- MAILBOX_WRITE_LAND (R127): write k of those in flight. One that ends a trailing wait on a lost message or steal ends it
as it lands (R129, R313). -/
def execMailboxWriteLand (k : Nat) (s : State) : Host.Outcome State Fault Refusal :=
  .next (match s.fl.writes[k]? with
    | none => s
    | some w =>
      let s1 := { s with fl := { s.fl with writes := dropAt s.fl.writes k } }
      let s2 := landAnywhere s1 w.thread w.n w.v w.sig w.unit w.launch
      if !mayMail s w.thread w.n w.v w.unit then s
      else
        match w.ends with
        | some q => endTrailEdge s2 w.thread q w.sig (if waitKind q = 2 then 8 else 7) w.unit
        | none => s2)

/-- STEAL_REQUEST_LAND (R146): a halted victim, or one with an empty range, refuses as it lands; a gated victim keeps it
(R359). -/
def execStealRequestLand (k : Nat) (s : State) : Host.Outcome State Fault Refusal :=
  .next (match s.fl.steals[k]? with
    | none => s
    | some r =>
      if r.reply then s
      else
        let s1 := { s with fl := { s.fl with steals := dropAt s.fl.steals k } }
        match aget s.threads r.victim with
        | none => refuseThief s1 r.victim r.thief r.sig
        | some th =>
          if threadRuns s th && (th.mode == .halted || decide (th.regs.irEnd.toNat ≤ th.regs.irNext.toNat)) then
            refuseThief s1 r.victim r.thief (threadSig s th)
          else landedIn (updThread s1 r.victim (fun x => { x with thieves := x.thieves ++ [(r.thief, false)] })) r.victim)

/-- STEAL_REPLY_LAND (R147), wherever the thief's state lies (R359). -/
def execStealReplyLand (k : Nat) (s : State) : Host.Outcome State Fault Refusal :=
  .next (match s.fl.steals[k]? with
    | none => s
    | some r =>
      if !r.reply then s
      else
        let s1 := { s with fl := { s.fl with steals := dropAt s.fl.steals k } }
        let s2 := match r.grant with
          | some g => updThread s1 r.thief (fun x => { x with regs := { x.regs with irNext := g.1, irEnd := g.2 } })
          | none => s1
        landedIn (endTrailEdge s2 r.thief (.steal r.victim) r.sig 8 (threadUnitAt s r.victim)) r.thief)

/-- A YIELD's wait is over: no thread that has not started a block since can start one, for each has halted or is gone (R148; DESIGN CHOICE,
log 42). -/
def yieldOver (s : State) (w : Waiting) : Bool :=
  match w with
  | .yield left => left.all (fun x => match aget s.threads x with
      | some o => stopped o
      | none => true)
  | _ => false

/-- YIELD_END (R148). -/
def execYieldEnd (t : Nat) (s : State) : Host.Outcome State Fault Refusal :=
  .next (match aget s.threads t with
    | none => s
    | some th =>
      match th.waits.find? (yieldOver s) with
      | some w => if threadRuns s th then endTrail s t w else s
      | none => s)

end Sys2Proof.Machine
end

