-- ==== Sys2Proof/Machine/Preempt.lean ====
section
/-! DEFINITION. Pre-emption of regions (R354 to R364, R369), the scheduler's reasons for it (R372 to R374), moves (R376), and
merges of partitions (R381, R382). -/

namespace Sys2Proof.Machine

/-! ### Regions -/

/-- A region. -/
def regionAt (s : State) (a cl : Nat) : Option Region := s.regions.find? (fun r => r.asid == a && r.cluster == cl)

/-- Change a region. -/
def updRegion (s : State) (a cl : Nat) (f : Region → Region) : State :=
  { s with regions := s.regions.map (fun r => if r.asid = a ∧ r.cluster = cl then f r else r) }

/-! ### The gate (R357, R358, R369) -/

/-- A DRAIN's wait that is over when the gate comes ends first (R369). -/
def drainFirst (s : State) (t : Nat) : State := nextOf (execDrainComplete t s) s

/-- A fault that a block has raised and that no trap record shows yet takes its sequence number before the gate (R344, R358): the same
fault, raised again after the restore, has it. -/
def numberBlock (s : State) (t : Nat) (th : Thread) : State :=
  if th.block.any (fun b => !b.faults.isEmpty) && th.seq.isNone then
    let n := nextSeq s (asidOf th)
    updThread n.2 t (fun x => { x with seq := some n.1 })
  else s

/-- A thread at the gate: a wait that is over ends; a block in progress is abandoned; a trailing wait stays pending; busy cycles stop. -/
def gateThread (s : State) (t : Nat) : State :=
  let s1 := drainFirst s t
  match aget s1.threads t with
  | none => s1
  | some th =>
    let s2 := if th.block.isSome then abandon (numberBlock s1 t th) t else s1
    updThread s2 t (fun x => { x with
      mode := match x.mode with
        | .mwait => .ready
        | m => m,
      label := if threadWaits th then x.label else { x.label with busy := x.label.busy + (s.cycle - x.label.since), since := s.cycle } })

/-- A running copy whose fault, or whose record's fault, has been found and not yet recorded takes its sequence number before the gate
(R278, R344, R358): the record that follows the restore has it. -/
def numberFault (e : Nat) (s : State) (ch : Nat) : State :=
  match (chanOf s e ch).bind (fun c => c.cur), aget s.esets e with
  | some r, some x =>
    let n := nextSeq s x.crew.asid
    let s1 := if r.fault.isSome && r.seq.isNone then updRun n.2 e ch (fun y => { y with seq := some n.1 }) else s
    let m := nextSeq s1 x.crew.asid
    if r.recFail.isSome && r.recSeq.isNone then updRun m.2 e ch (fun y => { y with recSeq := some m.1 }) else s1
  | _, _ => s

/-- The faults of every running copy of a region that wait for their records. -/
def numberFaults (s : State) (a cl : Nat) : State :=
  (regionEsets s a cl).foldl (fun st e => (List.range e.2.channels.length).foldl (numberFault e.1) st) s

/-- The requests that a gate serves: a move of the allocator waits where there is another (R383). -/
def servedBy (l : List PreemptWhy) : List PreemptWhy :=
  if (l.filter (fun w => w != .allocator)).isEmpty then l else l.filter (fun w => w != .allocator)

/-- Gate a region. -/
def gateRegion (s : State) (a cl : Nat) : State :=
  let s1 := numberFaults s a cl
  updRegion ((regionThreads s1 a cl).foldl (fun st e => gateThread st e.1) s1) a cl (fun r => { r with
    phase := .gated, why := servedBy r.requests, requests := r.requests.filter (fun w => !(servedBy r.requests).contains w),
    gatedAt := s.cycle })

/-! ### The restore (R356, R359, R361, R364) -/

/-- A cycle from which something counts, after a region that was gated for `d` cycles runs again at `now` (R359). -/
def laterBy (now d n : Nat) : Nat := min now (n + d)

/-- A label's cycle. -/
def Label.later (l : Label) (now d : Nat) : Label := { l with since := laterBy now d l.since }

/-- Cycles while a region was gated count for nothing (R359). -/
def threadLater (now d : Nat) (th : Thread) : Thread := { th with waitAt := laterBy now d th.waitAt, label := th.label.later now d }

/-- The same for a node. -/
def nodeLater (now d : Nat) (nd : Node) : Node :=
  { nd with held := nd.held.map (laterBy now d), snap := nd.snap.map (fun q => (q.1, laterBy now d q.2.1, q.2.2)), label := nd.label.later now d,
            lastFire := laterBy now d nd.lastFire }

/-- The same for a channel. -/
def chanLater (now d : Nat) (c : Channel) : Channel :=
  { c with held := c.held.map (laterBy now d), label := c.label.later now d, lastAct := laterBy now d c.lastAct }

/-- The second point of a split stream: no earlier than the first, and behind the publications that its loads see (R250, R251, R254). -/
def splitPoint (s : State) (asid : Nat) (nd : Node) : Nat := streamPoint s (max (memOf nd).ts (lastPub s asid))

/-- A STREAM load stream that a gate falls inside is split: what it has not read, it reads at a second point (R254). -/
def splitNode (s : State) (asid : Nat) (nd : Node) : Node :=
  let m := memOf nd
  if nd.word.kind = kMEM ∧ nd.word.mode = 0 ∧ nd.word.mclass = 0 ∧ m.begun = true then
    nd.withMem (fun q => { q with ts := splitPoint s asid nd, image := some (StreamImage.now s asid) })
  else nd

/-- The second points go into the peat log, and every line is leased to them (R250, R254, R397). -/
def splitRecs (s : State) (c : Nat) (x : Cell) : State :=
  (List.range x.nodes.length).foldl (fun st n => match x.nodes[n]? with
    | some nd =>
      if nd.word.kind = kMEM ∧ nd.word.mode = 0 ∧ nd.word.mclass = 0 ∧ (memOf nd).begun = true then
        let ts := splitPoint s x.crew.asid nd
        raiseFloor (orderLog st x.crew.asid (dieOf x.cluster) ts 4 [w64 c, w64 n, 1]) ts
      else st
    | none => st) s

/-- Put back one granule that a staged copy wrote (R361): the copy's part that wrote it is performed again, with no other effect; a
fault leaves zero bytes and a trap record. Where the access misses recoverably, the address stalls (R341). -/
def restageGranule (s : State) (x : EngineSet) (g : Staged) (b : Nat) : Except W State :=
  let t := tmplOf g.start.tmpl
  let zero (st : State) : State := rawPut st b (List.replicate 1024 0)
  let place (va : W) : Option Nat := match engLoc s x g.start .store va 1 with
    | .ok r =>
      (match r.loc with
       | .mem a => if b ≤ a ∧ a < b + 1024 then some a else none
       | _ => none)
    | .error _ => none
  let puts (ix : List Nat) : List Put := (allPuts t ix).filter (fun p => (place (leaInt (stepped t g.start.word).2 p.dst.1)).isSome)
  let fails (status : Nat) (va : W) : State :=
    reportTrap (zero s) x.crew.asid (dieOf x.cluster) cENGINE (BitVec.ofNat 8 status) ⟨2, g.chan, coordOf x.crew 0xFF 0xFF, 0⟩ va 0
      (some g.start.thread) Sig.zero (chanUnit s x g.chan) none
  match indexOf s x g.start [] with
  | .error (.fault status _ va) => .ok (fails status va)
  | .error (.stall va _) => .error va
  | .error (.ask _ va) => .ok (fails 5 va)
  | .ok (ix, _) =>
    match foldPuts s x (CopyRun.fresh g.start ix []) t none false (puts ix) ⟨[], 0, 0, []⟩ with
    | .error (.fault status _ va) => .ok (fails status va)
    | .error (.stall va _) => .error va
    | .error (.ask _ va) => .ok (fails 5 va)
    | .ok acc => .ok (acc.bytes.foldl (fun st p => (place (w64 p.1)).elim st (fun a => rawPut st a [BitVec.ofNat 8 p.2])) s)

/-- The party that the re-fetches of a channel's staged copies are: none of the channel's own copies (R341, R361). -/
def restager (e ch : Nat) : Party := .channel e (16 + ch)

/-- The re-fetches of a channel's staged copies wait for a page that they missed, until it is resumed (R341, R342). -/
def restageWaits (s : State) (asid e ch : Nat) : Bool :=
  (aget s.ctxs asid).any (fun c => c.reqs.any (fun q => q.stalled.any (fun p => p.1 == restager e ch)))

/-- Put back the granules that one staged copy wrote (R361): the state, or the address that stalls. -/
def restageOne (x : EngineSet) (g : Staged) : List Nat → State → Except W State
  | [], s => .ok s
  | b :: rest, s =>
    match restageGranule s x g b with
    | .error va => .error va
    | .ok s1 => restageOne x g rest s1

/-- Put back the granules of some staged copies of an engine set: the state, or the access that misses recoverably, none where it waits
already. -/
def restageSet (e : Nat) (x : EngineSet) : List Staged → State → Except (Option (Party × W)) State
  | [], s => .ok s
  | g :: rest, s =>
    if restageWaits s x.crew.asid e g.chan then .error none
    else
      match restageOne x g g.granules s with
      | .error va => .error (some (restager e g.chan, va))
      | .ok s1 => restageSet e x rest s1

/-- Put back the granules, among those that pass a test, of the staged copies of some engine sets. -/
def restageSets (mine : Nat → Bool) : List (Nat × EngineSet) → State → Except (Option (Party × W)) State
  | [], s => .ok s
  | (e, x) :: rest, s =>
    let l := (x.staged.map (fun g => { g with granules := g.granules.filter mine })).filter (fun g => g.ended && !g.granules.isEmpty)
    match restageSet e x l s with
    | .error q => .error q
    | .ok s1 => restageSets mine rest s1

/-- Put back every staged granule of a region. -/
def restage (s : State) (a cl : Nat) : Except (Option (Party × W)) State := restageSets (fun _ => true) (regionEsets s a cl) s

/-- Put back the staged granules in the pages of one cell, which moves (R354, R361). -/
def restageCell (s : State) (x : Cell) : Except (Option (Party × W)) State :=
  restageSets (fun a => x.pages.any (fun p => decide (sramKey p.store 0 0 ≤ a) && decide (a < sramKey (p.store + 1) 0 0)))
    (s.esets.filter (fun e => e.2.crew == x.crew)) s

/-- What waits for its staged granules waits: the access that misses makes its page request (R341). -/
def restageMisses (s : State) (asid : Nat) (q : Option (Party × W)) : State :=
  match q with
  | some e => pageRequest s asid e.1 e.2 false
  | none => s

/-- The places of page contents in a region: those of its cells, and the spill pages of its crews. -/
def regionStores (s : State) (a cl : Nat) : List Nat :=
  let cells := (regionCells s a cl).flatMap (fun e => e.2.pages.map (fun p => p.store))
  let spills := match aget s.ctxs a with
    | some c => c.launches.flatMap (fun l => l.2.crews.filterMap (fun x =>
        if x.cluster = cl ∧ x.retired = false then x.spill.map (fun p => p.store) else none))
    | none => []
  (cells ++ spills).dedup

/-- Pages that the region needs: those it holds and the reservations of its crews. -/
def regionNeed (s : State) (a cl : Nat) : Nat :=
  let kept := match aget s.ctxs a with
    | some c => c.launches.foldl (fun n l => l.2.crews.foldl (fun m x =>
        if x.cluster = cl ∧ x.retired = false then m + unusedReserve s ⟨a, l.1, x.crew⟩ x else m) n) 0
    | none => 0
  (regionStores s a cl).length + kept

/-- Near-bank units for those of a region, each on its own stack; none where a stack has too few. -/
def pickUnits (used : List Nat) : List Nat → List (Nat × Nat) → Option (List (Nat × Nat))
  | [], acc => some acc
  | u :: rest, acc =>
    match (List.range 8).find? (fun i => !used.contains (u / 8 * 8 + i) && !acc.any (fun e => e.2 == u / 8 * 8 + i)) with
    | some i => pickUnits used rest (acc ++ [(u, u / 8 * 8 + i)])
    | none => none

/-- The near-bank units of a region. -/
def regionUnits (s : State) (a cl : Nat) : List Nat := (regionCells s a cl).flatMap (fun e => (cellUnits e.2).map (fun u => u.2))

/-- Thread slots for the threads of a region: its own where they are free. -/
def pickSlots (free : List Nat) : List (Nat × Nat) → List (Nat × Nat)
  | [] => []
  | (t, k) :: rest =>
    let k1 := if free.contains k then k else free.headD k
    (t, k1) :: pickSlots (free.filter (fun j => j != k1)) rest

/-- The shards of a launch stay on dies of their own, a context with a collective context on a die stays there, and a region that the
allocator moves stays on its die (R142, R283, R376). -/
def dieAgrees (s : State) (a cl dst : Nat) : Bool :=
  let same := dieOf cl == dieOf dst
  let colls := s.colls.any (fun e => e.2.asid == a && e.2.die == dieOf cl)
  let moves := (regionAt s a cl).any (fun r => r.why.contains .allocator)
  same || (!moves && !colls && (match aget s.ctxs a with
    | none => false
    | some c => c.launches.all (fun l =>
        let mine := (l.2.crews.filter (fun x => x.cluster == cl && !x.retired)).map (fun x => x.crew / 64)
        l.2.crews.all (fun x => x.retired || x.cluster == cl || regionOut s a x.cluster ||
          (mine.contains (x.crew / 64) == (dieOf x.cluster == dieOf dst))))))

/-- A region that has been read out fits a cluster. -/
def fitsRegion (s : State) (a cl dst : Nat) : Bool :=
  (diesOf s a).getLsbD (dieOf dst) && (dst == cl || (regionAt s a dst).isNone) && dieAgrees s a cl dst &&
  decide ((regionThreads s a cl).length ≤ (freeSlots s dst).length) && decide (regionNeed s a cl ≤ freePages s dst) &&
  (!(regionEsets s a cl).any (fun e => e.2.crew.launch != 0) || !esetHeld s dst) &&
  (pickUnits (usedUnits s 0) (regionUnits s a cl) []).isSome

/-- Move everything of a region to a cluster: threads, cells, pages, engine sets, crews (R14, R356). Translations are walked again
(R360). -/
def rehome (s : State) (a cl dst : Nat) : State :=
  let slots := pickSlots (freeSlots s dst) ((regionThreads s a cl).map (fun e => (e.1, e.2.home.slot)))
  let stores := regionStores s a cl
  let phys := freePhys s dst stores.length
  let units := (pickUnits (usedUnits s 0) (regionUnits s a cl) []).getD []
  let crew (c : CrewId) : CrewId := if c.asid = a ∧ c.launch = 0 ∧ c.crew = cl then { c with crew := dst } else c
  let page (p : Page) : Page := { p with phys := phys.getD (stores.idxOf p.store) p.phys }
  let unit (nd : Node) : Node := match nd.st with
    | .mma m => { nd with st := .mma { m with unit := m.unit.map (fun u => (aget units u).getD u) } }
    | _ => nd
  { s with
    threads := s.threads.map (fun e => if asidOf e.2 = a ∧ e.2.home.cluster = cl then
      (e.1, { e.2 with home := { e.2.home with cluster := dst, slot := (aget slots e.1).getD e.2.home.slot, crew := crew e.2.home.crew } }) else e),
    cells := s.cells.map (fun e => if e.2.crew.asid = a ∧ e.2.cluster = cl then
      (e.1, { e.2 with cluster := dst, crew := crew e.2.crew, pages := e.2.pages.map page, nodes := e.2.nodes.map unit }) else e),
    esets := s.esets.map (fun e => if e.2.crew.asid = a ∧ e.2.cluster = cl then
      (e.1, { e.2 with cluster := dst, crew := crew e.2.crew }) else e),
    ctxs := s.ctxs.map (fun e => if e.1 = a then (e.1, { e.2 with launches := e.2.launches.map (fun l =>
      (l.1, { l.2 with crews := l.2.crews.map (fun x => if x.cluster = cl ∧ x.retired = false then
        { x with cluster := dst, spill := x.spill.map page } else x) })) }) else e),
    mem := { s.mem with
      hotBy := s.mem.hotBy.map (fun e => (e.1, (e.2.map (fun p => if p = (a, cl) then (a, dst) else p)).dedup)),
      tlb := s.mem.tlb.filter (fun e => !(e.asid == a && e.die == dieOf dst)),
      dirs := s.mem.dirs.filter (fun e => !(e.asid == a && e.die == dieOf dst)) },
    regions := s.regions.map (fun r => if r.asid = a ∧ r.cluster = cl then { r with cluster := dst } else r) }

/-- The idle counts of the units that only a region touched go on as if its gated cycles had not been (R359). -/
def hotLater (s : State) (a cl d : Nat) : State :=
  { s with mem := { s.mem with hot := s.mem.hot.map (fun h =>
      if aget s.mem.hotBy h.1 = some [(a, cl)] then (h.1, h.2.1 + d, h.2.2) else h) } }

/-- A region's clock runs again: what counted cycles goes on from here, split streams read anew, the floor and the slice start
(R254, R359, R362, R374). -/
def resumeRegion (s : State) (a cl d : Nat) : State :=
  let s1 := (regionCells s a cl).foldl (fun st e => splitRecs st e.1 e.2) (hotLater s a cl d)
  let sl := (aget s.ctxs a).elim 0 (fun c => c.regs.slice.toNat)
  let s2 := { s1 with
    threads := s1.threads.map (fun e => if asidOf e.2 = a ∧ e.2.home.cluster = cl then (e.1, threadLater s.cycle d e.2) else e),
    cells := s1.cells.map (fun e => if e.2.crew.asid = a ∧ e.2.cluster = cl then
      (e.1, { e.2 with movedAt := s.cycle, nodes := e.2.nodes.map (fun nd => splitNode s e.2.crew.asid (nodeLater s.cycle d nd)) }) else e),
    esets := s1.esets.map (fun e => if e.2.crew.asid = a ∧ e.2.cluster = cl then
      (e.1, { e.2 with channels := e.2.channels.map (chanLater s.cycle d) }) else e) }
  updRegion s2 a cl (fun r => { r with phase := .running, why := [], floor := s.cycle + Config.quantumFloor, ranAt := s.cycle, slice := sl })

/-- The active sets of the units that a gated region left are free, so that it can be switched back in (R355, R356). -/
def fitsBack (s : State) (a cl : Nat) : Bool :=
  (regionThreads s a cl).all (fun e => (freeSlots s cl).contains e.2.home.slot) &&
  decide (regionNeed s a cl ≤ freePages s cl) &&
  !(regionCells s a cl).any (fun e => e.2.pages.any (fun p => (usedPhys s cl).contains p.phys)) &&
  (!(regionEsets s a cl).any (fun e => e.2.crew.launch != 0) || !esetHeld s cl)

/-- Restore a region on a cluster (R356, R361, R364): one that has been read out, once every staged granule has been put back; while a
re-fetch waits for its page, the region is not restored (R341). -/
def restoreRegion (s : State) (a cl dst : Nat) : State :=
  match regionAt s a cl with
  | none => s
  | some r =>
    if r.phase = .readOut then
      match restage (rehome s a cl dst) a dst with
      | .ok s1 => resumeRegion s1 a dst (s.cycle - r.gatedAt)
      | .error q => restageMisses s a q
    else resumeRegion s a cl (s.cycle - r.gatedAt)

/-- Regions of a context that are gated and not read out are switched back in (R365); one whose units another context has taken is read out,
and comes back where it fits. -/
def switchBack (s : State) (a : Nat) : State :=
  (s.regions.filter (fun r => r.asid == a && r.phase == .gated)).foldl (fun st r =>
    if fitsBack st a r.cluster then restoreRegion st a r.cluster r.cluster
    else updRegion st a r.cluster (fun x => { x with phase := .readOut })) s

/-! ### Why the scheduler pre-empts (R372, R373, R376) -/

/-- Every eligible launch of a partition has a target once a pre-emption is considered for it (R371, R372). -/
def fixTargets (s : State) (part : Nat) : State :=
  (eligibleOf s part).foldl (fun st y => if y.2.2.target.isNone then
    updLaunch st y.1 y.2.1 (fun l => { l with target := some (fixTarget s y.1 y.2.2) }) else st) s

/-- Eligible launches that cannot be placed now and whose target has a cluster. -/
def needers (s : State) (part cl : Nat) : List (Nat × Nat × Launch) :=
  (eligibleOf s part).filter (fun y => mayLeave s y.1 y.2.1 y.2.2 && (choosePlace s y.1 y.2.1 y.2.2).isNone &&
    (y.2.2.target.getD []).contains cl)

/-- The highest effective priority of the placed launches of a context, plus one; 0 where it has none. -/
def runPrio (s : State) (a : Nat) : Nat :=
  match aget s.ctxs a with
  | some c => c.launches.foldl (fun m l => if l.2.queued then m else max m (l.2.prio + 1)) 0
  | none => 0

/-- The Slice case of R372: the region has run its slice, and the launch is of another context. -/
def sliceCase (s : State) (y : Nat × Nat × Launch) (r : Region) : Bool :=
  r.slice != 0 && decide (r.ranAt + r.slice ≤ s.cycle) && y.1 != r.asid

/-- The Priority case of R372: the launch's effective priority is above that of every placed launch of the region's context. -/
def prioCase (s : State) (y : Nat × Nat × Launch) (r : Region) : Bool :=
  decide (runPrio s r.asid ≤ effPri (ageOf s y.1) s.cycle y.2.2)

/-- The scheduler may pre-empt a region of a context for a launch (R372). -/
def mayPreempt (s : State) (y : Nat × Nat × Launch) (r : Region) : Bool := sliceCase s y r || prioCase s y r

/-- A context into the order of R372: the lowest running priority first, then the highest ASID. -/
def insertVictim (s : State) (a : Nat) : List Nat → List Nat
  | [] => [a]
  | b :: l =>
    if runPrio s a < runPrio s b ∨ (runPrio s a = runPrio s b ∧ b < a) then a :: b :: l else b :: insertVictim s a l

/-- With the regions of some contexts off a cluster, a crew of the launch fits it. -/
def servesLaunch (s : State) (y : Nat × Nat × Launch) (cl : Nat) (out : List Nat) : Bool :=
  clusterFits (out.foldl (fun st a => updRegion st a cl (fun r => { r with phase := .gated })) s) y.1 y.2.2.words cl

/-- The scheduler has asked for a region that still runs. -/
def asked (r : Region) : Bool := r.phase == .running && r.requests.contains .scheduler

/-- The contexts whose regions on a cluster a launch needs gone, beside those that are asked for already: in the order of R372, and no
more than it needs. -/
def victims (s : State) (y : Nat × Nat × Launch) (cl : Nat) (fit : Region → Bool) : List Nat :=
  let going := (s.regions.filter (fun r => r.cluster == cl && asked r)).map (fun r => r.asid)
  let cand := ((s.regions.filter (fun r => r.cluster == cl && r.phase == .running && !asked r && fit r)).map
    (fun r => r.asid)).foldr (insertVictim s) []
  let serves (l : List Nat) : Bool := servesLaunch s y cl (going ++ l)
  let most := cand.foldl (fun out a => if serves out then out else out ++ [a]) []
  let least := most.foldl (fun out a => let o := out.filter (fun b => b != a); if serves o then o else out) most
  if serves least then least else []

/-- The clusters of a context's regions that have left their units, or that the scheduler has asked for. -/
def leavingClusters (s : State) (a : Nat) : List Nat :=
  (s.regions.filter (fun r => r.asid == a && (r.phase != .running || asked r))).map (fun r => r.cluster)

/-- The image of a context with one more region, beside those that leave already, fits its save area (R373). -/
def regionFits (s : State) (a cl : Nat) : Bool := saveFits s a (imageSize s a (cl :: leavingClusters s a).dedup)

/-- A launch needs a region gone, and the scheduler may pre-empt it. -/
def schedulerWants (s : State) (part a cl : Nat) : Bool :=
  (needers s part cl).any (fun y => (victims s y cl (fun r => mayPreempt s y r && regionFits s r.asid cl)).contains a)

/-- The scheduler looks at a region in one of the cases of R372 (R372, R373): it asks for its pre-emption, or sets NOSAVE where its image
would exceed the save area. -/
def schedulerLooks (s : State) (part a cl : Nat) (here : Nat × Nat × Launch → Region → Bool) : State :=
  let own (y : Nat × Nat × Launch) : Bool := (regionAt s a cl).any (here y)
  let ys := (needers s part cl).filter own
  if ys.any (fun y => (victims s y cl (fun r => mayPreempt s y r && regionFits s r.asid cl)).contains a) then
    updRegion s a cl (fun r => { r with requests := r.requests ++ [.scheduler] })
  else if !regionFits s a cl && ys.any (fun y => (victims s y cl (mayPreempt s y)).contains a) then
    updCtx s a (fun c => { c with regs := { c.regs with nosave := true } })
  else s

/-- The request of the scheduler for a region still stands: without it, the region would be asked for (R372, R373). -/
def stillWanted (s : State) (part a cl : Nat) : Bool :=
  schedulerWants (updRegion s a cl (fun r => { r with requests := r.requests.filter (fun w => w != .scheduler) })) part a cl

/-- The threads of a region have all halted, by STOP or by a trap that no handler took (R362). -/
def regionStopped (s : State) (a cl : Nat) : Bool := (regionThreads s a cl).all (fun e => stopped e.2)

/-- That has happened in this cycle (R383). -/
def haltsNow (s : State) (a cl : Nat) : Bool :=
  regionStopped s a cl && (regionThreads s a cl).any (fun e => e.2.label.since == s.cycle)

/-- Every cell of a region has run the floor since its last restore (R376). -/
def cellsRested (s : State) (a cl : Nat) : Bool :=
  (regionCells s a cl).all (fun e => e.2.movedAt == 0 || decide (e.2.movedAt + Config.quantumFloor ≤ s.cycle))

/-- An eligible launch of the die cannot be placed: only then does the allocator move anything (R376). -/
def compacts (s : State) (part die : Nat) : Bool :=
  (eligibleOf s part).any (fun y => mayLeave s y.1 y.2.1 y.2.2 && (choosePlace s y.1 y.2.1 y.2.2).isNone && (diesOf s y.1).getLsbD die)

/-- Moving a region to another cluster of its die lets such a launch be placed (R376). -/
def moveHelps (s : State) (part a cl : Nat) : Bool :=
  compacts s part (dieOf cl) &&
  (let s1 := updRegion (gateRegion s a cl) a cl (fun x => { x with phase := .readOut, why := [.allocator] })
   let die := (List.range Config.clustersPerDie).map (fun k => dieOf cl * Config.clustersPerDie + k)
   match die.find? (fun d => d != cl && fitsRegion s1 a cl d) with
   | some d =>
     let s2 := restoreRegion s1 a cl d
     (eligibleOf s part).any (fun y => mayLeave s y.1 y.2.1 y.2.2 && (choosePlace s y.1 y.2.1 y.2.2).isNone &&
       (choosePlace s2 y.1 y.2.1 y.2.2).isSome)
   | none => false)

/-- Contexts of either partition. -/
def mergeCtxs (s : State) (k j : Nat) : List (Nat × Context) := s.ctxs.filter (fun e => e.2.part == k || e.2.part == j)

/-- A launch queue of either partition holds a launch. -/
def queuesHold (s : State) (k j : Nat) : Bool := (mergeCtxs s k j).any (fun e => e.2.queues.any (fun q => !q.isEmpty))

/-- The other partition of a merge in progress. -/
def mergeOther (s : State) (k : Nat) (p : Partition) : Option (Nat × Partition) :=
  s.parts.find? (fun e => e.1 != k && e.2.live && e.2.dies == p.merge.other)

/-- A merge in progress pre-empts the regions of a context: the launch queues of both partitions are empty (R381). -/
def mergeTakes (s : State) (c : Context) : Bool :=
  c.merging && s.parts.any (fun e => e.2.merge.state == 1 && (mergeOther s e.1 e.2).any (fun o =>
    (c.part == e.1 || c.part == o.1) && !queuesHold s e.1 o.1))

/-- PREEMPT_REQUEST (R356, R365, R372, R376, R381). -/
def execPreemptRequest (a cl : Nat) (why : PreemptWhy) (s : State) : Host.Outcome State Fault Refusal :=
  .next (match regionAt s a cl, aget s.ctxs a with
    | some r, some c =>
      if r.phase ≠ .running ∨ r.requests.contains why = true then s
      else
        let s1 := fixTargets s c.part
        let ask (st : State) : State := updRegion st a cl (fun x => { x with requests := x.requests ++ [why] })
        match why with
        | .scheduler => if (needers s1 c.part cl).isEmpty then s else schedulerLooks s1 c.part a cl (prioCase s1)
        | .allocator => if cellsRested s a cl && moveHelps s c.part a cl then ask s else s
        | .merge => if mergeTakes s c then ask s else s
        | .save => if c.stopped then ask s else s
    | _, _ => s)

/-- SLICE_EXPIRE (R372, R374): a region that halts in the same cycle is not saved (R383). -/
def execSliceExpire (a cl : Nat) (s : State) : Host.Outcome State Fault Refusal :=
  .next (match regionAt s a cl, aget s.ctxs a with
    | some r, some c =>
      let s1 := fixTargets s c.part
      if r.phase ≠ .running ∨ r.requests.contains .scheduler = true ∨ (needers s1 c.part cl).isEmpty = true ∨ haltsNow s a cl = true then s
      else schedulerLooks s1 c.part a cl (sliceCase s1)
    | _, _ => s)

/-- QUANTUM_FLOOR_EXPIRE (R362): requests of the scheduler that it held go on. -/
def execQuantumFloorExpire (a cl : Nat) (s : State) : Host.Outcome State Fault Refusal :=
  .next (match regionAt s a cl with
    | some r => if r.floor ≠ 0 ∧ r.floor ≤ s.cycle then updRegion s a cl (fun x => { x with floor := 0 }) else s
    | none => s)

/-- A request for a region still has its reason. -/
def requestStands (s : State) (c : Context) (a cl : Nat) (why : PreemptWhy) : Bool :=
  match why with
  | .scheduler => stillWanted s c.part a cl && !haltsNow s a cl
  | .allocator => moveHelps s c.part a cl
  | .merge => mergeTakes s c
  | .save => c.stopped

/-- A request for a region may be served now: the floor holds the scheduler alone, and not where the region has halted (R362); the
allocator moves no cell before it has rested (R376). -/
def requestDue (s : State) (r : Region) (why : PreemptWhy) : Bool :=
  match why with
  | .scheduler => r.floor == 0 || regionStopped s r.asid r.cluster
  | .allocator => cellsRested s r.asid r.cluster
  | .merge => true
  | .save => true

/-- No gated state of another context occupies the inactive sets of the region's units (R355). -/
def setsFree (s : State) (r : Region) : Bool := !s.regions.any (fun x => x.cluster == r.cluster && x.asid != r.asid && x.phase == .gated)

/-- REGION_GATE (R355 to R357, R362): a request that has lost its reason goes; one that stands gates the region. -/
def execRegionGate (a cl : Nat) (s : State) : Host.Outcome State Fault Refusal :=
  .next (match regionAt s a cl, aget s.ctxs a with
    | some r, some c =>
      let l := r.requests.filter (requestStands s c a cl)
      let s1 := if l = r.requests then s else updRegion s a cl (fun x => { x with requests := l })
      if r.phase = .running ∧ l.any (requestDue s r) = true ∧ setsFree s r = true then gateRegion s1 a cl else s1
    | _, _ => s)

/-- READOUT (R356, R363): the gated region's units are free; the context's image in its save area holds what has been read
out. The read-out of a CTXSAVE is its own. -/
def execReadout (a cl : Nat) (s : State) : Host.Outcome State Fault Refusal :=
  .next (match regionAt s a cl, aget s.ctxs a with
    | some r, some c =>
      if r.phase = .gated ∧ c.stopped = false then rewriteImage (updRegion s a cl (fun x => { x with phase := .readOut })) a else s
    | _, _ => s)

/-- RESTORE (R356): the region is written into free units of a cluster and switched in; one that is still in the inactive set of
its own units is switched back in. -/
def execRestore (a cl dst : Nat) (s : State) : Host.Outcome State Fault Refusal :=
  .next (match regionAt s a cl, aget s.ctxs a with
    | some r, some c =>
      if c.saved || c.stopped || c.merging then s
      else
        match r.phase with
        | .running => s
        | .gated => if dst = cl ∧ fitsBack s a cl = true then restoreRegion s a cl cl else s
        | .readOut => if fitsRegion s a cl dst then restoreRegion s a cl dst else s
    | _, _ => s)

/-- A cell on other pages, after its staged granules have been put back: its streams are split, and its crew's spill page goes along. -/
def moveCell (s : State) (c : Nat) (x : Cell) (phys : List Nat) : State :=
  let page (k : Nat) (p : Page) : Page := { p with phys := phys.getD k p.phys }
  let pages := (List.range x.pages.length).filterMap (fun k => (x.pages[k]?).map (page k))
  let s2 := updCell (splitRecs s c x) c (fun y => { y with
    movedAt := s.cycle, pages := pages, nodes := y.nodes.map (splitNode s x.crew.asid) })
  updCtx s2 x.crew.asid (fun k => { k with launches := k.launches.map (fun l => (l.1, { l.2 with crews := l.2.crews.map (fun w =>
    { w with spill := w.spill.map (fun p => (pages.find? (fun g => g.store == p.store)).elim p (fun g => { p with phys := g.phys })) }) })) })

/-- CELL_MOVE (R15, R278, R361, R376): a cell goes to other pages of its cluster. Where a re-fetch of a staged granule misses recoverably,
the cell stays where it is until the page is there. -/
def execCellMove (c : Nat) (s : State) : Host.Outcome State Fault Refusal :=
  .next (match aget s.cells c with
    | none => s
    | some x =>
      let part := (aget s.ctxs x.crew.asid).elim 0 (fun k => k.part)
      let phys := freePhys s x.cluster x.pages.length
      if !cellRuns s x || !compacts s part (dieOf x.cluster) || decide (phys.length < x.pages.length) ||
          (x.movedAt != 0 && decide (s.cycle < x.movedAt + Config.quantumFloor)) then s
      else
        match restageCell (numberFaults s x.crew.asid x.cluster) x with
        | .ok s1 => moveCell s1 c x phys
        | .error q => restageMisses s x.crew.asid q)

/-! ### Merges (R381, R382) -/

/-- A request of a merge goes, and a region that it has gated comes back at once where its units are free; one that has been read out is
restored where it fits (R382). -/
def mergeBack (s : State) (a : Nat) : State :=
  switchBack { s with regions := s.regions.map (fun r => if r.asid = a then
    { r with requests := r.requests.filter (fun w => w != .merge) } else r) } a

/-- A merge is refused: nothing is rewritten, and both partitions go on (R382). -/
def refuseMerge (s : State) (k j why : Nat) : State :=
  let s1 := updPart s k (fun p => { p with merge := { p.merge with state := 3, go := false, reason := BitVec.ofNat 4 why } })
  let s2 := { s1 with ctxs := s1.ctxs.map (fun e => (e.1, if e.2.part = k ∨ e.2.part = j then { e.2 with merging := false } else e.2)) }
  ((mergeCtxs s k j).filter (fun e => !e.2.saved && !e.2.stopped)).foldl (fun st e => mergeBack st e.1) s2

/-- MERGE_START (R381): a write of PART.MERGE with GO starts the handshake, or finds REASON 4. -/
def execMergeStart (k : Nat) (s : State) : Host.Outcome State Fault Refusal :=
  .next (match aget s.parts k with
    | some p => if p.merge.state = 1 then s else startMerge s k
    | none => s)

/-- MERGE_QUIESCE_TIMEOUT (R382). -/
def execMergeQuiesceTimeout (k : Nat) (s : State) : Host.Outcome State Fault Refusal :=
  .next (match aget s.parts k with
    | none => s
    | some p =>
      match mergeOther s k p with
      | none => s
      | some (j, _) =>
        if p.merge.state = 1 ∧ p.merge.since + p.merge.qwait.toNat ≤ s.cycle ∧ queuesHold s k j = true then refuseMerge s k j 1 else s)

/-- A context of either partition has a save area that holds its image (R382); one that CTXSAVE has saved needs none. -/
def areaHolds (s : State) (e : Nat × Context) : Bool := e.2.saved || saveFits s e.1 (imageSize s e.1 (regionClusters s e.1))

/-- Every region of a context has been pre-empted into its save area. -/
def savedAway (s : State) (e : Nat × Context) : Bool := e.2.saved || (s.regions.filter (fun r => r.asid == e.1)).all (fun r => r.phase == .readOut)

/-- The merge is performed: interleave, boundary, shoot-down, dies (R381); the absorbed function loses its dies and its BARs (R399,
R400). -/
def performMerge (s : State) (k j : Nat) (p o : Partition) : State :=
  let dies := p.dies ||| o.dies
  let s2 := updPart s k (fun x => { x with
    hbm := p.hbm ||| o.hbm, linkDies := dies, dies := dies, merge := { x.merge with state := 2, go := false } })
  let s3 := updPart s2 j (fun x => { x with live := false, barsOpen := false, dieslost := true, dies := 0, linkDies := 0, hbm := 0 })
  remeasure { s3 with
    mem := { s3.mem with
      tlb := s3.mem.tlb.filter (fun e => !dies.getLsbD e.die), dirs := s3.mem.dirs.filter (fun e => !dies.getLsbD e.die) },
    ctxs := s3.ctxs.map (fun e => (e.1, if e.2.part = k ∨ e.2.part = j then { e.2 with part := k, merging := false } else e.2)),
    fl := { s3.fl with out := s3.fl.out ++ [.msix j 3] } }

/-- MERGE_COMPLETE (R381, R382): with the queues empty the merge is refused for a collective context or a save area; it is performed once
every region of both partitions has been pre-empted. -/
def execMergeComplete (k : Nat) (s : State) : Host.Outcome State Fault Refusal :=
  .next (match aget s.parts k with
    | none => s
    | some p =>
      match mergeOther s k p with
      | none => s
      | some (j, o) =>
        if p.merge.state ≠ 1 ∨ queuesHold s k j = true then s
        else if s.colls.any (fun e => (p.dies ||| o.dies).getLsbD e.2.die) then refuseMerge s k j 2
        else if !(mergeCtxs s k j).all (areaHolds s) then refuseMerge s k j 3
        else if (mergeCtxs s k j).all (savedAway s) then performMerge s k j p o
        else s)

end Sys2Proof.Machine
end

