-- ==== Sys2Proof/Machine/Context.lean ====
section
/-! DEFINITION. TLBI (R337), CTXSAVE and CTXLOAD (R365), and the walks that fill a TLB (R332). -/

namespace Sys2Proof.Machine

/-! ### TLBI (R337) -/

/-- TLBI fires: privilege first, then reserved bits. -/
def fireTlbi (s : State) (q : Firing) (kind : Nat) : Fired :=
  let l := q.sl.l.getD 0
  let r := q.sl.r.getD 0
  let p := q.th.regs.priv
  let named := match kind with
    | 0 => field r 0 12
    | 1 => field l 0 12
    | _ => asidOf q.th
  if p = lUSER ∨ (kind = 2 ∧ p ≠ lMGMT) ∨ (p = lSUPER ∧ named ≠ asidOf q.th) then .fault s cPRIV 0 q.b.addr
  else if (kind = 0 ∧ field r 12 52 ≠ 0) ∨ (kind = 1 ∧ field l 12 52 ≠ 0) then .fault s cPROT 0 q.b.addr
  else .done s (addEff q.b (.tlbi kind l named))

/-- TLBI.ADDR (R337). -/
def execTlbiAddr (p : Pm) (s : State) : Host.Outcome State Fault Refusal := .next (fire s (.tlbiAddr p) (fun q => fireTlbi s q 0))
/-- TLBI.ASID (R337). -/
def execTlbiAsid (p : Pm) (s : State) : Host.Outcome State Fault Refusal := .next (fire s (.tlbiAsid p) (fun q => fireTlbi s q 1))
/-- TLBI.ALL (R337). -/
def execTlbiAll (p : Pm) (s : State) : Host.Outcome State Fault Refusal := .next (fire s (.tlbiAll p) (fun q => fireTlbi s q 2))

/-- TLBI after the commit: the wait begins, with the drop still to come. -/
def applyTlbi (s : State) (t kind : Nat) (va : W) (asid : Nat) : State := trail s t (.tlbi kind va asid 0)

/-- The context of whoever issued an operation. -/
def issuerAsid (s : State) (i : Issuer) : Option Nat :=
  match i with
  | .threadLoad t _ | .threadStore t _ _ | .message t _ _ _ => (aget s.threads t).map asidOf
  | .threadRec t _ _ => (aget s.threads t).map asidOf
  | .nodeLoad c _ _ | .nodeStore c _ _ => (aget s.cells c).map (fun x => x.crew.asid)
  | .linkout c _ _ => (aget s.cells c).map (fun x => x.crew.asid)
  | .copy e _ _ _ => (aget s.esets e).map (fun x => x.crew.asid)
  | .coll h _ => (aget s.colls h).map (fun x => x.asid)
  | .walk _ | .device => none

/-- The entries that a TLBI drops, translations and walk-cache entries alike, on every die of the partition (R336, R337). -/
def tlbiDrops (dies : BitVec 4) (kind : Nat) (va : W) (asid : Nat) (e : TlbEntry) : Bool :=
  dies.getLsbD e.die && (match kind with
    | 0 => e.asid == asid && decide (e.page ≤ va.toNat / 4096) && decide (va.toNat / 4096 < e.page + e.npages)
    | 1 => e.asid == asid
    | _ => true)

/-- Those entries are gone. -/
def dropEntries (s : State) (dies : BitVec 4) (kind : Nat) (va : W) (asid : Nat) : State :=
  { s with mem := { s.mem with
      tlb := s.mem.tlb.filter (fun e => !tlbiDrops dies kind va asid e),
      dirs := s.mem.dirs.filter (fun e => !tlbiDrops dies kind va asid e) } }

/-- An operation that left before the drop of a TLBI, for a context that it names, has not been answered: of the operations with an
identifier below a bound. -/
def tlbiPending (s : State) (kind asid before : Nat) : Bool :=
  s.fl.ops.any (fun o => decide (o.id + 1 < before) && (match issuerAsid s o.issuer with
    | some a => kind == 2 || a == asid
    | none => false))

/-- TLBI_COMPLETE (R337): every die drops the entries, and the accesses that may have used one are those that have left by now; the wait
ends once all of them have performed. -/
def execTlbiComplete (t : Nat) (s : State) : Host.Outcome State Fault Refusal :=
  .next (match aget s.threads t with
    | none => s
    | some th =>
      match th.waits.find? (fun w => waitKind w == 5) with
      | some (.tlbi kind va asid before) =>
        if before = 0 then
          updThread (dropEntries s (diesOf s (asidOf th)) kind va asid) t (fun x => { x with
            mode := match x.mode with
              | .trailing ws a => .trailing (ws.map (fun w => if w = .tlbi kind va asid 0 then .tlbi kind va asid (s.nextId + 1) else w)) a
              | m => m })
        else if tlbiPending s kind asid before || !threadRuns s th then s
        else endTrail s t (.tlbi kind va asid before)
      | _ => s)

/-! ### Clearing VALID of a publishable buffer (R339) -/

/-- A STREAM load that has begun has its next addresses in a buffer. -/
def streamsIn (s : State) (asid lo hi : Nat) : Bool :=
  s.cells.any (fun e => e.2.crew.asid == asid && e.2.nodes.any (fun nd =>
    nd.word.kind == kMEM && nd.word.mode == 0 && nd.word.mclass == 0 && (memOf nd).begun && (match nd.head 0 with
      | some (.data xs) => xs.any (fun x => x.any (fun v => decide (lo ≤ v) && decide (v < hi)))
      | _ => false)))

/-- A lease on the selected buffer of a context has not ended (R339): an engine still writes its shadow, or a stream that has begun is
about to read in it. DESIGN CHOICE, log 42. -/
def pblenLeased (s : State) (a : Nat) : Bool :=
  match aget s.ctxs a with
  | none => false
  | some c =>
    match c.xlat.bufs[c.xlat.pbsel.toNat]? with
    | none => false
    | some p =>
      let lo := p.va.toNat
      let hi := lo + p.len * 4096
      p.valid && (!shadowQuiet s a lo hi s.nextId || streamsIn s a lo hi)

/-- The gated slot of a context that clears VALID: thread and slot. -/
def pblenSlot (s : State) (a : Nat) : Option (Nat × Nat) :=
  s.threads.findSome? (fun e => if asidOf e.2 = a then
    e.2.block.bind (fun b => ((List.range b.slots.length).find? (fun k => match b.slots[k]? with
      | some sl => sl.phase == .gated && (match slotInstr sl with
        | some (.syswr g n _) => g == 1 && n == 7
        | _ => false)
      | none => false)).map (fun k => (e.1, k)))
    else none)

/-- PBLEN_VALID_CLEAR (R339): a write of PBLEN with VALID 0 to the selected entry, once every lease on the buffer has ended. Where a
thread's SYSWR waits at its gate for that, it goes on. -/
def execPblenValidClear (a : Nat) (v : W) (s : State) : Host.Outcome State Fault Refusal :=
  .next (if v.getLsbD 0 || pblenLeased s a then s
    else match pblenSlot s a with
      | some (t, k) => retryGate s t k (fun i st => match i with
        | .syswr g n p => nextOf (execSyswr g n p st) st
        | _ => s)
      | none => ctxWrite s a (fun c => { c with xlat := writeXlat c.xlat 7 v }))

/-- PAGE_WALK_COMPLETE (R332, R336): the walk of an address of a context, for the partition's lowest die; a walk that ends in no
leaf keeps nothing, and whoever needed it finds the miss or the malformed entry. -/
def execPageWalkComplete (a : Nat) (va : W) (s : State) : Host.Outcome State Fault Refusal :=
  .next (if field va 56 8 ≠ 0 then s else fillTlb s ⟨a, lSUPER, lowDie (diesOf s a), false⟩ va)

/-! ### CTXSAVE and CTXLOAD (R365) -/

/-- The first page of a range that cannot be accessed, with its fault. -/
def badPage (s : State) (w : Who) (k : AccKind) (base : W) : Nat → Option (Flt × W)
  | 0 => none
  | n + 1 =>
    match badPage s w k base n with
    | some f => some f
    | none =>
      let va := base + w64 (4096 * n)
      match xlate s w k va with
      | .error f => some (f, va)
      | .ok _ => none

/-- The checks of either instruction as it fires. -/
def fireCtx (s : State) (q : Firing) (save : Bool) (e : Nat → Nat → W → Eff) : Fired :=
  let l := q.sl.l.getD 0
  let r := q.sl.r.getD 0
  let limit := field l 16 32
  let a := field l 0 12
  let me := aget s.ctxs (asidOf q.th)
  let w : Who := ⟨asidOf q.th, q.th.regs.priv, dieOf q.th.home.cluster, false⟩
  if q.th.regs.priv ≠ lMGMT then .fault s cPRIV 0 q.b.addr
  else if field l 48 16 ≠ 0 ∨ field l 12 4 ≠ 0 ∨ (save = true ∧ limit = 0) ∨ (save = false ∧ limit ≠ 0) then .fault s cPROT 0 q.b.addr
  else if field r 60 4 ≠ 0 ∨ field r 0 12 ≠ 0 then .fault s cALIGN 0 r
  else
    match aget s.ctxs a with
    | none => .fault s cPROT 0 q.b.addr
    | some c =>
      if a = asidOf q.th ∨ me.map (fun m => m.part) ≠ some c.part ∨ c.saved = save then .fault s cPROT 0 q.b.addr
      else
        match badPage s w (if save then .store else .load) r (if save then limit else 1) with
        | some f => .fault s f.1.1 f.1.2 f.2
        | none => .done s (addEff q.b (e a limit r))

/-- CTXSAVE (R365). -/
def execCtxsave (p : Pm) (s : State) : Host.Outcome State Fault Refusal :=
  .next (fire s (.ctxsave p) (fun q => fireCtx s q true (fun a limit img => .ctxsave a limit img)))
/-- CTXLOAD (R365). -/
def execCtxload (p : Pm) (s : State) : Host.Outcome State Fault Refusal :=
  .next (fire s (.ctxload p) (fun q => fireCtx s q false (fun a _ img => .ctxload a img)))

/-- Write RESULT into the header of an image. -/
def writeResult (s : State) (th : Thread) (img : W) (v : Nat) : State :=
  (vaPut s (asidOf th) (dieOf th.home.cluster) (img + 12) (leBytes 4 v)).getD s

/-- Every region of a context is asked for by its CTXSAVE (R365); the request stands until the region is gated. -/
def askSave (s : State) (a : Nat) : State :=
  { s with regions := s.regions.map (fun r => if r.asid = a ∧ r.phase = .running then { r with requests := r.requests ++ [.save] } else r) }

/-- CTXSAVE after the commit: every region of the context is pre-empted, and its queues stop leaving; a context in the wrong state
leaves RESULT 5. -/
def applyCtxsave (s : State) (t a limit : Nat) (img : W) : State :=
  match aget s.threads t, aget s.ctxs a with
  | some th, some c =>
    if c.saved || c.stopped then writeResult s th img 5
    else trail (askSave (updCtx s a (fun x => { x with stopped := true })) a) t (.ctxsave a limit img)
  | some th, none => writeResult s th img 5
  | none, _ => s

/-- A CTXSAVE that has failed loses no state (R365): the context's queues leave again, and every region is switched back in. -/
def unsave (s : State) (a : Nat) : State :=
  switchBack { updCtx s a (fun x => { x with stopped := false }) with
    regions := s.regions.map (fun r => if r.asid = a then { r with requests := r.requests.filter (fun w => w != .save) } else r) } a

/-- The image of a context that CTXSAVE has gated, in its buffer (R365); none where a write of it faults. -/
def saveInto (s : State) (a ca die : Nat) (img : W) : Option State :=
  let cls := regionClusters s a
  let s1 := keepImage s a cls
  (vaPut s1 ca die img (wordBytes (imageWords s1 a cls))).map (fun s2 =>
    { updCtx s2 a (fun x => { x with saved := true, image := some (ca, die, img) }) with
      regions := s2.regions.map (fun r => if r.asid = a then { r with phase := .readOut, requests := [] } else r) })

/-- CTXSAVE_COMPLETE (R365): once every region is gated, the image, or the header alone with every region switched back in. A write that
faults loses no state either. -/
def execCtxsaveComplete (t : Nat) (s : State) : Host.Outcome State Fault Refusal :=
  .next (match aget s.threads t with
    | none => s
    | some th =>
      match th.waits.find? (fun w => waitKind w == 6) with
      | some (.ctxsave a limit img) =>
        if !threadRuns s th || s.regions.any (fun r => r.asid == a && r.phase == .running) then s
        else
          let n := imageSize s a (regionClusters s a)
          let die := dieOf th.home.cluster
          if 4096 * limit < n then
            endTrail (unsave ((vaPut s (asidOf th) die img (wordBytes (shortHeader s a n))).getD s) a) t (.ctxsave a limit img)
          else endTrail ((saveInto s a (asidOf th) die img).getD (unsave s a)) t (.ctxsave a limit img)
      | _ => s)

/-- CTXLOAD after the commit. -/
def applyCtxload (s : State) (t a : Nat) (img : W) : State :=
  match aget s.threads t, aget s.ctxs a with
  | some th, some c => if c.saved then trail s t (.ctxload a img) else writeResult s th img 5
  | some th, none => writeResult s th img 5
  | none, _ => s

/-- Words of an image read back; none where a part cannot be read. -/
def readImage (s : State) (th : Thread) (img : W) : Option (List W) :=
  let w : Who := ⟨asidOf th, th.regs.priv, dieOf th.home.cluster, false⟩
  match fetchBytes s w .load img 64 with
  | none => none
  | some h =>
    let n := leVal ((h.drop 16).take 8)
    if n < 64 ∨ n % 64 ≠ 0 ∨ 2 ^ 32 < n then none
    else (fetchBytes s w .load img n).map (wordsOf (n / 8))

/-- The dies that an image's shards need. -/
def shardsOf (img : List W) : Nat :=
  let n := field (img.getD 0 0) 48 16
  (((List.range n).filterMap (fun k =>
    let e := (dirEntry img k).1
    if field e 0 16 = 2 ∧ field e 16 8 ≠ 0xFF then some (field e 16 8) else none)).dedup).length

/-- What the checks of an image come to: its words, or a RESULT. -/
def checkImage (s : State) (th : Thread) (a : Nat) (img : W) : Except Nat (List W) :=
  match readImage s th img with
  | none => .error 2
  | some ws =>
    let w0 := ws.getD 0 0
    if field w0 0 32 ≠ 0x49585443 ∨ field w0 32 16 ≠ 3 ∨ (ws.getD 2 0).toNat ≠ 8 * ws.length ∨
        crc32c (wordBytes (ws.drop 8)) ≠ (ws.getD 4 0).extractLsb' 0 32 then .error 2
    else if field (ws.getD 1 0) 0 32 ≠ a then .error 3
    else if dieCount (diesOf s a) < shardsOf ws then .error 4
    else .ok ws

/-- A cluster for each region, one after another; none while one of them does not fit. -/
def placeRegions (s : State) (a : Nat) : List Nat → Option State
  | [] => some s
  | cl :: rest =>
    let all := (diesIn (diesOf s a)).flatMap (fun d => (List.range Config.clustersPerDie).map (fun k => d * Config.clustersPerDie + k))
    match (cl :: all).find? (fun dst => fitsRegion s a cl dst) with
    | some dst => placeRegions (restoreRegion s a cl dst) a rest
    | none => none

/-- The threads of a context as the image's sections say. -/
def loadThreads (s : State) (a : Nat) (ws : List W) : State :=
  { s with threads := s.threads.map (fun e => if asidOf e.2 = a then
      (match sectionFor ws e.1 with
       | some q => (e.1, loadSection q e.2)
       | none => e) else e) }

/-- The records of a context's log ring from one byte count up to another, with their kinds (R389, R391, R395). -/
def logRecords (s : State) (a die : Nat) (l : LogRegs) : Nat → Nat → List (Nat × List W)
  | 0, _ => []
  | n + 1, rd =>
    let w : Who := ⟨a, lSUPER, die, false⟩
    let size := (l.llen &&& 0x000000FFFFFFF000#64).toNat
    let va := ringBase l.lbase + w64 (rd % size)
    if l.lwr.toNat ≤ rd ∨ size = 0 then []
    else match fetchBytes s w .load va 8 with
      | none => []
      | some hb =>
        let h := w64 (leVal hb)
        let k := field h 0 16
        if field h 48 16 ≠ 0xA55A ∨ k = 0 then []
        else match fetchBytes s w .load va (8 * k) with
          | some bs => (field h 40 8, (wordsOf k bs).drop 2) :: logRecords s a die l n (rd + 8 * k)
          | none => []

/-- The epoch of the oldest CKPT record in the log ring. -/
def replayEpoch (s : State) (a die : Nat) (l : LogRegs) : Nat :=
  match (logRecords s a die l ((l.lwr.toNat - l.lrd.toNat) / 8 + 1) l.lrd.toNat).find? (fun r => r.1 == 16) with
  | some r => field (r.2.getD 0 0) 0 32
  | none => 0

/-- A node as its checkpoint holds it, on the unit that it has now; its stores come from snapshots of their own. -/
def nodeBack (now kept : Node) : Node :=
  { kept with
    ports := (List.range kept.ports.length).filterMap (fun k => (kept.ports[k]?).map (fun p => { p with store := (now.port k).store })),
    st := match now.st, kept.st with
      | .mma m, .mma q => .mma { q with unit := m.unit }
      | _, _ => kept.st }

/-- What a checkpoint kept of one unit of a context goes back (R49, R396, R398), its uncommitted flags and counts among it. -/
def unitBack (a : Nat) (s : State) (u : UnitSnap) : State :=
  match u with
  | .saved k => savedBack a s k
  | .node c n nd => updNode s c n (fun z => nodeBack z nd)
  | .store c n p q => updNode s c n (fun z => setPort z p (fun y => { y with store := q.store, link := [] }))
  | .chan e ch k => updChan s e ch (fun _ => k)

/-- The ORDER records of the oldest epoch in the log ring, from its CKPT onward (R398): none from an incomplete epoch. -/
def replayRecords (s : State) (a die : Nat) (l : LogRegs) : Option (List (List W)) :=
  let rs := (logRecords s a die l ((l.lwr.toNat - l.lrd.toNat) / 8 + 1) l.lrd.toNat).dropWhile (fun r => r.1 != 16)
  match rs.find? (fun r => r.1 == 20) with
  | some e => if (e.2.getD 0 0).getLsbD 0 then none else some ((rs.filter (fun r => r.1 == 19)).map (fun r => r.2))
  | none => none

/-- A context that is loaded with REPLAY set takes its inputs and choices from its log (R398, log 20). -/
def startReplay (s : State) (a : Nat) (rs : Option (List (List W))) : State :=
  updCtx s a (fun x => { x with log := { x.log with replay := rs.getD [], replaying := true } })

/-- The context's units are those of an epoch's checkpoint (R396, R398). -/
def epochBack (s : State) (a e : Nat) (l : LogRegs) : State :=
  ((l.snaps.filter (fun u => u.1 == e)).map (fun u => u.2)).foldl (unitBack a) (dropUnits s a)

/-- The units of a context that is loaded (R364, R365, R398): those of its image, or under replay from a complete epoch those of the
epoch's checkpoint. -/
def imageUnits (s : State) (a die : Nat) (ws : List W) : State :=
  match aget s.ctxs a with
  | none => s
  | some c =>
    if c.log.ckctl.getLsbD 1 then
      let rs := replayRecords s a die c.log
      startReplay (if rs.isNone then unitsBack s a ws else epochBack s a (replayEpoch s a die c.log) c.log) a rs
    else unitsBack s a ws

/-- CTXLOAD_COMPLETE (R365): the whole image is read and checked; then it waits for free units without limit. -/
def execCtxloadComplete (t : Nat) (s : State) : Host.Outcome State Fault Refusal :=
  .next (match aget s.threads t with
    | none => s
    | some th =>
      match th.waits.find? (fun w => waitKind w == 7) with
      | some (.ctxload a img) =>
        if !threadRuns s th then s
        else if (aget s.ctxs a).elim true (fun c => !c.saved) then endTrail (writeResult s th img 5) t (.ctxload a img)
        else
          match checkImage s th a img with
          | .error k => endTrail (writeResult s th img k) t (.ctxload a img)
          | .ok ws =>
            let s1 := updCtx (loadThreads (imageUnits s a (dieOf th.home.cluster) ws) a ws) a (fun c => { c with
              saved := false, stopped := false, image := none, regs := { c.regs with fseq := (ws.getD 4 0).extractLsb' 32 32 } })
            match placeRegions s1 a (outClusters s1 a) with
            | some s2 => endTrail (writeResult s2 th img 0) t (.ctxload a img)
            | none => s
      | _ => s)

end Sys2Proof.Machine
end

