-- ==== Sys2Proof/Machine/Commit.lean ====
section
/-! DEFINITION. The commit of a block (R109 to R116, R122, R262, R263): whether it is complete, the values that its loads must
still have, the commit event, and what is sent after it. -/

namespace Sys2Proof.Machine

/-! ### Completion (R74, R76, R124) -/

/-- A slot is done with. -/
def slotDone (sl : Slot) : Bool := sl.phase == .fired || sl.phase == .skipped

/-- A slot that can fire now: its operands have arrived, and no lower-LSID load holds it back (R74, R123). -/
def slotReady (b : Block) (k : Nat) : Bool :=
  match b.slots[k]? with
  | none => false
  | some sl =>
    match slotInstr sl with
    | none => false
    | some i =>
      portsReady sl i && (sl.phase == .waiting || (sl.phase == .ordered && (match instrLsid i with
        | some l => !behindLoad b k l
        | none => true)))

/-- A slot waits for a value of a peer or the host. -/
def slotRemote (sl : Slot) : Bool :=
  match sl.phase with
  | .remote _ => true
  | _ => false

/-- Every instruction has fired or been resolved without firing; or one has raised a trap and nothing else can fire. -/
def blockComplete (b : Block) : Bool :=
  b.slots.all slotDone ||
  (!b.faults.isEmpty && !(List.range b.slots.length).any (slotReady b) && !b.slots.any slotRemote)

/-! ### Values that have changed since they were delivered (R122, R263) -/

/-- Accesses in ascending LSID order. -/
def sortedAccs (b : Block) : List Access := (List.range 33).flatMap (fun l => b.accs.filter (fun a => a.lsid == l))

/-- The accesses that are part of the commit event. -/
def eventAccs (b : Block) : List Access := (sortedAccs b).filter (fun a => !isRemote a.loc)

/-- An access leads where it led when it fired, and meets no data fault. -/
def accHolds (s : State) (th : Thread) (bytes : List Host.Cell) (a : Access) : Bool :=
  (match resolveThread s th (accKindOf a.kind) a.size true a.addr with
   | .ok r => r.loc == a.loc
   | .error _ => false) &&
  (dataFault s (asidOf th) th.pts bytes a.kind a.loc a.size a.data).1.isNone

/-- The slots whose access would now deliver another value, go elsewhere or fault, in the order of the event. -/
def staleSlots (s : State) (th : Thread) : List Access → List Host.Cell → List Nat
  | [], _ => []
  | a :: rest, bytes =>
    match a.loc with
    | .aper ch =>
      let v := (chanOf s th.home.eset ch).elim 0 statusWord
      (if v = a.value then [] else [a.slot]) ++ staleSlots s th rest bytes
    | _ =>
      let r := performAcc s (asidOf th) bytes a
      (if accHolds s th bytes a && r.2 == a.value then [] else [a.slot]) ++ staleSlots s th rest r.1

/-- An instruction reads a record in its block's event. -/
def readsRecord (i : Instr) : Bool :=
  match i with
  | .tmpl _ => true
  | .cfg _ => true
  | .strm _ => true
  | .launch _ _ _ => true
  | .collStart _ => true
  | _ => false

/-- The slots that satisfy a test of their instruction and have fired. -/
def firedSlots (b : Block) (f : Instr → Bool) : List Nat :=
  (List.range b.slots.length).filter (fun k => match b.slots[k]? with
    | some sl => sl.phase == .fired && (slotInstr sl).elim false f
    | none => false)

/-- The graph that a CFG in a slot has fetched. -/
def graphIn (b : Block) (k : Nat) : Option (List Byte) :=
  b.effs.findSome? (fun e => match e with
    | .cfg j _ _ bs => if j = k then some bs else none
    | _ => none)

/-- The record that a fired slot reads: its address, and its bytes (R122). -/
def recordOf (b : Block) (k : Nat) : Option (W × Nat) :=
  match b.slots[k]? with
  | none => none
  | some sl =>
    if sl.phase ≠ .fired then none
    else match slotInstr sl with
      | some (.tmpl _) => some (sl.l.getD 0, 64)
      | some (.launch _ _ _) => some (sl.l.getD 0, 64)
      | some (.collStart _) => some (sl.l.getD 0, 64)
      | some (.strm _) => some (sl.r.getD 0, 32)
      | some (.cfg _) => (graphIn b k).map (fun bs => (sl.l.getD 0, bs.length))
      | _ => none

/-- A piece of a record that is read now is one that the block has read, and can be read (R192, R253). -/
def partHolds (s : State) (asid : Nat) (b : Block) (p : Loc × List Byte) : Bool :=
  b.recs.any (fun e => e.1 == p.1 && (isRemote p.1 || e.2 == p.2)) && !locPoisoned s asid p.1 p.2.length && !locPacked s p.1

/-- The record of a slot, read anew through the translations of now, is the one that the slot has read (R245, R251, R253): a CFG has read
its graph, or the header alone (R70). -/
def recordHolds (s : State) (th : Thread) (b : Block) (k : Nat) : Bool :=
  match recordOf b k, (b.slots[k]?).bind slotInstr with
  | some (va, n), some (.cfg _) =>
    let whole (m : Nat) : Bool :=
      let ps := fetchParts s th va m
      !ps.isEmpty && ps.all (partHolds s (asidOf th) b)
    whole n || whole 16
  | some (va, n), some _ =>
    (List.range (n / 8)).all (fun j => match resolveThread s th .load 8 false (va + w64 (8 * j)) with
      | .ok r => partHolds s (asidOf th) b (r.loc, locBytes s (asidOf th) s.mem.bytes r.loc 8)
      | .error _ => false)
  | _, _ => true

/-- The slots that have read a record, and raised no fault. -/
def recordSlots (b : Block) : List Nat :=
  (firedSlots b readsRecord).filter (fun k => !b.faults.any (fun f => f.slot.toNat == k))

/-- The records that were read still read the same. -/
def recsHold (s : State) (th : Thread) (b : Block) : Bool :=
  b.recs.all (fun r => isRemote r.1 || locBytes s (asidOf th) s.mem.bytes r.1 r.2.length == r.2) &&
  (recordSlots b).all (recordHolds s th b)

/-- The slots that must fire again. -/
def seeds (s : State) (th : Thread) (b : Block) : List Nat :=
  staleSlots s th (eventAccs b) s.mem.bytes ++ (if recsHold s th b then [] else firedSlots b readsRecord)

/-- The slots that the targets of some slots name. -/
def consumers (b : Block) (ks : List Nat) : List Nat :=
  ks.flatMap (fun k => match b.slots[k]? with
    | some sl => (slotInstr sl).elim [] (fun i => ((instrTargets i).filter (fun t => t.port != .none)).map (fun t => t.slot.toNat))
    | none => [])

/-- Everything that depends on some slots, on fuel. -/
def closure (b : Block) : Nat → List Nat → List Nat
  | 0, ks => ks
  | n + 1, ks => closure b n (ks ++ (consumers b ks).filter (fun k => !ks.contains k)).dedup

/-- An instruction that chooses a branch. -/
def isBranch (i : Instr) : Bool := (instrExit i).isSome

/-- An instruction that may set DZ. -/
def isDivide (i : Instr) : Bool :=
  match i with
  | .div _ _ _ _ _ => true
  | .rem _ _ _ _ _ => true
  | _ => false

/-- The slots that fire again: what depends on the seeds, with every branch or division where one of them is among them. -/
def refireSet (b : Block) (ks : List Nat) : List Nat :=
  let n := b.slots.length
  let c := closure b n ks
  let br := firedSlots b isBranch
  let c1 := if br.any c.contains then c ++ br else c
  let dv := firedSlots b isDivide
  closure b n (if b.dz && dv.any c1.contains then c1 ++ dv else c1).dedup

/-- The ports of a slot that a firing of another slot delivered to. -/
def fedPorts (b : Block) (j k : Nat) : List TPort :=
  match b.slots[j]? with
  | some sl =>
    if sl.phase == .fired then
      (slotInstr sl).elim [] (fun i => ((instrTargets i).filter (fun t => t.slot.toNat == k)).map (fun t => t.port))
    else []
  | none => []

/-- A slot without what came to some of its ports. -/
def clearPorts (sl : Slot) (ps : List TPort) : Slot :=
  { sl with l := if ps.contains .l then none else sl.l, r := if ps.contains .r then none else sl.r,
            x := if ps.contains .x then none else sl.x }

/-- Fire some slots again (R122): what they delivered, accessed, raised and left for the commit is taken back. -/
def refireSlots (b : Block) (ks : List Nat) : Block :=
  let br := (firedSlots b isBranch).any ks.contains
  let slots := (List.range b.slots.length).filterMap (fun k => (b.slots[k]?).map (fun sl =>
    let sl1 := clearPorts sl (ks.flatMap (fun j => fedPorts b j k))
    if ks.contains k then { sl1 with phase := .waiting } else sl1))
  let keep := (b.effs.zip b.effBy).filter (fun e => !ks.contains e.2)
  { b with
    slots := slots, accs := b.accs.filter (fun a => !ks.contains a.slot), predicted := b.accs.filter (fun a => ks.contains a.slot),
    recs := if (firedSlots b readsRecord).any ks.contains then b.recs.filter (fun r => isRemote r.1) else b.recs,
    effs := keep.map (fun e => e.1), effBy := keep.map (fun e => e.2), choice := if br then none else b.choice,
    branches := if br then 0 else b.branches, dz := b.dz && !(firedSlots b isDivide).any ks.contains,
    faults := b.faults.filter (fun f => !ks.contains f.slot.toNat) }

/-! ### Gates that have closed again, empty slots -/

/-- The effects of a block in ascending order of their slots, each with its slot. -/
def slotEffs (b : Block) : List (Nat × Eff) :=
  let l := b.effBy.zip b.effs
  (List.range b.slots.length).flatMap (fun k => l.filter (fun e => e.1 == k))

/-- The LSID of the access in a slot. -/
def slotLsid (b : Block) (k : Nat) : Nat := ((b.slots[k]?).bind slotInstr).elim 32 (fun i => (instrLsid i).getD 32)

/-- The effects in the order in which they are applied: by slot, and the starts of copies, as stores, by LSID (R122, R134). -/
def orderedEffs (b : Block) : List (Nat × Eff) :=
  let start (e : Nat × Eff) : Bool := match e.2 with
    | .aperture _ _ => true
    | _ => false
  (slotEffs b).filter (fun e => !start e) ++
  (List.range 33).flatMap (fun l => (slotEffs b).filter (fun e => start e && slotLsid b e.1 == l))

/-- A SYSWR clears VALID of the selected buffer (R339). -/
def clearsValid (g : BitVec 4) (i : BitVec 6) (v : W) : Bool := g == 1 && i == 7 && !v.getLsbD 0

/-- Whether what a gate let through can still go on: room for a start; pages, units, banks and channels for a configuration (R131,
R207, R240, R277); an idle stream; room in a queue; a shadow that nothing started before the block's snapshot writes (R141); a buffer without a lease (R339). -/
def gateHolds (s : State) (th : Thread) (b : Block) (e : Eff) : Bool :=
  match e with
  | .aperture ch _ => (aget s.esets th.home.eset).elim false (fun x => hasRoom x ch)
  | .cfg _ _ r bs =>
    let old := cellAt s th.home.crew (field r 0 4)
    let g := graphOf bs
    old.elim true (fun x => drained x.2) && pagesFit s th.home.crew old g.pages && cfgOpen s th (field r 0 4) g old &&
    !(List.range g.words.length).any (fun n => linkNode s g th.home.crew.asid (old.elim s.nextId (fun x => x.1)) n)
  | .sysw g i v => !(clearsValid g i v && pblenLeased s (asidOf th))
  | .strm c n _ _ _ => (match aget s.cells c, nodeOf s c n with
    | some x, some nd => x.halted || (memOf nd).starts.isEmpty
    | _, _ => false)
  | .launch q _ _ => (aget s.ctxs (asidOf th)).elim false (fun c => decide ((c.queues.getD q []).length < Config.launchQueue))
  | .publish i => (aget s.ctxs (asidOf th)).elim false (fun c => (c.xlat.bufs[i]?).elim false (fun p =>
      shadowQuiet s (asidOf th) p.va.toNat (p.va.toNat + p.len * 4096) b.born))
  | _ => true

/-- What an effect takes, for the effects of the block that follow it. -/
def gateTakes (s : State) (t : Nat) (b : Block) (e : Eff) : State :=
  match e with
  | .aperture ch w => applyAperture s t ch w b.regs.priv
  | .cfg _ l r bs => applyCfg s t l r bs b.regs
  | .launch q id ws => applyLaunch s t q id ws b.regs
  | .sysw g i v => if g = 1 then sysWrite s t g i v else s
  | _ => s

/-- The slots whose gate has closed again. -/
def closedGates (t : Nat) (th : Thread) (b : Block) : State → List (Nat × Eff) → List Nat
  | _, [] => []
  | s, (k, e) :: rest =>
    if gateHolds s th b e then closedGates t th b (gateTakes s t b e) rest else k :: closedGates t th b s rest

/-- Those slots are held at their gates again, and what they delivered is taken back. -/
def gateAgain (s : State) (b : Block) (ks : List Nat) : Block :=
  let r := refireSlots b (refireSet b ks)
  { r with
    slots := (List.range r.slots.length).filterMap (fun k => (r.slots[k]?).map (fun sl =>
      if ks.contains k then { sl with phase := .gated } else sl)),
    gateAt := s.cycle }

/-- The slots whose data word names a template slot that will be empty (R262): slot of the block, and address. -/
def emptySlots (s : State) (th : Thread) (b : Block) : List (Nat × W) :=
  let es := slotEffs b
  let filled (k : Nat) : Bool :=
    es.any (fun e => match e.2 with
      | .tmpl j _ => j == k
      | _ => false) ||
    (aget s.esets th.home.eset).elim false (fun x => (x.slots.getD k none).isSome)
  es.filterMap (fun e => match e.2 with
    | .aperture _ w =>
      if filled (field w 0 6) then none
      else
        let ea := match b.slots[e.1]? with
          | some sl => (match slotInstr sl with
            | some (.st64 m _ _) => effAddr (sl.l.getD 0) m 8
            | _ => b.addr)
          | none => b.addr
        some (e.1, ea)
    | .bind _ _ w => if filled (field w 0 6) then none else some (e.1, b.addr)
    | _ => none)

/-! ### The commit event (R110, R122) -/

/-- The bytes of the offset tables that the block's STRMs load in its event (R181, R246). -/
def tablesOf (s : State) (b : Block) : List (Nat × Nat) :=
  b.effs.flatMap (fun e => match e with
    | .strm c n _ b1 len => tableSpans s c n b1 len
    | _ => [])

/-- The single timestamp of the event (R246): the largest of the bounds of everything it reads and writes. What it reads in a publishable
buffer, it reads after the publication of what it reads (R251). -/
def eventTs (s : State) (asid pts0 : Nat) (b : Block) : Nat :=
  let pts1 := ((eventAccs b).map (fun a => a.addr) ++ (recordSlots b).filterMap (fun k => (recordOf b k).map (fun r => r.1))).foldl
    (fun t va => max t (bufTs s asid va)) pts0
  let pts := b.effs.foldl (fun t e => match e with
    | .publish i => pubTs s asid i t
    | _ => t) pts1
  let t1 := (eventAccs b).foldl (fun t a => match a.kind with
    | .load _ => (locSpans s asid a.loc a.size).foldl (fun x p => s.mem.loadTs x p.1 p.2) t
    | _ => locStoreTs s asid t a.loc a.size) pts
  (b.recs.flatMap (fun r => locSpans s asid r.1 r.2.length) ++ tablesOf s b).foldl (fun x p => s.mem.loadTs x p.1 p.2) t1

/-- Perform one access in the event. A load of lines that another context wrote goes into the peat log (R397). -/
def performAccess (s : State) (t : Nat) (th : Thread) (ts : Nat) (a : Access) : State :=
  let asid := asidOf th
  let trk := match resolveThread s th (accKindOf a.kind) a.size true a.addr with
    | .ok r => r.trk
    | .error _ => false
  let spans := locSpans s asid a.loc a.size
  let g := threadSig s th
  let noted := noteForeign s s.mem asid (dieOf th.home.cluster) ts (threadUnit s th) spans
  let merged (st : State) : State :=
    if trk then (spans.flatMap (fun p => trackedSigs s p.1 p.2)).foldl (fun x q => mergeThread x t q) st else st
  let write (st : State) (bs : List Byte) : State := (locEvent st asid ts (if trk then some g else none) false a.loc bs).getD st
  match a.kind with
  | .load _ => merged { noted with mem := spans.foldl (fun m p => m.leased ts p.1 p.2) noted.mem }
  | .store => write s (leBytes a.size a.data.toNat)
  | k =>
    let old := leVal (locBytes s asid s.mem.bytes a.loc 8)
    let s1 := write (merged noted) (leBytes 8 (atomicNew k (w64 old) a.data).toNat)
    match a.loc with
    | .mem x => heat s1 asid th.home.cluster x
    | _ => s1

/-- The memory of the event (R122). -/
def performAll (s : State) (t : Nat) (th : Thread) (ts : Nat) (b : Block) : State :=
  let s1 := (eventAccs b).foldl (fun st a => performAccess st t th ts a) s
  let spans := b.recs.flatMap (fun r => locSpans s (asidOf th) r.1 r.2.length)
  { s1 with mem := spans.foldl (fun m p => m.leased ts p.1 p.2) s1.mem }

/-- The return-address store after a branch (R114, R115). -/
def rasAfter (th : Thread) (b : Block) (c : Choice) : Thread :=
  match c with
  | .call _ =>
    if th.ras.length < Config.rasDepth then { th with ras := th.ras ++ [returnAddr b] }
    else { th with ras := th.ras.drop 1 ++ [returnAddr b], regs := { th.regs with spc := th.regs.spc + 1 } }
  | .ret _ true => { th with regs := { th.regs with spc := th.regs.spc - 1 } }
  | .ret _ false => { th with ras := th.ras.dropLast }
  | _ => th

/-- The next block of a branch; none where the thread halts. -/
def nextBlock (c : Choice) : Option W :=
  match c with
  | .jump a => some a
  | .call a => some a
  | .ret a _ => some a
  | .stop => none
  | .tret a => if a = 0 then none else some a

/-- A mailbox register after its block's MWR. -/
def mwrite (s : State) (t : Nat) (n : BitVec 4) (v : W) : State :=
  updThread s t (fun th =>
    let bit : BitVec 16 := BitVec.ofNat 16 (pow2 n.toNat)
    { th with
      ms := th.ms.set n.toNat v n.isLt, mfull := th.mfull ||| bit,
      mbSig := if th.mfull.getLsbD n.toNat then th.mbSig else noteMail th.mbSig n.toNat (threadSig s th) (threadUnit s th) false })

/-- A mailbox register after its block's MRD: the full bit clears, unless a write has landed since the snapshot or an MWR of the
block prevails (R107, R111). -/
def mclear (s : State) (t : Nat) (b : Block) (n : BitVec 4) : State :=
  if b.landed.getLsbD n.toNat || b.effs.any (fun e => match e with
      | .mwr m _ => m == n
      | _ => false) then s
  else updThread s t (fun th => { th with mfull := th.mfull &&& ~~~(BitVec.ofNat 16 (pow2 n.toNat)),
                                          mbSig := th.mbSig.filter (fun e => e.1 != n.toNat) })

/-- An effect that is part of the commit. -/
def commitEff (s : State) (t ts : Nat) (b : Block) (e : Eff) : State :=
  match e with
  | .gwr g v => updThread s t (fun th => { th with gs := th.gs.set g.toNat v g.isLt })
  | .mwr n v => mwrite s t n v
  | .mclr n => mclear s t b n
  | .sysw g i v => sysWrite s t g i v
  | .cfg _ l r bs => applyCfg s t l r bs b.regs
  | .tmpl k ws => applyTmpl s t k ws
  | .term i m => applyTerm s t i m
  | .count i w => applyCount s t i w
  | .bind i ch w => applyBind s t i ch w b.regs.priv
  | .publish i => (aget s.threads t).elim s (fun th => swapBuf s (asidOf th) i ts)
  | .collEnd a => applyCollEnd s t a
  | .take n => applyTake s t n
  | .cptag v => updThread s t (fun th => { th with tag := v })
  | .cpmark v => applyMark s t v
  | _ => s

/-- A remote store is sent (R123) to the place that its address had as its block committed (R327). -/
def sendStore (s : State) (t slot : Nat) (addr data : W) (size : Nat) (place : Except Flt Target0) : State :=
  match aget s.threads t, place with
  | none, _ => s
  | some _, .error f => reportLost s t f.1 f.2 slot addr none
  | some th, .ok r =>
    let bs := leBytes size data.toNat
    match r.loc with
    | .peer ix pa =>
      (match route s ix with
       | .error f => reportLost s t f.1 f.2 slot addr none
       | .ok port => sendOp s (.threadStore t slot addr) ix (some port) true (w64 pa) bs)
    | .host a => sendOp s (.threadStore t slot addr) 0 (some (hostPort s (asidOf th))) true (w64 a) bs
    | l => (locEvent s (asidOf th) (locStoreTs s (asidOf th) th.pts l size) none false l bs).getD s

/-- The start of a copy, the first that follows the commit of its block (R266, R279), with its slot. -/
def startEff (s : State) (t : Nat) (b : Block) (e : Nat × Eff) : State :=
  match e.2 with
  | .aperture ch w => applyAperture s t ch w b.regs.priv
  | _ => s

/-- A pulse, behind the block's own writes of the crossbar (R139) and its own starts (R279). -/
def pulseEff (s : State) (t : Nat) (e : Nat × Eff) : State :=
  match e.2 with
  | .pulse l => applyPulse s t l
  | _ => s

/-- What else follows the commit of a block. -/
def afterEff (s : State) (t : Nat) (ts : Nat) (b : Block) (e : Nat × Eff) : State :=
  match e.2 with
  | .strm c n b0 b1 len => applyStrm s c n b0 b1 len ts
  | .drain all c sid => applyDrain s t all c sid
  | .collStart a ws st => applyCollStart s t a ws st b.regs.priv
  | .launch q id ws => applyLaunch s t q id ws b.regs
  | .shape id x => applyShape s t id x
  | .steal v => applySteal s t v
  | .yield => applyYield s t
  | .send m d v w => applySend s t e.1 b.addr m d v w
  | .bcast m d v => applyBcast s t e.1 b.addr m d v
  | .tlbi k va a => applyTlbi s t k va a
  | .ctxsave a l img => applyCtxsave s t a l img
  | .ctxload a img => applyCtxload s t a img
  | _ => s

/-- The remote stores of a block, in LSID order (R123). -/
def remoteStores (b : Block) : List (Nat × W × W × Nat) :=
  (List.range 32).flatMap (fun l => (slotEffs b).filterMap (fun e => match e.2 with
    | .remoteStore m a d n => if m = l then some (e.1, a, d, n) else none
    | _ => none))

/-- The SOFT trap of the lowest slot that fired a TRAP (R347). -/
def softOf (b : Block) : Option (Nat × W) :=
  (slotEffs b).findSome? (fun e => match e.2 with
    | .soft k v => some (k, v)
    | _ => none)

/-- The REGION record of a thread that an epoch still waits for (R396), its THREAD section; the device keeps what stands beside it. At a
commit the section is what the thread held before it: the commit is the first event behind the checkpoint point (DESIGN CHOICE, log 20). -/
def threadRegion (s : State) (t e : Nat) : State :=
  match aget s.threads t with
  | none => s
  | some th =>
    let u := savedThread t th
    let s1 := { s with vault := keepUnit s.vault u }
    let s2 := logRec s1 (asidOf th) (dieOf th.home.cluster) e 17 (threadUnit s th :: threadSection s1 t th (vaultPlace s1 u))
    updCtx s2 (asidOf th) (fun x => { x with log := { x.log with
      snaps := x.log.snaps ++ [(e, .saved u)],
      epochs := x.log.epochs.map (fun p => if p.number = e then { p with threads := p.threads.filter (fun k => k != t) } else p) } })

/-- The REGION records of a thread for every epoch that waits for one. -/
def threadRegions (s : State) (t : Nat) : State :=
  match (aget s.threads t).bind (fun th => aget s.ctxs (asidOf th)) with
  | none => s
  | some c => ((c.log.epochs.filter (fun p => p.threads.contains t)).map (fun p => p.number)).foldl (fun st e => threadRegion st t e) s

/-- The flags of a block (R48): they join what its own SYSWR has left. -/
def blockFlags (s : State) (t : Nat) (b : Block) : State :=
  if b.dz then updThread s t (fun th => { th with regs := commitTflag th.regs 2 }) else s

/-- EXIT of the branch that a block takes (R76, R113). -/
def exitOf (b : Block) : BitVec 3 :=
  ((firedSlots b isBranch).findSome? (fun k => ((b.slots[k]?).bind slotInstr).bind instrExit)).elim 0 (BitVec.ofNat 3)

/-- The registers and the place of the next block, after TRET too (R348, R392). A number that a fault of the block took before a gate goes
(R358). -/
def branchCommit (s : State) (t : Nat) (b : Block) (c : Choice) : State :=
  updThread s t (fun th =>
    let x := { rasAfter th b c with pc := (nextBlock c).getD b.addr, block := none, exit := exitOf b, seq := none }
    match c with
    | .tret a => { x with regs := tretRegs x.regs b.regs, brkSkip := some a }
    | _ => x)

/-- The commit event (R110). -/
def commitEvent (s : State) (t : Nat) (th : Thread) (b : Block) (c : Choice) (ts : Nat) : State :=
  let s1 := updThread (performAll s t th ts b) t (fun x => { x with pts := ts })
  let s2 := (slotEffs b).foldl (fun st e => commitEff st t ts b e.2) s1
  let s3 := branchCommit (blockFlags s2 t b) t b c
  pmcAdd s3 (asidOf th) (dieOf th.home.cluster) 2 1

/-- What the thread does after its commit (R114, R347): the SOFT of a TRAP, the halt of a STOP, or its next block. It waits out the
trailing waits of the block first (log 16). -/
def afterOf (b : Block) (c : Choice) : AfterWait :=
  match softOf b with
  | some (k, v) => .soft k v ((nextBlock c).getD 0)
  | none => if (nextBlock c).isNone then .halt else .next

/-- That, once the block's effects have begun its trailing waits. -/
def goOn (s : State) (t : Nat) (a : AfterWait) : State :=
  match aget s.threads t with
  | none => s
  | some th =>
    match th.mode, a with
    | .trailing ws _, _ => updThread s t (fun x => { x with mode := .trailing ws a })
    | _, .next => s
    | _, _ => afterWaits s t a

/-- What follows the commit event: the block's own starts of copies, then its pulses, its stores beyond the device, and the rest (R110,
R123, R139, R266, R279). `places` are those of the stores as the block committed. -/
def afterEvent (s : State) (t ts : Nat) (b : Block) (places : List (Except Flt Target0)) : State :=
  let s1 := (orderedEffs b).foldl (fun st e => startEff st t b e) s
  let s2 := (slotEffs b).foldl (fun st e => pulseEff st t e) s1
  let s3 := ((remoteStores b).zip places).foldl (fun st e => sendStore st t e.1.1 e.1.2.1 e.1.2.2.1 e.1.2.2.2 e.2) s2
  (slotEffs b).foldl (fun st e => afterEff st t ts b e) s3

/-- The commit and what follows it (R110, R114, R123, R125, R347). -/
def commitBlock (s : State) (t : Nat) (th : Thread) (b : Block) (c : Choice) : State :=
  let ts := eventTs s (asidOf th) th.pts b
  let places := (remoteStores b).map (fun e => resolveThread s th .store e.2.2.2 false e.2.1)
  goOn (afterEvent (commitEvent (threadRegions s t) t th b c ts) t ts b places) t (afterOf b c)

/-- The trap of the lowest slot of a block that raised any (R124). -/
def lowestFault (b : Block) : Option TrapReq :=
  (List.range b.slots.length).findSome? (fun k => b.faults.find? (fun f => f.slot.toNat == k))

/-- A block traps and does not commit (R112); in an unconfirmed crew the trap is deferred (R289). -/
def blockTraps (s : State) (t : Nat) (th : Thread) (b : Block) (tr : TrapReq) : State :=
  if unconfirmed s th.home.crew then holdForProof s t (some tr) else takeTrap (abandon s t) t tr b.addr

/-- The last checks of a block whose instructions have all fired and hold, and its commit. -/
def finishBlock (s : State) (t : Nat) (th : Thread) (b : Block) : State :=
  match lowestFault b with
  | some tr => blockTraps s t th b tr
  | none =>
    match emptySlots s th b with
    | (k, a) :: _ => blockTraps s t th b ⟨cENGINE, 0, BitVec.ofNat 7 k, false, a⟩
    | [] =>
      match b.choice with
      | none => blockTraps s t th b ⟨cDECODE, 0, 0, true, b.addr⟩
      | some c =>
        match closedGates t th b s (orderedEffs b) with
        | [] =>
          if (softOf b).isSome && unconfirmed s th.home.crew then holdForProof s t none else commitBlock s t th b c
        | ks => updBlock (beginWait s t) t (fun x => gateAgain s x ks)

/-- Under replay a block waits while a load of it has a record of its own behind those of others (R398). -/
def replayHolds (s : State) (th : Thread) (b : Block) : Bool :=
  (eventAccs b).any (fun a => a.kind != .store && foreignWaits s (asidOf th) (threadUnit s th) (locSpans s (asidOf th) a.loc a.size))

/-- BLOCK_COMMIT (R76, R109, R110): a complete block commits or traps. Where a value that it used has changed, what depends on
that value fires again first (R122). -/
def execBlockCommit (t : Nat) (s : State) : Host.Outcome State Fault Refusal :=
  .next (match aget s.threads t with
    | none => s
    | some th =>
      match th.block with
      | none => s
      | some b =>
        if th.mode ≠ .ready ∨ threadRuns s th = false ∨ blockComplete b = false ∨ replayHolds s th b = true then s
        else
          match seeds s th b with
          | [] => finishBlock s t th b
          | ks => updBlock s t (fun x => refireSlots x (refireSet x ks)))

end Sys2Proof.Machine
end

