-- ==== Sys2Proof/Machine/Integer.lean ====
section
/-! DEFINITION. Integer, immediate, address, bit, compare, predicate and select instructions (R97 to R105). -/

namespace Sys2Proof.Machine

/-- W bits of an operation (R99). -/
def wbits (w : Width) : Nat :=
  match w with
  | .w64 => 64
  | .w32 => 32
  | .w16 => 16
  | .w8 => 8

/-- An operand of IntG: its low W bits, as two's complement where `sg` (R99). -/
def operand (sg : Bool) (w : Width) (x : W) : Int :=
  if sg then sval (wbits w) x.toNat else ((x.toNat % pow2 (wbits w) : Nat) : Int)

/-- Extend(v mod 2^W, W, e) (R99). -/
def extend (sg : Bool) (w : Width) (v : Int) : W :=
  if sg then BitVec.ofInt 64 (sval (wbits w) (wrapTo (wbits w) v)) else BitVec.ofNat 64 (wrapTo (wbits w) v)

/-- An operation of one signedness: natural operands and a zero-extended result (R99). -/
def natOp (w : Width) (f : Int → Int → Int) (l r : W) : W := extend false w (f (operand false w l) (operand false w r))

/-- An operation with the signedness of XOP[2] (R99). -/
def sgOp (sg : Bool) (w : Width) (f : Int → Int → Int) (l r : W) : W := extend sg w (f (operand sg w l) (operand sg w r))

/-- A bitwise operation at width W. -/
def bitOp (w : Width) (f : W → W → W) (l r : W) : W := BitVec.ofNat 64 ((f l r).toNat % pow2 (wbits w))

/-- The shift count b mod W (R99). -/
def shiftBy (w : Width) (r : W) : Nat := r.toNat % pow2 (wbits w) % wbits w

/-- The value of MULH: floor(a × b / 2^W). -/
def valMulh (w : Width) (a b : Int) : Int := a * b / (pow2 (wbits w) : Nat)

/-- The value of DIV (R99). -/
def valDiv (sg : Bool) (w : Width) (a b : Int) : Int :=
  if b = 0 then (pow2 (wbits w) : Nat) - 1
  else if sg = true ∧ a = -(pow2 (wbits w - 1) : Nat) ∧ b = -1 then a
  else Int.tdiv a b

/-- The value of REM (R99). -/
def valRem (sg : Bool) (w : Width) (a b : Int) : Int :=
  if b = 0 then a
  else if sg = true ∧ a = -(pow2 (wbits w - 1) : Nat) ∧ b = -1 then 0
  else a - b * Int.tdiv a b

/-- The result of SHL. -/
def resShl (w : Width) (l r : W) : W := extend false w (operand false w l * (pow2 (shiftBy w r) : Nat))
/-- The result of SHR: the natural value shifts even when s = 1, and the result is extended by s. -/
def resShr (sg : Bool) (w : Width) (l r : W) : W := extend sg w (operand false w l / (pow2 (shiftBy w r) : Nat))
/-- The result of SRA: signed, and sign-extended. -/
def resSra (w : Width) (l r : W) : W := extend true w (operand true w l / (pow2 (shiftBy w r) : Nat))

/-- The number of leading zero bits of the low W bits (R103). -/
def resClz (w : Width) (l : W) : W :=
  let n := l.toNat % pow2 (wbits w)
  BitVec.ofNat 64 (if n = 0 then wbits w else wbits w - 1 - Nat.log2 n)

/-- The number of one bits of the low W bits (R103). -/
def resPopc (w : Width) (l : W) : W :=
  BitVec.ofNat 64 ((List.range (wbits w)).foldl (fun a k => a + (if l.getLsbD k then 1 else 0)) 0)

/-- Ins (R103). -/
def resIns (l r x : W) : W :=
  let pos := field x 0 6
  let len := field x 6 6 + 1
  let mask : W := BitVec.ofNat 64 (((pow2 len - 1) <<< pos) % pow2 64)
  (l &&& ~~~mask) ||| ((r <<< pos) &&& mask)

/-- Tag (R102). -/
def resTag (l r : W) : W := r.extractLsb' 0 4 ++ l.extractLsb' 0 60

/-- Lea (R102). -/
def resLea (sh : BitVec 2) (l r : W) : W := l.extractLsb' 60 4 ++ (l.extractLsb' 0 60 + (r <<< sh.toNat).extractLsb' 0 60)

/-- 1 or 0 (R104). -/
def bool64 (b : Bool) : W := if b then 1 else 0

/-- IMM14 sign-extended (R101). -/
def simm (i : BitVec 14) : W := BitVec.signExtend 64 i

/-- ADD (R99). -/
def execAdd (v t : Target) (w : Width) (p : Pm) (s : State) : Host.Outcome State Fault Refusal :=
  .next (fireLR s (.add v t w p) t v (natOp w (fun a b => a + b)))
/-- SUB (R99). -/
def execSub (v t : Target) (w : Width) (p : Pm) (s : State) : Host.Outcome State Fault Refusal :=
  .next (fireLR s (.sub v t w p) t v (natOp w (fun a b => a - b)))
/-- MUL (R99). -/
def execMul (v t : Target) (w : Width) (p : Pm) (s : State) : Host.Outcome State Fault Refusal :=
  .next (fireLR s (.mul v t w p) t v (natOp w (fun a b => a * b)))
/-- MULH (R99). -/
def execMulh (v t : Target) (sg : Bool) (w : Width) (p : Pm) (s : State) : Host.Outcome State Fault Refusal :=
  .next (fireLR s (.mulh v t sg w p) t v (sgOp sg w (valMulh w)))
/-- DIV (R99, R100): a zero divisor raises DZ. -/
def execDiv (v t : Target) (sg : Bool) (w : Width) (p : Pm) (s : State) : Host.Outcome State Fault Refusal :=
  .next (fire s (.div v t sg w p) (fun q =>
    .done s (deliver2 { q.b with dz := q.b.dz || operand sg w (q.sl.r.getD 0) == 0 } q.k t v
      (sgOp sg w (valDiv sg w) (q.sl.l.getD 0) (q.sl.r.getD 0)))))
/-- REM (R99, R100): a zero divisor raises DZ. -/
def execRem (v t : Target) (sg : Bool) (w : Width) (p : Pm) (s : State) : Host.Outcome State Fault Refusal :=
  .next (fire s (.rem v t sg w p) (fun q =>
    .done s (deliver2 { q.b with dz := q.b.dz || operand sg w (q.sl.r.getD 0) == 0 } q.k t v
      (sgOp sg w (valRem sg w) (q.sl.l.getD 0) (q.sl.r.getD 0)))))
/-- AND (R99). -/
def execAnd (v t : Target) (w : Width) (p : Pm) (s : State) : Host.Outcome State Fault Refusal :=
  .next (fireLR s (.and v t w p) t v (bitOp w (fun a b => a &&& b)))
/-- OR (R99). -/
def execOr (v t : Target) (w : Width) (p : Pm) (s : State) : Host.Outcome State Fault Refusal :=
  .next (fireLR s (.or v t w p) t v (bitOp w (fun a b => a ||| b)))
/-- XOR (R99). -/
def execXor (v t : Target) (w : Width) (p : Pm) (s : State) : Host.Outcome State Fault Refusal :=
  .next (fireLR s (.xor v t w p) t v (bitOp w (fun a b => a ^^^ b)))
/-- SHL (R99). -/
def execShl (v t : Target) (w : Width) (p : Pm) (s : State) : Host.Outcome State Fault Refusal :=
  .next (fireLR s (.shl v t w p) t v (resShl w))
/-- SHR (R99). -/
def execShr (v t : Target) (sg : Bool) (w : Width) (p : Pm) (s : State) : Host.Outcome State Fault Refusal :=
  .next (fireLR s (.shr v t sg w p) t v (resShr sg w))
/-- SRA (R99). -/
def execSra (v t : Target) (w : Width) (p : Pm) (s : State) : Host.Outcome State Fault Refusal :=
  .next (fireLR s (.sra v t w p) t v (resSra w))
/-- MIN (R99). -/
def execMin (v t : Target) (sg : Bool) (w : Width) (p : Pm) (s : State) : Host.Outcome State Fault Refusal :=
  .next (fireLR s (.min v t sg w p) t v (sgOp sg w min))
/-- MAX (R99). -/
def execMax (v t : Target) (sg : Bool) (w : Width) (p : Pm) (s : State) : Host.Outcome State Fault Refusal :=
  .next (fireLR s (.max v t sg w p) t v (sgOp sg w max))
/-- EXT (R103): T0 takes the low half, T1 the high half. -/
def execExt (v t : Target) (p : Pm) (s : State) : Host.Outcome State Fault Refusal :=
  .next (fire s (.ext v t p) (fun q =>
    .done s (deliver (deliver q.b q.k t (w64 (field (q.sl.l.getD 0) 0 32))) q.k v (w64 (field (q.sl.l.getD 0) 32 32)))))
/-- INS (R103). -/
def execIns (v t : Target) (s : State) : Host.Outcome State Fault Refusal :=
  .next (fire s (.ins v t) (fun q =>
    .done s (deliver2 q.b q.k t v (resIns (q.sl.l.getD 0) (q.sl.r.getD 0) (q.sl.x.getD 0)))))
/-- ADDI (R101). -/
def execAddi (t : Target) (i : BitVec 14) (p : Pm) (s : State) : Host.Outcome State Fault Refusal :=
  .next (fireL s (.addi t i p) t (fun l => l + simm i))
/-- MULI (R101). -/
def execMuli (t : Target) (i : BitVec 14) (p : Pm) (s : State) : Host.Outcome State Fault Refusal :=
  .next (fireL s (.muli t i p) t (fun l => l * simm i))
/-- ANDI (R101). -/
def execAndi (t : Target) (i : BitVec 14) (p : Pm) (s : State) : Host.Outcome State Fault Refusal :=
  .next (fireL s (.andi t i p) t (fun l => l &&& simm i))
/-- ORI (R101). -/
def execOri (t : Target) (i : BitVec 14) (p : Pm) (s : State) : Host.Outcome State Fault Refusal :=
  .next (fireL s (.ori t i p) t (fun l => l ||| simm i))
/-- XORI (R101). -/
def execXori (t : Target) (i : BitVec 14) (p : Pm) (s : State) : Host.Outcome State Fault Refusal :=
  .next (fireL s (.xori t i p) t (fun l => l ^^^ simm i))
/-- SHLI (R101). -/
def execShli (t : Target) (i : BitVec 14) (p : Pm) (s : State) : Host.Outcome State Fault Refusal :=
  .next (fireL s (.shli t i p) t (fun l => l <<< i.toNat))
/-- SHRI (R101). -/
def execShri (t : Target) (i : BitVec 14) (p : Pm) (s : State) : Host.Outcome State Fault Refusal :=
  .next (fireL s (.shri t i p) t (fun l => l >>> i.toNat))
/-- SRAI (R101). -/
def execSrai (t : Target) (i : BitVec 14) (p : Pm) (s : State) : Host.Outcome State Fault Refusal :=
  .next (fireL s (.srai t i p) t (fun l => l.sshiftRight i.toNat))
/-- MOVI (R101). -/
def execMovi (t : Target) (i : BitVec 14) (p : Pm) (s : State) : Host.Outcome State Fault Refusal :=
  .next (fireL s (.movi t i p) t (fun _ => simm i))
/-- MOVHI (R101). -/
def execMovhi (t : Target) (i : BitVec 14) (p : Pm) (s : State) : Host.Outcome State Fault Refusal :=
  .next (fireL s (.movhi t i p) t (fun l => (l <<< 14) ||| BitVec.zeroExtend 64 i))
/-- TAG (R102). -/
def execTag (v t : Target) (p : Pm) (s : State) : Host.Outcome State Fault Refusal :=
  .next (fireLR s (.tag v t p) t v resTag)
/-- LEA (R102). -/
def execLea (v t : Target) (sh : BitVec 2) (p : Pm) (s : State) : Host.Outcome State Fault Refusal :=
  .next (fireLR s (.lea v t sh p) t v (resLea sh))
/-- CLZ (R103). -/
def execClz (v t : Target) (w : Width) (p : Pm) (s : State) : Host.Outcome State Fault Refusal :=
  .next (fireLR s (.clz v t w p) t v (fun l _ => resClz w l))
/-- POPC (R103). -/
def execPopc (v t : Target) (w : Width) (p : Pm) (s : State) : Host.Outcome State Fault Refusal :=
  .next (fireLR s (.popc v t w p) t v (fun l _ => resPopc w l))
/-- MOV (R103). -/
def execMov (v t : Target) (p : Pm) (s : State) : Host.Outcome State Fault Refusal :=
  .next (fireLR s (.mov v t p) t v (fun l _ => l))
/-- CMPEQ (R104). -/
def execCmpeq (v t : Target) (w : Width) (p : Pm) (s : State) : Host.Outcome State Fault Refusal :=
  .next (fireLR s (.cmpeq v t w p) t v (fun l r => bool64 (operand false w l == operand false w r)))
/-- CMPNE (R104). -/
def execCmpne (v t : Target) (w : Width) (p : Pm) (s : State) : Host.Outcome State Fault Refusal :=
  .next (fireLR s (.cmpne v t w p) t v (fun l r => bool64 (operand false w l != operand false w r)))
/-- CMPLT (R104). -/
def execCmplt (v t : Target) (sg : Bool) (w : Width) (p : Pm) (s : State) : Host.Outcome State Fault Refusal :=
  .next (fireLR s (.cmplt v t sg w p) t v (fun l r => bool64 (decide (operand sg w l < operand sg w r))))
/-- CMPLE (R104). -/
def execCmple (v t : Target) (sg : Bool) (w : Width) (p : Pm) (s : State) : Host.Outcome State Fault Refusal :=
  .next (fireLR s (.cmple v t sg w p) t v (fun l r => bool64 (decide (operand sg w l ≤ operand sg w r))))
/-- CMPEQI (R101). -/
def execCmpeqi (t : Target) (i : BitVec 14) (p : Pm) (s : State) : Host.Outcome State Fault Refusal :=
  .next (fireL s (.cmpeqi t i p) t (fun l => bool64 (l == simm i)))
/-- CMPNEI (R101). -/
def execCmpnei (t : Target) (i : BitVec 14) (p : Pm) (s : State) : Host.Outcome State Fault Refusal :=
  .next (fireL s (.cmpnei t i p) t (fun l => bool64 (l != simm i)))
/-- CMPLTI (R101). -/
def execCmplti (t : Target) (i : BitVec 14) (p : Pm) (s : State) : Host.Outcome State Fault Refusal :=
  .next (fireL s (.cmplti t i p) t (fun l => bool64 (l.slt (simm i))))
/-- CMPLEI (R101). -/
def execCmplei (t : Target) (i : BitVec 14) (p : Pm) (s : State) : Host.Outcome State Fault Refusal :=
  .next (fireL s (.cmplei t i p) t (fun l => bool64 (l.sle (simm i))))
/-- PAND (R105). -/
def execPand (v t : Target) (p : Pm) (s : State) : Host.Outcome State Fault Refusal :=
  .next (fireLR s (.pand v t p) t v (fun l r => bool64 (l.getLsbD 0 && r.getLsbD 0)))
/-- POR (R105). -/
def execPor (v t : Target) (p : Pm) (s : State) : Host.Outcome State Fault Refusal :=
  .next (fireLR s (.por v t p) t v (fun l r => bool64 (l.getLsbD 0 || r.getLsbD 0)))
/-- PNOT (R105). -/
def execPnot (v t : Target) (p : Pm) (s : State) : Host.Outcome State Fault Refusal :=
  .next (fireLR s (.pnot v t p) t v (fun l _ => bool64 (!l.getLsbD 0)))
/-- SEL (R105). -/
def execSel (v t : Target) (s : State) : Host.Outcome State Fault Refusal :=
  .next (fire s (.sel v t) (fun q =>
    .done s (deliver2 q.b q.k t v (if (q.sl.x.getD 0).getLsbD 0 then q.sl.l.getD 0 else q.sl.r.getD 0))))
/-- TST (R104). -/
def execTst (v t : Target) (w : Width) (p : Pm) (s : State) : Host.Outcome State Fault Refusal :=
  .next (fireLR s (.tst v t w p) t v (fun l r => bool64 (bitOp w (fun a b => a &&& b) l r != 0)))

end Sys2Proof.Machine
end

