-- ==== Sys2Proof/Machine/Walker.lean ====
section
/-! DEFINITION. The path walker (R320, R321): it follows the edges back from a mark, one record a step, and writes a report to the
context's report ring (R394). -/

namespace Sys2Proof.Machine

/-- The entry of an edge in the table of its die of this device; none where it cannot be read (R317). -/
def edgeEntry (s : State) (e : BitVec 32) : Option (List W) :=
  let a := (s.pkg.etab.getD (e.extractLsb' 16 2).toNat 0 &&& 0x0000FFFFFFC00000#64).toNat + 64 * (e.extractLsb' 0 16).toNat
  if s.mem.isPoisoned a 64 then none else some (s.mem.words a 8)

/-- The header of a report (R321). -/
def reportHeader (base stop nrec : Nat) (step : BitVec 32) : List W :=
  [BitVec.ofNat 32 nrec ++ step, BitVec.ofNat 32 base ++ (0 : BitVec 24) ++ BitVec.ofNat 8 stop] ++ List.replicate 6 0

/-- Units of 64 bytes from a place in the ring on, wrapping at its end; none where a write faults. -/
def ringUnits (asid die : Nat) (base : W) (size : Nat) : Nat → List (List W) → State → Option State
  | _, [], s => some s
  | off, u :: us, s =>
    match vaPut s asid die (base + w64 (off % size)) (wordBytes u) with
    | some s1 => ringUnits asid die base size (off + 64) us s1
    | none => none

/-- Write a report (R394): the records, the header last, then WR; or drop it whole. -/
def writeReport (s : State) (w : Walk) (stop base : Nat) : State :=
  match aget s.ctxs w.asid with
  | none => s
  | some c =>
    let size := ringSize c.log.rbase
    let wr := c.log.rwr.toNat
    let need := 64 * (w.recs.length + 1)
    let drop := updCtx s w.asid (fun x => { x with log := { x.log with
      rdrop := if x.log.rdrop = 0xFFFFFFFF then x.log.rdrop else x.log.rdrop + 1 } })
    if size = 0 then s
    else if size < (wr - c.log.rrd.toNat) + need then drop
    else
      match ringUnits w.asid w.die (ringBase c.log.rbase) size (wr + 64) w.recs s with
      | none => drop
      | some s1 =>
        match ringUnits w.asid w.die (ringBase c.log.rbase) size wr [reportHeader base stop w.recs.length w.step] s1 with
        | none => drop
        | some s2 => updCtx s2 w.asid (fun x => { x with log := { x.log with rwr := c.log.rwr + w64 need } })

/-- A walk stops: its report is written. -/
def walkStops (s : State) (w : Walk) (stop base : Nat) : State :=
  writeReport { s with fl := { s.fl with walks := s.fl.walks.filter (fun x => x.id != w.id) } } w stop base

/-- The walk with an identifier stops. -/
def walkEnds (s : State) (id stop : Nat) : State :=
  match s.fl.walks.find? (fun w => w.id == id) with
  | some w => walkStops s w stop 0
  | none => s

/-- A record that the walk has fetched (R320): from another device it is marked REMOTE. -/
def walkTakes (s : State) (w : Walk) (r : List W) (remote : Bool) : State :=
  let e := (r.getD 0 0).extractLsb' 0 32
  let pred := (r.getD 0 0).extractLsb' 32 32
  if e ≠ w.cur then walkStops s w 2 0
  else if field (r.getD 6 0) 32 8 = 14 ∧ e ≠ w.mark ∧ r.getD 4 0 = w.waiter then walkStops s w 1 (field (r.getD 2 0) 0 32)
  else
    let rec1 := if remote then r.set 6 (r.getD 6 0 ||| 0x0000010000000000#64) else r
    let w1 := { w with recs := w.recs ++ [rec1], cur := pred }
    if pred = 0 then walkStops s w1 0 0
    else { s with fl := { s.fl with walks := s.fl.walks.map (fun x => if x.id = w.id then w1 else x) } }

/-- The peer index that maps a device. -/
def peerOf (s : State) (devid : BitVec 14) : Option Nat :=
  match s.pkg.peers.find? (fun e => e.2.valid && !e.2.host && e.2.devid == devid) with
  | some e => some e.1
  | none => none

/-- A record of another device: asked for once, and waited for. -/
def walkAsks (s : State) (w : Walk) : State :=
  let back (i : Inbound) : Bool := match i with
    | .fetched id _ => id == w.id
    | _ => false
  match s.fl.inbound.findIdx? back with
  | some k =>
    let s1 := { s with fl := { s.fl with
      inbound := dropAt s.fl.inbound k, ops := s.fl.ops.filter (fun o => o.issuer != .walk w.id) } }
    (match s.fl.inbound[k]? with
     | some (.fetched _ (some r)) => walkTakes s1 w r true
     | _ => walkStops s1 w 4 0)
  | none =>
    if s.fl.ops.any (fun o => o.issuer == .walk w.id) then s
    else
      match peerOf s (w.cur.extractLsb' 18 14) with
      | none => walkStops s w 4 0
      | some ix =>
        match route s ix with
        | .error _ => walkStops s w 4 0
        | .ok port =>
          let s1 := sendOp s (.walk w.id) ix (some port) false 0 []
          { s1 with fl := { s1.fl with out := s1.fl.out ++ [.peerSent ix (.fetch w.cur)] } }

/-- WALKER_FETCH (R320): walk k fetches its next record. -/
def execWalkerFetch (k : Nat) (s : State) : Host.Outcome State Fault Refusal :=
  .next (match s.fl.walks[k]? with
    | none => s
    | some w =>
      if w.recs.length = 4096 then walkStops s w 3 0
      else if w.cur.extractLsb' 18 14 = s.pkg.devid then
        match edgeEntry s w.cur with
        | some r => walkTakes s w r false
        | none => walkStops s w 4 0
      else walkAsks s w)

/-- REMOTE_WALKER_FETCH (R320): a read of this device's tables that has come in at place k. It touches no program. -/
def execRemoteWalkerFetch (k : Nat) (s : State) : Host.Outcome State Fault Refusal :=
  .next (match s.fl.inbound[k]? with
    | some (.fetch e) =>
      { s with fl := { s.fl with inbound := dropAt s.fl.inbound k, out := s.fl.out ++ [.walkReply ((edgeEntry s e).getD [])] } }
    | _ => s)

end Sys2Proof.Machine
end

