-- ==== Sys2Proof/Machine/Links.lean ====
section
/-! DEFINITION. Device links and what stands at their other end (R123, R244, R313, R401 to R403): acknowledgements and values
that come back, accesses of peers, frames, and a port that goes down. -/

namespace Sys2Proof.Machine

/-! ### Operations that are answered -/

/-- An operation without the others. -/
def dropOp (s : State) (id : Nat) : State := { s with fl := { s.fl with ops := s.fl.ops.filter (fun o => o.id != id) } }

/-- An operation that writes has been acknowledged. A message that its sender waits for stays until the peer says that it has landed
(R130, R150). -/
def ackOp (s : State) (o : RemoteOp) : State :=
  match o.issuer with
  | .message t id _ _ => if waitsFor s t id then s else dropOp s o.id
  | _ => dropOp s o.id

/-- REMOTE_ACK (R313): operation k of those in flight, where it writes. -/
def execRemoteAck (k : Nat) (s : State) : Host.Outcome State Fault Refusal :=
  .next (match s.fl.ops[k]? with
    | some o => if o.write then ackOp s o else s
    | none => s)

/-- The size, the signedness and the address of a load of a slot. -/
def loadOf (sl : Slot) : Option (Nat × Bool × W) :=
  let ea (m : BitVec 9) (n : Nat) : W := effAddr (sl.l.getD 0) m n
  match slotInstr sl with
  | some (.ld8 _ m _ _) => some (1, false, ea m 1)
  | some (.ld16 _ m _ _) => some (2, false, ea m 2)
  | some (.ld32 _ m _ _) => some (4, false, ea m 4)
  | some (.ld64 _ m _ _) => some (8, false, ea m 8)
  | some (.lds8 _ m _ _) => some (1, true, ea m 1)
  | some (.lds16 _ m _ _) => some (2, true, ea m 2)
  | some (.lds32 _ m _ _) => some (4, true, ea m 4)
  | _ => none

/-- Where an operation went. -/
def opLoc (o : RemoteOp) : Loc := if o.port = some 16 ∨ o.port = some 17 then .host o.addr.toNat else .peer o.peer o.addr.toNat

/-- The value of a thread's load delivers (R123). -/
def loadReturns (s : State) (t k : Nat) (o : RemoteOp) (v : W) : State :=
  updBlock s t (fun b => match b.slots[k]? with
    | none => b
    | some sl =>
      match slotInstr sl, loadOf sl with
      | some i, some (n, sg, ea) =>
        let r := loadValue sg n (v.toNat % pow2 (8 * n))
        let a : Access := ⟨k, (instrLsid i).getD 0, .load sg, n, ea, opLoc o, 0, r⟩
        settle (b.slots.length + 1) (setPhase (deliver { b with accs := b.accs ++ [a] } k ((instrTargets i).headD noTarget) r) k .fired)
      | _, _ => b)

/-- The word of a record comes back: the instruction fires again with it. -/
def recReturns (s : State) (t k : Nat) (l : Loc) (v : W) : State :=
  updBlock s t (fun b => setPhase { b with recs := b.recs ++ [(l, leBytes 8 v.toNat)] } k .waiting)

/-- The element of a MEM node comes back (R184). -/
def elemReturns (s : State) (c n pos : Nat) (v : W) (size : Nat) : State :=
  match aget s.cells c, nodeOf s c n with
  | some x, some nd => putCell s c (laneDone x n (pos - (nd.port 0).pos) (some (v.toNat % pow2 (8 * size))) 0)
  | _, _ => s

/-- Who waits for a value. -/
def valueReturns (s : State) (o : RemoteOp) (v : W) : State :=
  match o.issuer with
  | .threadLoad t k => loadReturns s t k o v
  | .threadRec t k l => recReturns s t k l v
  | .nodeLoad c n pos => elemReturns s c n pos v o.bytes.length
  | .copy e ch _ _ => updRun s e ch (fun r => { r with image := r.image ++ [(remoteKey (opLoc o), v.toNat)] })
  | .coll h _ => updCollRun s h (fun r => { r with image := r.image ++ [(remoteKey (opLoc o), v.toNat)] })
  | _ => s

/-- The context and the pts of an issuer, for the ORDER record of a value from outside (R397). -/
def issuerPts (s : State) (i : Issuer) : Nat :=
  match i with
  | .threadLoad t _ | .threadRec t _ _ | .threadStore t _ _ | .message t _ _ _ => (aget s.threads t).elim 0 (fun th => th.pts)
  | .nodeLoad c n _ | .nodeStore c n _ | .linkout c n _ => (nodeOf s c n).elim 0 (fun nd => nd.pts)
  | .copy e ch _ _ => (chanOf s e ch).elim 0 (fun c => c.pts)
  | .coll h _ => (aget s.colls h).elim 0 (fun c => c.pts)
  | .walk _ | .device => 0

/-- REMOTE_LOAD_REPLY (R123): the value of operation k, with its ORDER record (R397). -/
def execRemoteLoadReply (k : Nat) (v : W) (s : State) : Host.Outcome State Fault Refusal :=
  .next (match s.fl.ops[k]? with
    | none => s
    | some o =>
      if o.write then s
      else
        match o.issuer with
        | .walk _ => s
        | i =>
          match issuerAsid s i with
          | some a =>
            if replays s a && (nextOrder s a).getD 1 0 != 9 then s
            else
              let x := if replays s a then (nextOrder s a).getD 2 0 else v
              orderRec (valueReturns (dropOp s o.id) o x) a (lowDie (diesOf s a)) (issuerPts s i) 9 [x]
          | none => valueReturns (dropOp s o.id) o v)

/-! ### Accesses of peers and the host to this package (R244, R255) -/

/-- The memory that a physical address of a peer names: by the interleave of the first partition that has it; a view is that of the
first context that has the window. -/
def outsideLoc (s : State) (pa : Nat) : Option (Nat × Loc) :=
  let found : Option Loc := s.parts.findSome? (fun e => if e.2.live then regionOf e.2 pa else none)
  match found with
  | some (.view w off) =>
    (match s.ctxs.find? (fun c => (aget c.2.xlat.windows w).isSome) with
     | some c => some (c.1, .view w off)
     | none => none)
  | some l => some (0, l)
  | none => none

/-- The contexts that take checkpoints note what an outside agent writes (R397). -/
def outsideOrder (s : State) (ts : Nat) (ws : List W) : State :=
  s.ctxs.foldl (fun st e => orderRec st e.1 (lowDie (diesOf s e.1)) ts 6 ws) s

/-- The value of an outside write in its ORDER record: the context of a view, the place, the length and the bytes. -/
def outsideWords (asid : Nat) (l : Loc) (bs : List Byte) : List W :=
  (match l with
   | .mem a => [0, w64 asid, w64 a, 0]
   | .view w off => [1, w64 asid, w64 w, w64 off]
   | _ => [2, 0, 0, 0]) ++ w64 bs.length :: (List.range ((bs.length + 7) / 8)).map (fun k => w64 (leVal ((bs.drop (8 * k)).take 8)))

/-- Some context runs under replay: what outside agents write is held (R398). -/
def outsideHeld (s : State) : Bool := s.ctxs.any (fun e => replays s e.1)

/-- A write by an agent of no context, as one event (R192, R246, R314, R316): it follows what the agent has done, a tracked line takes
the agent's label, and a partial write whose metadata fetch fails poisons the unit instead. -/
def outsideWrite (s : State) (w : Outside) (asid : Nat) (l : Loc) (bs : List Byte) : State :=
  let pts := (outsideSig s w).pts
  match locMeta s asid l bs.length with
  | some a => metaError s (if asid = 0 then noAsid else asid) pts a
  | none =>
    let spans := locSpans s asid l bs.length
    let ts := spans.foldl (fun t p => s.mem.storeTs t p.1 p.2) pts
    let put : State := match l with
      | .mem a => rawPut s a bs
      | _ => (match locPut s asid s.mem.bytes l bs with
        | some m => { s with mem := { s.mem with bytes := m } }
        | none => s)
    let g := outsideSig s w
    let track := (spans.flatMap (fun p => linesOf p.1 p.2)).foldl (fun t k => if (aget t k).isSome then aset t k g else t) put.mem.track
    let s1 := { put with mem := { spans.foldl (fun m p => m.stamped ts p.1 p.2) put.mem with track := track } }
    outsideActs (outsideOrder s1 ts (outsideWords asid l bs)) w ts []

/-- A read by an agent of no context, as one event: it merges the labels of tracked lines (R316). Poisoned bytes are not returned
(R253, log 43). -/
def outsideRead (s : State) (w : Outside) (asid : Nat) (l : Loc) (n : Nat) : List Byte × State :=
  let spans := locSpans s asid l n
  let ts := spans.foldl (fun t p => s.mem.loadTs t p.1 p.2) (outsideSig s w).pts
  (if locPoisoned s asid l n then [] else locBytes s asid s.mem.bytes l n,
   outsideActs { s with mem := spans.foldl (fun m p => m.leased ts p.1 p.2) s.mem } w ts
     (spans.flatMap (fun p => trackedSigs s p.1 p.2)))

/-- What leaves the device. -/
def sendOut (s : State) (o : Outbound) : State := { s with fl := { s.fl with out := s.fl.out ++ [o] } }

/-- The write that a frame brought and that has not performed. -/
def heldFrame (port : Nat) (i : Inbound) : Option Nat :=
  match i with
  | .access true _ _ _ _ (some (p, q)) => if p = port then some q else none
  | _ => none

/-- Acknowledge the frames of a port, in order (R403): all that have been taken, up to the first whose write has not performed
(R248). -/
def sendAck (s : State) (port : Nat) : State :=
  match s.pkg.ports[port]? with
  | none => s
  | some p =>
    match (s.fl.inbound.filterMap (heldFrame port)).foldl min p.rxSeq with
    | 0 => s
    | n + 1 => sendOut s (.ack port n)

/-- The acknowledgement of a write that has performed (R248). -/
def ackAccess (s : State) (via : Option (Nat × Nat)) : State :=
  match via with
  | some v => sendAck s v.1
  | none => sendOut s (.peerReply [])

/-- The answer to a read leaves, in FAR mode as a frame of the port that brought it (R403). -/
def sendReply (s : State) (via : Option (Nat × Nat)) (bytes : List Byte) : State :=
  let out := sendOut s (.peerReply bytes)
  match via with
  | some v => if (s.pkg.ports[v.1]?).any (fun p => p.mode == 2) then sendOp out .device 0 (some v.1) true 0 bytes else out
  | none => out

/-- An access that came in earlier is of the same control thread: a thread's accesses perform in the order of their issue (R259
note 20). -/
def accessBefore (s : State) (k : Nat) (unit : W) : Bool :=
  field unit 44 4 == 0 && unit != 0 && (s.fl.inbound.take k).any (fun i => match i with
    | .access _ _ _ _ u _ => u == unit
    | _ => false)

/-- The port that an access came over. -/
def viaPort (via : Option (Nat × Nat)) : Outside := via.elim .nobody (fun v => .port v.1)

/-- INCOMING_PEER_ACCESS (R244): access k of what has come in. One that names no memory of this package reads nothing and writes
nothing. A write is acknowledged once it has performed (R248). -/
def execIncomingPeerAccess (k : Nat) (s : State) : Host.Outcome State Fault Refusal :=
  .next (match s.fl.inbound[k]? with
    | some (.access write pa bytes len unit via) =>
      if accessBefore s k unit || (write && outsideHeld s) then s
      else
        let s1 := takeInbound s k
        (match outsideLoc s pa with
         | none => if write then ackAccess s1 via else sendReply s1 via []
         | some (a, l) =>
           if write then ackAccess (outsideWrite s1 (viaPort via) a l bytes) via
           else
             let r := outsideRead s1 (viaPort via) a l len
             sendReply r.2 via r.1)
    | _ => s)

/-! ### A port goes down (R313) -/

/-- The record address of an instruction that reads one. -/
def recAddr (sl : Slot) : W :=
  match slotInstr sl with
  | some (.strm _) => sl.r.getD 0
  | _ => sl.l.getD 0

/-- A thread's access has failed: its block raises LINK 2 at that slot. -/
def slotFails (s : State) (t k : Nat) (addr : Slot → W) : State :=
  updBlock s t (fun b => match b.slots[k]? with
    | some sl => setPhase (raise b k cLINK 2 (addr sl)) k .fired
    | none => b)

/-- A node's access, or a LINKOUT's token, has failed: the node accepts POISON as a sink (R158). -/
def nodeFails (s : State) (c n pos : Nat) : State :=
  match aget s.cells c with
  | some x => if x.halted then s else haltCell s c (poisonOf x n cLINK 2 pos)
  | none => s

/-- A copy's operation has failed (R276, R313): its completion record's, or that of a sector, which has then not performed; its
address is the copy's own. -/
def copyOpFails (r : CopyRun) (j : Nat) (va : W) : CopyRun :=
  if j = recSector then { r with recFail := some (0x10, 2, va) }
  else { r with
    fault := (match r.fault with
      | some f => if f.1 ≤ j then some f else some (j, 0x10, 2, va)
      | none => some (j, 0x10, 2, va)),
    perf := r.perf.erase j, counts := r.counts.filter (fun c => c.sector != j), stalls := r.stalls.erase j }

/-- What a failed operation surfaces as. -/
def failOp (s : State) (o : RemoteOp) : State :=
  let s1 := dropOp s o.id
  match o.issuer with
  | .threadLoad t k => slotFails s1 t k (fun sl => (loadOf sl).elim 0 (fun e => e.2.2))
  | .threadRec t k _ => slotFails s1 t k recAddr
  | .threadStore t k a => reportLost s1 t cLINK 2 k a none
  | .message t id k a => reportLost s1 t cLINK 2 k a (lostWait s1 t id)
  | .nodeLoad c n pos => nodeFails s1 c n pos
  | .nodeStore c n pos => nodeFails s1 c n pos
  | .linkout c n pos => nodeFails s1 c n pos
  | .copy e ch j va => updRun s1 e ch (fun r => copyOpFails r j va)
  | .coll h st => updCollRun s1 h (fun r => if r.step.toNat = st then { r with fault := some (0x10, 2) } else r)
  | .walk w => walkEnds s1 w 4
  | .device => s1

/-- A LINKOUT of this device sends on a channel of a context (R240). -/
def fedHere (s : State) (asid chan : Nat) : Bool :=
  s.cells.any (fun e => e.2.crew.asid == asid && !e.2.halted && e.2.nodes.any (fun nd =>
    nd.word.kind == kMEM && nd.word.mode == 4 && linkChan nd == chan && prmField nd.params 0 16 16 == 0))

/-- A port was the last that reached some peer. -/
def lastRoute (s : State) (q : Nat) : Bool :=
  s.pkg.peers.any (fun e => e.2.valid && e.2.ports.getLsbD q && (match route s e.1 with
    | .error _ => true
    | .ok _ => false))

/-- A LINKIN loses its link with a port (R313, log 22): its descriptor came over it; or none has come, no LINKOUT of this device
feeds it, and the port was the last that reached some peer. -/
def linkinLost (s : State) (q asid : Nat) (nd : Node) : Bool :=
  nd.word.kind == kMEM && nd.word.mode == 3 &&
  (match (memOf nd).desc with
   | some d => d.2.2.2 == some q
   | none => lastRoute s q && !fedHere s asid (linkChan nd))

/-- The LINKINs that lose their link with a port. -/
def linkinsLost (s : State) (q : Nat) : List (Nat × Nat) :=
  s.cells.flatMap (fun e => if e.2.halted then [] else (List.range e.2.nodes.length).filterMap (fun n => match e.2.nodes[n]? with
    | none => none
    | some nd => if linkinLost s q e.2.crew.asid nd then some (e.1, n) else none))

/-- Every live partition is signalled on a vector. -/
def signalAll (s : State) (vec : Nat) : State :=
  { s with fl := { s.fl with out := s.fl.out ++ (s.parts.filter (fun e => e.2.live)).map (fun e => Outbound.msix e.1 vec) } }

/-- Nothing further of some channels comes in behind what has been delivered of them (R53, R313). -/
def channelsDown (s : State) (l : List (Nat × Nat)) : List Inbound :=
  ((l.filterMap (fun e => match aget s.cells e.1, nodeOf s e.1 e.2 with
    | some x, some nd => some (x.crew.asid, linkChan nd)
    | _, _ => none)).dedup).map (fun e => Inbound.down e.1 e.2)

/-- A port goes down: every operation that it sent and that is not acknowledged has failed, and those for which its retry window had no
room yet with them (log 37); a far port signals vector 3 (R400, R403). -/
def portFails (s : State) (q cause : Nat) : State :=
  match s.pkg.ports[q]? with
  | none => s
  | some p =>
    let s1 := { s with pkg := { s.pkg with ports := modAt s.pkg.ports q (fun x =>
      { x with up := false, cause := BitVec.ofNat 3 cause, window := [], waiting := [] }) } }
    let s2 := (s.fl.ops.filter (fun o => o.port == some q)).foldl failOp s1
    let s3 := { s2 with fl := { s2.fl with inbound := s2.fl.inbound ++ channelsDown s1 (linkinsLost s1 q) } }
    if p.mode = 2 then signalAll s3 3 else s3

/-- A cause of R402 holds: resends used up; no key to send with, or the packet numbers of the sending key, which is the newest, used up; a
loss of signal comes from outside. -/
def causeHolds (p : LinkPort) (cause : Nat) : Bool :=
  match cause with
  | 1 => p.mode == 1 || p.window.any (fun f => decide (p.retryMax.toNat ≤ f.resent))
  | 2 => true
  | 3 => p.mode == 2 && (p.keys.isEmpty || decide (2 ^ 64 - 2 ^ 32 ≤ p.txPn))
  | _ => false

/-- PORT_DOWN (R313, R403). -/
def execPortDown (q cause : Nat) (s : State) : Host.Outcome State Fault Refusal :=
  .next (match s.pkg.ports[q]? with
    | none => s
    | some p => if p.up && causeHolds p cause then portFails s q cause else s)

/-- PORT_UP (R402): the port is in a mode, and a FAR port has a key. -/
def execPortUp (q : Nat) (s : State) : Host.Outcome State Fault Refusal :=
  .next (match s.pkg.ports[q]? with
    | none => s
    | some p =>
      if p.up || p.mode == 0 || (p.mode == 2 && p.keys.isEmpty) then s
      else { s with pkg := { s.pkg with ports := modAt s.pkg.ports q (fun x => { x with up := true }) } })

/-! ### Frames (R403) -/

/-- A signal as it arrives over a port: its transit counts from here, with the port's LINKLAT (R315); a timestamp of another package
means nothing in this one. -/
def arrivedSig (s : State) (p : LinkPort) (g : Sig) : Sig := { g with stamp := s.cycle, lat := p.lat.toNat, pts := 0 }

/-- A token as it arrives over a port. -/
def arrivedToken (s : State) (p : LinkPort) (t : Token) : Token :=
  match t with
  | .fin n g => .fin n (arrivedSig s p g)
  | .sluice n g => .sluice n (arrivedSig s p g)
  | .done n g => .done n (arrivedSig s p g)
  | t => t

/-- What a frame carries, as it arrives over port q. -/
def arrivedBody (s : State) (q seq : Nat) (p : LinkPort) (i : Inbound) : Inbound :=
  match i with
  | .access w pa bs n u _ => .access w pa bs n u (some (q, seq))
  | .payload x => .payload { x with sig := arrivedSig s p x.sig }
  | .token a c t => .token a c (arrivedToken s p t)
  | .descriptor a c o ty ct _ => .descriptor a c o ty ct (some q)
  | .message a w n v wt g u => .message a w n v wt (arrivedSig s p g) u
  | .landed t id g u => .landed t id (arrivedSig s p g) u
  | i => i

/-- A frame passes the checks of its port's mode (R401, R402): its integrity, and in FAR mode one of the keys that the port accepts, with a
packet number that is new under it. -/
def frameGood (p : LinkPort) (f : Frame) : Bool :=
  p.up && f.ok && (p.mode == 1 || (p.mode == 2 && p.keys.any (fun k => k.an == f.an && decide (k.rxPn ≤ f.pn))))

/-- A frame under a key has been taken: its packet number is no longer new. -/
def takenPn (p : LinkPort) (f : Frame) : LinkPort :=
  { p with keys := p.keys.map (fun k => if k.an = f.an then { k with rxPn := f.pn + 1 } else k) }

/-- FRAME_RECEIVE (R401, R403): a frame that fails its check, or whose packet number is not new, is dropped; the next in sequence is
taken; one that was taken before is acknowledged again. The acknowledgement of a write waits until it has performed (R248). -/
def execFrameReceive (k : Nat) (s : State) : Host.Outcome State Fault Refusal :=
  .next (match s.fl.frames[k]? with
    | none => s
    | some f =>
      let s1 := { s with fl := { s.fl with frames := dropAt s.fl.frames k } }
      match s1.pkg.ports[f.port]? with
      | none => s1
      | some p =>
        if !frameGood p f then s1
        else
          let s2 := if p.mode = 2 then updPort s1 f.port (fun x => takenPn x f) else s1
          if f.seq = p.rxSeq then
            let s3 := updPort s2 f.port (fun x => { x with rxSeq := x.rxSeq + 1 })
            sendAck { s3 with fl := { s3.fl with inbound := s3.fl.inbound ++ [arrivedBody s f.port f.seq p f.body] } } f.port
          else if f.seq < p.rxSeq then sendAck s2 f.port
          else s2)

/-- A write that needs no answer beyond its frame's: all but a message that its sender waits for. -/
def frameAcks (s : State) (o : RemoteOp) : Bool :=
  o.write && (match o.issuer with
    | .message t id _ _ => !waitsFor s t id
    | _ => true)

/-- The bytes that an operation carries. -/
def opSize (s : State) (id : Nat) : Nat := frameSize ((s.fl.ops.find? (fun o => o.id == id)).elim [] (fun o => o.bytes ++ o.rest.flatMap (fun r => r.2)))

/-- A port sends what waits for its retry window, in order, as far as there is room (R403). -/
def sendWaiting (s : State) : Nat → LinkPort → LinkPort
  | 0, p => p
  | n + 1, p =>
    match p.waiting with
    | [] => p
    | op :: rest =>
      if windowRoom p (opSize s op) then sendWaiting s n { sendFrame p op (opSize s op) with waiting := rest } else p

/-- FRAME_ACK (R403): frames are acknowledged in order, so everything up to n leaves the retry window, and what waits for room goes. -/
def execFrameAck (q n : Nat) (s : State) : Host.Outcome State Fault Refusal :=
  .next (match s.pkg.ports[q]? with
    | none => s
    | some p =>
      let s1 := { s with pkg := { s.pkg with ports := modAt s.pkg.ports q (fun x =>
        sendWaiting s x.waiting.length { x with window := x.window.filter (fun f => decide (n < f.seq)) }) } }
      ((p.window.filter (fun f => decide (f.seq ≤ n))).filterMap (fun f => s.fl.ops.find? (fun o => o.id == f.op))).foldl
        (fun st o => if frameAcks st o then ackOp st o else st) s1)

/-- FRAME_RESEND (R403): the frame is sent once more; one that has been sent again RETRYMAX times takes the port down. -/
def execFrameResend (q n : Nat) (s : State) : Host.Outcome State Fault Refusal :=
  .next (match s.pkg.ports[q]? with
    | none => s
    | some p =>
      match p.window.find? (fun f => f.seq == n) with
      | none => s
      | some f =>
        if p.retryMax.toNat ≤ f.resent then portFails s q 1
        else { s with pkg := { s.pkg with ports := modAt s.pkg.ports q (fun x =>
          { x with txPn := x.txPn + 1, window := x.window.map (fun g => if g.seq = n then { g with resent := g.resent + 1 } else g) }) } })

end Sys2Proof.Machine
end

