-- ==== Sys2Proof/Machine/Mire.lean ====
section
/-! DEFINITION. Mire probes and DEADLOCK (R296 to R298, R322): the links of a blocked party, a probe's way along them, and
what the lowest party of a proved cycle takes. -/

namespace Sys2Proof.Machine

/-- A link of a blocked party: the party it leads to, its kind (the rows of R296 from 1, then those of R322) and its index. -/
abbrev Link := Site × Nat × W

/-- Links of one kind and index. -/
def linksTo (kind ix : Nat) (ps : List Party) : List Link := ps.map (fun p => (.here p, kind, w64 ix))

/-! ### Links of a thread -/

/-- A copy that a thread started writes a mailbox when it completes. -/
def copyMails (st : CopyStart) (t n : Nat) : Bool :=
  let p := tmplOf st.tmpl
  st.thread == t && p.mben && p.mbox == n

/-- The pending writers of a mailbox: copies with MBEN, and MSENDW messages that wait for it. A launch is no party, so it ends
the chain. -/
def mailWriters (s : State) (t n : Nat) : List Party :=
  s.esets.flatMap (fun e => (List.range e.2.channels.length).filterMap (fun ch => match e.2.channels[ch]? with
    | none => none
    | some c => if c.queue.any (fun st => copyMails st t n) || c.cur.elim false (fun r => copyMails r.start t n) then
        some (Party.channel e.1 ch) else none)) ++
  (s.fl.msgs.filter (fun m => m.host.isNone && m.dst == t && m.n.toNat == n && m.wait)).map (fun m => Party.thread m.src)

/-- The nodes that hold a sluice of an identifier: at a port, or still to be let in. -/
def sluiceHolders (s : State) (c sid : Nat) : List Party :=
  let has (t : Token) : Bool := match t with
    | .sluice k _ => k == sid
    | _ => false
  match aget s.cells c with
  | none => []
  | some x =>
    if x.halted then []
    else (List.range x.nodes.length).filterMap (fun n => match x.nodes[n]? with
      | none => none
      | some nd => if nd.ports.any (fun p => p.q.any has || p.link.any has || p.store.elim false (fun r => r.tail.any (fun e => has e.1))) ||
            (memOf nd).sluices.any (fun e => e.2 == sid) then some (Party.node c n) else none)

/-- Every node of a cell. -/
def cellNodes (c : Nat) (x : Cell) : List Party := (List.range x.nodes.length).map (fun n => Party.node c n)

/-- The leaders of the crews of launches that hold a cluster's engine set (R137). -/
def holdingLeaders (s : State) (cluster : Nat) : List Party :=
  (s.esets.filter (fun e => e.2.cluster == cluster && e.2.crew.launch != 0 && esetRuns s e.2)).filterMap (fun e =>
    (leaderOf s e.2.crew.asid e.2.crew.launch e.2.crew.crew).map Party.thread)

/-- A CFG waits for pages: its header is there, and names more than there are. -/
def pagesShort (s : State) (th : Thread) (l : W) (index : Nat) : Bool :=
  match fetchBytes s (whoThread s th l 16) .graph l 16 with
  | some hb => decide (pagesAvail s th.home.crew th.home.cluster index < field (w64 (leVal (hb.take 8))) 29 8)
  | none => false

/-- What a CFG waits for: the undrained old cell; for pages, the threads of the context that hold pages of the cluster. -/
def cfgLinks (s : State) (th : Thread) (l : W) (index : Nat) : List Link :=
  let old := match cellAt s th.home.crew index with
    | some e => if drained e.2 then [] else cellNodes e.1 e.2
    | none => []
  let holders := (s.cells.filter (fun e => e.2.crew.asid == asidOf th && e.2.cluster == th.home.cluster)).map (fun e => e.2.cfg.thread)
  linksTo 5 index (old ++ if old.isEmpty && pagesShort s th l index then holders.dedup.map Party.thread else [])

/-- The links of a slot that a gate holds. -/
def slotLinks (s : State) (th : Thread) (b : Block) (sl : Slot) (i : Instr) : List Link :=
  let l := sl.l.getD 0
  let e := th.home.eset
  let engine (rest : List Link) : List Link := if esetTaken s th then linksTo 10 th.home.cluster (holdingLeaders s th.home.cluster) else rest
  match i with
  | .tmpl _ | .evxTerm _ | .evxCnt _ | .evxTgt _ | .evxPulse _ | .ld64 _ _ _ _ => engine []
  | .waitc _ _ _ => engine (linksTo 2 (field l 0 4) [.channel e (field l 0 4)])
  | .st64 m _ _ => let ch := field (effAddr l m 8) 8 4; engine (linksTo 2 ch [.channel e ch])
  | .waite _ _ _ =>
    let src := match aget s.esets e with
      | some x => (x.counters[field l 0 4]?).elim 64 (fun c => c.src)
      | none => 64
    engine (linksTo 3 (field l 0 4) (if src < 16 then [.channel e src]
      else if src = 32 then ((s.colls.filter (fun c => c.2.eset == e && c.2.cur.isSome)).map (fun c => Party.coll c.1)) else []))
  | .pub _ => (match pubBuf s (asidOf th) l with
    | some (j, lo, hi) => linksTo 4 j ((shadowWriters s (asidOf th) lo hi b.born).map (fun w => Party.channel w.1 w.2))
    | none => [])
  | .cfg _ => cfgLinks s th l (field (sl.r.getD 0) 0 4)
  | .strm _ => (match cellAt s th.home.crew (field l 0 4) with
    | some c => linksTo 6 (field l 4 7) [.node c.1 (field l 4 7)]
    | none => [])
  | .collWait _ | .collEnd _ => (match collHere s th l with
    | some c => linksTo 15 c.1 [.coll c.1]
    | none => [])
  | _ => []

/-- The links of a trailing wait. -/
def trailLinks (s : State) (w : Waiting) : List Link :=
  match w with
  | .drain cs sid => linksTo 7 sid (cs.flatMap (fun e => if drainEntryDone s e then [] else sluiceHolders s e.1 sid))
  | .steal v => linksTo 8 v [.thread v]
  | .msendw id => (match s.fl.msgs.find? (fun m => m.id == id && m.host.isNone) with
    | some m => linksTo 8 m.dst [.thread m.dst]
    | none => [])
  | _ => []

/-- The link of a party of an unconfirmed crew that is held for proof (R289). -/
def proofLinks (s : State) (c : CrewId) : List Link :=
  match launchOf s c.asid c.launch with
  | some l => linksTo 9 c.launch [.thread l.thread]
  | none => []

/-- The links of a thread, with the slot that each belongs to. -/
def threadLinks (s : State) (t : Nat) (th : Thread) : List (Nat × Link) :=
  match th.mode, th.block with
  | .mwait, some b =>
    ((mwaitSet (b.slots.filterMap slotInstr)).filter (fun n => !th.mfull.getLsbD n.toNat)).flatMap (fun n =>
      (linksTo 1 n.toNat (mailWriters s t n.toNat)).map (fun l => (0, l)))
  | .trailing ws _, _ => (ws.flatMap (trailLinks s)).map (fun l => (0, l))
  | .proofHeld _, _ => (proofLinks s th.home.crew).map (fun l => (0, l))
  | .ready, some b =>
    (List.range b.slots.length).flatMap (fun k => match b.slots[k]? with
      | some sl => if sl.phase = .gated then (slotInstr sl).elim [] (fun i => (slotLinks s th b sl i).map (fun l => (k, l))) else []
      | none => [])
  | _, _ => []

/-! ### Links of a node, a channel, a collective engine -/

/-- What names a partner on another device: a channel or a group of a context, which has the same ASID there (R129, R240, R303). -/
def awayName (asid k : Nat) : Nat := asid * 2 ^ 32 + k

/-- The index of a wait on a circular buffer (R189): the run, by its first bank, and the counter, 0 for FREE and 1 for FILLED. -/
def runIndex (b : BankAt) (filled : Bool) : Nat := (b.page * 8 + b.bank) * 2 + (if filled then 1 else 0)

/-- The nodes of a mode that use a circular buffer. -/
def fifoNodes (s : State) (b : BankAt) (mode : Nat) : List Party :=
  match aget s.cells b.cell with
  | none => []
  | some x => (List.range x.nodes.length).filterMap (fun n => match x.nodes[n]? with
    | none => none
    | some nd => if nd.word.mode = mode ∧ (nodeFifo s b.cell nd).elim false (fun y => y.page == b.page && y.bank == b.bank) = true then
        some (Party.node b.cell n) else none)

/-- The channels whose running or queued copies write a circular buffer. -/
def fifoChannels (s : State) (b : BankAt) : List Party :=
  s.esets.flatMap (fun e => (List.range e.2.channels.length).filterMap (fun ch => match e.2.channels[ch]? with
    | none => none
    | some c =>
      let writes (st : CopyStart) : Bool := (destFifo s e.2 (stepped (tmplOf st.tmpl) st.word).2).elim false
        (fun y => y.cell == b.cell && y.page == b.page && y.bank == b.bank)
      if c.queue.any writes || c.cur.elim false (fun r => writes r.start) then some (Party.channel e.1 ch) else none))

/-- The LINKIN or LINKOUT nodes of this device on a channel of a context. -/
def linkNodes (s : State) (asid chan mode : Nat) : List Party :=
  s.cells.flatMap (fun e => if e.2.crew.asid = asid ∧ e.2.halted = false then
    (List.range e.2.nodes.length).filterMap (fun n => match e.2.nodes[n]? with
      | some nd => if nd.word.kind = kMEM ∧ nd.word.mode = mode ∧ linkChan nd = chan then some (Party.node e.1 n) else none
      | none => none) else [])

/-- A node has a stream to go on with. -/
def nodeBusy (nd : Node) : Bool :=
  nd.ports.any (fun p => !p.q.isEmpty || p.begun) || (memOf nd).begun || !(memOf nd).starts.isEmpty

/-- The link of a LINKOUT that has no credit: to its partner, here or on another device, named by (d, k) (R240, R296). -/
def partnerLinks (s : State) (c n : Nat) (x : Cell) (nd : Node) : List Link :=
  if isLinkout nd && !linkCredit s c n x nd then
    let dev := linkDev nd
    let ix := dev * 65536 + linkChan nd
    if dev = 0 then
      (match linkNodes s x.crew.asid (linkChan nd) 3 with
       | [] => [(.away 0 (awayName x.crew.asid (linkChan nd)) none, 11, w64 ix)]
       | ps => linksTo 11 ix ps)
    else [(.away dev (awayName x.crew.asid (linkChan nd)) none, 11, w64 ix)]
  else []

/-- The outputs of a node that have no credit lead to their consumers. -/
def outLinks (s : State) (c n : Nat) (x : Cell) (nd : Node) : List Link :=
  let away (tg : Option (Nat × Nat)) : List Party := match tg with
    | some (_, m) => if roomAt x tg then [] else [Party.node c m]
    | none => []
  linksTo 11 n (away nd.word.outA ++ away nd.word.outB) ++ partnerLinks s c n x nd

/-- The peers whose LINKOUT may be the partner of a LINKIN: those that the port of its descriptor leads to; before a descriptor has come,
every one. -/
def linkPeers (s : State) (m : MemState) : List Nat :=
  (s.pkg.peers.filter (fun e => e.2.valid && !e.2.host && (match m.desc, route s e.1 with
    | some (_, _, _, some p), .ok q => p == q
    | _, .ok _ => true
    | _, .error _ => false))).map (fun e => e.1)

/-- The LINKOUT of a LINKIN whose channel has brought nothing: one of this device, or of another (R240). -/
def sourceLinks (s : State) (x : Cell) (n : Nat) (nd : Node) : List Link :=
  if nd.word.kind = kMEM ∧ nd.word.mode = 3 ∧ (chanHead s x.crew.asid (linkChan nd)).isNone = true then
    match linkNodes s x.crew.asid (linkChan nd) 4 with
    | [] => (linkPeers s (memOf nd)).map (fun d => (.away d (awayName x.crew.asid (linkChan nd)) none, 12, w64 n))
    | ps => linksTo 12 n ps
  else []

/-- The inputs that a node needs and that have no token lead to their producers, whether a stream has begun or not. -/
def inLinks (s : State) (x : Cell) (c n : Nat) (nd : Node) : List Link :=
  linksTo 12 n ((hungry nd).map (fun k => Party.node c (nd.port k).src)) ++ sourceLinks s x n nd

/-- The links of a node. -/
def nodeLinks (s : State) (c n : Nat) (x : Cell) (nd : Node) : List Link :=
  if x.halted then []
  else
    match nodeWants s c nd with
    | some (b, f) =>
      if nd.word.mode = 0 then (if f.filled = 0 then linksTo 13 (runIndex b true) (fifoNodes s b 1 ++ fifoChannels s b) else [])
      else if f.free = 0 then linksTo 13 (runIndex b false) (fifoNodes s b 0) else []
    | none =>
      if nd.held.isSome && unconfirmed s x.crew then proofLinks s x.crew
      else match (if nodeBusy nd || !nd.sentAll then outLinks s c n x nd else []) with
        | [] => inLinks s x c n nd
        | l => l

/-- The links of a channel: its held copy waits for its launch's proof (R289, R292); its running copy, for a free slot of a circular
buffer. -/
def chanLinks (s : State) (e ch : Nat) : List Link :=
  match aget s.esets e, chanOf s e ch with
  | some x, some c =>
    if c.held.isSome && c.cur.all (fun r => r.parked) && unconfirmed s x.crew then proofLinks s x.crew
    else (match c.cur with
     | some r => if r.waiting then (slotWanted s x r).elim [] (fun b => linksTo 14 (runIndex b false) (fifoNodes s b 0)) else []
     | none => [])
  | _, _ => []

/-- The links of a collective engine that waits at a level (R322): the engines of the members whose terms are missing, over device
links. -/
def collLinks (c : Coll) : List Link :=
  match c.cur with
  | none => []
  | some r =>
    if r.sent && r.fault.isNone then
      let v := cLev c.tmpl r.level
      ((vOthers v).filter (fun k => (termOf c r k).isNone)).map (fun k =>
        (.away (vPbase v + k) (awayName c.asid (cGroup c.tmpl).toNat) none, 16, w64 r.level))
    else []

/-- The links of a party. -/
def links (s : State) (q : Party) : List Link :=
  match q with
  | .thread t => (aget s.threads t).elim [] (fun th => (threadLinks s t th).map (fun e => e.2))
  | .node c n => (match aget s.cells c, nodeOf s c n with
    | some x, some nd => nodeLinks s c n x nd
    | _, _ => [])
  | .channel e ch => chanLinks s e ch
  | .coll h => (aget s.colls h).elim [] collLinks

/-- The links of a site: those of another device's party are not known here. -/
def siteLinks (s : State) (q : Site) : List Link :=
  match q with
  | .here p => links s p
  | .away _ _ _ => []

/-- The cycle since which a party is blocked. -/
def blockedAt (s : State) (q : Party) : Nat :=
  match q with
  | .thread t => (aget s.threads t).elim 0 (fun th => match th.mode, th.block with
    | .ready, some b => b.gateAt
    | _, _ => th.waitAt)
  | .node c n => (nodeOf s c n).elim 0 (fun nd => nd.lastFire)
  | .channel e ch => (chanOf s e ch).elim 0 (fun c => c.held.getD c.lastAct)
  | .coll h => (aget s.colls h).elim 0 (fun c => c.lastAct)

/-- The context of a party. -/
def partyAsid (s : State) (q : Party) : Nat :=
  match q with
  | .thread t => (aget s.threads t).elim 0 asidOf
  | .node c _ => (aget s.cells c).elim 0 (fun x => x.crew.asid)
  | .channel e _ => (aget s.esets e).elim 0 (fun x => x.crew.asid)
  | .coll h => (aget s.colls h).elim 0 (fun c => c.asid)

/-- A party has sent its probe of this wait. -/
def wasProbed (s : State) (q : Party) : Bool :=
  match q with
  | .thread t => (aget s.threads t).elim false (fun th => th.probed)
  | .node c n => (nodeOf s c n).elim false (fun nd => nd.probed)
  | .channel e ch => (chanOf s e ch).elim false (fun c => c.probed)
  | .coll h => (aget s.colls h).elim false (fun c => c.probed)

/-- Note whether a party has sent its probe. -/
def setProbed (s : State) (q : Party) (v : Bool) : State :=
  match q with
  | .thread t => updThread s t (fun th => { th with probed := v })
  | .node c n => updNode s c n (fun nd => { nd with probed := v })
  | .channel e ch => updChan s e ch (fun c => { c with probed := v })
  | .coll h => updColl s h (fun c => { c with probed := v })

/-! ### Probes -/

/-- A party has been blocked long enough to send its probe (R296, R297). -/
def probeDue (s : State) (q : Party) : Bool :=
  match aget s.ctxs (partyAsid s q) with
  | none => false
  | some c => c.regs.probe != 0 && !wasProbed s q && decide (c.regs.probe.toNat / 2 ≤ s.cycle - blockedAt s q) && !(links s q).isEmpty

/-- A probe goes on from a party along each of its links. -/
def probesFrom (s : State) (origin : Site) (q : Party) (path : List (Site × Nat × W)) : List Probe :=
  (links s q).map (fun l => ⟨origin, path ++ [(.here q, l.2.1, l.2.2)], l.1⟩)

/-- MIRE_PROBE_SEND (R296). -/
def execMireProbeSend (q : Party) (s : State) : Host.Outcome State Fault Refusal :=
  .next (if probeDue s q then
      let s1 := setProbed s q true
      { s1 with fl := { s1.fl with probes := s1.fl.probes ++ probesFrom s (.here q) q [] } }
    else s)

/-- A probe in flight goes on (R296): a blocked party that it has not met yet forwards it; a party that runs ends it; toward another
device it leaves, where a port leads there (R322). -/
def forwardProbe (s : State) (k : Nat) (p : Probe) : State :=
  let gone := { s with fl := { s.fl with probes := dropAt s.fl.probes k } }
  match p.target with
  | .here q =>
    if p.path.any (fun e => e.1 == .here q) then gone
    else { gone with fl := { gone.fl with probes := gone.fl.probes ++ probesFrom s p.origin q p.path } }
  | .away ix _ _ =>
    if ix = 0 ∨ (match route s ix with
        | .error _ => true
        | .ok _ => false) = true then gone
    else { gone with fl := { gone.fl with out := gone.fl.out ++ [.peerSent ix (.probe p)] } }

/-- The parties of this device that a probe of another has come to (R240, R322): by its last link, the collective engine with a context of
the GROUP, the LINKIN or the LINKOUT of the channel. Where there is none, the chain ends. One that names a party comes back to it. -/
def arriveAt (s : State) (p : Probe) : List Probe :=
  match p.target, p.path.getLast? with
  | .here _, _ => [p]
  | .away _ _ _, none => []
  | .away _ what _, some (_, kind, _) =>
    let asid := what / 2 ^ 32
    let k := what % 2 ^ 32
    let ps : List Party := match kind with
      | 11 => linkNodes s asid k 3
      | 12 => linkNodes s asid k 4
      | 16 => (s.colls.filter (fun e => e.2.asid == asid && (cGroup e.2.tmpl).toNat == k)).map (fun e => Party.coll e.1)
      | _ => []
    ps.map (fun q => { p with target := .here q })

/-- MIRE_PROBE_FORWARD (R296): probe k of those in flight, counted on into what has come in: a probe of another device enters. -/
def execMireProbeForward (k : Nat) (s : State) : Host.Outcome State Fault Refusal :=
  .next (match s.fl.probes[k]? with
    | some p => if p.target = p.origin then s else forwardProbe s k p
    | none =>
      match s.fl.inbound[k - s.fl.probes.length]? with
      | some (.probe p) =>
        let s1 := takeInbound s (k - s.fl.probes.length)
        { s1 with fl := { s1.fl with probes := s1.fl.probes ++ arriveAt s p } }
      | _ => s)

/-! ### DEADLOCK (R298) -/

/-- A link's end is the next party of a cycle; one on another device is known there alone. -/
def sameSite (a b : Site) : Bool :=
  match a, b with
  | .away _ _ _, .away _ _ _ => true
  | _, _ => a == b

/-- Every link of a cycle still holds, as far as this device knows it. -/
def cycleHolds (s : State) (origin : Site) : List (Site × Nat × W) → Bool
  | [] => true
  | (q, kind, ix) :: rest =>
    let next := match rest with
      | e :: _ => e.1
      | [] => origin
    (match q with
     | .here p => (links s p).any (fun l => l.2 == (kind, ix) && sameSite l.1 next)
     | .away _ _ _ => true) && cycleHolds s origin rest

/-- The rank of an eligible party: COORD, a thread before a node, the node slot. -/
def rankOf (s : State) (q : Site) : Option (Nat × Nat × Nat) :=
  match q with
  | .away _ _ r => r
  | .here (.thread t) => (aget s.threads t).map (fun th => ((threadCoord th).toNat, 0, th.home.slot))
  | .here (.node c n) => (aget s.cells c).map (fun x => ((cellCoord x).toNat, 1, n))
  | _ => none

/-- A rank stands before another. -/
def rankBefore (a b : Nat × Nat × Nat) : Bool :=
  decide (a.1 < b.1) || (a.1 == b.1 && (decide (a.2.1 < b.2.1) || (a.2.1 == b.2.1 && decide (a.2.2 < b.2.2))))

/-- The lowest eligible party of a cycle, with the link that it waits on. -/
def lowestParty (s : State) (l : List (Site × Nat × W)) : Option (Site × Nat × W) :=
  l.foldl (fun a e => match rankOf s e.1, a with
    | none, _ => a
    | some _, none => some e
    | some r, some b => (match rankOf s b.1 with
      | some q => if rankBefore r q then some e else a
      | none => some e)) none

/-- A thread takes DEADLOCK: a gate block is abandoned, a trailing wait is cancelled. TRAPINFO has the link's kind in SUB, TRAPADDR
its index. In an unconfirmed crew the trap of a block is deferred (R289); a thread that is in a proof hold takes it, so that the cycle is
reported once. After a STOP no block follows, so TRAPPC is 0 (log 16). -/
def deadThread (s : State) (t kind : Nat) (ix : W) : State :=
  match aget s.threads t with
  | none => s
  | some th =>
    let slot := ((threadLinks s t th).find? (fun e => e.2.2.1 == kind && e.2.2.2 == ix)).elim 0 (fun e => e.1)
    let pc := match th.block, th.mode with
      | some b, _ => b.addr
      | none, .trailing _ .halt => 0
      | none, _ => th.pc
    let s1 := if th.block.isSome then abandon s t else s
    let s2 := resumeBusy (updThread s1 t (fun x => { x with mode := .ready, probed := false })) t
    let tr : TrapReq := ⟨0x0C, BitVec.ofNat 8 kind, BitVec.ofNat 7 slot, false, ix⟩
    match th.mode with
    | .proofHeld _ => takeTrap s2 t tr pc
    | _ => trapOrHold s2 t tr pc

/-- A node emits POISON with CODE 0x0C; where it is a sink itself, its cell halts at once, a LINKOUT's behind the POISON that it sends; a
LINKIN's halts only downstream (R158). -/
def deadNode (s : State) (c n kind : Nat) : State :=
  match aget s.cells c, nodeOf s c n with
  | some x, some nd =>
    let p := poisonOf x n 0x0C (BitVec.ofNat 8 kind) 0
    if nd.word.kind = kMEM ∧ nd.word.mode = 3 then { s with cells := aset s.cells c (sendBoth x n (.poison p)) }
    else if isSink nd ∧ isLinkout nd = false then haltCell s c p
    else { s with cells := aset s.cells c (emitPoison x n 0x0C (BitVec.ofNat 8 kind) 0) }
  | _, _ => s

/-- The probes of a cycle that has been reported go. -/
def dropProbes (l : List (Site × Nat × W)) (ps : List Probe) : List Probe :=
  ps.filter (fun p => !l.any (fun e => e.1 == p.origin))

/-- DEADLOCK (R298): a probe that has come back to its origin proves a cycle, reported once to its lowest party. -/
def execDeadlock (k : Nat) (s : State) : Host.Outcome State Fault Refusal :=
  .next (match s.fl.probes[k]? with
    | none => s
    | some p =>
      if p.target ≠ p.origin then s
      else
        let s1 := { s with fl := { s.fl with probes := dropAt s.fl.probes k } }
        if !cycleHolds s p.origin p.path then s1
        else
          match lowestParty s p.path with
          | none => s1
          | some (q, kind, ix) =>
            let s2 := p.path.foldl (fun st e => match e.1 with
              | .here p => setProbed st p true
              | .away _ _ _ => st) s1
            let s3 := { s2 with fl := { s2.fl with probes := dropProbes p.path s2.fl.probes } }
            match q with
            | .here (.thread t) => deadThread s3 t kind ix
            | .here (.node c n) => deadNode s3 c n kind
            | _ => s3)

end Sys2Proof.Machine
end

