-- ==== Sys2Proof/Machine/Observe.lean ====
section
/-! DEFINITION. Counters, classes and samples (R384 to R390), checkpoint epochs (R395, R396, R398), and the idle count of
compression (R192, R353). -/

namespace Sys2Proof.Machine

/-! ### Classes (R384) -/

/-- Every access of a MEM's stream has performed, and its DONE is still to come (R182). -/
def doneDue (s : State) (c n : Nat) (nd : Node) : Bool :=
  decide (nd.word.mode ≤ 2) && (memOf nd).begun && (memPorts nd).all (fun k => (nd.port k).ended) && (nodeOps s c n).isEmpty

/-- A node has something to emit: a token that it has formed or that stands at a port, a stream of an AGEN, what has come in for a LINKIN, a
DONE that is due. -/
def nodeReady (s : State) (c n : Nat) (x : Cell) (nd : Node) : Bool :=
  !nd.sentAll || (readsOf nd).any (fun k => !(nd.port k).q.isEmpty) || (nd.word.kind == kAGEN && !(memOf nd).starts.isEmpty) ||
  (nd.word.kind == kMEM && ((nd.word.mode == 3 && (linkinNext s c n x nd).isSome) || doneDue s c n nd))

/-- The class of a node in a cycle: 0 IDLE, 1 BUSY, 2 STARVED, 3 BLOCKED. -/
def nodeClass (s : State) (c n : Nat) (x : Cell) (nd : Node) : Nat :=
  if x.halted then 0
  else if nd.lastFire = s.cycle then 1
  else if nodeReady s c n x nd && !roomAll x n then 3
  else if (hungry nd).isEmpty then 0
  else 2

/-- The class of a channel: 0 IDLE, 1 BUSY, 3 WAIT (R384). -/
def chanClass (s : State) (k : Channel) : Nat :=
  if k.cur.any (fun r => !r.perf.isEmpty) && k.lastAct == s.cycle then 1 else if chanWaits k then 3 else 0

/-- The class of a thread: 0 HALTED, 1 RUN, 2 READY, 3 WAIT. -/
def threadClass (th : Thread) : Nat :=
  match th.mode with
  | .halted => 0
  | .fallen => 0
  | .ready => if th.block.isNone then 2 else if threadWaits th then 3 else 1
  | _ => 3

/-- One more cycle of a class, saturating (R385). -/
def ClassCount.note (c : ClassCount) (cls : Nat) : ClassCount :=
  let up (n : Nat) : Nat := min (n + 1) 0xFFFFFFFF
  match cls with
  | 1 => { c with busy := up c.busy }
  | 2 => { c with starved := up c.starved }
  | 3 => { c with blocked := up c.blocked }
  | _ => { c with idle := up c.idle }

/-- The classes of a cell's nodes. -/
def cellClasses (s : State) (c : Nat) (x : Cell) : List Nat :=
  (List.range x.nodes.length).map (fun n => (x.nodes[n]?).elim 0 (fun nd => nodeClass s c n x nd))

/-- A cell after a cycle in which its region ran. -/
def countCell (s : State) (c : Nat) (x : Cell) : Cell :=
  if regionRuns s x.crew.asid x.cluster then
    { x with nodes := (x.nodes.zip (cellClasses s c x)).map (fun e => { e.1 with cnt := e.1.cnt.note e.2 }) }
  else x

/-- The classes of the nodes of a context whose regions run. -/
def ctxClasses (s : State) (a : Nat) : List Nat :=
  s.cells.flatMap (fun e => if e.2.crew.asid = a ∧ regionRuns s a e.2.cluster = true then cellClasses s e.1 e.2 else [])

/-- Elements in the reorder stores of a context. -/
def heldElements (s : State) (a : Nat) : Nat :=
  s.cells.foldl (fun t e => if e.2.crew.asid = a then
    e.2.nodes.foldl (fun u nd => nd.ports.foldl (fun w p => w + p.store.elim 0 (fun r => r.held.length + r.reg.length)) u) t else t) 0

/-- The counts of one cycle of a context (R387): events 1, 4 to 8 and 10. -/
def countCtx (s : State) (a : Nat) : State :=
  let die := lowDie (diesOf s a)
  let cls := ctxClasses s a
  let n (k : Nat) : Nat := (cls.filter (fun c => c == k)).length
  let runs := s.regions.any (fun r => r.asid == a && r.phase == .running)
  let waits := (s.threads.filter (fun e => asidOf e.2 == a && threadRuns s e.2 && threadClass e.2 == 3)).length
  [(1, if runs then 1 else 0), (4, n 1), (5, n 2), (6, n 3), (7, n 0), (8, waits), (10, heldElements s a)].foldl
    (fun st e => pmcAdd st a die e.1 e.2) s

/-- A cycle passes for the class counts and the counters; the writes of counters that it has seen are the past's (R388). -/
def countCycle (s : State) : State :=
  let s1 := s.ctxs.foldl (fun st e => if e.2.pmc.ctl.getLsbD 0 then countCtx st e.1 else st) s
  { s1 with
    cells := s1.cells.map (fun e => (e.1, countCell s e.1 e.2)),
    ctxs := s1.ctxs.map (fun e => (e.1, { e.2 with pmc := { e.2.pmc with wrote := [], setNow := 0 } })) }

/-- COUNTER_OVERFLOW (R388): a counter at its top counts once more. -/
def execCounterOverflow (a k : Nat) (s : State) : Host.Outcome State Fault Refusal :=
  .next (match aget s.ctxs a with
    | none => s
    | some c => if c.pmc.cnt.getD k 0 = 0xFFFFFFFFFFFF ∧ c.pmc.ctl.getLsbD 0 = true then counterWraps s a (lowDie (diesOf s a)) k else s)

/-! ### Samples (R390) -/

/-- The crews of a context, with the cluster of each. -/
def crewsOf (s : State) (a : Nat) : List (CrewId × Nat) :=
  (s.threads.filterMap (fun e => if asidOf e.2 = a then some (e.2.home.crew, e.2.home.cluster) else none)).dedup

/-- The word of a thread slot in a SAMPLE record. -/
def sampleThread (s : State) (c : CrewId) (cl k : Nat) : W :=
  match s.threads.find? (fun e => e.2.home.crew == c && e.2.home.cluster == cl && e.2.home.slot == k) with
  | some e => (e.2.block.elim e.2.pc (fun b => b.addr) &&& 0xFFFFFFFFFFFFFFF0#64) ||| w64 (threadClass e.2)
  | none => 0

/-- The words of a cell in a SAMPLE record: two bits for each node slot. -/
def sampleCell (s : State) (c : Nat) (x : Cell) : List W :=
  w64 (x.cfg.sntid.toNat * 2 ^ 32 + x.cfg.index) :: packWords 2 4 (cellClasses s c x)

/-- The body of a crew's SAMPLE record. -/
def sampleBody (s : State) (c : CrewId) (cl : Nat) : List W :=
  ((0 : BitVec 32) ++ coordOf c 0xFF 0xFF) :: ((List.range 16).map (sampleThread s c cl) ++
    (s.cells.filter (fun e => e.2.crew == c)).flatMap (fun e => sampleCell s e.1 e.2))

/-- SPER cycles have passed since the last samples. -/
def sampleDue (s : State) (p : PmcRegs) : Bool :=
  p.ctl.getLsbD 2 && p.sper != 0 && decide (p.sampledAt + p.sper.toNat ≤ s.cycle)

/-- SAMPLE_TIMER (R390). -/
def execSampleTimer (a : Nat) (s : State) : Host.Outcome State Fault Refusal :=
  .next (match aget s.ctxs a with
    | none => s
    | some c =>
      if !sampleDue s c.pmc then s
      else
        let s1 := updCtx s a (fun x => { x with pmc := { x.pmc with sampledAt := s.cycle } })
        (crewsOf s a).foldl (fun st e => sampleRec st a (dieOf e.2) 3 (sampleBody s e.1 e.2)) s1)

/-! ### Checkpoint epochs (R396) -/

/-- The largest pts of a context's agents. -/
def ctxPts (s : State) (a : Nat) : Nat :=
  let t := s.threads.foldl (fun m e => if asidOf e.2 = a then max m e.2.pts else m) 0
  let n := s.cells.foldl (fun m e => if e.2.crew.asid = a then e.2.nodes.foldl (fun k nd => max k nd.pts) m else m) t
  s.esets.foldl (fun m e => if e.2.crew.asid = a then e.2.channels.foldl (fun k c => max k c.pts) m else m) n

/-- An epoch is due: T milliseconds since the last began, whatever that one still waits for. -/
def epochDue (s : State) (l : LogRegs) : Bool :=
  l.ckctl.getLsbD 0 && l.period != 0 && decide (l.epochAt + l.period.toNat * 1500000 ≤ s.cycle)

/-- A thread is waiting or halted, so its section is taken at once. -/
def threadStands (th : Thread) : Bool := threadClass th == 3 || threadClass th == 0

/-- Every AGEN and LINKIN takes the SNAP of an epoch (R396). -/
def takesSnap (nd : Node) : Bool := nd.word.kind == kAGEN || isSource nd

/-- SNAP is injected at a source (R396): it stands behind what the source has emitted. An AGEN that reads a port counts it as one that has
been forwarded before the port's own came, which is then consumed (R160; DESIGN CHOICE, log 20). -/
def injectSnap (s : State) (e c n : Nat) : State :=
  match aget s.cells c with
  | none => s
  | some x =>
    let y := setNode x n (fun nd => { nd with late := nd.late ++ (readsOf nd).map (fun k => (k, e)) })
    snapRegion { s with cells := aset s.cells c (emitPend (sendBoth y n (.snap e)) n) } e c n

/-- The nodes of a context's cells: cell, node. -/
def ctxNodes (s : State) (a : Nat) : List (Nat × Nat) :=
  s.cells.flatMap (fun e => if e.2.crew.asid = a ∧ e.2.halted = false then (List.range e.2.nodes.length).map (fun n => (e.1, n)) else [])

/-- Records of one cycle with the unit words of their sources: in ascending order (R391). -/
def putRec (r : Nat × (State → State)) : List (Nat × (State → State)) → List (Nat × (State → State))
  | [] => [r]
  | q :: l => if r.1 < q.1 then r :: q :: l else q :: putRec r l

/-- They are written. -/
def writeRecs (l : List (Nat × (State → State))) (s : State) : State := (l.foldr putRec []).foldl (fun st r => r.2 st) s

/-- The REGION records of the channels of a context. -/
def chanRegions (s : State) (a e : Nat) : List (Nat × (State → State)) :=
  s.esets.flatMap (fun x => if x.2.crew.asid = a then
    (List.range x.2.channels.length).filterMap (fun ch => (x.2.channels[ch]?).map (fun c =>
      ((chanUnit s x.2 ch).toNat, fun st => regionRec st a (dieOf x.2.cluster) e (chanUnit s x.2 ch) c.label (.chan x.1 ch c)))) else [])

/-- The REGION records of an epoch that can be written: of threads that stand, and of the sources whose SNAP is injected now. A gated region
writes and injects none (R356). -/
def epochRegions (s : State) (p : Epoch) : List (Nat × (State → State)) :=
  p.threads.filterMap (fun t => (aget s.threads t).bind (fun th => if threadStands th && threadRuns s th then
    some ((threadUnit s th).toNat, fun st => threadRegion st t p.number) else none)) ++
  p.nodes.filterMap (fun q => match aget s.cells q.1, nodeOf s q.1 q.2 with
    | some x, some nd => if cellRuns s x && takesSnap nd then
        some ((nodeUnit s x q.2).toNat, fun st => injectSnap st p.number q.1 q.2) else none
    | _, _ => none)

/-- An epoch begins (R396): its CKPT record, and what the device keeps for it (log 33). -/
def beginEpoch (s : State) (a : Nat) (c : Context) : State :=
  let e := c.log.epoch + 1
  let us := savedUnits s a (regionClusters s a)
  let s1 := { s with vault := us.foldl keepUnit s.vault }
  let img := imageWords s1 a (regionClusters s a)
  let top := img.take (8 + dirWords (field (img.getD 0 0) 48 16))
  let p : Epoch := ⟨e.toNat, (s.threads.filter (fun t => asidOf t.2 == a)).map (fun t => t.1), ctxNodes s a, false⟩
  let s2 := updCtx s1 a (fun x => { x with log := { x.log with
    epoch := e, epochAt := s.cycle, epochs := x.log.epochs ++ [p], undone := [],
    snaps := x.log.snaps ++ us.map (fun u => (e.toNat, UnitSnap.saved u)) } })
  let s3 := logRec s2 a (lowDie (diesOf s a)) e.toNat 16 ([(0 : BitVec 32) ++ e, w64 (ctxPts s a + 1)] ++ top)
  writeRecs (chanRegions s a e.toNat ++ epochRegions s p) s3

/-- CHECKPOINT_EPOCH (R396): an epoch that is due begins; else what the oldest of those that have begun still owes and can write is written. -/
def execCheckpointEpoch (a : Nat) (s : State) : Host.Outcome State Fault Refusal :=
  .next (match aget s.ctxs a with
    | none => s
    | some c =>
      if epochDue s c.log then beginEpoch s a c
      else match c.log.epochs.find? (fun p => !(epochRegions s p).isEmpty) with
        | some p => writeRecs (epochRegions s p) s
        | none => s)

/-- What an epoch still waits for: threads that exist, nodes of cells that have not halted. -/
def epochOwes (s : State) (p : Epoch) : Bool :=
  p.threads.any (fun t => (aget s.threads t).isSome) || p.nodes.any (fun q => (aget s.cells q.1).elim false (fun x => !x.halted))

/-- EPOCH_END (R396): the oldest epoch ends once every REGION record of it has been written. -/
def execEpochEnd (a : Nat) (s : State) : Host.Outcome State Fault Refusal :=
  .next (match aget s.ctxs a with
    | none => s
    | some c =>
      match c.log.epochs with
      | [] => s
      | p :: rest =>
        if epochOwes s p then s
        else updCtx (logRec s a (lowDie (diesOf s a)) p.number 20 [if p.lost then 1 else 0]) a (fun x => { x with log := { x.log with epochs := rest } }))

/-! ### Replay (R398, log 20) -/

/-- The bytes of an outside write in its ORDER record. -/
def orderBytes (ws : List W) : List Byte := (wordBytes (ws.drop 5)).take (ws.getD 4 0).toNat

/-- The place of an outside write in its ORDER record. -/
def orderLoc (ws : List W) : Option Loc :=
  if ws.getD 0 0 = 0 then some (.mem (ws.getD 2 0).toNat)
  else if ws.getD 0 0 = 1 then some (.view (ws.getD 2 0).toNat (ws.getD 3 0).toNat) else none

/-- What another device or the host sent comes from its record: a mailbox write once its thread has come to the recorded timestamp or
waits. -/
def replayMail (s : State) (a : Nat) (pts : W) (ws : List W) : State :=
  let unit := ws.getD 3 0
  match aget s.threads (ws.getD 0 0).toNat with
  | none => dropOrder s a
  | some th =>
    if field unit 50 14 = s.pkg.devid.toNat ∧ field unit 44 4 ≠ 8 then s
    else if pts.toNat ≤ th.pts ∨ threadWaits th = true then
      landAnywhere s (ws.getD 0 0).toNat ((ws.getD 1 0).extractLsb' 0 4) (ws.getD 2 0) Sig.zero unit false
    else s

/-- The node that a record names. -/
def recordNode (s : State) (ws : List W) : Option Node := nodeOf s (ws.getD 0 0).toNat (ws.getD 1 0).toNat

/-- The thread or node of a context that a unit word names. -/
def loaderOf (s : State) (a : Nat) (unit : W) : Option Party :=
  match s.threads.find? (fun e => asidOf e.2 == a && threadUnit s e.2 == unit) with
  | some e => some (.thread e.1)
  | none => s.cells.findSome? (fun e => if e.2.crew.asid = a then
      ((List.range e.2.nodes.length).find? (fun n => nodeUnit s e.2 n == unit)).map (fun n => Party.node e.1 n) else none)

/-- The bytes of a line, in what the snapshot of a stream sees. -/
def imagePut (addr : Nat) (bs : List Byte) (m : MemState) : MemState :=
  { m with image := m.image.map (fun i => { i with bytes := cellsPut i.bytes addr bs }) }

/-- A line that another context had written has the bytes that its load returned (R397, R398). A thread or node takes the record as it
loads; for another unit, and for one that is gone, it goes. -/
def replayLine (s : State) (a : Nat) (ws : List W) : State :=
  let addr := (ws.getD 1 0).toNat
  let bs := wordBytes ((ws.drop 2).take 8)
  let s1 := if s.mem.words addr 8 = (ws.drop 2).take 8 then s else rawPut s addr bs
  match loaderOf s a (ws.getD 0 0) with
  | some (.thread _) => s1
  | some (.node c n) => updNode s1 c n (fun nd => nd.withMem (imagePut addr bs))
  | _ => dropOrder s1 a

/-- The next ORDER record where its unit does not take it itself. -/
def replayNext (s : State) (a : Nat) (o : List W) : State :=
  let ws := o.drop 2
  let c := (ws.getD 0 0).toNat
  let n := (ws.getD 1 0).toNat
  match (o.getD 1 0).toNat with
  | 1 => replayMail s a (o.getD 0 0) ws
  | 2 => if (recordNode s ws).isNone then dropOrder s a else s
  | 3 => if (recordNode s ws).isNone then dropOrder s a else s
  | 4 => if (recordNode s ws).isNone then dropOrder s a
    else if ws.length = 3 then dropOrder (updNode s c n (splitNode s a)) a else s
  | 6 => (match orderLoc ws with
    | some l => outsideWrite s .nobody (ws.getD 1 0).toNat l (orderBytes ws)
    | none => dropOrder s a)
  | 7 => dropOrder (updNode s c n (fun nd => setPort nd (ws.getD 2 0).toNat (fun p => { p with q := p.q ++ [tokenOf s.cycle (ws.drop 3)] }))) a
  | 10 => replayLine s a ws
  | 5 => s
  | 8 => s
  | 9 => s
  | _ => dropOrder s a

/-- REPLAY_END (R398): the next ORDER record is taken where its unit does not take it itself; with none left, REPLAY clears. -/
def execReplayEnd (a : Nat) (s : State) : Host.Outcome State Fault Refusal :=
  .next (match aget s.ctxs a with
    | none => s
    | some c =>
      if !c.log.replaying then s
      else if c.log.replay.isEmpty then
        updCtx s a (fun x => { x with log := { x.log with ckctl := x.log.ckctl &&& 1, replaying := false } })
      else replayNext s a (nextOrder s a))

/-! ### Compression -/

/-- The cycle up to which a hot unit's idle count has run: it stands while the only region that touched it is gated (R359). -/
def idleTo (s : State) (u : Nat) : Nat :=
  match aget s.mem.hotBy u with
  | some [(a, cl)] =>
    (match s.regions.find? (fun r => r.asid == a && r.cluster == cl && r.phase != .running) with
     | some r => r.gatedAt
     | none => s.cycle)
  | _ => s.cycle

/-- COMPRESSION_IDLE_EXPIRE (R192, R353): the unit's hot bit goes once its idle count has run out. -/
def execCompressionIdleExpire (u : Nat) (s : State) : Host.Outcome State Fault Refusal :=
  .next (match aget s.mem.hot u with
    | none => s
    | some h =>
      if h.1 + h.2 ≤ idleTo s u then
        { s with mem := { s.mem with hot := s.mem.hot.filter (fun e => e.1 != u), hotBy := s.mem.hotBy.filter (fun e => e.1 != u) } }
      else s)

end Sys2Proof.Machine
end

