-- ==== Sys2Proof/Machine/Platform.lean ====
section
/-! DEFINITION. The host's window on memory (R255, R399), power (R406), machine checks (R407), SPDM (R405), threads that the management
processor starts (R114, R325), and bring-up (R404, R408). -/

namespace Sys2Proof.Machine

/-! ### BAR2 (R255, R399) -/

/-- The address of an offset of BAR2: the partition's stacks one after another. -/
def bar2Addr (p : Partition) (off : Nat) : Option Nat :=
  match (stacksOf p.hbm)[off / 2 ^ 36]? with
  | some k => some (2 ^ 40 + k * 2 ^ 36 + off % 2 ^ 36)
  | none => none

/-- The function answers on its base address regions. -/
def barOf (s : State) (f : Nat) : Option Partition :=
  match aget s.parts f with
  | some p => if p.live && p.barsOpen then some p else none
  | none => none

/-- The address that follows the end of a stack, for a read of `len` bytes that crosses it; any where it does not. -/
def bar2Next (p : Partition) (off len : Nat) : Option Nat :=
  let n := 2 ^ 36 - off % 2 ^ 36
  if len ≤ n then some 0 else bar2Addr p (off + n)

/-- HOST_BAR2_READ (R255): one event, or two where the read goes on in the next stack. -/
def execHostBar2Read (f off len : Nat) (s : State) : Host.Outcome State Fault Refusal :=
  .next (match barOf s f with
    | none => sendOut s (.unsupported f)
    | some p =>
      match bar2Addr p off, bar2Next p off len with
      | some a, some b =>
        let n := 2 ^ 36 - off % 2 ^ 36
        let r := outsideRead s (.host f) 0 (.mem a) (min len n)
        if len ≤ n then sendOut r.2 (.hostRead f r.1)
        else
          let q := outsideRead r.2 (.host f) 0 (.mem b) (len - n)
          sendOut q.2 (.hostRead f (r.1 ++ q.1))
      | _, _ => sendOut s (.unsupported f))

/-- The parts of a write that lie in one line each, in ascending order. -/
def lineParts : Nat → Nat → List Byte → List (Nat × List Byte)
  | 0, _, _ => []
  | n + 1, a, bs =>
    match bs with
    | [] => []
    | _ => let k := 64 - a % 64; (a, bs.take k) :: lineParts n (a + k) (bs.drop k)

/-- HOST_BAR2_WRITE (R255): one event for each line. -/
def execHostBar2Write (f off : Nat) (bytes : List Byte) (s : State) : Host.Outcome State Fault Refusal :=
  let unsupported := sendOut s (.unsupported f)
  .next (match barOf s f with
    | none => unsupported
    | some p =>
      let ps := lineParts (bytes.length / 64 + 2) off bytes
      if (bar2Addr p off).isNone || ps.any (fun q => (bar2Addr p q.1).isNone) then unsupported
      else if outsideHeld s then s
      else ps.foldl (fun st q => (bar2Addr p q.1).elim st (fun a => outsideWrite st (.host f) 0 (.mem a) q.2)) s)

/-! ### BAR0 (R399, R400) -/

/-- The unit word of the host port of a partition (R318, R399). -/
def hostUnit (s : State) (p : Partition) : W := if p.dies.getLsbD 0 then portUnit s 0 16 else portUnit s 1 17

/-- An access to a function's base address regions: what it does where the function answers, else Unsupported Request (R399). -/
def onBar (s : State) (f : Nat) (go : Partition → State) : State :=
  match barOf s f with
  | some p => go p
  | none => sendOut s (.unsupported f)

/-- DEVINFO (R400): the device's identity and the dies of the partition; zero until bring-up is done (R408). -/
def devinfoWord (s : State) (p : Partition) : W :=
  if s.pkg.devinfo then w64 (s.pkg.devid.toNat + 65536 * p.dies.toNat) else 0

/-- What an offset of BAR0 reads (R400). -/
def bar0Value (s : State) (p : Partition) (off : Nat) : W :=
  match off with
  | 0x0 => devinfoWord s p
  | 0x8 => if p.dieslost then 1 else 0
  | 0x1080 => p.hmb
  | 0x1088 => (if p.ovr then 2 else 0) + (if p.full then 1 else 0)
  | _ => 0

/-- The host reads an offset of BAR0; a read of HMB clears FULL (R400). -/
def bar0Read (s : State) (f off : Nat) : State :=
  onBar s f (fun p =>
    if off = 0x1080 then sendOut (updPart s f (fun x => { x with full := false, hmbSig := outsideSig s (.host f) })) (.hmb f p.hmb)
    else sendOut s (.bar0 f off (bar0Value s p off)))

/-- A write to DMB: 8 bytes land in mailbox mn of the dispatcher; any other size is discarded (R400), and so is a write before bring-up is
done (R408). -/
def dmbLand (s : State) (f n size : Nat) (v : W) : State :=
  onBar s f (fun p =>
    if size ≠ 8 ∨ 14 < n ∨ s.pkg.devinfo = false ∨ mailHeld s p.dispatcher = true then s
    else landAnywhere s p.dispatcher (BitVec.ofNat 4 n) v (outsideSig s (.host f)) (hostUnit s p) false)

/-- A write to RESUME goes to XLAT.RESUME of the context that it names (R342, R400); where that is saved, in its image too (R359). -/
def resumeLand (s : State) (f : Nat) (v : W) : State :=
  onBar s f (fun _ =>
    let a := field v 33 11
    let r := v &&& 0x1FFFFFFFF#64
    match aget s.ctxs a with
    | none => s
    | some c =>
      if field v 44 20 ≠ 0 ∨ c.part ≠ f then s
      else
        let s1 := updCtx s a (fun x => releaseReqs { x with xlat := writeXlat x.xlat 4 r } r)
        if c.saved then rewriteImage s1 a else s1)

/-- The host writes an offset of BAR0 (R400): DIESLOST and OVR are cleared by a 1; an offset that is none of the table's ignores the write. -/
def bar0Write (s : State) (f off size : Nat) (v : W) : State :=
  if 0x1000 ≤ off ∧ off ≤ 0x1070 ∧ off % 8 = 0 then dmbLand s f ((off - 0x1000) / 8) size v
  else match off with
    | 0x8 => onBar s f (fun _ => updPart s f (fun p => { p with dieslost := p.dieslost && !v.getLsbD 0 }))
    | 0x1088 => onBar s f (fun _ => updPart s f (fun p => { p with ovr := p.ovr && !v.getLsbD 1 }))
    | 0x1100 => resumeLand s f v
    | _ => onBar s f (fun _ => s)

/-- What the platform controller reads over the I3C sideband, which gives it no more (R406). -/
def sideWords (s : State) (p : Partition) (r : SideReg) : List W :=
  match r with
  | .therm => [readPwr s p 3]
  | .grant => [readPwr s p 2]
  | .checks => s.pkg.checks.flatten
  | .devinfo => [devinfoWord s p]

/-- HMB_READ (R400): a register is read from outside. -/
def execHmbRead (r : ReadName) (s : State) : Host.Outcome State Fault Refusal :=
  .next (match r with
    | .bar0 f off => bar0Read s f off
    | .side f k => (aget s.parts f).elim s (fun p => sendOut s (.side f k (sideWords s p k))))
/-- DMB_WRITE (R400). -/
def execDmbWrite (f n size : Nat) (v : W) (s : State) : Host.Outcome State Fault Refusal := .next (dmbLand s f n size v)
/-- HOST_RESUME_WRITE (R400, R342). -/
def execHostResumeWrite (f : Nat) (v : W) (s : State) : Host.Outcome State Fault Refusal := .next (resumeLand s f v)
/-- REGISTER_WRITE (R5, R400): a write of any system register by a thread, of 8 bytes and after the checks of R327, or of BAR0 by the
host. -/
def execRegisterWrite (b : RegBank) (place size : Nat) (v : W) (s : State) : Host.Outcome State Fault Refusal :=
  .next (match b with
    | .group t g =>
      if size ≠ 8 ∨ 64 ≤ place ∨ (sysFault s t g (BitVec.ofNat 6 place) v).isSome = true then s
      else sysWrite s t g (BitVec.ofNat 6 place) v
    | .bar0 f => bar0Write s f place size v)

/-! ### Power (R406) -/

/-- The budget of an interval in units: of the mode, halved under the coolant limit, and no more than CAP. -/
def budget (p : PwrRegs) : Nat :=
  let mode := match p.mode with
    | 0 => 2400
    | 1 => 1800
    | _ => 1200
  min (mode / (if p.throt then 2 else 1)) p.cap.toNat

/-- POWER_INTERVAL (R406): the budget is divided among the dies in proportion to their demands. -/
def execPowerInterval (d0 d1 d2 d3 : Nat) (s : State) : Host.Outcome State Fault Refusal :=
  let total := d0 + d1 + d2 + d3
  let give (d : Nat) : Nat := if total = 0 then 0 else budget s.pkg.pwr * d / total
  .next { s with pkg := { s.pkg with pwr := { s.pkg.pwr with grant := [give d0, give d1, give d2, give d3] } } }

/-- COOLANT_LIMIT_CHANGE (R406): the telemetry's inlet temperature, and whether a platform limit is passed or the telemetry has
been lost. -/
def execCoolantLimitChange (inlet : BitVec 8) (hot : Bool) (s : State) : Host.Outcome State Fault Refusal :=
  .next { s with pkg := { s.pkg with pwr := { s.pkg.pwr with inlet := inlet, throt := hot } } }

/-! ### Machine checks (R407) -/

/-- What an error leaves in memory: a metadata entry that cannot be fetched (R192), a poisoned line (R253). -/
def checkHits (m : Memory) (kind pa : Nat) : Memory :=
  match kind with
  | 1 => { m with metaErr := (pa / 512 :: m.metaErr).dedup }
  | 2 => { m with badLines := (pa / 64 :: m.badLines).dedup }
  | 3 => { m with badLines := (pa / 64 :: m.badLines).dedup }
  | _ => m

/-- MACHINE_CHECK (R407): the record, and vector 2 on every function that holds the die. KIND 0 stands for an error that has been
corrected in place: it is only counted. -/
def execMachineCheck (kind die : Nat) (pa : W) (asid : Nat) (s : State) : Host.Outcome State Fault Refusal :=
  .next (if kind = 0 then { s with pkg := { s.pkg with corrected := s.pkg.corrected + 1 } }
    else if 4 < kind then s
    else
      let s1 := checkRec s kind die pa asid
      { s1 with mem := checkHits s.mem kind pa.toNat })

/-! ### SPDM (R405) -/

/-- A responder answers: the answer leaves, and joins the transcript. -/
def spdmSays (s : State) (f : Nat) (a : SpdmAnswer) : State :=
  onBar s f (fun _ => updPart (sendOut s (.spdm f a)) f (fun p => { p with spdm := p.spdm ++ [a] }))

/-- The transcript of a function. -/
def transcript (s : State) (f : Nat) : List Byte := (aget s.parts f).elim [] (fun p => p.spdm.flatMap Config.spdmBytes)

/-- GET_VERSION (R405): SPDM 1.3. -/
def execGetVersion (f : Nat) (s : State) : Host.Outcome State Fault Refusal := .next (spdmSays s f (.version [(1, 3)]))
/-- GET_CAPABILITIES (R405): the requests that R405 lists are served. -/
def execGetCapabilities (f : Nat) (s : State) : Host.Outcome State Fault Refusal := .next (spdmSays s f (.capabilities true true true))
/-- NEGOTIATE_ALGORITHMS (R405): SHA-384, and ECDSA over brainpoolP384r1 as an extended asymmetric algorithm. -/
def execNegotiateAlgorithms (f : Nat) (s : State) : Host.Outcome State Fault Refusal :=
  .next (spdmSays s f (.algorithms "SHA-384" "ECDSA brainpoolP384r1" true))
/-- GET_DIGESTS (R405): the digest of the one chain, in slot 0. -/
def execGetDigests (f : Nat) (s : State) : Host.Outcome State Fault Refusal :=
  .next (spdmSays s f (.digests [(0, Config.sha384 Config.certChain)]))
/-- GET_CERTIFICATE (R405): the chain in slot 0. -/
def execGetCertificate (f : Nat) (s : State) : Host.Outcome State Fault Refusal := .next (spdmSays s f (.certificate 0 Config.certChain))
/-- CHALLENGE (R405): a signature by the device identity key over the digest of the transcript and the nonce. -/
def execChallenge (f : Nat) (nonce : List Byte) (s : State) : Host.Outcome State Fault Refusal :=
  .next (spdmSays s f (.challengeAuth (Config.ecdsaSign (Config.sha384 (transcript s f ++ nonce)))))
/-- GET_MEASUREMENTS (R405): the five measurements in ascending index. -/
def execGetMeasurements (f : Nat) (s : State) : Host.Outcome State Fault Refusal :=
  .next (spdmSays s f (.measurements (([1, 2, 3, 4, 5] : List Nat).zip s.pkg.measure)))

/-! ### Threads that the management processor starts (R114, R325, R408) -/

/-- The resident engine set of a context on a cluster (R137), made where there is none. -/
def residentSet (s : State) (a cl : Nat) : Nat × State :=
  let crew : CrewId := ⟨a, 0, cl⟩
  match s.esets.find? (fun e => e.2.crew == crew && e.2.cluster == cl) with
  | some e => (e.1, s)
  | none => (s.nextId, { s with nextId := s.nextId + 1, esets := aset s.esets s.nextId (EngineSet.fresh crew cl) })

/-- The level as STATUS.PRIV has it. -/
def levelBits (l : Level) : BitVec 2 :=
  match l with
  | .user => lUSER
  | .super => lSUPER
  | .mgmt => lMGMT

/-- The first global registers as the management processor gives them: g1, g2, … -/
def withGs (th : Thread) (gs : List W) : Thread :=
  (List.range 63).foldl (fun x k => match gs[k]? with
    | some v => { x with gs := x.gs.set! (k + 1) v }
    | none => x) th

/-- Start a thread outside any launch on a thread slot: with a handle, an entry, a level and its global registers. -/
def startResident (s : State) (t a cl slot : Nat) (entry : W) (priv : BitVec 2) (gs : List W) (disp : Bool) : State :=
  let e := residentSet (needRegion s a cl) a cl
  let home : Home := ⟨cl, slot, ⟨a, 0, cl⟩, e.1, 0, 0xFF, 0xFF, disp⟩
  let th := withGs (Thread.fresh home (entry &&& 0xFFFFFFFFFFFFFFF0#64) priv 3) gs
  { e.2 with threads := aset e.2.threads t { th with label := { th.label with since := s.cycle } } }

/-- The resident thread of a context that has halted on a thread slot. -/
def haltedResident (s : State) (a cl slot : Nat) : Option (Nat × Thread) :=
  s.threads.find? (fun e => asidOf e.2 == a && e.2.home.crew.launch == 0 && e.2.home.cluster == cl && e.2.home.slot == slot &&
    stopped e.2)

/-- MANAGEMENT_THREAD_START (R114): on a free thread slot of a die of the context's partition, or in place of a resident thread
that has halted there. -/
def execManagementThreadStart (a : Nat) (entry : W) (level : Level) (cl slot : Nat) (gs : List W) (s : State) :
    Host.Outcome State Fault Refusal :=
  .next (match aget s.ctxs a with
    | none => s
    | some _ =>
      if !(diesOf s a).getLsbD (dieOf cl) || decide (256 ≤ cl) || decide (16 ≤ slot) then s
      else
        match haltedResident s a cl slot with
        | some e => startResident s e.1 a cl slot entry (levelBits level) gs e.2.home.dispatcher
        | none =>
          if (freeSlots s cl).contains slot then
            startResident { s with nextId := s.nextId + 1 } s.nextId a cl slot entry (levelBits level) gs false
          else s)

/-! ### Bring-up (R404, R408) -/

/-- The checks of R404 on one stage: its key is the fused one, its signature verifies, its version is not below the rollback counter. -/
def stageOk (p : Platform) (g : Firmware) : Bool :=
  Config.sha384 g.pubkey == p.fusedKey && Config.ecdsaVerify g.pubkey (Config.sha384 g.bytes) g.signature && decide (p.rollback ≤ g.version)

/-- The ROM verifies the first stage of the firmware, and each stage the one after it (R404). -/
def firmwareOk (p : Platform) : Bool := !p.firmware.isEmpty && p.firmware.all (stageOk p)

/-- Step 2: the fields marked boot. -/
def bootFields (s : State) : State :=
  let p := s.platform
  { s with pkg := { s.pkg with
      booted := 2, devid := p.devid, etab := p.etab, pwr := { s.pkg.pwr with mode := p.pwrMode },
      ports := (s.pkg.ports.zip (p.lat ++ List.replicate 16 0)).map (fun e => { e.1 with lat := e.2 }) } }

/-- Step 3: the partitions, one function each. -/
def bootParts (s : State) : State :=
  let ps := s.platform.parts
  { s with
    pkg := { s.pkg with booted := 3 },
    parts := (List.range ps.length).filterMap (fun k => (ps[k]?).map (fun e => (k, Partition.fresh e.1 e.2.1 e.2.2.1))) }

/-- The dispatcher of a partition (R408): its context, its thread on thread 0 of cluster 0 of the lowest die. -/
def bootDispatcher (s : State) (k : Nat) (dies : BitVec 4) (entry : W) : State :=
  let a := k + 1
  let c := Context.fresh k
  let c1 := { c with xlat := { c.xlat with root := s.platform.roots.getD k 0 } }
  let s1 := { s with ctxs := aset s.ctxs a c1, nextId := s.nextId + 1 }
  let s2 := startResident s1 s.nextId a (lowDie dies * 64) 0 entry lSUPER [] true
  updPart s2 k (fun p => { p with dispatcher := s.nextId })

/-- Step 4: the image is placed and measured, and every dispatcher starts. -/
def bootImage (s : State) : State :=
  let p := s.platform
  let s1 := p.image.foldl (fun st e => rawPut st e.1 e.2) s
  let fuses := p.fusedKey ++ leBytes 8 p.rollback
  let s2 := { s1 with pkg := { s1.pkg with
    booted := 4, measure := [p.romDigest, Config.sha384 (p.firmware.flatMap (fun g => g.bytes)), Config.sha384 (p.image.flatMap (fun e => e.2)), Config.sha384 fuses, []] } }
  (List.range p.parts.length).foldl (fun st k => match p.parts[k]? with
    | some e => bootDispatcher st k e.1 e.2.2.2
    | none => st) s2

/-- A port takes its retry window, its key, and its mode, where that is not refused (R401, R402). -/
def bootPort (s : State) (k : Nat) (b : BootPort) : State :=
  updPort s k (fun q =>
    let q1 : LinkPort := { q with wbase := b.wbase &&& frameMask, wlen := b.wlen, keys := if b.sak = [] then q.keys else [⟨0, b.sak, 0⟩] }
    if modeRefused s k q1 b.mode then q1 else { q1 with mode := b.mode })

/-- Step 5: retry windows, keys and modes of the ports. -/
def bootPorts (s : State) : State :=
  let s1 := (s.platform.ports.zip (List.range s.pkg.ports.length)).foldl (fun st e => bootPort st e.2 e.1) s
  remeasure { s1 with pkg := { s1.pkg with booted := 5 } }

/-- Everything as it is when power comes on; the model's own counters and what the platform has fused go on. -/
def powerOn (s : State) : State :=
  { State.reset with
    cycle := s.cycle, agenda := s.agenda, nextId := s.nextId, platform := s.platform }

/-- COLD_RESET (R408): bring-up, up to the running dispatchers; a rejected image stops it at its first step. -/
def execColdReset (s : State) : Host.Outcome State Fault Refusal :=
  let s1 := powerOn s
  .next (if !firmwareOk s1.platform then s1
    else
      let s2 := bootPorts (bootImage (bootParts (bootFields s1)))
      { s2 with pkg := { s2.pkg with booted := 6, devinfo := true } })

end Sys2Proof.Machine
end

