-- ==== Sys2Proof/Machine/Dispatch.lean ====
section
/-! DEFINITION. One arm per instruction: each a call of its meaning. -/

namespace Sys2Proof.Machine

/-- The meaning of an instruction in a state. -/
def exec (i : Instr) (s : State) : Host.Outcome State Fault Refusal :=
  match i with
  | .add v t w p => Sys2Proof.Machine.execAdd v t w p s
  | .sub v t w p => Sys2Proof.Machine.execSub v t w p s
  | .mul v t w p => Sys2Proof.Machine.execMul v t w p s
  | .mulh v t sg w p => Sys2Proof.Machine.execMulh v t sg w p s
  | .div v t sg w p => Sys2Proof.Machine.execDiv v t sg w p s
  | .rem v t sg w p => Sys2Proof.Machine.execRem v t sg w p s
  | .and v t w p => Sys2Proof.Machine.execAnd v t w p s
  | .or v t w p => Sys2Proof.Machine.execOr v t w p s
  | .xor v t w p => Sys2Proof.Machine.execXor v t w p s
  | .shl v t w p => Sys2Proof.Machine.execShl v t w p s
  | .shr v t sg w p => Sys2Proof.Machine.execShr v t sg w p s
  | .sra v t w p => Sys2Proof.Machine.execSra v t w p s
  | .min v t sg w p => Sys2Proof.Machine.execMin v t sg w p s
  | .max v t sg w p => Sys2Proof.Machine.execMax v t sg w p s
  | .ext v t p => Sys2Proof.Machine.execExt v t p s
  | .ins v t => Sys2Proof.Machine.execIns v t s
  | .addi t im p => Sys2Proof.Machine.execAddi t im p s
  | .muli t im p => Sys2Proof.Machine.execMuli t im p s
  | .andi t im p => Sys2Proof.Machine.execAndi t im p s
  | .ori t im p => Sys2Proof.Machine.execOri t im p s
  | .xori t im p => Sys2Proof.Machine.execXori t im p s
  | .shli t im p => Sys2Proof.Machine.execShli t im p s
  | .shri t im p => Sys2Proof.Machine.execShri t im p s
  | .srai t im p => Sys2Proof.Machine.execSrai t im p s
  | .movi t im p => Sys2Proof.Machine.execMovi t im p s
  | .movhi t im p => Sys2Proof.Machine.execMovhi t im p s
  | .tag v t p => Sys2Proof.Machine.execTag v t p s
  | .lea v t sg p => Sys2Proof.Machine.execLea v t sg p s
  | .clz v t w p => Sys2Proof.Machine.execClz v t w p s
  | .popc v t w p => Sys2Proof.Machine.execPopc v t w p s
  | .mov v t p => Sys2Proof.Machine.execMov v t p s
  | .cmpeq v t w p => Sys2Proof.Machine.execCmpeq v t w p s
  | .cmpne v t w p => Sys2Proof.Machine.execCmpne v t w p s
  | .cmplt v t sg w p => Sys2Proof.Machine.execCmplt v t sg w p s
  | .cmple v t sg w p => Sys2Proof.Machine.execCmple v t sg w p s
  | .cmpeqi t im p => Sys2Proof.Machine.execCmpeqi t im p s
  | .cmpnei t im p => Sys2Proof.Machine.execCmpnei t im p s
  | .cmplti t im p => Sys2Proof.Machine.execCmplti t im p s
  | .cmplei t im p => Sys2Proof.Machine.execCmplei t im p s
  | .pand v t p => Sys2Proof.Machine.execPand v t p s
  | .por v t p => Sys2Proof.Machine.execPor v t p s
  | .pnot v t p => Sys2Proof.Machine.execPnot v t p s
  | .sel v t => Sys2Proof.Machine.execSel v t s
  | .tst v t w p => Sys2Proof.Machine.execTst v t w p s
  | .grd t n p => Sys2Proof.Machine.execGrd t n p s
  | .gwr n p => Sys2Proof.Machine.execGwr n p s
  | .mrd t n p => Sys2Proof.Machine.execMrd t n p s
  | .mwr n p => Sys2Proof.Machine.execMwr n p s
  | .mwait t n => Sys2Proof.Machine.execMwait t n s
  | .mfull t n p => Sys2Proof.Machine.execMfull t n p s
  | .br f e p => Sys2Proof.Machine.execBr f e p s
  | .brx e p => Sys2Proof.Machine.execBrx e p s
  | .call f e p => Sys2Proof.Machine.execCall f e p s
  | .callx e p => Sys2Proof.Machine.execCallx e p s
  | .ret e p => Sys2Proof.Machine.execRet e p s
  | .stop e p => Sys2Proof.Machine.execStop e p s
  | .ld8 t m l p => Sys2Proof.Machine.execLd8 t m l p s
  | .ld16 t m l p => Sys2Proof.Machine.execLd16 t m l p s
  | .ld32 t m l p => Sys2Proof.Machine.execLd32 t m l p s
  | .ld64 t m l p => Sys2Proof.Machine.execLd64 t m l p s
  | .lds8 t m l p => Sys2Proof.Machine.execLds8 t m l p s
  | .lds16 t m l p => Sys2Proof.Machine.execLds16 t m l p s
  | .lds32 t m l p => Sys2Proof.Machine.execLds32 t m l p s
  | .st8 m l p => Sys2Proof.Machine.execSt8 m l p s
  | .st16 m l p => Sys2Proof.Machine.execSt16 m l p s
  | .st32 m l p => Sys2Proof.Machine.execSt32 m l p s
  | .st64 m l p => Sys2Proof.Machine.execSt64 m l p s
  | .aadd t m l p => Sys2Proof.Machine.execAadd t m l p s
  | .aand t m l p => Sys2Proof.Machine.execAand t m l p s
  | .aor t m l p => Sys2Proof.Machine.execAor t m l p s
  | .axor t m l p => Sys2Proof.Machine.execAxor t m l p s
  | .amin t m l p => Sys2Proof.Machine.execAmin t m l p s
  | .amax t m l p => Sys2Proof.Machine.execAmax t m l p s
  | .aswp t m l p => Sys2Proof.Machine.execAswp t m l p s
  | .acas t m l => Sys2Proof.Machine.execAcas t m l s
  | .cfg p => Sys2Proof.Machine.execCfg p s
  | .strm p => Sys2Proof.Machine.execStrm p s
  | .drainCell p => Sys2Proof.Machine.execDrainCell p s
  | .drainAll p => Sys2Proof.Machine.execDrainAll p s
  | .tmpl p => Sys2Proof.Machine.execTmpl p s
  | .evxTerm p => Sys2Proof.Machine.execEvxTerm p s
  | .evxCnt p => Sys2Proof.Machine.execEvxCnt p s
  | .evxTgt p => Sys2Proof.Machine.execEvxTgt p s
  | .evxPulse p => Sys2Proof.Machine.execEvxPulse p s
  | .pub p => Sys2Proof.Machine.execPub p s
  | .collStart p => Sys2Proof.Machine.execCollStart p s
  | .collWait p => Sys2Proof.Machine.execCollWait p s
  | .collEnd p => Sys2Proof.Machine.execCollEnd p s
  | .waitc v t p => Sys2Proof.Machine.execWaitc v t p s
  | .waite v t p => Sys2Proof.Machine.execWaite v t p s
  | .launch t q p => Sys2Proof.Machine.execLaunch t q p s
  | .shape p => Sys2Proof.Machine.execShape p s
  | .take v t p => Sys2Proof.Machine.execTake v t p s
  | .steal p => Sys2Proof.Machine.execSteal p s
  | .yield p => Sys2Proof.Machine.execYield p s
  | .cptag p => Sys2Proof.Machine.execCptag p s
  | .cpmark p => Sys2Proof.Machine.execCpmark p s
  | .msend n p => Sys2Proof.Machine.execMsend n p s
  | .msendw n p => Sys2Proof.Machine.execMsendw n p s
  | .mbcast n p => Sys2Proof.Machine.execMbcast n p s
  | .sysrd t g n p => Sys2Proof.Machine.execSysrd t g n p s
  | .syswr g n p => Sys2Proof.Machine.execSyswr g n p s
  | .tret e p => Sys2Proof.Machine.execTret e p s
  | .tlbiAddr p => Sys2Proof.Machine.execTlbiAddr p s
  | .tlbiAsid p => Sys2Proof.Machine.execTlbiAsid p s
  | .tlbiAll p => Sys2Proof.Machine.execTlbiAll p s
  | .ctxsave p => Sys2Proof.Machine.execCtxsave p s
  | .ctxload p => Sys2Proof.Machine.execCtxload p s
  | .trap im p => Sys2Proof.Machine.execTrap im p s
  | .blockFetch t => Sys2Proof.Machine.execBlockFetch t s
  | .blockCommit t => Sys2Proof.Machine.execBlockCommit t s
  | .mwaitSatisfied t => Sys2Proof.Machine.execMwaitSatisfied t s
  | .cfgGateOpen t k => Sys2Proof.Machine.execCfgGateOpen t k s
  | .strmGateOpen t k => Sys2Proof.Machine.execStrmGateOpen t k s
  | .pubGateOpen t k => Sys2Proof.Machine.execPubGateOpen t k s
  | .waitcSatisfied t k => Sys2Proof.Machine.execWaitcSatisfied t k s
  | .waiteSatisfied t k => Sys2Proof.Machine.execWaiteSatisfied t k s
  | .apertureQueueRoom t k => Sys2Proof.Machine.execApertureQueueRoom t k s
  | .launchQueueRoom t k => Sys2Proof.Machine.execLaunchQueueRoom t k s
  | .collWaitSatisfied t k => Sys2Proof.Machine.execCollWaitSatisfied t k s
  | .collEndSatisfied t k => Sys2Proof.Machine.execCollEndSatisfied t k s
  | .engineSetReleased t k => Sys2Proof.Machine.execEngineSetReleased t k s
  | .drainComplete t => Sys2Proof.Machine.execDrainComplete t s
  | .yieldEnd t => Sys2Proof.Machine.execYieldEnd t s
  | .tlbiComplete t => Sys2Proof.Machine.execTlbiComplete t s
  | .ctxsaveComplete t => Sys2Proof.Machine.execCtxsaveComplete t s
  | .ctxloadComplete t => Sys2Proof.Machine.execCtxloadComplete t s
  | .mailboxWriteLand k => Sys2Proof.Machine.execMailboxWriteLand k s
  | .messageLand k => Sys2Proof.Machine.execMessageLand k s
  | .hostMailboxLand k => Sys2Proof.Machine.execHostMailboxLand k s
  | .stealRequestLand k => Sys2Proof.Machine.execStealRequestLand k s
  | .stealReplyLand k => Sys2Proof.Machine.execStealReplyLand k s
  | .agenEmit c n => Sys2Proof.Machine.execAgenEmit c n s
  | .mapFire c n => Sys2Proof.Machine.execMapFire c n s
  | .transcFire c n => Sys2Proof.Machine.execTranscFire c n s
  | .convCvt c n => Sys2Proof.Machine.execConvCvt c n s
  | .convWidth c n => Sys2Proof.Machine.execConvWidth c n s
  | .lpack c n => Sys2Proof.Machine.execLpack c n s
  | .lunpack c n => Sys2Proof.Machine.execLunpack c n s
  | .filterFire c n => Sys2Proof.Machine.execFilterFire c n s
  | .mergeOrdered c n => Sys2Proof.Machine.execMergeOrdered c n s
  | .mergeRrobin c n => Sys2Proof.Machine.execMergeRrobin c n s
  | .mergeConcat c n => Sys2Proof.Machine.execMergeConcat c n s
  | .loopCycle c n => Sys2Proof.Machine.execLoopCycle c n s
  | .mmaPass c n => Sys2Proof.Machine.execMmaPass c n s
  | .mmaEmit c n => Sys2Proof.Machine.execMmaEmit c n s
  | .permTable c n => Sys2Proof.Machine.execPermTable c n s
  | .permRank c n => Sys2Proof.Machine.execPermRank c n s
  | .permTranspose c n => Sys2Proof.Machine.execPermTranspose c n s
  | .scanBeat c n => Sys2Proof.Machine.execScanBeat c n s
  | .scanBoundary c n => Sys2Proof.Machine.execScanBoundary c n s
  | .redBeat c n => Sys2Proof.Machine.execRedBeat c n s
  | .redDaccColumn c n => Sys2Proof.Machine.execRedDaccColumn c n s
  | .memLoad c n e => Sys2Proof.Machine.execMemLoad c n e s
  | .memStore c n e => Sys2Proof.Machine.execMemStore c n e s
  | .memRmw c n e => Sys2Proof.Machine.execMemRmw c n e s
  | .doneEmit c n => Sys2Proof.Machine.execDoneEmit c n s
  | .remoteAck k => Sys2Proof.Machine.execRemoteAck k s
  | .linkinReceive c n => Sys2Proof.Machine.execLinkinReceive c n s
  | .linkinDescriptorReceive c n => Sys2Proof.Machine.execLinkinDescriptorReceive c n s
  | .linkoutSend c n => Sys2Proof.Machine.execLinkoutSend c n s
  | .incomingPeerAccess k => Sys2Proof.Machine.execIncomingPeerAccess k s
  | .sluiceForward c n => Sys2Proof.Machine.execSluiceForward c n s
  | .snapAlign c n => Sys2Proof.Machine.execSnapAlign c n s
  | .snapAlignTimeout c n => Sys2Proof.Machine.execSnapAlignTimeout c n s
  | .poisonForward c n p => Sys2Proof.Machine.execPoisonForward c n p s
  | .sinkHalt c n p => Sys2Proof.Machine.execSinkHalt c n p s
  | .reorderStoreAccept c n p => Sys2Proof.Machine.execReorderStoreAccept c n p s
  | .reorderStoreEmit c n p => Sys2Proof.Machine.execReorderStoreEmit c n p s
  | .reorderLenCheck c n p => Sys2Proof.Machine.execReorderLenCheck c n p s
  | .fifoWriterAcquire w => Sys2Proof.Machine.execFifoWriterAcquire w s
  | .fifoReaderAcquire c n => Sys2Proof.Machine.execFifoReaderAcquire c n s
  | .fifoSlotFill c b => Sys2Proof.Machine.execFifoSlotFill c b s
  | .pageWalkComplete a va => Sys2Proof.Machine.execPageWalkComplete a va s
  | .termFire e im => Sys2Proof.Machine.execTermFire e im s
  | .counterThreshold e im => Sys2Proof.Machine.execCounterThreshold e im s
  | .copyBegin e ch => Sys2Proof.Machine.execCopyBegin e ch s
  | .copySector e ch j => Sys2Proof.Machine.execCopySector e ch j s
  | .copyComplete e ch => Sys2Proof.Machine.execCopyComplete e ch s
  | .collPayloadArrive k => Sys2Proof.Machine.execCollPayloadArrive k s
  | .collLevelCombine h => Sys2Proof.Machine.execCollLevelCombine h s
  | .collStepComplete h => Sys2Proof.Machine.execCollStepComplete h s
  | .collAbortArrive k => Sys2Proof.Machine.execCollAbortArrive k s
  | .launchPlace a id => Sys2Proof.Machine.execLaunchPlace a id s
  | .launchComplete a id => Sys2Proof.Machine.execLaunchComplete a id s
  | .shapeArrive k => Sys2Proof.Machine.execShapeArrive k s
  | .launchAgeTarget a id => Sys2Proof.Machine.execLaunchAgeTarget a id s
  | .mireProbeSend q => Sys2Proof.Machine.execMireProbeSend q s
  | .mireProbeForward k => Sys2Proof.Machine.execMireProbeForward k s
  | .deadlock k => Sys2Proof.Machine.execDeadlock k s
  | .walkerFetch k => Sys2Proof.Machine.execWalkerFetch k s
  | .remoteWalkerFetch k => Sys2Proof.Machine.execRemoteWalkerFetch k s
  | .frameReceive k => Sys2Proof.Machine.execFrameReceive k s
  | .frameAck q n => Sys2Proof.Machine.execFrameAck q n s
  | .frameResend q n => Sys2Proof.Machine.execFrameResend q n s
  | .portDown q cause => Sys2Proof.Machine.execPortDown q cause s
  | .preemptRequest a cl why => Sys2Proof.Machine.execPreemptRequest a cl why s
  | .regionGate a cl => Sys2Proof.Machine.execRegionGate a cl s
  | .readout a cl => Sys2Proof.Machine.execReadout a cl s
  | .restore a cl dst => Sys2Proof.Machine.execRestore a cl dst s
  | .quantumFloorExpire a cl => Sys2Proof.Machine.execQuantumFloorExpire a cl s
  | .sliceExpire a cl => Sys2Proof.Machine.execSliceExpire a cl s
  | .cellMove c => Sys2Proof.Machine.execCellMove c s
  | .mergeStart k => Sys2Proof.Machine.execMergeStart k s
  | .mergeQuiesceTimeout k => Sys2Proof.Machine.execMergeQuiesceTimeout k s
  | .mergeComplete k => Sys2Proof.Machine.execMergeComplete k s
  | .counterOverflow a k => Sys2Proof.Machine.execCounterOverflow a k s
  | .sampleTimer a => Sys2Proof.Machine.execSampleTimer a s
  | .checkpointEpoch a => Sys2Proof.Machine.execCheckpointEpoch a s
  | .epochEnd a => Sys2Proof.Machine.execEpochEnd a s
  | .replayEnd a => Sys2Proof.Machine.execReplayEnd a s
  | .compressionIdleExpire u => Sys2Proof.Machine.execCompressionIdleExpire u s
  | .xlatResumeWrite a v => Sys2Proof.Machine.execXlatResumeWrite a v s
  | .fmtWctlWrite a v => Sys2Proof.Machine.execFmtWctlWrite a v s
  | .pblenValidClear a v => Sys2Proof.Machine.execPblenValidClear a v s
  | .keyInstall v => Sys2Proof.Machine.execKeyInstall v s
  | .linkModeWrite v => Sys2Proof.Machine.execLinkModeWrite v s
  | .pmcSbaseWrite a v => Sys2Proof.Machine.execPmcSbaseWrite a v s
  | .ctxSliceWrite a v => Sys2Proof.Machine.execCtxSliceWrite a v s
  | .ctxNbvWrite t v => Sys2Proof.Machine.execCtxNbvWrite t v s
  | .ctxAsidWrite t v => Sys2Proof.Machine.execCtxAsidWrite t v s
  | .pwrWrite im v => Sys2Proof.Machine.execPwrWrite im v s
  | .registerWrite b place size v => Sys2Proof.Machine.execRegisterWrite b place size v s
  | .dmbWrite f n size v => Sys2Proof.Machine.execDmbWrite f n size v s
  | .hmbRead r => Sys2Proof.Machine.execHmbRead r s
  | .hostResumeWrite f v => Sys2Proof.Machine.execHostResumeWrite f v s
  | .hostBar2Read f off len => Sys2Proof.Machine.execHostBar2Read f off len s
  | .hostBar2Write f off bytes => Sys2Proof.Machine.execHostBar2Write f off bytes s
  | .powerInterval d0 d1 d2 d3 => Sys2Proof.Machine.execPowerInterval d0 d1 d2 d3 s
  | .coolantLimitChange inlet hot => Sys2Proof.Machine.execCoolantLimitChange inlet hot s
  | .machineCheck kind die pa asid => Sys2Proof.Machine.execMachineCheck kind die pa asid s
  | .coldReset => Sys2Proof.Machine.execColdReset s
  | .getVersion f => Sys2Proof.Machine.execGetVersion f s
  | .getCapabilities f => Sys2Proof.Machine.execGetCapabilities f s
  | .negotiateAlgorithms f => Sys2Proof.Machine.execNegotiateAlgorithms f s
  | .getDigests f => Sys2Proof.Machine.execGetDigests f s
  | .getCertificate f => Sys2Proof.Machine.execGetCertificate f s
  | .challenge f nonce => Sys2Proof.Machine.execChallenge f nonce s
  | .getMeasurements f => Sys2Proof.Machine.execGetMeasurements f s
  | .portUp q => Sys2Proof.Machine.execPortUp q s
  | .remoteLoadReply k v => Sys2Proof.Machine.execRemoteLoadReply k v s
  | .managementThreadStart a entry level cl slot gs => Sys2Proof.Machine.execManagementThreadStart a entry level cl slot gs s

end Sys2Proof.Machine
end

