-- ==== Sys2Proof/Machine/Schedule.lean ====
section
/-! DEFINITION. Which step comes next where the outside world and arbitration leave the choice to the device (R20, R377): one
permitted order, log 1. A unit's step is due where its meaning would change the state. -/

namespace Sys2Proof.Machine

/-! ### Instructions of the blocks in flight -/

/-- A slot that can fire now, with its instruction (R74, R123). -/
def slotFires (b : Block) (k : Nat) : Option Instr :=
  if slotReady b k then (b.slots[k]?).elim none slotInstr else none

/-- The first slot that can fire and passes a test. -/
def firstSlot (b : Block) (f : Instr → Bool) : Nat → Nat → Option (Nat × Instr)
  | 0, _ => none
  | n + 1, k =>
    match slotFires b k with
    | some i => if f i then some (k, i) else firstSlot b f n (k + 1)
    | none => firstSlot b f n (k + 1)

/-- The slot of a block that fires next: the lowest that is no load, else the lowest load. -/
def nextSlot (b : Block) : Option (Nat × Instr) :=
  match firstSlot b (fun i => !isLoad i) b.slots.length 0 with
  | some x => some x
  | none => firstSlot b (fun _ => true) b.slots.length 0

/-- The first thread with an instruction that can fire: its handle, the slot, the instruction. -/
def nextFire (s : State) : List (Nat × Thread) → Option (Nat × Nat × Instr)
  | [] => none
  | (t, th) :: rest =>
    match th.block, th.mode with
    | some b, .ready =>
      if threadRuns s th then
        match nextSlot b with
        | some (k, i) => some (t, k, i)
        | none => nextFire s rest
      else nextFire s rest
    | _, _ => nextFire s rest

/-! ### Steps of units that may be due -/

/-- The ready thread of a cluster that starts next (R377): the first after the one it last started. -/
def fetchTurn (s : State) (cl : Nat) : List Instr :=
  (s.threads.filter (fun e => e.2.home.cluster == cl && canFetch s e.2)).map (fun e => .blockFetch e.1)

/-- The step that lets a held gate of a context's thread go on. -/
def gateStep (a t k : Nat) (i : Instr) : List Instr :=
  match i with
  | .syswr _ _ _ => [.pblenValidClear a 0]
  | .cfg _ => [.cfgGateOpen t k]
  | .strm _ => [.strmGateOpen t k]
  | .pub _ => [.pubGateOpen t k]
  | .waitc _ _ _ => [.waitcSatisfied t k, .engineSetReleased t k]
  | .waite _ _ _ => [.waiteSatisfied t k, .engineSetReleased t k]
  | .st64 _ _ _ => [.apertureQueueRoom t k]
  | .launch _ _ _ => [.launchQueueRoom t k]
  | .collWait _ => [.collWaitSatisfied t k]
  | .collEnd _ => [.collEndSatisfied t k]
  | _ => [.engineSetReleased t k]

/-- The step that may end a trailing wait which no arrival ends. -/
def waitSteps (t : Nat) (w : Waiting) : List Instr :=
  match w with
  | .drain _ _ => [.drainComplete t]
  | .yield _ => [.yieldEnd t]
  | .tlbi _ _ _ _ => [.tlbiComplete t]
  | .ctxsave _ _ _ => [.ctxsaveComplete t]
  | .ctxload _ _ => [.ctxloadComplete t]
  | _ => []

/-- What a thread may do: its gates, its commit, the end of its waits, its probe. -/
def threadSteps (t : Nat) (th : Thread) : List Instr :=
  let probe : List Instr := [.mireProbeSend (.thread t)]
  match th.mode, th.block with
  | .mwait, _ => .mwaitSatisfied t :: probe
  | .trailing ws _, _ => ws.flatMap (waitSteps t) ++ probe
  | .ready, some b =>
    (if blockComplete b then [.blockCommit t] else []) ++
    ((List.range b.slots.length).flatMap (fun k => match b.slots[k]? with
      | some sl => if sl.phase = .gated then (slotInstr sl).elim [] (gateStep (asidOf th) t k) else []
      | none => [])) ++ probe
  | .ready, none => []
  | .halted, _ => []
  | .fallen, _ => []
  | _, _ => probe

/-- What a node does by its kind. -/
def kindSteps (c n : Nat) (w : NodeWord) : List Instr :=
  match w.kind with
  | 0 => [.mapFire c n]
  | 1 => [.transcFire c n]
  | 2 => [.convCvt c n, .convWidth c n, .lpack c n, .lunpack c n]
  | 3 => [.filterFire c n]
  | 4 => [.mergeOrdered c n, .mergeRrobin c n, .mergeConcat c n]
  | 5 => [.loopCycle c n]
  | 6 => [.mmaEmit c n, .mmaPass c n]
  | 7 => [.permTable c n, .permRank c n, .permTranspose c n]
  | 8 => [.scanBeat c n, .scanBoundary c n]
  | 9 => [.redBeat c n, .redDaccColumn c n]
  | 10 => [.agenEmit c n]
  | _ => [.memLoad c n 0, .memStore c n 0, .memRmw c n 0, .doneEmit c n, .linkinDescriptorReceive c n, .linkinReceive c n,
          .linkoutSend c n, .fifoReaderAcquire c n, .fifoWriterAcquire (.node c n)]

/-- What a node may do: its ports first, then the tokens that every kind treats alike, then its own step. -/
def nodeSteps (c n : Nat) (nd : Node) : List Instr :=
  ((List.range 3).flatMap (fun p =>
    [.reorderLenCheck c n p, .reorderStoreAccept c n p, .reorderStoreEmit c n p, .sinkHalt c n p, .poisonForward c n p])) ++
  [.sluiceForward c n, .snapAlign c n, .snapAlignTimeout c n] ++ kindSteps c n nd.word ++ [.mireProbeSend (.node c n)]

/-- What a cell may do. A move of a cell to other pages is never needed, for a placement takes free pages wherever they lie (R375). -/
def cellSteps (s : State) (c : Nat) (x : Cell) : List Instr :=
  if !cellRuns s x then []
  else (List.range x.nodes.length).flatMap (fun n => (x.nodes[n]?).elim [] (nodeSteps c n)) ++
    (List.range (8 * x.pages.length)).map (fun b => .fifoSlotFill c b)

/-- The next sector of a running copy. -/
def nextSector (r : CopyRun) : Nat := ((List.range (runSectors r).length).find? (fun j => !r.perf.contains j)).getD 0

/-- What an engine set may do. -/
def esetSteps (e : Nat) (x : EngineSet) : List Instr :=
  ((List.range x.terms.length).map (fun i => Instr.termFire e i)) ++ ((List.range x.counters.length).map (fun i => Instr.counterThreshold e i)) ++
  (List.range x.channels.length).flatMap (fun ch => match x.channels[ch]? with
    | none => []
    | some c =>
      match c.cur with
      | some r => [.fifoWriterAcquire (.channel e ch), .copySector e ch (nextSector r), .copyComplete e ch, .mireProbeSend (.channel e ch)]
      | none => if c.queue.isEmpty then [] else [.copyBegin e ch])

/-- What a context may do. -/
def ctxSteps (s : State) (a : Nat) (c : Context) : List Instr :=
  (c.launches.flatMap (fun l => [.launchAgeTarget a l.1, .launchPlace a l.1, .launchComplete a l.1])) ++
  [.sampleTimer a, .checkpointEpoch a, .epochEnd a, .replayEnd a] ++
  (s.regions.filter (fun r => r.asid == a)).flatMap (fun r =>
    [.quantumFloorExpire a r.cluster, .preemptRequest a r.cluster .scheduler, .sliceExpire a r.cluster, .preemptRequest a r.cluster .allocator,
     .preemptRequest a r.cluster .merge, .regionGate a r.cluster, .readout a r.cluster])

/-- A launch of another context waits for a cluster (R371, R372). -/
def awaited (s : State) (part a cl : Nat) : Bool :=
  (eligibleOf s part).any (fun y => y.1 != a && mayLeave s y.1 y.2.1 y.2.2 && (y.2.2.target.getD []).contains cl)

/-- A region that has been read out comes back where it fits, unless a launch waits for the cluster. -/
def restoreSteps (s : State) (a : Nat) (c : Context) : List Instr :=
  (s.regions.filter (fun r => r.asid == a && r.phase == .readOut)).flatMap (fun r =>
    let all := (diesIn (diesOf s a)).flatMap (fun d => (List.range Config.clustersPerDie).map (fun k => d * Config.clustersPerDie + k))
    match (r.cluster :: all).find? (fun dst => !awaited s c.part a dst && fitsRegion s a r.cluster dst) with
    | some dst => [.restore a r.cluster dst]
    | none => [])

/-- What is in flight may land. -/
def flightSteps (s : State) : List Instr :=
  let f := s.fl
  ((List.range f.writes.length).map (fun k => Instr.mailboxWriteLand k)) ++
  ((List.range (f.msgs.length + f.inbound.length)).map (fun k => Instr.messageLand k)) ++
  ((List.range f.msgs.length).map (fun k => Instr.hostMailboxLand k)) ++
  ((List.range f.steals.length).flatMap (fun k => [Instr.stealRequestLand k, .stealReplyLand k])) ++
  ((List.range f.shapes.length).map (fun k => Instr.shapeArrive k)) ++
  ((List.range f.inbound.length).flatMap (fun k =>
    [Instr.collPayloadArrive k, .collAbortArrive k, .incomingPeerAccess k, .remoteWalkerFetch k])) ++
  ((List.range f.frames.length).map (fun k => Instr.frameReceive k)) ++
  ((List.range f.walks.length).map (fun k => Instr.walkerFetch k)) ++
  ((List.range f.probes.length).map (fun k => Instr.deadlock k)) ++
  ((List.range (f.probes.length + f.inbound.length)).map (fun k => Instr.mireProbeForward k))

/-- Every step that some unit may take. -/
def unitSteps (s : State) : List Instr :=
  flightSteps s ++ s.threads.flatMap (fun e => threadSteps e.1 e.2) ++
  ((s.threads.map (fun e => e.2.home.cluster)).dedup.flatMap (fetchTurn s)) ++
  s.cells.flatMap (fun e => cellSteps s e.1 e.2) ++ s.esets.flatMap (fun e => esetSteps e.1 e.2) ++
  s.colls.flatMap (fun e => [.collLevelCombine e.1, .collStepComplete e.1, .mireProbeSend (.coll e.1)]) ++
  s.ctxs.flatMap (fun e => ctxSteps s e.1 e.2 ++ restoreSteps s e.1 e.2) ++
  s.parts.flatMap (fun e => [.mergeQuiesceTimeout e.1, .mergeComplete e.1]) ++
  s.mem.hot.map (fun h => .compressionIdleExpire h.1)

/-- A step is due: its meaning changes the state. -/
def isDue (s : State) (i : Instr) : Bool := nextOf (exec i s) s != s

/-- The step of a unit that comes next: the first that is due, from a place in the order that moves with the cycle, so that every
unit gets its turn. -/
def nextEvent (s : State) : Option Instr :=
  let l := unitSteps s
  let k := if l.isEmpty then 0 else s.cycle % l.length
  (l.drop k ++ l.take k).find? (isDue s)

/-! ### What passes with every cycle -/

/-- A party that is blocked no longer may send a probe again at its next wait. -/
def unprobe (s : State) : State :=
  let free (q : Party) : Bool := (links s q).isEmpty
  { s with
    threads := s.threads.map (fun e => if e.2.probed && free (.thread e.1) then (e.1, { e.2 with probed := false }) else e),
    cells := s.cells.map (fun e => (e.1, { e.2 with nodes := (List.range e.2.nodes.length).filterMap (fun n =>
      (e.2.nodes[n]?).map (fun nd => if nd.probed && free (.node e.1 n) then { nd with probed := false } else nd)) })),
    esets := s.esets.map (fun e => (e.1, { e.2 with channels := (List.range e.2.channels.length).filterMap (fun ch =>
      (e.2.channels[ch]?).map (fun c => if c.probed && free (.channel e.1 ch) then { c with probed := false } else c)) })) }

/-- A cycle passes: classes and counters (R384, R387), the cycle count, launches that become eligible (R283), probes. -/
def tick (s : State) : State :=
  let s1 := countCycle s
  unprobe (noteEligible { s1 with cycle := s1.cycle + 1 })

end Sys2Proof.Machine
end

