-- ==== Sys2Proof/Machine/Step.lean ====
section
/-! DEFINITION. One step of the machine: one cycle, in which one instruction fires or one unit takes its step. -/

namespace Sys2Proof.Machine

/-- One step, after what passes with every cycle. The agenda comes first: it holds what the outside world does and the choices
that the spec leaves to arbitration (log 1). Else an instruction of a block in flight fires. Else a unit takes its step. Else a
cycle passes. -/
def step (s : State) : Host.Outcome State Fault Refusal :=
  match (tick s).agenda with
  | i :: rest => exec i { tick s with agenda := rest }
  | [] =>
    match nextFire (tick s) (tick s).threads with
    | some (t, k, i) => exec i { tick s with cur := (t, k) }
    | none =>
      match nextEvent (tick s) with
      | some i => exec i (tick s)
      | none => .next (tick s)

/-- The state whose next step runs the instruction with these bits: control words are 32 bits (R67). -/
def State.withFetchWord (s : State) (nbits w : Nat) : State := placeWord s (BitVec.ofNat 32 (w % 2 ^ nbits))

end Sys2Proof.Machine
end

