-- ==== Sys2Proof/Safety.lean ====
section
/-! DEFINITION. What counts as a safe state, and the terms that statements use: when an instruction of a block fires, what
the machine is after it, and what stands at a place of a cell. -/

namespace Sys2Proof

open Machine

/-- Memory is in its canonical form. -/
def Safe (s : State) : Prop := s.mem.wf = true

/-- The instruction is a control instruction: it has a word. -/
def IsControl (i : Instr) : Prop := (encode i).isSome = true

/-- The instruction that the step has selected stands in slot q.k of the block of thread q.t, its operands have arrived, and
its predicate lets it fire (R74, R97). -/
def Fires (s : State) (i : Instr) (q : Firing) : Prop :=
  firing s = some q ∧ portsReady q.sl i = true ∧ polarity (instrPm i) q.sl.x = true

/-- The value at port L, R or X of the slot that fires. -/
def atL (q : Firing) : W := q.sl.l.getD 0
/-- The value at port R. -/
def atR (q : Firing) : W := q.sl.r.getD 0
/-- The value at port X. -/
def atX (q : Firing) : W := q.sl.x.getD 0

/-- u is s but for what a translation keeps: the translation, the entries of tables on its way, and the leases of the reads of a walk (R332,
R336). -/
def translated (s u : State) : Prop := u = { s with mem := { s.mem with tlb := u.mem.tlb, dirs := u.mem.dirs, lines := u.mem.lines } }

/-- The machine with another block in flight in the thread of q, and nothing else changed. -/
def withBlock (s : State) (q : Firing) (b : Block) : State :=
  { s with threads := aset s.threads q.t { q.th with block := some b } }

/-- The machine after the slot of q has fired and left block b: the slot counts as fired, and what can no longer fire is
resolved without firing (R74). -/
def afterFiring (s : State) (q : Firing) (b : Block) : State :=
  withBlock s q (settle (q.b.slots.length + 1) (setPhase (ownEffs q b) q.k .fired))

/-- The machine u, in which a gate has ended, once the slot of q has fired and left block b (R125). -/
def afterGate (u : State) (q : Firing) (b : Block) : State :=
  updBlock u q.t (fun _ => settle (q.b.slots.length + 1) (setPhase (ownEffs q b) q.k .fired))

/-- The machine with its eye on the slot of q. -/
def lookAt (s : State) (q : Firing) : State := { s with cur := (q.t, q.k) }

/-- The slot of q is held at its gate with instruction i, which could fire now, and its thread runs (R125). -/
structure Gated (s : State) (i : Instr) (q : Firing) : Prop where
  fires : Fires (lookAt s q) i q
  instr : slotInstr q.sl = some i
  phase : q.sl.phase = .gated
  runs : threadRuns s q.th = true

/-- The machine s once the held slot of q has gone on and left u: the thread is busy again where nothing else holds it (R314). -/
def goesOn (s : State) (q : Firing) (u : State) : State := { busyAgain u q.t with cur := s.cur }

/-- The graph block bs of the CFG of q, with header h, can be read or is cached, passes every check, and nothing holds it (R131). -/
structure CfgReady (s : State) (q : Firing) (h : BitVec 128) (bs : List Byte) : Prop where
  aligned : (atL q).toNat % 16 = 0
  reserved : (atR q).extractLsb' 40 24 = 0
  drained : (cellAt s q.th.home.crew (field (atR q) 0 4)).elim true (fun e => drained e.2) = true
  header : ∃ hb, fetchBytes s (whoThread s q.th (atL q) 16) .graph (atL q) 16 = some hb ∧ h = BitVec.ofNat 128 (leVal hb)
  magic : h.extractLsb' 0 4 = 2
  some_ : 0 < (h.extractLsb' 29 8).toNat
  fit : pagesFit s q.th.home.crew (cellAt s q.th.home.crew (field (atR q) 0 4)) (h.extractLsb' 29 8).toNat = true
  roles : rolesOk (atR q) (h.extractLsb' 29 8).toNat = true
  pages : (h.extractLsb' 29 8).toNat ≤ pagesAvail s q.th.home.crew q.th.home.cluster (field (atR q) 0 4)
  graph : graphOrFetch s q (atL q) (atR q) h = some bs
  checks : connCheck s (graphOf bs) bs ((List.range 16).map (roleOf (atR q))) (diesOf s q.th.home.crew.asid) q.th.home.crew.asid
    ((cellAt s q.th.home.crew (field (atR q) 0 4)).elim s.nextId (fun e => e.1)) (field (atR q) 0 4) (spillOf s q.th.home.crew) = none
  free : cfgOpen s q.th (field (atR q) 0 4) (graphOf bs) (cellAt s q.th.home.crew (field (atR q) 0 4)) = true

/-- The machine after that CFG has fired: its wait has ended, the translations of its fetch are kept, and its effect is left. -/
def cfgDone (s : State) (q : Firing) (h : BitVec 128) (bs : List Byte) : State :=
  let n := fetchedBytes s q (atL q) (atR q) h
  afterGate (fillPages (cfgEnds s q (cellAt s q.th.home.crew (field (atR q) 0 4))) (whoThread s q.th (atL q) n) (n / 4096 + 2) (atL q) n) q
    (addEff (noteRecs q.b (fetchParts s q.th (atL q) n)) (.cfg q.k (atL q) (atR q) bs))

/-- The STRM of q names an AGEN of cell c that holds no stream, its record has been read, and its LEN fits (R132, R237). -/
structure StrmReady (s : State) (q : Firing) (c : Nat) (x : Cell) (nd : Node) (parts : List (Loc × List Byte)) : Prop where
  aligned : (atR q).toNat % 16 = 0
  reserved : (atL q).toNat < 2 ^ 11
  cell : cellAt s q.th.home.crew ((atL q).toNat % 16) = some (c, x)
  node : x.nodes[(atL q).toNat / 16]? = some nd
  kind : nd.word.kind = kAGEN
  idle : (memOf nd).starts = [] ∨ x.halted = true
  record : readRecord s q (atR q) 32 = .ok parts
  zero : (wordsOf 4 (recBytes parts)).getD 3 0 = 0
  fits : nd.ord.anyRagged = true →
    lenOver nd.ord ((List.range 4).map (fun d => field ((wordsOf 4 (recBytes parts)).getD 2 0) (16 * d) 16)) = false ∧
    strmOver x ((atL q).toNat / 16) ((List.range 4).map (fun d => field ((wordsOf 4 (recBytes parts)).getD 2 0) (16 * d) 16)) = none

/-- The machine after that STRM has fired: its gate's signal is that of the AGEN's last END (R315). -/
def strmDone (s : State) (q : Firing) (c : Nat) (x : Cell) (nd : Node) (parts : List (Loc × List Byte)) : State :=
  afterGate (gateEnds (useXlate s q.th (atR q)) q (memOf nd).endSig 6 (nodeUnit (useXlate s q.th (atR q)) x ((atL q).toNat / 16))) q
    (addEff (noteRecs q.b parts) (.strm c ((atL q).toNat / 16) ((wordsOf 4 (recBytes parts)).getD 0 0)
      ((wordsOf 4 (recBytes parts)).getD 1 0)
      ((List.range 4).map (fun d => field ((wordsOf 4 (recBytes parts)).getD 2 0) (16 * d) 16))))

/-- The machine whose slot of q is held at its gate from now on (R125): the thread's busy cycles stop where they ran. -/
def gates (s : State) (q : Firing) : State :=
  updBlock (if threadWaits q.th then s else beginWait s q.t) q.t (fun b => { setPhase b q.k .gated with gateAt := s.cycle })

/-- The machine after the slot of q has raised a trap, which is taken in place of the commit (R112, R124). -/
def afterFault (s : State) (q : Firing) (code sub : BitVec 8) (addr : W) : State :=
  withBlock s q (setPhase (raise q.b q.k code sub addr) q.k .fired)

/-- The machine after the slot of q has delivered one result to its two targets (R97). -/
def delivers (s : State) (q : Firing) (t v : Target) (r : W) : State := afterFiring s q (deliver2 q.b q.k t v r)

/-- The machine after the slot of q has delivered one result to its only target. -/
def delivers1 (s : State) (q : Firing) (t : Target) (r : W) : State := afterFiring s q (deliver q.b q.k t r)

/-- The machine after the slot of q has left one effect for the commit (R110). -/
def leaves (s : State) (q : Firing) (e : Eff) : State := afterFiring s q (addEff q.b e)

/-- The block whose only branch that has fired chose c (R76). -/
def chosen (b : Block) (c : Choice) : Block := { b with branches := 1, choice := some c }

/-- The low bits of a value at an operation's width (R99). -/
def low (w : Width) (x : W) : BitVec (wbits w) := x.setWidth (wbits w)

/-- A result of an operation's width, extended to 64 bits by its sign or by zeros (R99). -/
def widen (sg : Bool) {n : Nat} (x : BitVec n) : W := if sg then x.signExtend 64 else x.setWidth 64

/-- An operand at twice its width, extended by its sign or by zeros. -/
def doubled (sg : Bool) {n : Nat} (x : BitVec n) : BitVec (2 * n) := if sg then x.signExtend (2 * n) else x.setWidth (2 * n)

/-- Less than, signed or unsigned. -/
def less (sg : Bool) {n : Nat} (x y : BitVec n) : Bool := if sg then x.slt y else x.ult y

/-- A place in this package's memory, or in a window over it. -/
def isHere (l : Loc) : Bool :=
  match l with
  | .mem _ => true
  | .view _ _ => true
  | _ => false

/-- The loads (R120): the instruction, whether it extends by the sign, its bytes, and whether it reaches the aperture. -/
def loadForms (t : Target) (m : BitVec 9) (l : BitVec 5) (p : Pm) : List (Instr × Bool × Nat × Bool) :=
  [(.ld8 t m l p, false, 1, false), (.ld16 t m l p, false, 2, false), (.ld32 t m l p, false, 4, false),
   (.ld64 t m l p, false, 8, true), (.lds8 t m l p, true, 1, false), (.lds16 t m l p, true, 2, false),
   (.lds32 t m l p, true, 4, false)]

/-- The stores (R120): the instruction, its bytes, and whether it reaches the aperture. -/
def storeForms (m : BitVec 9) (l : BitVec 5) (p : Pm) : List (Instr × Nat × Bool) :=
  [(.st8 m l p, 1, false), (.st16 m l p, 2, false), (.st32 m l p, 4, false), (.st64 m l p, 8, true)]

/-- The atomics (R121) with their operations; x is the comparand of ACAS. -/
def atomicForms (t : Target) (m : BitVec 9) (l : BitVec 5) (p : Pm) (x : W) : List (Instr × AccessKind) :=
  [(.aadd t m l p, .add), (.aand t m l p, .and), (.aor t m l p, .or), (.axor t m l p, .xor), (.amin t m l p, .min),
   (.amax t m l p, .max), (.aswp t m l p, .swap), (.acas t m l, .cas x)]

/-- Every memory instruction: the instruction, the kind of access, its bytes, and whether it reaches the aperture. -/
def accessForms (t : Target) (m : BitVec 9) (l : BitVec 5) (p : Pm) : List (Instr × AccKind × Nat × Bool) :=
  (loadForms t m l p).map (fun e => (e.1, .load, e.2.2.1, e.2.2.2)) ++
  (storeForms m l p).map (fun e => (e.1, .store, e.2.1, e.2.2)) ++
  (atomicForms t m l p 0).map (fun e => (e.1, .atomic, 8, false))

/-- The tokens that wait at port p of node m of a cell. -/
def queueAt (s : State) (c m p : Nat) : List Token := (nodeOf s c m).elim [] (fun nd => (nd.port p).q)

/-- The context keeps no counters and no log, so that nothing but what an instruction itself writes changes memory (R387, R396). -/
def Quiet (s : State) (a : Nat) : Prop :=
  ∀ c, aget s.ctxs a = some c → c.pmc.ctl.getLsbD 0 = false ∧ c.log.ckctl.getLsbD 0 = false ∧ c.log.epochs = []

/-- Block b of thread t is the block in flight of a running thread, and every instruction of it is done with (R74, R109); no replay holds it (R398). -/
structure Completes (s : State) (t : Nat) (th : Thread) (b : Block) : Prop where
  thread : aget s.threads t = some th
  block : th.block = some b
  mode : th.mode = .ready
  runs : threadRuns s th = true
  complete : blockComplete b = true
  holds : seeds s th b = []
  recorded : replayHolds s th b = false
  confirmed : unconfirmed s th.home.crew = false

/-- It has raised no trap, what it used still holds, and its branch chose c: it commits next (R76, R110). -/
structure Commits (s : State) (t : Nat) (th : Thread) (b : Block) (c : Choice) : Prop extends Completes s t th b where
  clean : lowestFault b = none
  filled : emptySlots s th b = []
  branch : b.choice = some c
  gates : closedGates t th b s (orderedEffs b) = []

/-- An effect of GWR, MWR, MRD or MWAIT. -/
def registerEff (e : Eff) : Bool :=
  match e with
  | .gwr _ _ => true
  | .mwr _ _ => true
  | .mclr _ => true
  | _ => false

/-- The value that register n holds after a block's GWRs: that of the last slot that wrote it, else the old one. -/
def gwrValue (l : List (Nat × Eff)) (n : BitVec 6) (old : W) : W :=
  l.foldl (fun v e => match e.2 with
    | .gwr m x => if m = n then x else v
    | _ => v) old

/-- The value that mailbox n holds after a block's MWRs. -/
def mwrValue (l : List (Nat × Eff)) (n : BitVec 4) (old : W) : W :=
  l.foldl (fun v e => match e.2 with
    | .mwr m x => if m = n then x else v
    | _ => v) old

/-- SEQ of a thread's next trap (R344, R358): the number that a gate gave to its fault, else the next of its context. The first is 1:
DESIGN CHOICE, log 17. -/
def seqOf (th : Thread) (c : Context) : BitVec 32 := th.seq.getD (c.regs.fseq + 1)

/-- A thread after a trap that has a handler (R345, R346): everything that is not named here is as it was. -/
def trapped (th : Thread) (c : Context) (tr : TrapReq) (pc : W) : Thread :=
  { th with
    pc := c.regs.trapvec, block := none, mode := .ready, seq := none,
    regs := { th.regs with
      trapinfo := seqOf th c ++ (0 : BitVec 8) ++ (if tr.hdr then (1 : BitVec 1) else 0) ++ tr.slot ++ tr.sub ++ tr.code,
      trapaddr := tr.addr, trappc := pc.extractLsb' 4 60 ++ (0 : BitVec 4), ppriv := th.regs.priv,
      priv := if th.regs.priv = lUSER then lSUPER else th.regs.priv, intrap := true } }

/-- The thread of a handle, where it satisfies p. -/
def threadHas (u : State) (t : Nat) (p : Thread → Prop) : Prop := ∃ th, aget u.threads t = some th ∧ p th

/-- A thread has the registers, the pc and the return-address store of another. -/
def sameRegs (x th : Thread) : Prop :=
  x.gs = th.gs ∧ x.ms = th.ms ∧ x.mfull = th.mfull ∧ x.regs = th.regs ∧ x.pc = th.pc ∧ x.ras = th.ras

/-- What thread th is after a write of v has landed in its mailbox n (R127, R128): the mailbox holds v and is full, MBOVR
notes that it was full before, and nothing else of its registers changes. -/
def tookMail (th : Thread) (n : BitVec 4) (v : W) (x : Thread) : Prop :=
  x.ms.get ⟨n.toNat, n.isLt⟩ = v ∧ x.mfull.getLsbD n.toNat = true ∧
  (∀ m : BitVec 4, m ≠ n → x.ms.get ⟨m.toNat, m.isLt⟩ = th.ms.get ⟨m.toNat, m.isLt⟩ ∧
    x.mfull.getLsbD m.toNat = th.mfull.getLsbD m.toNat) ∧
  (∀ m : BitVec 4, x.regs.mbovr.getLsbD m.toNat = (th.regs.mbovr.getLsbD m.toNat || (decide (m = n) && th.mfull.getLsbD n.toNat))) ∧
  x.gs = th.gs ∧ x.pc = th.pc ∧ x.ras = th.ras ∧ x.regs = { th.regs with mbovr := x.regs.mbovr }

/-- OUTA of node n of a running cell leads to port p of node m, which takes tokens as they come: no adapter regroups them, no store
reorders them, and OUTB leads elsewhere (R152, R229, R230). -/
structure LeadsTo (s : State) (c n : Nat) (x : Cell) (nd : Node) (m p : Nat) : Prop where
  cell : aget s.cells c = some x
  runs : cellRuns s x = true
  node : x.nodes[n]? = some nd
  out : nd.word.outA = some (p + 1, m)
  alone : ∀ b, nd.word.outB = some b → b.2 ≠ m ∨ b.1 ≠ p + 1 ∧ b.1 ≠ 0
  other : m ≠ n
  straight : ∃ md pt, x.nodes[m]? = some md ∧ md.ports[p]? = some pt ∧ pt.store = none ∧ pt.link = [] ∧ pt.rest = [] ∧
    (pt.elem = tDONE ∨ pt.rep = true ∨ pt.lp = pt.le)

/-- OUTA of node n leads to port p of node m, and nothing that the node formed before waits to leave it. -/
structure Sends (s : State) (c n : Nat) (x : Cell) (nd : Node) (m p : Nat) : Prop extends LeadsTo s c n x nd m p where
  formed : nd.sentAll = true

/-- Node n of a running cell. -/
structure NodeAt (s : State) (c n : Nat) (x : Cell) (nd : Node) : Prop where
  cell : aget s.cells c = some x
  runs : cellRuns s x = true
  node : x.nodes[n]? = some nd

/-- Node n of cell c, where it satisfies p. -/
def nodeHas (u : State) (c n : Nat) (p : Node → Prop) : Prop := ∃ nd, nodeOf u c n = some nd ∧ p nd

/-- Node n of a running cell, none of whose tokens waits to leave it. -/
structure NodeFree (s : State) (c n : Nat) (x : Cell) (nd : Node) : Prop extends NodeAt s c n x nd where
  formed : nd.sentAll = true

/-- Node n has formed the tokens ts for OUTA, which leads to port p of node m: the first is there, the others leave it one by one
(R152). -/
def sends (s u : State) (c n m p : Nat) (ts : List Token) : Prop :=
  queueAt u c m p = queueAt s c m p ++ ts.take 1 ∧ nodeHas u c n (fun y => y.pendA = ts.drop 1)

/-- The same for OUTB. -/
def sendsB (s u : State) (c n m p : Nat) (ts : List Token) : Prop :=
  queueAt u c m p = queueAt s c m p ++ ts.take 1 ∧ nodeHas u c n (fun y => y.pendB = ts.drop 1)

/-- Node n sends on OUTB to port p of node m, which takes tokens as they come, and nothing that it formed before waits to leave it. -/
structure SendsB (s : State) (c n : Nat) (x : Cell) (nd : Node) (m p : Nat) : Prop extends NodeFree s c n x nd where
  out : nd.word.outB = some (p + 1, m)
  other : m ≠ n
  straight : ∃ md pt, x.nodes[m]? = some md ∧ md.ports[p]? = some pt ∧ pt.store = none ∧ pt.link = [] ∧ pt.rest = []

/-- The beat b stands at the ports of a MEM node in a stream, and lane i of it performs next, at place r. -/
structure LaneAt (s : State) (c n e : Nat) (x : Cell) (nd : Node) (b : MemBeat) (i : Nat) (r : NodeLoc) : Prop
    extends NodeFree s c n x nd where
  kind : nd.word.kind = kMEM
  mode : nd.word.mode ≤ 2
  alone : memDone s x n nd = none
  begun : (memOf nd).begun = true
  more : (memPorts nd).all (fun k => (nd.port k).ended) = false
  beat : ∃ xs, lockAct s x n nd (memPorts nd) (fun _ => 0) false = .beat xs ∧ b = memBeat nd xs
  next : laneNext nd b e = some i
  back : loadOut s c n ((nd.port 0).pos + i) = false
  place : memLoc s c n x nd (laneAddr b i) = .ok r
  unheld : laneHeld s c n x (laneLoc s c n x nd b) (lanesDue nd b) i (elemBytes nd.word.type) r.loc = false
  proven : nd.word.mode = 0 ∨ laneProof s x (laneAddr b i) (elemBytes nd.word.type) r = false

/-- A merge of partition k with j has been refused with a reason (R382): both go on, no request of it is left, and a region that it has
gated runs again. -/
def refusedMerge (s u : State) (k j : Nat) (p : Partition) (why : BitVec 4) : Prop :=
  aget u.parts k = some { p with merge := { p.merge with state := 3, go := false, reason := why } } ∧
  (∀ a c, aget s.ctxs a = some c → c.part = k ∨ c.part = j → ∃ c', aget u.ctxs a = some c' ∧ c'.merging = false ∧ c'.part = c.part) ∧
  ((∀ r ∈ s.regions, r.phase = .running) → u.mem = s.mem ∧ u.threads = s.threads ∧ u.cells = s.cells ∧
    ∀ r ∈ u.regions, ∀ c, aget s.ctxs r.asid = some c → c.part = k ∨ c.part = j → c.saved = false → c.stopped = false →
      r.requests.contains .merge = false)

end Sys2Proof
end

