-- ==== Sys2Proof/Certificates/Slice0/Obligations.lean ====
section
/-! DEFINITION. Statements about the machine for the provers. Each says in its docstring which rules of the specification it
formalises, and names the log entry where it rests on a choice of the model. -/

open Sys2Proof Sys2Proof.Machine

/-! ### Control instructions: results (R97 to R105) -/

/-- R99: the results of the integer instructions at every width and signedness, delivered to both targets. Each is computed on
the low W bits and wraps; it is extended by its sign or by zeros. A zero divisor gives all ones or the dividend and sets the
block's DZ (R100); the overflowing quotient wraps. SHR shifts the natural value and extends by its signedness; SRA shifts and
extends by the sign. -/
def Obligations.IntegerResults : Prop :=
  ∀ (s : State) (q : Firing) (v t : Target) (sg : Bool) (w : Width) (p : Pm),
    (Fires s (.add v t w p) q →
      exec (.add v t w p) s = .next (delivers s q t v ((low w (atL q) + low w (atR q)).setWidth 64))) ∧
    (Fires s (.sub v t w p) q →
      exec (.sub v t w p) s = .next (delivers s q t v ((low w (atL q) - low w (atR q)).setWidth 64))) ∧
    (Fires s (.mul v t w p) q →
      exec (.mul v t w p) s = .next (delivers s q t v ((low w (atL q) * low w (atR q)).setWidth 64))) ∧
    (Fires s (.mulh v t sg w p) q →
      exec (.mulh v t sg w p) s = .next (delivers s q t v (widen sg ((doubled sg (low w (atL q)) * doubled sg (low w (atR q))).extractLsb'
        (wbits w) (wbits w))))) ∧
    (Fires s (.div v t sg w p) q →
      exec (.div v t sg w p) s = .next (afterFiring s q (deliver2 { q.b with dz := q.b.dz || decide (low w (atR q) = 0) } q.k t v
        (widen sg (if low w (atR q) = 0 then BitVec.allOnes (wbits w)
          else if sg then (low w (atL q)).sdiv (low w (atR q)) else (low w (atL q)).udiv (low w (atR q))))))) ∧
    (Fires s (.rem v t sg w p) q →
      exec (.rem v t sg w p) s = .next (afterFiring s q (deliver2 { q.b with dz := q.b.dz || decide (low w (atR q) = 0) } q.k t v
        (widen sg (if low w (atR q) = 0 then low w (atL q)
          else if sg then (low w (atL q)).srem (low w (atR q)) else (low w (atL q)).umod (low w (atR q))))))) ∧
    (Fires s (.and v t w p) q →
      exec (.and v t w p) s = .next (delivers s q t v ((low w (atL q) &&& low w (atR q)).setWidth 64))) ∧
    (Fires s (.or v t w p) q →
      exec (.or v t w p) s = .next (delivers s q t v ((low w (atL q) ||| low w (atR q)).setWidth 64))) ∧
    (Fires s (.xor v t w p) q →
      exec (.xor v t w p) s = .next (delivers s q t v ((low w (atL q) ^^^ low w (atR q)).setWidth 64))) ∧
    (Fires s (.shl v t w p) q →
      exec (.shl v t w p) s = .next (delivers s q t v ((low w (atL q) <<< ((low w (atR q)).toNat % wbits w)).setWidth 64))) ∧
    (Fires s (.shr v t sg w p) q →
      exec (.shr v t sg w p) s = .next (delivers s q t v (widen sg (low w (atL q) >>> ((low w (atR q)).toNat % wbits w))))) ∧
    (Fires s (.sra v t w p) q →
      exec (.sra v t w p) s = .next (delivers s q t v (((low w (atL q)).sshiftRight ((low w (atR q)).toNat % wbits w)).signExtend 64))) ∧
    (Fires s (.min v t sg w p) q →
      exec (.min v t sg w p) s = .next (delivers s q t v (widen sg (if less sg (low w (atL q)) (low w (atR q))
        then low w (atL q) else low w (atR q))))) ∧
    (Fires s (.max v t sg w p) q →
      exec (.max v t sg w p) s = .next (delivers s q t v (widen sg (if less sg (low w (atL q)) (low w (atR q))
        then low w (atR q) else low w (atL q)))))

/-- R102, R103: EXT delivers the halves of L; INS puts the low bits of R into L at the field that X names; TAG and LEA keep
the bits outside what they write; CLZ and POPC count; MOV copies. Each word has the OP, XOP, targets and PM of the tables. -/
def Obligations.BitFieldResults : Prop :=
  ∀ (s : State) (q : Firing) (v t : Target) (sh : BitVec 2) (w : Width) (p : Pm),
    (Fires s (.ext v t p) q →
      exec (.ext v t p) s = .next (afterFiring s q (deliver (deliver q.b q.k t ((atL q).extractLsb' 0 32 |>.setWidth 64)) q.k v
        ((atL q).extractLsb' 32 32 |>.setWidth 64)))) ∧
    (Fires s (.ins v t) q →
      ∃ r : W, exec (.ins v t) s = .next (delivers s q t v r) ∧ ∀ i < 64, r.getLsbD i =
        (if (atX q).toNat % 64 ≤ i ∧ i ≤ (atX q).toNat % 64 + (atX q).toNat / 64 % 64
         then (atR q).getLsbD (i - (atX q).toNat % 64) else (atL q).getLsbD i)) ∧
    (Fires s (.tag v t p) q →
      exec (.tag v t p) s = .next (delivers s q t v ((atR q).extractLsb' 0 4 ++ (atL q).extractLsb' 0 60))) ∧
    (Fires s (.lea v t sh p) q →
      exec (.lea v t sh p) s = .next (delivers s q t v ((atL q).extractLsb' 60 4 ++
        ((atL q).extractLsb' 0 60 + (atR q <<< sh.toNat).extractLsb' 0 60)))) ∧
    (Fires s (.clz v t w p) q →
      ∃ n, n ≤ wbits w ∧ exec (.clz v t w p) s = .next (delivers s q t v (BitVec.ofNat 64 n)) ∧
        (∀ i, wbits w - n ≤ i → i < wbits w → (atL q).getLsbD i = false) ∧
        (n < wbits w → (atL q).getLsbD (wbits w - 1 - n) = true)) ∧
    (Fires s (.popc v t w p) q →
      exec (.popc v t w p) s = .next (delivers s q t v
        (BitVec.ofNat 64 ((List.range (wbits w)).filter (fun i => (atL q).getLsbD i)).length))) ∧
    (Fires s (.mov v t p) q → exec (.mov v t p) s = .next (delivers s q t v (atL q))) ∧
    (∀ e ∈ ([(.tag v t p, 0x1A, 0), (.lea v t sh p, 0x1B, sh.setWidth 5), (.clz v t w p, 0x1C, w.bits.setWidth 5),
        (.popc v t w p, 0x1D, w.bits.setWidth 5), (.mov v t p, 0x1E, 0), (.ext v t p, 0x0E, 0), (.ins v t, 0x0F, 0)] :
        List (Instr × BitVec 7 × BitVec 5)),
      ∃ x, encode e.1 = some x ∧ x.extractLsb' 0 7 = e.2.1 ∧ x.extractLsb' 9 5 = e.2.2 ∧ x.extractLsb' 14 9 = t.bits ∧
        x.extractLsb' 23 9 = v.bits ∧ x.extractLsb' 7 2 = (if e.2.1 = 0x0F then 1 else p.bits))

/-- R104, R105: the compares at their widths, the predicate operations on bit 0, TST and SEL deliver 1 or 0, or the chosen
operand, to both targets. Each word has the OP, XOP, targets and PM of the tables; CMPLT.n32 to s4.x is 0x0004_C222. -/
def Obligations.CompareAndSelectResults : Prop :=
  ∀ (s : State) (q : Firing) (v t : Target) (sg : Bool) (w : Width) (p : Pm),
    (Fires s (.cmpeq v t w p) q →
      exec (.cmpeq v t w p) s = .next (delivers s q t v (if low w (atL q) = low w (atR q) then 1 else 0))) ∧
    (Fires s (.cmpne v t w p) q →
      exec (.cmpne v t w p) s = .next (delivers s q t v (if low w (atL q) = low w (atR q) then 0 else 1))) ∧
    (Fires s (.cmplt v t sg w p) q →
      exec (.cmplt v t sg w p) s = .next (delivers s q t v (if less sg (low w (atL q)) (low w (atR q)) then 1 else 0))) ∧
    (Fires s (.cmple v t sg w p) q →
      exec (.cmple v t sg w p) s = .next (delivers s q t v (if less sg (low w (atR q)) (low w (atL q)) then 0 else 1))) ∧
    (Fires s (.tst v t w p) q →
      exec (.tst v t w p) s = .next (delivers s q t v (if low w (atL q) &&& low w (atR q) = 0 then 0 else 1))) ∧
    (Fires s (.pand v t p) q →
      exec (.pand v t p) s = .next (delivers s q t v (if (atL q).getLsbD 0 ∧ (atR q).getLsbD 0 then 1 else 0))) ∧
    (Fires s (.por v t p) q →
      exec (.por v t p) s = .next (delivers s q t v (if (atL q).getLsbD 0 ∨ (atR q).getLsbD 0 then 1 else 0))) ∧
    (Fires s (.pnot v t p) q →
      exec (.pnot v t p) s = .next (delivers s q t v (if (atL q).getLsbD 0 then 0 else 1))) ∧
    (Fires s (.sel v t) q →
      exec (.sel v t) s = .next (delivers s q t v (if (atX q).getLsbD 0 then atL q else atR q))) ∧
    (∀ e ∈ ([(.cmpeq v t w p, 0x20, w.bits.setWidth 5), (.cmpne v t w p, 0x21, w.bits.setWidth 5),
        (.cmplt v t sg w p, 0x22, (ofBool sg ++ w.bits).setWidth 5), (.cmple v t sg w p, 0x23, (ofBool sg ++ w.bits).setWidth 5),
        (.tst v t w p, 0x2C, w.bits.setWidth 5), (.pand v t p, 0x28, 0), (.por v t p, 0x29, 0), (.pnot v t p, 0x2A, 0), (.sel v t, 0x2B, 0)] :
        List (Instr × BitVec 7 × BitVec 5)),
      ∃ x, encode e.1 = some x ∧ x.extractLsb' 0 7 = e.2.1 ∧ x.extractLsb' 9 5 = e.2.2 ∧ x.extractLsb' 14 9 = t.bits ∧
        x.extractLsb' 23 9 = v.bits ∧ x.extractLsb' 7 2 = (if e.2.1 = 0x2B then 1 else p.bits)) ∧
    encode (.cmplt ⟨0, .none⟩ ⟨4, .x⟩ false .w32 .none) = some 0x0004C222

/-- R101: the immediate instructions, on 64 bits with IMM14 sign-extended; the shift counts are below 64; MOVHI shifts L left
by 14 and puts the immediate below. Each word has the OP and the fields of format I; a shift count of 64 or more is refused. -/
def Obligations.ImmediateResults : Prop :=
  ∀ (s : State) (q : Firing) (t : Target) (im : BitVec 14) (p : Pm),
    (Fires s (.addi t im p) q → exec (.addi t im p) s = .next (delivers1 s q t (atL q + im.signExtend 64))) ∧
    (Fires s (.muli t im p) q → exec (.muli t im p) s = .next (delivers1 s q t (atL q * im.signExtend 64))) ∧
    (Fires s (.andi t im p) q → exec (.andi t im p) s = .next (delivers1 s q t (atL q &&& im.signExtend 64))) ∧
    (Fires s (.ori t im p) q → exec (.ori t im p) s = .next (delivers1 s q t (atL q ||| im.signExtend 64))) ∧
    (Fires s (.xori t im p) q → exec (.xori t im p) s = .next (delivers1 s q t (atL q ^^^ im.signExtend 64))) ∧
    (Fires s (.shli t im p) q → im.toNat < 64 → exec (.shli t im p) s = .next (delivers1 s q t (atL q <<< im.toNat))) ∧
    (Fires s (.shri t im p) q → im.toNat < 64 → exec (.shri t im p) s = .next (delivers1 s q t (atL q >>> im.toNat))) ∧
    (Fires s (.srai t im p) q → im.toNat < 64 → exec (.srai t im p) s = .next (delivers1 s q t ((atL q).sshiftRight im.toNat))) ∧
    (Fires s (.movi t im p) q → exec (.movi t im p) s = .next (delivers1 s q t (im.signExtend 64))) ∧
    (Fires s (.movhi t im p) q → exec (.movhi t im p) s = .next (delivers1 s q t ((atL q).extractLsb' 0 50 ++ im))) ∧
    (Fires s (.cmpeqi t im p) q →
      exec (.cmpeqi t im p) s = .next (delivers1 s q t (if atL q = im.signExtend 64 then 1 else 0))) ∧
    (Fires s (.cmpnei t im p) q →
      exec (.cmpnei t im p) s = .next (delivers1 s q t (if atL q = im.signExtend 64 then 0 else 1))) ∧
    (Fires s (.cmplti t im p) q →
      exec (.cmplti t im p) s = .next (delivers1 s q t (if (atL q).toInt < im.toInt then 1 else 0))) ∧
    (Fires s (.cmplei t im p) q →
      exec (.cmplei t im p) s = .next (delivers1 s q t (if (atL q).toInt ≤ im.toInt then 1 else 0))) ∧
    (∀ e ∈ ([(.addi t im p, 0x10), (.muli t im p, 0x11), (.andi t im p, 0x12), (.ori t im p, 0x13), (.xori t im p, 0x14),
        (.shli t im p, 0x15), (.shri t im p, 0x16), (.srai t im p, 0x17), (.movi t im p, 0x18), (.movhi t im p, 0x19),
        (.cmpeqi t im p, 0x24), (.cmpnei t im p, 0x25), (.cmplti t im p, 0x26), (.cmplei t im p, 0x27)] : List (Instr × BitVec 7)),
      ∃ x, encode e.1 = some x ∧ x.extractLsb' 0 7 = e.2 ∧ x.extractLsb' 7 2 = p.bits ∧ x.extractLsb' 9 14 = im ∧
        x.extractLsb' 23 9 = t.bits ∧ (e.2 = 0x15 ∨ e.2 = 0x16 ∨ e.2 = 0x17 → 64 ≤ im.toNat → ∃ r, decode x = .error r))

/-! ### Registers, branches and the return-address store (R106, R107, R113 to R115, R126, R347, R348) -/

/-- R106, R107, R126: GRD, MRD, MWAIT and MFULL deliver what the block's snapshot holds, and g0 reads 0; GWR and MWR leave
their value, and MRD and MWAIT of a mailbox that was full leave its clearing, for the commit; MWR of m15 at USER raises PRIV. -/
def Obligations.RegisterInstructions : Prop :=
  ∀ (s : State) (q : Firing) (t : Target) (n : BitVec 6) (m : BitVec 4) (p : Pm),
    (Fires s (.grd t n p) q →
      exec (.grd t n p) s = .next (delivers1 s q t (if n = 0 then 0 else q.b.gs.get ⟨n.toNat, n.isLt⟩))) ∧
    (Fires s (.gwr n p) q → exec (.gwr n p) s = .next (leaves s q (.gwr n (atL q)))) ∧
    (Fires s (.mrd t m p) q →
      exec (.mrd t m p) s = .next (afterFiring s q (deliver (if q.b.mfull.getLsbD m.toNat then addEff q.b (.mclr m) else q.b) q.k t
        (q.b.ms.get ⟨m.toNat, m.isLt⟩)))) ∧
    (Fires s (.mwait t m) q →
      exec (.mwait t m) s = .next (afterFiring s q (deliver (if q.b.mfull.getLsbD m.toNat then addEff q.b (.mclr m) else q.b) q.k t
        (q.b.ms.get ⟨m.toNat, m.isLt⟩)))) ∧
    (Fires s (.mfull t m p) q →
      exec (.mfull t m p) s = .next (delivers1 s q t (if q.b.mfull.getLsbD m.toNat then 1 else 0))) ∧
    (Fires s (.mwr m p) q → ¬(m = 15 ∧ q.th.regs.priv = lUSER) →
      exec (.mwr m p) s = .next (leaves s q (.mwr m (atL q)))) ∧
    (Fires s (.mwr m p) q → m = 15 → q.th.regs.priv = lUSER →
      exec (.mwr m p) s = .next (afterFault s q cPRIV 0 q.b.addr))

/-- R113, R348: with no branch fired yet, BR, BRX, STOP and TRET fix the next block of the commit. A target from L or TRAPPC
that is no multiple of 16 raises ALIGN, and TRET at USER raises PRIV. A second branch that fires raises DECODE (R76). -/
def Obligations.BranchInstructions : Prop :=
  ∀ (s : State) (q : Firing) (f : BitVec 20) (e : BitVec 3) (p : Pm),
    (Fires s (.br f e p) q → q.b.branches = 0 →
      exec (.br f e p) s = .next (afterFiring s q (chosen q.b (.jump (q.b.addr + f.signExtend 64 * 16))))) ∧
    (Fires s (.br f e p) q → q.b.branches ≠ 0 →
      exec (.br f e p) s = .next (afterFiring s q (raise { q.b with branches := q.b.branches + 1 } q.k cDECODE 0 q.b.addr))) ∧
    (Fires s (.brx e p) q → q.b.branches = 0 → (atL q).toNat % 16 = 0 →
      exec (.brx e p) s = .next (afterFiring s q (chosen q.b (.jump (atL q))))) ∧
    (Fires s (.brx e p) q → (atL q).toNat % 16 ≠ 0 →
      exec (.brx e p) s = .next (afterFault s q cALIGN 0 (atL q))) ∧
    (Fires s (.stop e p) q → q.b.branches = 0 →
      exec (.stop e p) s = .next (afterFiring s q (chosen q.b .stop))) ∧
    (Fires s (.tret e p) q → q.th.regs.priv ≠ lUSER → q.b.branches = 0 → q.th.regs.trappc.toNat % 16 = 0 →
      exec (.tret e p) s = .next (afterFiring s q (chosen q.b (.tret q.th.regs.trappc)))) ∧
    (Fires s (.tret e p) q → q.th.regs.priv ≠ lUSER → q.th.regs.trappc.toNat % 16 ≠ 0 →
      exec (.tret e p) s = .next (afterFault s q cALIGN 0 q.th.regs.trappc)) ∧
    (Fires s (.tret e p) q → q.th.regs.priv = lUSER →
      exec (.tret e p) s = .next (afterFault s q cPRIV 0 q.b.addr))

/-- R113, R115: CALL and CALLX fix the next block, and with 16 live return addresses spill the bottom one first, or raise
SPILL_OVERFLOW where SPC is at its top or the overflow area is absent; CALLX checks its target. RET takes the top entry, or
loads the last spilled one, or raises RAS_UNDERFLOW. -/
def Obligations.CallsAndReturns : Prop :=
  ∀ (s : State) (q : Firing) (f : BitVec 20) (e : BitVec 3) (p : Pm), q.b.branches = 0 →
    (∀ i target, ((i = .call f e p ∧ target = q.b.addr + f.signExtend 64 * 16) ∨
        (i = .callx e p ∧ target = atL q ∧ (atL q).toNat % 16 = 0)) → Fires s i q →
      (q.th.ras.length < 16 → exec i s = .next (afterFiring s q (chosen q.b (.call target)))) ∧
      (16 ≤ q.th.ras.length → (q.th.regs.spc = 0xFFFFF ∨
          carveBytes q.th.regs ≤ 8 * q.th.regs.spc.toNat ∧ overflowAbsent q.th.regs = true) →
        exec i s = .next (afterFault s q cSPILLOVER 0 q.b.addr)) ∧
      (∀ a u, 16 ≤ q.th.ras.length → ¬(q.th.regs.spc = 0xFFFFF ∨
          carveBytes q.th.regs ≤ 8 * q.th.regs.spc.toNat ∧ overflowAbsent q.th.regs = true) →
        spillAccess s q .store q.th.regs.spc.toNat (q.th.ras.headD 0) = (.ok a, u) →
        a.addr = 0x9000000000000000 + 8 * BitVec.ofNat 64 q.th.regs.spc.toNat ∧ a.data = q.th.ras.headD 0 ∧
        exec i s = .next (afterFiring s q (chosen { q.b with accs := q.b.accs ++ [a] } (.call target)))) ∧
      (∀ f u, 16 ≤ q.th.ras.length → ¬(q.th.regs.spc = 0xFFFFF ∨
          carveBytes q.th.regs ≤ 8 * q.th.regs.spc.toNat ∧ overflowAbsent q.th.regs = true) →
        spillAccess s q .store q.th.regs.spc.toNat (q.th.ras.headD 0) = (.error f, u) →
        exec i s = .next (afterFault u q f.1 f.2 (0x9000000000000000 + 8 * BitVec.ofNat 64 q.th.regs.spc.toNat)))) ∧
    (Fires s (.callx e p) q → (atL q).toNat % 16 ≠ 0 →
      exec (.callx e p) s = .next (afterFault s q cALIGN 0 (atL q))) ∧
    (∀ r, Fires s (.ret e p) q → q.th.ras.getLast? = some r →
      exec (.ret e p) s = .next (if r.toNat % 16 = 0 then afterFiring s q (chosen q.b (.ret r false)) else afterFault s q cALIGN 0 r)) ∧
    (Fires s (.ret e p) q → q.th.ras = [] → q.th.regs.spc = 0 →
      exec (.ret e p) s = .next (afterFault s q cRASUNDER 0 q.b.addr)) ∧
    (∀ a u, Fires s (.ret e p) q → q.th.ras = [] → q.th.regs.spc ≠ 0 →
      spillAccess s q (.load false) (q.th.regs.spc.toNat - 1) 0 = (.ok a, u) →
      exec (.ret e p) s = .next (if a.value.toNat % 16 = 0
        then afterFiring s q (chosen { q.b with accs := q.b.accs ++ [a] } (.ret a.value true))
        else afterFault s q cALIGN 0 a.value)) ∧
    (∀ f u, Fires s (.ret e p) q → q.th.ras = [] → q.th.regs.spc ≠ 0 →
      spillAccess s q (.load false) (q.th.regs.spc.toNat - 1) 0 = (.error f, u) →
      exec (.ret e p) s = .next (afterFault u q f.1 f.2 (0x9000000000000000 + 8 * BitVec.ofNat 64 (q.th.regs.spc.toNat - 1))))

/-- R74: a control instruction whose operands have not all arrived does nothing; one whose predicate has the other polarity
is resolved without firing, sends nothing and changes nothing but its slot's phase and those of slots that can then no longer
fire. -/
def Obligations.PredicationHoldsBack : Prop :=
  ∀ (i : Instr) (s : State) (q : Firing), IsControl i → firing s = some q →
    (portsReady q.sl i = false → exec i s = .next s) ∧
    (portsReady q.sl i = true → polarity (instrPm i) q.sl.x = false →
      exec i s = .next (withBlock s q (settle (q.b.slots.length + 1) (setPhase q.b q.k .skipped))))

/-! ### Loads, stores and atomics (R118 to R124) -/

/-- R118, R120, R122: a load of this package delivers the little-endian value of its bytes, extended by its sign or by zeros,
over what the block's own accesses of lower LSIDs leave there; it changes no memory byte and only keeps its translation, whose walk reads
table entries (R332, R336). -/
def Obligations.LoadsDeliver : Prop :=
  ∀ (s : State) (q : Firing) (t : Target) (m : BitVec 9) (l : BitVec 5) (p : Pm) (i : Instr) (sg ap : Bool) (n : Nat) (r : Target0),
    (i, sg, n, ap) ∈ loadForms t m l p → Fires s i q →
    resolveThread s q.th .load n ap (effAddr (atL q) m n) = .ok r → isHere r.loc = true →
    (dataFault s (asidOf q.th) q.th.pts (mergedBytes s (asidOf q.th) q.b l.toNat) (.load sg) r.loc n (atR q)).1 = none →
    ∃ u, exec i s = .next (afterFiring u q (deliver { q.b with accs := q.b.accs ++ [⟨q.k, l.toNat, .load sg, n, effAddr (atL q) m n,
        r.loc, atR q, widen sg (BitVec.ofNat (8 * n) (leVal (locBytes s (asidOf q.th) (mergedBytes s (asidOf q.th) q.b l.toNat) r.loc n)))⟩] }
        q.k t (widen sg (BitVec.ofNat (8 * n) (leVal (locBytes s (asidOf q.th) (mergedBytes s (asidOf q.th) q.b l.toNat) r.loc n)))))) ∧
      translated s u

/-- R118, R120: a store of this package records its address, its size and the value of R for the commit; no memory byte
changes as it fires. -/
def Obligations.StoresAreRecorded : Prop :=
  ∀ (s : State) (q : Firing) (m : BitVec 9) (l : BitVec 5) (p : Pm) (i : Instr) (ap : Bool) (n : Nat) (r : Target0),
    (i, n, ap) ∈ storeForms m l p → Fires s i q →
    resolveThread s q.th .store n ap (effAddr (atL q) m n) = .ok r → isHere r.loc = true →
    proofHolds s q .store r (effAddr (atL q) m n) n = false →
    (dataFault s (asidOf q.th) q.th.pts (mergedBytes s (asidOf q.th) q.b l.toNat) .store r.loc n (atR q)).1 = none →
    ∃ u, exec i s = .next (afterFiring u q { q.b with accs := q.b.accs ++
        [⟨q.k, l.toNat, .store, n, effAddr (atL q) m n, r.loc, atR q, 0⟩] }) ∧
      translated s u

/-- R121, R122: an atomic of this package delivers the 8 bytes that were there, and records its operation and the value of R
(and of X, for ACAS) for the commit. -/
def Obligations.AtomicsDeliverTheOldValue : Prop :=
  ∀ (s : State) (q : Firing) (t : Target) (m : BitVec 9) (l : BitVec 5) (p : Pm) (i : Instr) (k : AccessKind) (r : Target0),
    (i, k) ∈ atomicForms t m l p (atX q) → Fires s i q →
    resolveThread s q.th .atomic 8 false (effAddr (atL q) m 8) = .ok r → isHere r.loc = true →
    proofHolds s q k r (effAddr (atL q) m 8) 8 = false →
    (dataFault s (asidOf q.th) q.th.pts (mergedBytes s (asidOf q.th) q.b l.toNat) k r.loc 8 (atR q)).1 = none →
    ∃ u, exec i s = .next (afterFiring u q (deliver { q.b with accs := q.b.accs ++ [⟨q.k, l.toNat, k, 8, effAddr (atL q) m 8, r.loc,
        atR q, BitVec.ofNat 64 (leVal (locBytes s (asidOf q.th) (mergedBytes s (asidOf q.th) q.b l.toNat) r.loc 8))⟩] } q.k t
        (BitVec.ofNat 64 (leVal (locBytes s (asidOf q.th) (mergedBytes s (asidOf q.th) q.b l.toNat) r.loc 8))))) ∧
      translated s u

/-- R121: what an atomic leaves in memory. -/
def Obligations.AtomicNewValues : Prop :=
  ∀ (x d c : W),
    atomicNew .add x d = x + d ∧ atomicNew .and x d = x &&& d ∧ atomicNew .or x d = x ||| d ∧ atomicNew .xor x d = x ^^^ d ∧
    (atomicNew .min x d).toInt = min x.toInt d.toInt ∧ (atomicNew .max x d).toInt = max x.toInt d.toInt ∧
    atomicNew .swap x d = d ∧ atomicNew (.cas c) x d = (if x = c then d else x)

/-- R118, R119, R124: an access of a control thread whose address is no multiple of its size raises ALIGN. One whose address does not resolve
raises the code and SUB of its resolution: PROT where the tag admits no such access, or the aperture is not reached (R119), and XLATE or
PROT of the translation (R332 to R335). TRAPADDR will hold the address. -/
def Obligations.AccessFaults : Prop :=
  ∀ (s : State) (q : Firing) (t : Target) (m : BitVec 9) (l : BitVec 5) (p : Pm) (i : Instr) (k : AccKind) (n : Nat) (ap : Bool),
    (i, k, n, ap) ∈ accessForms t m l p → Fires s i q →
    ((effAddr (atL q) m n).toNat % n ≠ 0 → exec i s = .next (afterFault s q cALIGN 0 (effAddr (atL q) m n))) ∧
    (∀ f, resolveThread s q.th k n ap (effAddr (atL q) m n) = .error f →
      exec i s = .next (afterFault s q f.1 f.2 (effAddr (atL q) m n))) ∧
    (∀ f, (effAddr (atL q) m n).toNat % n = 0 → (effAddr (atL q) m n).extractLsb' 60 4 = 0 →
      xlate s (whoThread s q.th (effAddr (atL q) m n) n) k (effAddr (atL q) m n) = .error f →
      exec i s = .next (afterFault s q f.1 f.2 (effAddr (atL q) m n))) ∧
    ((effAddr (atL q) m n).toNat % n = 0 → (effAddr (atL q) m n).extractLsb' 60 4 = 8 → (effAddr (atL q) m n).extractLsb' 22 38 ≠ 0 →
      exec i s = .next (afterFault s q cXLATE 0 (effAddr (atL q) m n))) ∧
    (∀ g : BitVec 4, (effAddr (atL q) m n).toNat % n = 0 → (effAddr (atL q) m n).extractLsb' 60 4 = g → g ≠ 0 → g ≠ 8 → g ≠ 9 → g ≠ 10 →
      exec i s = .next (afterFault s q cXLATE 0 (effAddr (atL q) m n))) ∧
    ((effAddr (atL q) m n).toNat % n = 0 → (effAddr (atL q) m n).extractLsb' 60 4 = 10 → ap = false →
      exec i s = .next (afterFault s q cPROT 0 (effAddr (atL q) m n)))

/-- R119, R134, R263: through tag 0xA, ST64 queues a start of a copy on a channel of the crew's engine set, where bits [31:6]
of its word are zero and the channel has room, and LD64 delivers the channel's status word. -/
def Obligations.ApertureAccesses : Prop :=
  ∀ (s : State) (q : Firing) (t : Target) (m : BitVec 9) (l : BitVec 5) (p : Pm) (r : Target0) (ch : Nat),
    esetTaken s q.th = false → r.loc = .aper ch →
    (Fires s (.st64 m l p) q → resolveThread s q.th .store 8 true (effAddr (atL q) m 8) = .ok r →
      proofHolds s q .store r (effAddr (atL q) m 8) 8 = false →
      ((atR q).extractLsb' 6 26 = 0 → queueFull s q.th.home.eset ch q.b = false →
        exec (.st64 m l p) s = .next (leaves s q (.aperture ch (atR q)))) ∧
      ((atR q).extractLsb' 6 26 ≠ 0 → exec (.st64 m l p) s = .next (afterFault s q cENGINE 0 (effAddr (atL q) m 8)))) ∧
    (∀ c, Fires s (.ld64 t m l p) q → resolveThread s q.th .load 8 true (effAddr (atL q) m 8) = .ok r →
      chanOf s q.th.home.eset ch = some c →
      exec (.ld64 t m l p) s = .next (afterFiring s q (deliver { q.b with accs := q.b.accs ++
        [⟨q.k, l.toNat, .load false, 8, effAddr (atL q) m 8, r.loc, 0, statusWord c⟩] } q.k t (statusWord c))))

/-! ### Engine, cell, collective, launch and system instructions -/

/-- R135, R137, R139: where the operand limits hold and no launch crew holds the engine set, TMPL and EVX leave their effect for the
commit; a breach of a limit raises ENGINE, and a record of TMPL that is not aligned raises ALIGN. One that a launch crew held back does
the same in ENGINE_SET_RELEASED, once no launch crew holds the set. -/
def Obligations.EngineSetInstructions : Prop :=
  ∀ (s : State) (q : Firing) (p : Pm), esetTaken s q.th = false →
    (∀ parts, Fires s (.tmpl p) q → (atL q).toNat % 64 = 0 → (atR q).extractLsb' 6 58 = 0 →
      readRecord s q (atL q) 64 = .ok parts → tmplOk (wordsOf 8 (recBytes parts)) = true →
      exec (.tmpl p) s = .next (afterFiring (useXlate s q.th (atL q)) q
        (addEff (noteRecs q.b parts) (.tmpl (field (atR q) 0 6) (wordsOf 8 (recBytes parts)))))) ∧
    (Fires s (.tmpl p) q → (atL q).toNat % 64 = 0 → (atR q).extractLsb' 6 58 ≠ 0 →
      exec (.tmpl p) s = .next (afterFault s q cENGINE 0 (atL q))) ∧
    (∀ parts, Fires s (.tmpl p) q → (atL q).toNat % 64 = 0 → (atR q).extractLsb' 6 58 = 0 →
      readRecord s q (atL q) 64 = .ok parts → tmplOk (wordsOf 8 (recBytes parts)) = false →
      exec (.tmpl p) s = .next (afterFault (useXlate s q.th (atL q)) q cENGINE 0 (atL q))) ∧
    (Fires s (.tmpl p) q → (atL q).toNat % 64 ≠ 0 → exec (.tmpl p) s = .next (afterFault s q cALIGN 0 (atL q))) ∧
    (Fires s (.evxTerm p) q → exec (.evxTerm p) s = .next (if (atL q).toNat < 32
      then leaves s q (.term (atL q).toNat (atR q)) else afterFault s q cENGINE 0 q.b.addr)) ∧
    (Fires s (.evxCnt p) q → exec (.evxCnt p) s = .next (if (atL q).toNat < 16 ∧ (atR q).toNat < 2 ^ 32 ∧ (atR q).toNat % 512 = 0
      then leaves s q (.count (atL q).toNat (atR q)) else afterFault s q cENGINE 0 q.b.addr)) ∧
    (Fires s (.evxTgt p) q → exec (.evxTgt p) s = .next (if (atL q).toNat < 512 ∧ (atR q).extractLsb' 6 26 = 0
      then leaves s q (.bind ((atL q).toNat % 32) ((atL q).toNat / 32) (atR q)) else afterFault s q cENGINE 0 q.b.addr)) ∧
    (Fires s (.evxPulse p) q → unconfirmed s q.th.home.crew = false →
      exec (.evxPulse p) s = .next (if 48 ≤ (atL q).toNat ∧ (atL q).toNat < 64
        then leaves s q (.pulse (atL q).toNat) else afterFault s q cENGINE 0 q.b.addr)) ∧
    (∀ parts, Gated s (.tmpl p) q → (atL q).toNat % 64 = 0 → (atR q).extractLsb' 6 58 = 0 →
      readRecord (lookAt s q) q (atL q) 64 = .ok parts → tmplOk (wordsOf 8 (recBytes parts)) = true →
      exec (.engineSetReleased q.t q.k) s = .next (goesOn s q (afterFiring (useXlate (lookAt s q) q.th (atL q)) q
        (addEff (noteRecs q.b parts) (.tmpl (field (atR q) 0 6) (wordsOf 8 (recBytes parts))))))) ∧
    (Gated s (.evxTerm p) q → (atL q).toNat < 32 →
      exec (.engineSetReleased q.t q.k) s = .next (goesOn s q (leaves (lookAt s q) q (.term (atL q).toNat (atR q))))) ∧
    (Gated s (.evxCnt p) q → (atL q).toNat < 16 → (atR q).toNat < 2 ^ 32 → (atR q).toNat % 512 = 0 →
      exec (.engineSetReleased q.t q.k) s = .next (goesOn s q (leaves (lookAt s q) q (.count (atL q).toNat (atR q))))) ∧
    (Gated s (.evxTgt p) q → (atL q).toNat < 512 → (atR q).extractLsb' 6 26 = 0 →
      exec (.engineSetReleased q.t q.k) s = .next (goesOn s q
        (leaves (lookAt s q) q (.bind ((atL q).toNat % 32) ((atL q).toNat / 32) (atR q))))) ∧
    (Gated s (.evxPulse p) q → unconfirmed s q.th.home.crew = false → 48 ≤ (atL q).toNat → (atL q).toNat < 64 →
      exec (.engineSetReleased q.t q.k) s = .next (goesOn s q (leaves (lookAt s q) q (.pulse (atL q).toNat))))

/-- R125, R136, R140: WAITC goes on with CCNT where (CCNT − R) mod 2^32 is below 2^31, and WAITE with the count where that is at
least R; otherwise the slot is held at its gate, and nothing of the block is delivered. A slot that is held goes on in
WAITC_SATISFIED and WAITE_SATISFIED with the same result. An ST64 that the aperture held for room goes on in APERTURE_QUEUE_ROOM
(R134), which leaves its start for the commit. -/
def Obligations.EngineGates : Prop :=
  ∀ (s : State) (q : Firing) (v t : Target) (p : Pm) (x : EngineSet), esetTaken s q.th = false → aget s.esets q.th.home.eset = some x →
    (∀ c, Fires s (.waitc v t p) q → (atL q).toNat < 16 → (atR q).toNat < 2 ^ 32 → x.channels[(atL q).toNat]? = some c →
      ((c.ccnt - (atR q).setWidth 32).toNat < 2 ^ 31 →
        exec (.waitc v t p) s = .next (afterGate (gateEnds s q c.recSig 3 (chanUnit s x (atL q).toNat)) q
          (deliver2 q.b q.k t v (c.ccnt.setWidth 64)))) ∧
      (2 ^ 31 ≤ (c.ccnt - (atR q).setWidth 32).toNat → q.sl.phase ≠ .gated →
        exec (.waitc v t p) s = .next (gates s q))) ∧
    (∀ c, Fires s (.waite v t p) q → (atL q).toNat < 16 → (atR q).toNat < 2 ^ 16 → x.counters[(atL q).toNat]? = some c →
      ((atR q).toNat ≤ c.count →
        exec (.waite v t p) s = .next (afterGate (gateEnds s q c.sig 4 (lineUnit s x c.src)) q
          (deliver2 q.b q.k t v (BitVec.ofNat 64 c.count)))) ∧
      (c.count < (atR q).toNat → q.sl.phase ≠ .gated → exec (.waite v t p) s = .next (gates s q))) ∧
    (Fires s (.waitc v t p) q → ¬((atL q).toNat < 16 ∧ (atR q).toNat < 2 ^ 32) →
      exec (.waitc v t p) s = .next (afterFault s q cENGINE 0 q.b.addr)) ∧
    (Fires s (.waite v t p) q → ¬((atL q).toNat < 16 ∧ (atR q).toNat < 2 ^ 16) →
      exec (.waite v t p) s = .next (afterFault s q cENGINE 0 q.b.addr)) ∧
    (∀ c, Gated s (.waitc v t p) q → (atL q).toNat < 16 → (atR q).toNat < 2 ^ 32 → x.channels[(atL q).toNat]? = some c →
      (c.ccnt - (atR q).setWidth 32).toNat < 2 ^ 31 →
      exec (.waitcSatisfied q.t q.k) s = .next (goesOn s q (afterGate (gateEnds (lookAt s q) q c.recSig 3
        (chanUnit (lookAt s q) x (atL q).toNat)) q (deliver2 q.b q.k t v (c.ccnt.setWidth 64))))) ∧
    (∀ c, Gated s (.waite v t p) q → (atL q).toNat < 16 → (atR q).toNat < 2 ^ 16 → x.counters[(atL q).toNat]? = some c →
      (atR q).toNat ≤ c.count →
      exec (.waiteSatisfied q.t q.k) s = .next (goesOn s q (afterGate (gateEnds (lookAt s q) q c.sig 4
        (lineUnit (lookAt s q) x c.src)) q (deliver2 q.b q.k t v (BitVec.ofNat 64 c.count))))) ∧
    (∀ m l ea c, Gated s (.st64 m l p) q → ea = effAddr (atL q) m 8 → ea.extractLsb' 60 4 = 10 → ea.extractLsb' 12 48 = 0 →
      ea.extractLsb' 0 8 = 0 → (atR q).extractLsb' 6 26 = 0 → unconfirmed s q.th.home.crew = false →
      x.channels[(ea.extractLsb' 8 4).toNat]? = some c → queueFull s q.th.home.eset (ea.extractLsb' 8 4).toNat q.b = false →
      ∃ u, exec (.apertureQueueRoom q.t q.k) s = .next u ∧ threadHas u q.t (fun y => ∃ b, y.block = some b ∧
        b.effs = q.b.effs ++ [.aperture (ea.extractLsb' 8 4).toNat (atR q)] ∧ (b.slots[q.k]?).map (fun sl => sl.phase) = some .fired))

/-- R70, R131, R238: CFG, whose graph block can be read (or is cached) and passes every check, with a drained old configuration, pages
for the new one and its units free, leaves its effect for the commit; one that its gate held does so in CFG_GATE_OPEN. A block that
is not aligned raises ALIGN, and a descriptor with nonzero high bits CONNECT with BADENC. TRAPADDR is 0 where BADENC names no node: the
model's choice, log entry 32. -/
def Obligations.CfgFires : Prop :=
  ∀ (s : State) (q : Firing) (p : Pm),
    (∀ h bs, CfgReady s q h bs → Fires s (.cfg p) q → exec (.cfg p) s = .next (cfgDone s q h bs)) ∧
    (∀ h bs, CfgReady (lookAt s q) q h bs → Gated s (.cfg p) q →
      exec (.cfgGateOpen q.t q.k) s = .next (goesOn s q (cfgDone (lookAt s q) q h bs))) ∧
    (Fires s (.cfg p) q → (atL q).toNat % 16 ≠ 0 → exec (.cfg p) s = .next (afterFault s q cALIGN 0 (atL q))) ∧
    (Fires s (.cfg p) q → (atL q).toNat % 16 = 0 → (atR q).extractLsb' 40 24 ≠ 0 →
      exec (.cfg p) s = .next (afterFault s q cCONNECT 7 0))

/-- R132, R133: STRM of an AGEN that holds no stream, with a well-made record, leaves its effect for the commit; one that its gate held
does so in STRM_GATE_OPEN. So does DRAIN, whose nonzero reserved bits raise CONNECT with BADENC. TRAPADDR is 0 there: the model's choice,
log entry 32. -/
def Obligations.StreamAndDrainInstructions : Prop :=
  ∀ (s : State) (q : Firing) (p : Pm),
    (∀ c x nd parts, StrmReady s q c x nd parts → Fires s (.strm p) q → exec (.strm p) s = .next (strmDone s q c x nd parts)) ∧
    (∀ c x nd parts, StrmReady (lookAt s q) q c x nd parts → Gated s (.strm p) q →
      exec (.strmGateOpen q.t q.k) s = .next (goesOn s q (strmDone (lookAt s q) q c x nd parts))) ∧
    (Fires s (.strm p) q → (atR q).toNat % 16 ≠ 0 → exec (.strm p) s = .next (afterFault s q cALIGN 0 (atR q))) ∧
    (Fires s (.drainCell p) q → (atL q).extractLsb' 32 32 = 0 → (atL q).extractLsb' 4 12 = 0 →
      exec (.drainCell p) s = .next (leaves s q (.drain false (field (atL q) 0 4) (field (atL q) 16 16)))) ∧
    (Fires s (.drainAll p) q → (atL q).extractLsb' 32 32 = 0 → (atL q).extractLsb' 0 16 = 0 →
      exec (.drainAll p) s = .next (leaves s q (.drain true 0 (field (atL q) 16 16)))) ∧
    (Fires s (.drainCell p) q → ((atL q).extractLsb' 32 32 ≠ 0 ∨ (atL q).extractLsb' 4 12 ≠ 0) →
      exec (.drainCell p) s = .next (afterFault s q cCONNECT 7 0)) ∧
    (Fires s (.drainAll p) q → ((atL q).extractLsb' 32 32 ≠ 0 ∨ (atL q).extractLsb' 0 16 ≠ 0) →
      exec (.drainAll p) s = .next (afterFault s q cCONNECT 7 0))

/-- R141, R303 to R305: COLL.START with a well-made template leaves its effect; COLL.WAIT and COLL.END, gates on their
context's step, go on once it has completed; PUB goes on once nothing that started before it writes its buffer's shadow. What a gate
held goes on in COLL_WAIT_SATISFIED, COLL_END_SATISFIED and PUB_GATE_OPEN. -/
def Obligations.CollectiveAndPublishInstructions : Prop :=
  ∀ (s : State) (q : Firing) (p : Pm), unconfirmed s q.th.home.crew = false →
    (∀ parts, Fires s (.collStart p) q → (atL q).toNat % 64 = 0 → (atR q).toNat < 2 ^ 32 → readRecord s q (atL q) 64 = .ok parts →
      collFault (useXlate s q.th (atL q)) q.th (atL q) ((atR q).setWidth 32) (wordsOf 8 (recBytes parts)) = none →
      exec (.collStart p) s = .next (afterFiring (useXlate s q.th (atL q)) q (addEff (noteRecs q.b parts)
        (.collStart (atL q) (wordsOf 8 (recBytes parts)) ((atR q).setWidth 32))))) ∧
    (∀ h c, Fires s (.collWait p) q → (atL q).toNat % 64 = 0 → (atR q).toNat < 2 ^ 32 → collHere s q.th (atL q) = some (h, c) →
      c.some_ = true → (c.cstep - (atR q).setWidth 32).toNat < 2 ^ 31 →
      exec (.collWait p) s = .next (afterGate (gateEnds s q c.doneSig 11 (collUnit s c.die)) q q.b)) ∧
    (∀ h c, Fires s (.collEnd p) q → (atL q).toNat % 64 = 0 → atR q = 0 → collHere s q.th (atL q) = some (h, c) →
      c.cstep = c.lstep →
      exec (.collEnd p) s = .next (afterGate (gateEnds s q c.doneSig 11 (collUnit s c.die)) q
        (addEff q.b (.collEnd (atL q))))) ∧
    (∀ h c, Fires s (.collEnd p) q → (atL q).toNat % 64 = 0 → atR q = 0 → collHere s q.th (atL q) = some (h, c) →
      c.cstep ≠ c.lstep → q.sl.phase ≠ .gated → exec (.collEnd p) s = .next (gates s q)) ∧
    (∀ i lo hi, Fires s (.pub p) q → pubBuf s (asidOf q.th) (atL q) = some (i, lo, hi) → shadowQuiet s (asidOf q.th) lo hi q.b.born = true →
      exec (.pub p) s = .next (afterGate (gateEnds s q (lastWriter s (asidOf q.th) i).1 5 (lastWriter s (asidOf q.th) i).2) q
        (addEff q.b (.publish i)))) ∧
    (∀ h c, Gated s (.collWait p) q → (atL q).toNat % 64 = 0 → (atR q).toNat < 2 ^ 32 → collHere s q.th (atL q) = some (h, c) →
      c.some_ = true → (c.cstep - (atR q).setWidth 32).toNat < 2 ^ 31 →
      exec (.collWaitSatisfied q.t q.k) s = .next (goesOn s q (afterGate (collEnds (lookAt s q) q c) q q.b))) ∧
    (∀ h c, Gated s (.collEnd p) q → (atL q).toNat % 64 = 0 → atR q = 0 → collHere s q.th (atL q) = some (h, c) →
      c.cstep = c.lstep →
      exec (.collEndSatisfied q.t q.k) s = .next (goesOn s q (afterGate (collEnds (lookAt s q) q c) q (addEff q.b (.collEnd (atL q)))))) ∧
    (∀ i lo hi, Gated s (.pub p) q → pubBuf s (asidOf q.th) (atL q) = some (i, lo, hi) → shadowQuiet s (asidOf q.th) lo hi q.b.born = true →
      exec (.pubGateOpen q.t q.k) s = .next (goesOn s q (afterGate (gateEnds (lookAt s q) q (lastWriter s (asidOf q.th) i).1 5
        (lastWriter s (asidOf q.th) i).2) q (addEff q.b (.publish i))))) ∧
    (Fires s (.pub p) q → pubBuf s (asidOf q.th) (atL q) = none → exec (.pub p) s = .next (afterFault s q cPROT 0 (atL q)))

/-- R143, R144, R146, R148, R149, R281: LAUNCH with a well-made record and room in its queue delivers the context's next launch ID, as does
one that a full queue held, in LAUNCH_QUEUE_ROOM; SHAPE of a live proofed launch, YIELD, CPTAG and CPMARK leave their effect; TAKE delivers NEXT and the count that it takes. -/
def Obligations.LaunchAndWorkInstructions : Prop :=
  ∀ (s : State) (q : Firing) (v t : Target) (n : BitVec 3) (p : Pm),
    (∀ c parts, Fires s (.launch t n p) q → (atL q).toNat % 64 = 0 → readRecord s q (atL q) 64 = .ok parts →
      aget s.ctxs (asidOf q.th) = some c → launchProt (diesOf s (asidOf q.th)) (wordsOf 8 (recBytes parts)) = false →
      launchProof c (wordsOf 8 (recBytes parts)) = false → unconfirmed s q.th.home.crew = false →
      (c.queues.getD n.toNat []).length + launchesOf (noteRecs q.b parts) n.toNat < 16 →
      exec (.launch t n p) s = .next (afterFiring
        (updCtx (useXlate s q.th (atL q)) (asidOf q.th) (fun x => { x with nextLaunch := c.nextLaunch + 1 })) q
        (addEff (deliver (noteRecs q.b parts) q.k t (BitVec.ofNat 64 c.nextLaunch))
          (.launch n.toNat c.nextLaunch (wordsOf 8 (recBytes parts)))))) ∧
    (∀ c parts, Gated s (.launch t n p) q → (atL q).toNat % 64 = 0 → readRecord (lookAt s q) q (atL q) 64 = .ok parts →
      aget s.ctxs (asidOf q.th) = some c → launchProt (diesOf s (asidOf q.th)) (wordsOf 8 (recBytes parts)) = false →
      launchProof c (wordsOf 8 (recBytes parts)) = false → unconfirmed s q.th.home.crew = false →
      (c.queues.getD n.toNat []).length + launchesOf (noteRecs q.b parts) n.toNat < 16 →
      exec (.launchQueueRoom q.t q.k) s = .next (goesOn s q (afterFiring
        (updCtx (useXlate (lookAt s q) q.th (atL q)) (asidOf q.th) (fun x => { x with nextLaunch := c.nextLaunch + 1 })) q
        (addEff (deliver (noteRecs q.b parts) q.k t (BitVec.ofNat 64 c.nextLaunch))
          (.launch n.toNat c.nextLaunch (wordsOf 8 (recBytes parts))))))) ∧
    (Fires s (.launch t n p) q → (atL q).toNat % 64 ≠ 0 → exec (.launch t n p) s = .next (afterFault s q cALIGN 0 (atL q))) ∧
    (∀ l, Fires s (.shape p) q → launchOf s (asidOf q.th) (atL q).toNat = some l → wProof l.words = true → l.shape = none →
      s.fl.shapes.any (fun m => m.asid == asidOf q.th && m.id == (atL q).toNat) = false → (atR q).toNat ≤ 64 * wCellrows l.words →
      unconfirmed s q.th.home.crew = false →
      exec (.shape p) s = .next (leaves s q (.shape (atL q).toNat ((atR q).setWidth 32)))) ∧
    (Fires s (.shape p) q → launchOf s (asidOf q.th) (atL q).toNat = none →
      exec (.shape p) s = .next (afterFault s q cSHAPE 0 q.b.addr)) ∧
    (Fires s (.take v t p) q → exec (.take v t p) s = .next (afterFiring s q
      (addEff (deliver (deliver q.b q.k t ((q.b.irange.extractLsb' 0 32).setWidth 64)) q.k v
        (BitVec.ofNat 64 (min (max ((atL q).toNat % 2 ^ 32) 1) ((q.b.irange.toNat / 2 ^ 32) - q.b.irange.toNat % 2 ^ 32))))
        (.take (BitVec.ofNat 32 (min (max ((atL q).toNat % 2 ^ 32) 1) ((q.b.irange.toNat / 2 ^ 32) - q.b.irange.toNat % 2 ^ 32))))))) ∧
    (Fires s (.yield p) q → exec (.yield p) s = .next (leaves s q .yield)) ∧
    (Fires s (.cptag p) q → exec (.cptag p) s = .next (leaves s q (.cptag ((atL q).setWidth 32)))) ∧
    (Fires s (.cpmark p) q → exec (.cpmark p) s = .next (leaves s q (.cpmark ((atL q).setWidth 32))))

/-- R129, R130, R147: MSEND, MSENDW and MBCAST with a destination that R129 allows, and STEAL from one thread of the device, leave
their effect for after the commit; a destination that it does not allow raises its fault. -/
def Obligations.MessageInstructions : Prop :=
  ∀ (s : State) (q : Firing) (n : BitVec 4) (p : Pm), unconfirmed s q.th.home.crew = false →
    (∀ d, Fires s (.msend n p) q → destOf s q.th (atL q) false false = .ok d →
      exec (.msend n p) s = .next (leaves s q (.send n (atL q) (atR q) false))) ∧
    (∀ d, Fires s (.msendw n p) q → destOf s q.th (atL q) false false = .ok d →
      exec (.msendw n p) s = .next (leaves s q (.send n (atL q) (atR q) true))) ∧
    (∀ d, Fires s (.mbcast n p) q → destOf s q.th (atL q) true false = .ok d →
      exec (.mbcast n p) s = .next (leaves s q (.bcast n (atL q) (atR q)))) ∧
    (∀ d, Fires s (.steal p) q → destOf s q.th (atL q) false true = .ok (.here [d]) →
      exec (.steal p) s = .next (leaves s q (.steal d))) ∧
    (∀ f, Fires s (.msend n p) q → destOf s q.th (atL q) false false = .error f →
      exec (.msend n p) s = .next (afterFault s q f.1 f.2 q.b.addr)) ∧
    (∀ f, Fires s (.steal p) q → destOf s q.th (atL q) false true = .error f →
      exec (.steal p) s = .next (afterFault s q f.1 f.2 q.b.addr))

/-- R327, R337, R347, R365: SYSRD delivers the snapshot's value of its register and SYSWR leaves its write, each at the level that
the register asks for, else PRIV; TLBI, CTXSAVE and CTXLOAD leave their effect where level and operands allow them; TRAP leaves
its immediate for after the commit. -/
def Obligations.SystemInstructions : Prop :=
  ∀ (s : State) (q : Firing) (t : Target) (g : BitVec 4) (n : BitVec 6) (im : BitVec 14) (p : Pm),
    (Fires s (.sysrd t g n p) q → readLevel g n ≤ q.th.regs.priv →
      exec (.sysrd t g n p) s = .next (delivers1 s q t (snapSys q.b g n))) ∧
    (Fires s (.sysrd t g n p) q → q.th.regs.priv < readLevel g n →
      exec (.sysrd t g n p) s = .next (afterFault s q cPRIV 0 q.b.addr)) ∧
    (Fires s (.syswr g n p) q → sysFault s q.t g n (atL q) = none →
      exec (.syswr g n p) s = .next (leaves s q (.sysw g n (atL q)))) ∧
    (∀ c, Fires s (.syswr g n p) q → aget s.ctxs (asidOf q.th) = some c → q.th.regs.priv < writeLevel g n → exec (.syswr g n p) s = .next (afterFault s q cPRIV 0 q.b.addr)) ∧
    (Fires s (.tlbiAddr p) q → q.th.regs.priv ≠ lUSER → (q.th.regs.priv = lMGMT ∨ (atR q).toNat % 4096 = asidOf q.th) →
      (atR q).toNat < 4096 → exec (.tlbiAddr p) s = .next (leaves s q (.tlbi 0 (atL q) (atR q).toNat))) ∧
    (Fires s (.tlbiAsid p) q → q.th.regs.priv ≠ lUSER → (q.th.regs.priv = lMGMT ∨ (atL q).toNat % 4096 = asidOf q.th) →
      (atL q).toNat < 4096 → exec (.tlbiAsid p) s = .next (leaves s q (.tlbi 1 (atL q) (atL q).toNat))) ∧
    (Fires s (.tlbiAll p) q → exec (.tlbiAll p) s = .next (if q.th.regs.priv = lMGMT
      then leaves s q (.tlbi 2 (atL q) (asidOf q.th)) else afterFault s q cPRIV 0 q.b.addr)) ∧
    (∀ a limit c me, Fires s (.ctxsave p) q → q.th.regs.priv = lMGMT → (atL q).toNat = a + limit * 2 ^ 16 → a < 4096 → 0 < limit →
      limit < 2 ^ 32 → (atR q).toNat < 2 ^ 60 → (atR q).toNat % 4096 = 0 → aget s.ctxs a = some c → a ≠ asidOf q.th →
      aget s.ctxs (asidOf q.th) = some me → me.part = c.part → c.saved = false →
      badPage s ⟨asidOf q.th, lMGMT, dieOf q.th.home.cluster, false⟩ .store (atR q) limit = none →
      exec (.ctxsave p) s = .next (leaves s q (.ctxsave a limit (atR q)))) ∧
    (∀ c me, Fires s (.ctxload p) q → q.th.regs.priv = lMGMT → (atL q).toNat < 4096 → (atR q).toNat < 2 ^ 60 → (atR q).toNat % 4096 = 0 →
      aget s.ctxs (atL q).toNat = some c → (atL q).toNat ≠ asidOf q.th → aget s.ctxs (asidOf q.th) = some me → me.part = c.part →
      c.saved = true → badPage s ⟨asidOf q.th, lMGMT, dieOf q.th.home.cluster, false⟩ .load (atR q) 1 = none →
      exec (.ctxload p) s = .next (leaves s q (.ctxload (atL q).toNat (atR q)))) ∧
    (Fires s (.ctxsave p) q → q.th.regs.priv ≠ lMGMT → exec (.ctxsave p) s = .next (afterFault s q cPRIV 0 q.b.addr)) ∧
    (Fires s (.ctxload p) q → q.th.regs.priv ≠ lMGMT → exec (.ctxload p) s = .next (afterFault s q cPRIV 0 q.b.addr)) ∧
    (Fires s (.trap im p) q → exec (.trap im p) s = .next (leaves s q (.soft q.k (im.signExtend 64))))

/-! ### Blocks: fetch, commit, traps (R67 to R71, R107 to R116, R122, R126, R344 to R348) -/

/-- R71, R109, R126: a ready thread fetches the block at its pc, and takes the snapshot of its registers in the same cycle, or
waits until every mailbox that an MWAIT of the block names is full. The slots hold the words that stand in memory after the
header; no port has a value. A block that has started, and none that MWAIT still holds, is one that a YIELD of another thread waited
for (R148; what counts as a start is log entry 39's reading). -/
def Obligations.BlockFetchStarts : Prop :=
  ∀ (s : State) (t : Nat) (th : Thread) (c : Context) (hb bs : List Byte) (h : BitVec 128) (is : List Instr) (n : Nat),
    n = 16 + 16 * (((h.extractLsb' 4 7).toNat + 4) / 4) → aget s.threads t = some th → aget s.ctxs (asidOf th) = some c → canFetch s th = true → breakHit c th = none →
    th.pc.extractLsb' 56 8 = 0 → th.pc.toNat % 16 = 0 →
    fetchBytes s (whoThread s th th.pc 16) .fetch th.pc 16 = some hb → h = BitVec.ofNat 128 (leVal hb) →
    headerOk h = true → fetchBytes s (whoThread s th th.pc n) .fetch th.pc n = some bs →
    decodeAll 0 (words32 ((h.extractLsb' 4 7).toNat + 1) (bs.drop 16)) = .ok is → loadFault h is = none →
    ((bs.drop 16).drop (4 * ((h.extractLsb' 4 7).toNat + 1))).all (fun x => x == 0) = true →
    ∃ u, exec (.blockFetch t) s = .next u ∧ threadHas u t (fun x => ∃ b, x.block = some b ∧ b.addr = th.pc ∧ b.hdr = h ∧
      b.slots = (words32 ((h.extractLsb' 4 7).toNat + 1) (bs.drop 16)).map (fun w => ⟨w, none, none, none, .waiting⟩) ∧
      b.effs = [] ∧ b.accs = [] ∧ b.choice = none ∧ x.gs = th.gs ∧ x.ms = th.ms ∧ x.mfull = th.mfull ∧ x.regs = th.regs ∧
      (if (mwaitSet is).all (fun n => th.mfull.getLsbD n.toNat) then
        x.mode = .ready ∧ b.gs = th.gs ∧ b.ms = th.ms ∧ b.mfull = th.mfull ∧ b.regs = th.regs ∧ b.landed = 0
       else x.mode = .mwait)) ∧
      (∀ y o left, y ≠ t → aget s.threads y = some o → o.mode = .trailing [.yield left] .next → threadHas u y (fun x =>
        x.mode = .trailing [.yield (if (mwaitSet is).all (fun n => th.mfull.getLsbD n.toNat) then left.filter (fun z => z != t) else left)] .next))

/-- R71, R76, R82, R113: a block that cannot be read at its pc raises BLOCK_FETCH, which names the header; a word that is no
instruction raises DECODE, which names its slot. TRAPADDR and TRAPPC hold the pc. Which breach of several is named is the model's choice
(log entry 14), and so is the number that the trap takes as its SEQ, the context's counter plus 1 (log entry 17). -/
def Obligations.BadBlocksTrap : Prop :=
  ∀ (s : State) (t : Nat) (th : Thread) (c : Context),
    aget s.threads t = some th → aget s.ctxs (asidOf th) = some c → canFetch s th = true → breakHit c th = none →
    unconfirmed s th.home.crew = false → c.regs.trapvec ≠ 0 → th.regs.intrap = false → th.pc.toNat % 16 = 0 →
    ((th.pc.extractLsb' 56 8 ≠ 0 ∨
      fetchBytes s (whoThread s th th.pc 16) .fetch th.pc 16 = none) →
      ∃ u, exec (.blockFetch t) s = .next u ∧
        aget u.threads t = some (trapped { th with brkSkip := none } c ⟨cBLOCKFETCH, 0, 0, true, th.pc⟩ th.pc) ∧ u.mem = s.mem) ∧
    (∀ hb bs k n, n = 16 + 16 * ((((BitVec.ofNat 128 (leVal hb)).extractLsb' 4 7).toNat + 4) / 4) → th.pc.extractLsb' 56 8 = 0 →
      fetchBytes s (whoThread s th th.pc 16) .fetch th.pc 16 = some hb →
      headerOk (BitVec.ofNat 128 (leVal hb)) = true →
      fetchBytes s (whoThread s th th.pc n) .fetch th.pc n = some bs →
      decodeAll 0 (words32 (((BitVec.ofNat 128 (leVal hb)).extractLsb' 4 7).toNat + 1) (bs.drop 16)) = .error k →
      ∃ u, exec (.blockFetch t) s = .next u ∧
        aget u.threads t = some (trapped { th with brkSkip := none } c ⟨cDECODE, 0, BitVec.ofNat 7 k, false, th.pc⟩ th.pc) ∧
        u.mem = s.mem)

/-- R126, R377: a block that MWAIT holds takes its snapshot once every mailbox that it names is full and its thread is first in the
turn of its cluster, and runs; the YIELD of another thread waits for it no longer (R148, log entry 39). -/
def Obligations.MwaitStarts : Prop :=
  ∀ (s : State) (t : Nat) (th : Thread) (b : Block),
    aget s.threads t = some th → th.block = some b → th.mode = .mwait → threadRuns s th = true → inTurn s th = true →
    (mwaitSet (b.slots.filterMap slotInstr)).all (fun n => th.mfull.getLsbD n.toNat) = true →
    ∃ u, exec (.mwaitSatisfied t) s = .next u ∧ threadHas u t (fun x => x.mode = .ready ∧ x.gs = th.gs ∧ x.ms = th.ms ∧
      x.mfull = th.mfull ∧ x.regs = th.regs ∧ ∃ b', x.block = some b' ∧ b'.gs = th.gs ∧ b'.ms = th.ms ∧ b'.mfull = th.mfull ∧
      b'.landed = 0 ∧ b'.slots = b.slots) ∧
      (∀ y o left, y ≠ t → aget s.threads y = some o → o.mode = .trailing [.yield left] .next →
        threadHas u y (fun x => x.mode = .trailing [.yield (left.filter (fun z => z != t))] .next))

/-- R106, R107, R110, R111: a commit writes every register that a GWR or MWR of the block named and no other, and clears the full
bit of every mailbox that an MRD or MWAIT read full, unless the block wrote it or a write has landed since the snapshot. -/
def Obligations.CommitWritesRegisters : Prop :=
  ∀ (s : State) (t : Nat) (th : Thread) (b : Block) (a : W), Commits s t th b (.jump a) →
    (∀ e ∈ slotEffs b, registerEff e.2 = true) →
    ∃ u, exec (.blockCommit t) s = .next u ∧ threadHas u t (fun x => x.pc = a ∧ x.block = none ∧ x.mode = .ready ∧ x.ras = th.ras ∧
      x.regs = (if b.dz then { th.regs with tflag := th.regs.tflag ||| 2 } else th.regs) ∧
      (∀ n : BitVec 6, x.gs.get ⟨n.toNat, n.isLt⟩ = gwrValue (slotEffs b) n (th.gs.get ⟨n.toNat, n.isLt⟩)) ∧
      (∀ n : BitVec 4, x.ms.get ⟨n.toNat, n.isLt⟩ = mwrValue (slotEffs b) n (th.ms.get ⟨n.toNat, n.isLt⟩)) ∧
      (∀ n : BitVec 4, (∃ e ∈ slotEffs b, ∃ v, e.2 = .mwr n v) → x.mfull.getLsbD n.toNat = true) ∧
      (∀ n : BitVec 4, (∃ e ∈ slotEffs b, e.2 = .mclr n) → (∀ v, Eff.mwr n v ∉ b.effs) → b.landed.getLsbD n.toNat = false →
        x.mfull.getLsbD n.toNat = false) ∧
      (∀ n : BitVec 4, (∀ e ∈ slotEffs b, e.2 ≠ .mclr n ∧ ∀ v, e.2 ≠ .mwr n v) →
        x.mfull.getLsbD n.toNat = th.mfull.getLsbD n.toNat))

/-- R114, R115, R348: what each branch does at the commit, to the pc, the return-address store and the level: a call pushes the
address of the first byte behind the block, with the bottom entry spilled where 16 are live; RET pops; STOP halts; TRET restores
the level that PPRIV held at the block's snapshot (R109) and ends the trap, and halts where TRAPPC is 0. -/
def Obligations.CommitBranches : Prop :=
  ∀ (s : State) (t : Nat) (th : Thread) (b : Block) (c : Choice), Commits s t th b c → (∀ e ∈ slotEffs b, registerEff e.2 = true) →
    ∃ u, exec (.blockCommit t) s = .next u ∧ threadHas u t (fun x => x.block = none ∧
      match c with
      | .jump a => x.pc = a ∧ x.ras = th.ras ∧ x.regs.priv = th.regs.priv ∧ x.mode = .ready
      | .call a => x.pc = a ∧ x.mode = .ready ∧ x.regs.priv = th.regs.priv ∧
          (th.ras.length < 16 → x.ras = th.ras ++ [b.addr + BitVec.ofNat 64 (16 + 16 * (((b.hdr.extractLsb' 4 7).toNat + 4) / 4))] ∧
            x.regs.spc = th.regs.spc) ∧
          (16 ≤ th.ras.length → x.ras = th.ras.drop 1 ++ [b.addr + BitVec.ofNat 64 (16 + 16 * (((b.hdr.extractLsb' 4 7).toNat + 4) / 4))] ∧
            x.regs.spc = th.regs.spc + 1)
      | .ret a spilled => x.pc = a ∧ x.mode = .ready ∧ x.regs.priv = th.regs.priv ∧
          (if spilled then x.ras = th.ras ∧ x.regs.spc = th.regs.spc - 1 else x.ras = th.ras.dropLast ∧ x.regs.spc = th.regs.spc)
      | .stop => x.mode = .halted ∧ x.ras = th.ras ∧ x.regs.priv = th.regs.priv
      | .tret a => x.regs.priv = b.regs.ppriv ∧ x.regs.intrap = false ∧ x.ras = th.ras ∧
          (if a = 0 then x.mode = .halted else x.mode = .ready ∧ x.pc = a))

/-- R110, R120, R122: the stores of a block reach memory in its commit, each the low bytes of its value from its address on, in
the order of their LSIDs; every byte outside them is unchanged. -/
def Obligations.CommitStoresToMemory : Prop :=
  ∀ (s : State) (t : Nat) (th : Thread) (b : Block) (c : Choice), Commits s t th b c → Safe s → Quiet s (asidOf th) →
    (∀ e ∈ slotEffs b, registerEff e.2 = true) → b.recs = [] →
    (∀ a ∈ b.accs, a.kind = .store ∧ a.lsid ≤ 32 ∧ ∃ y, a.loc = .mem y) →
    ∃ u, exec (.blockCommit t) s = .next u ∧
      (∀ x, (∀ a ∈ b.accs, ∀ y, a.loc = .mem y → x < y ∨ y + a.size ≤ x) → u.mem.byte x = s.mem.byte x) ∧
      (∀ a ∈ b.accs, ∀ y, a.loc = .mem y →
        (∀ a' ∈ b.accs, ∀ y', a'.loc = .mem y' → a' = a ∨ a'.lsid < a.lsid ∨ y' + a'.size ≤ y ∨ y + a.size ≤ y') →
        ∀ k < a.size, u.mem.byte (y + k) = a.data.extractLsb' (8 * k) 8)

/-- R112, R124, R345, R346: a block that has raised traps does not commit; its thread takes that of the lowest slot: the registers
save what R345 and R346 say, USER becomes SUPER, and the handler is next. Everything else of the thread, memory, the cells and the
engine sets stay as they were. A trap inside a trap, or without a handler, halts the thread; its registers stay, and the launching
thread is sent a write to m15. The number that the trap takes as its SEQ, the context's counter plus 1 where the fault has none yet, is
the model's choice (log entry 17). -/
def Obligations.FaultingBlockTraps : Prop :=
  ∀ (s : State) (t : Nat) (th : Thread) (b : Block) (tr : TrapReq) (c : Context), Completes s t th b → lowestFault b = some tr →
    aget s.ctxs (asidOf th) = some c →
    (c.regs.trapvec ≠ 0 → th.regs.intrap = false →
      ∃ u, exec (.blockCommit t) s = .next u ∧ aget u.threads t = some (trapped th c tr b.addr) ∧
        (Quiet s (asidOf th) → u.mem = s.mem ∧ u.cells = s.cells ∧ u.esets = s.esets)) ∧
    ((c.regs.trapvec = 0 ∨ th.regs.intrap = true) →
      ∃ u, exec (.blockCommit t) s = .next u ∧ threadHas u t (fun x => x.mode = .fallen ∧ x.block = none ∧ x.gs = th.gs ∧
        x.ms = th.ms ∧ x.regs = th.regs ∧ x.ras = th.ras) ∧
        (∀ l, launcherOf s th = some l → ∃ w ∈ u.fl.writes, w.thread = l ∧ w.n = 15))

/-- R347: a block with TRAP commits; then the thread takes SOFT with the immediate of the lowest TRAP in TRAPADDR, and TRAPPC is
the next block of its branch, or 0 after STOP. -/
def Obligations.SoftTrapFollowsCommit : Prop :=
  ∀ (s : State) (t : Nat) (th : Thread) (b : Block) (c : Choice) (cx : Context) (k : Nat) (v : W), Commits s t th b c →
    (c = .stop ∨ ∃ a, c = .jump a) → softOf b = some (k, v) → (∀ e ∈ slotEffs b, registerEff e.2 = true ∨ ∃ j x, e.2 = .soft j x) →
    aget s.ctxs (asidOf th) = some cx → cx.regs.trapvec ≠ 0 → th.regs.intrap = false →
    ∃ u, exec (.blockCommit t) s = .next u ∧ threadHas u t (fun x => x.pc = cx.regs.trapvec ∧ x.block = none ∧ x.mode = .ready ∧
      x.regs.trapaddr = v ∧ x.regs.trappc = (match c with | .jump a => a.extractLsb' 4 60 ++ (0 : BitVec 4) | _ => 0) ∧
      x.regs.trapinfo.extractLsb' 0 8 = cSOFT ∧ x.regs.trapinfo.extractLsb' 16 7 = BitVec.ofNat 7 k ∧
      x.regs.ppriv = th.regs.priv ∧ x.regs.intrap = true ∧
      ∀ n : BitVec 6, x.gs.get ⟨n.toNat, n.isLt⟩ = gwrValue (slotEffs b) n (th.gs.get ⟨n.toNat, n.isLt⟩))

/-- R125, R131, R132, R134, R136, R137, R140, R141, R282, R305: an instruction that a gate holds is tried again as soon as what it
waits for may have come, and then does what it does when it fires; the thread is busy again once nothing holds it; the slot that was firing is again the machine's own choice. A
store to an aperture that was held for room ends its wait first. -/
def Obligations.GatesTryAgain : Prop :=
  ∀ (s : State) (t k : Nat) (th : Thread) (b : Block) (sl : Slot) (i : Instr),
    aget s.threads t = some th → th.block = some b → b.slots[k]? = some sl → sl.phase = .gated → threadRuns s th = true →
    slotInstr sl = some i →
    (∀ ev u, exec i { s with cur := (t, k) } = .next u →
      ((∃ p, i = .cfg p ∧ ev = .cfgGateOpen t k) ∨ (∃ p, i = .strm p ∧ ev = .strmGateOpen t k) ∨
       (∃ p, i = .pub p ∧ ev = .pubGateOpen t k) ∨ (∃ v d p, i = .waitc v d p ∧ ev = .waitcSatisfied t k) ∨
       (∃ v d p, i = .waite v d p ∧ ev = .waiteSatisfied t k) ∨
       (∃ d n p, i = .launch d n p ∧ ev = .launchQueueRoom t k) ∨ (∃ p, i = .collWait p ∧ ev = .collWaitSatisfied t k) ∨
       (∃ p, i = .collEnd p ∧ ev = .collEndSatisfied t k) ∨
       (esetTaken s th = false ∧ ev = .engineSetReleased t k ∧
         ∃ p, i = .tmpl p ∨ i = .evxTerm p ∨ i = .evxCnt p ∨ i = .evxTgt p ∨ i = .evxPulse p)) →
      exec ev s = .next { busyAgain u t with cur := s.cur }) ∧
    (∀ m l p x ch c u, i = .st64 m l p → esetTaken s th = false → aget s.esets th.home.eset = some x →
      ch = ((effAddr (sl.l.getD 0) m 8).extractLsb' 8 4).toNat → x.channels[ch]? = some c → queueFull s th.home.eset ch b = false →
      exec i (endWaitThread { s with cur := (t, k) } t (labelSig s c.label c.pts) 3 (chanUnit s x ch) (s.cycle - b.gateAt)) = .next u →
      exec (.apertureQueueRoom t k) s = .next { busyAgain u t with cur := s.cur })

/-! ### Waits behind a commit, mailboxes and steals (R125, R127 to R130, R133, R146 to R148, R337, R365, R400) -/

/-- R125, R133, R148, R337, R365: a trailing wait ends once what it waits for has come: every sink of a drain has been reached;
each thread that a YIELD waited for has started a block (BlockFetchStarts takes it off the list) or has stopped; a TLBI has dropped the
entries that it names on every die of the partition, and what left before that has performed; the image of CTXSAVE has been written, or
does not fit; CTXLOAD has been refused or has restored its context. Where the thread has no other wait it is ready again, with the
registers that it had. The image's words and the vault behind them (log entry 33), what counts as a start for YIELD (39), and that a
halted thread is waited for no more (42) are the model's choice. -/
def Obligations.TrailingWaitsEnd : Prop :=
  ∀ (s : State) (t : Nat) (th : Thread), aget s.threads t = some th → threadRuns s th = true →
    (∀ cs sid ws, th.mode = .trailing (.drain cs sid :: ws) .next → cs.all (drainEntryDone s) = true →
      ∃ u, exec (.drainComplete t) s = .next u ∧ u.cells = s.cells ∧
        threadHas u t (fun x => x.mode = (if ws = [] then .ready else .trailing ws .next) ∧ sameRegs x th)) ∧
    (∀ left ws, th.mode = .trailing (.yield left :: ws) .next → (∀ x ∈ left, ∀ o, aget s.threads x = some o → stopped o = true) →
      ∃ u, exec (.yieldEnd t) s = .next u ∧ u.mem = s.mem ∧
        threadHas u t (fun x => x.mode = (if ws = [] then .ready else .trailing ws .next) ∧ sameRegs x th)) ∧
    (∀ kind va a ws, th.mode = .trailing (.tlbi kind va a 0 :: ws) .next → (∀ w ∈ ws, waitKind w ≠ 5) →
      ∃ u, exec (.tlbiComplete t) s = .next u ∧ u.mem.bytes = s.mem.bytes ∧
        threadHas u t (fun x => x.mode = .trailing (.tlbi kind va a (s.nextId + 1) :: ws) .next ∧ sameRegs x th) ∧
        (∀ e, (e ∈ u.mem.tlb ↔ e ∈ s.mem.tlb ∧ tlbiDrops (diesOf s (asidOf th)) kind va a e = false) ∧
          (e ∈ u.mem.dirs ↔ e ∈ s.mem.dirs ∧ tlbiDrops (diesOf s (asidOf th)) kind va a e = false) ∧
          (tlbiDrops (diesOf s (asidOf th)) kind va a e = true ↔ (diesOf s (asidOf th)).getLsbD e.die = true ∧
            (match kind with
             | 0 => e.asid = a ∧ e.page ≤ va.toNat / 4096 ∧ va.toNat / 4096 < e.page + e.npages
             | 1 => e.asid = a
             | _ => True)))) ∧
    (∀ kind va a before ws, th.mode = .trailing (.tlbi kind va a before :: ws) .next → before ≠ 0 → tlbiPending s kind a before = false →
      ∃ u, exec (.tlbiComplete t) s = .next u ∧ u.mem = s.mem ∧
        threadHas u t (fun x => x.mode = (if ws = [] then .ready else .trailing ws .next) ∧ sameRegs x th)) ∧
    (∀ a limit img s1 c, th.mode = .trailing [.ctxsave a limit img] .next → aget s.ctxs a = some c →
      (∀ r ∈ s.regions, r.asid = a → r.phase ≠ .running) → imageSize s a (regionClusters s a) ≤ 4096 * limit →
      vaPut (keepImage s a (regionClusters s a)) (asidOf th) (dieOf th.home.cluster) img
        (wordBytes (imageWords (keepImage s a (regionClusters s a)) a (regionClusters s a))) = some s1 →
      ∃ u, exec (.ctxsaveComplete t) s = .next u ∧ threadHas u t (fun x => x.mode = .ready ∧ sameRegs x th) ∧
        (∃ c', aget u.ctxs a = some c' ∧ c'.saved = true) ∧ u.mem = s1.mem ∧ (∀ r ∈ u.regions, r.asid = a → r.phase = .readOut)) ∧
    (∀ a limit img c, th.mode = .trailing [.ctxsave a limit img] .next → aget s.ctxs a = some c → asidOf th ≠ a →
      (∀ r ∈ s.regions, r.asid = a → r.phase ≠ .running) → 4096 * limit < imageSize s a (regionClusters s a) →
      ∃ u, exec (.ctxsaveComplete t) s = .next u ∧ threadHas u t (fun x => x.mode = .ready ∧ sameRegs x th) ∧
        ∃ c', aget u.ctxs a = some c' ∧ c'.saved = c.saved ∧ c'.stopped = false) ∧
    (∀ a img c k, th.mode = .trailing [.ctxload a img] .next → aget s.ctxs a = some c → c.saved = true →
      checkImage s th a img = .error k →
      ∃ u, exec (.ctxloadComplete t) s = .next u ∧ threadHas u t (fun x => x.mode = .ready ∧ sameRegs x th) ∧
        (∃ c', aget u.ctxs a = some c' ∧ c'.saved = true) ∧
        u.mem = ((vaPut s (asidOf th) (dieOf th.home.cluster) (img + 12) (leBytes 4 k)).getD s).mem) ∧
    (∀ a img c ws s1 s2, th.mode = .trailing [.ctxload a img] .next → asidOf th ≠ a → aget s.ctxs a = some c → c.saved = true →
      checkImage s th a img = .ok ws → s1 = updCtx (loadThreads (imageUnits s a (dieOf th.home.cluster) ws) a ws) a (fun x => { x with
        saved := false, stopped := false, image := none, regs := { x.regs with fseq := (ws.getD 4 0).extractLsb' 32 32 } }) →
      placeRegions s1 a (outClusters s1 a) = some s2 → aget s2.threads t = some th →
      ∃ u, exec (.ctxloadComplete t) s = .next u ∧ threadHas u t (fun x => x.mode = .ready ∧ sameRegs x th) ∧
        ∃ c', aget u.ctxs a = some c' ∧ c'.saved = false ∧ c'.stopped = false)

/-- R127, R128, R130: a write and a message land in the mailbox that they name, which is full afterwards; a write that tells of a
lost message ends its sender's wait as it lands; MSENDW waits while the mailbox is full, and its sender goes on once it has landed. A
replaying context takes its writes from its records instead (log entry 20). -/
def Obligations.MailboxesFill : Prop :=
  ∀ (s : State) (k : Nat),
    (∀ w th, s.fl.writes[k]? = some w → aget s.threads w.thread = some th → replays s (asidOf th) = false →
      (w.ends = none → ∃ u, exec (.mailboxWriteLand k) s = .next u ∧ threadHas u w.thread (tookMail th w.n w.v) ∧
        u.fl.writes = s.fl.writes.eraseIdx k) ∧
      (∀ z, w.ends = some z → th.mode = .trailing [z] .next → ∃ u, exec (.mailboxWriteLand k) s = .next u ∧
        threadHas u w.thread (fun x => tookMail th w.n w.v x ∧ x.mode = .ready))) ∧
    (∀ m th, s.fl.msgs[k]? = some m → m.host = none → aget s.threads m.dst = some th → replays s (asidOf th) = false →
      (∀ j x, j < k → s.fl.msgs[j]? = some x → ¬(x.src = m.src ∧ x.dst = m.dst ∧ x.n = m.n ∧ x.host = m.host)) →
      (m.wait = false → ∃ u, exec (.messageLand k) s = .next u ∧ threadHas u m.dst (tookMail th m.n m.v) ∧
        u.fl.msgs = s.fl.msgs.eraseIdx k) ∧
      (∀ x, m.wait = true → th.mfull.getLsbD m.n.toNat = false → aget s.threads m.src = some x → x.mode = .trailing [.msendw m.id] .next →
        ∃ u, exec (.messageLand k) s = .next u ∧ threadHas u m.dst (tookMail th m.n m.v) ∧ u.fl.msgs = s.fl.msgs.eraseIdx k ∧
          threadHas u m.src (fun y => y.mode = .ready)) ∧
      (m.wait = true → th.mfull.getLsbD m.n.toNat = true → exec (.messageLand k) s = .next s))

/-- R129, R260, R399, R400: the host mailbox takes a message, once the host has acknowledged the stores before it, signals MSI-X vector
0 where it was empty, and notes an overrun. A host read of HMB answers its value and empties it; DEVINFO, DIESLOST and OVR with FULL
answer what they hold, every other offset answers zero, and no read but HMB's changes anything; DIESLOST and OVR are cleared by a write
of one, and a write elsewhere is ignored. A host write of 8 bytes lands in a mailbox of the partition's dispatcher, one of another size
is discarded. An access to a function whose BARs are closed, or that a merge has absorbed, is answered with Unsupported Request. -/
def Obligations.HostMailboxes : Prop :=
  ∀ (s : State) (f : Nat) (p : Partition), aget s.parts f = some p →
    (∀ k m, s.fl.msgs[k]? = some m → m.host = some f → mayLand s.fl.msgs k m = true → ¬(m.wait = true ∧ p.full = true) →
      hostStoresBefore s m = false →
      ∃ u p', exec (.hostMailboxLand k) s = .next u ∧ aget u.parts f = some p' ∧ p'.hmb = m.v ∧ p'.full = true ∧
        p'.ovr = (p.ovr || p.full) ∧ p'.dies = p.dies ∧ u.fl.msgs = s.fl.msgs.eraseIdx k ∧
        (m.wait = false → u.fl.out = (if p.full then s.fl.out else s.fl.out ++ [.msix f 0]) ∧ u.mem = s.mem)) ∧
    (p.live = true → p.barsOpen = true →
      (∃ u, exec (.hmbRead (.bar0 f 0x1080)) s = .next u ∧ u.fl.out = s.fl.out ++ [.hmb f p.hmb] ∧
        (∃ p', aget u.parts f = some p' ∧ p'.full = false ∧ p'.hmb = p.hmb ∧ p'.ovr = p.ovr) ∧ u.mem = s.mem ∧ u.threads = s.threads) ∧
      (∀ off, off ≠ 0x1080 → ∃ v : W, exec (.hmbRead (.bar0 f off)) s = .next { s with fl := { s.fl with
          out := s.fl.out ++ [.bar0 f off v] } } ∧
        (off = 0x0 → s.pkg.devinfo = true → v.extractLsb' 0 14 = s.pkg.devid ∧ v.extractLsb' 16 4 = p.dies ∧
          v.extractLsb' 14 2 = 0 ∧ v.extractLsb' 20 44 = 0) ∧
        (off = 0x8 → v = if p.dieslost then 1 else 0) ∧
        (off = 0x1088 → (v.getLsbD 1 = p.ovr) ∧ (v.getLsbD 0 = p.full) ∧ v.extractLsb' 2 62 = 0) ∧
        (off ≠ 0x0 → off ≠ 0x8 → off ≠ 0x1088 → v = 0)) ∧
      (∀ (size : Nat) (v : W), ∃ u p', exec (.registerWrite (.bar0 f) 0x8 size v) s = .next u ∧ aget u.parts f = some p' ∧
        p' = { p with dieslost := p.dieslost && !v.getLsbD 0 } ∧ u.mem = s.mem ∧ u.threads = s.threads) ∧
      (∀ (size : Nat) (v : W), ∃ u p', exec (.registerWrite (.bar0 f) 0x1088 size v) s = .next u ∧ aget u.parts f = some p' ∧
        p' = { p with ovr := p.ovr && !v.getLsbD 1 } ∧ u.mem = s.mem ∧ u.threads = s.threads) ∧
      (∀ off size v, off ≠ 0x8 → off ≠ 0x1088 → off ≠ 0x1100 → (off < 0x1000 ∨ 0x1070 < off ∨ off % 8 ≠ 0) →
        exec (.registerWrite (.bar0 f) off size v) s = .next s) ∧
      (∀ (n : BitVec 4) (v : W) (th : Thread), n ≠ 15 → s.pkg.devinfo = true → aget s.threads p.dispatcher = some th →
        replays s (asidOf th) = false →
        (∃ u, exec (.dmbWrite f n.toNat 8 v) s = .next u ∧ threadHas u p.dispatcher (tookMail th n v)) ∧
        (∃ u, exec (.registerWrite (.bar0 f) (0x1000 + 8 * n.toNat) 8 v) s = .next u ∧ threadHas u p.dispatcher (tookMail th n v))) ∧
      (∀ n size v, size ≠ 8 → exec (.dmbWrite f n size v) s = .next s ∧
        (n ≤ 14 → exec (.registerWrite (.bar0 f) (0x1000 + 8 * n) size v) s = .next s))) ∧
    ((p.live && p.barsOpen) = false → ∀ off n size v,
      exec (.hmbRead (.bar0 f off)) s = .next { s with fl := { s.fl with out := s.fl.out ++ [.unsupported f] } } ∧
      exec (.dmbWrite f n size v) s = .next { s with fl := { s.fl with out := s.fl.out ++ [.unsupported f] } } ∧
      exec (.registerWrite (.bar0 f) off size v) s = .next { s with fl := { s.fl with out := s.fl.out ++ [.unsupported f] } })

/-- R146, R147: a steal request waits at a running victim that still has work, and a victim that has none or has halted refuses it
at once; the reply gives the thief the range that was granted, and ends its wait. -/
def Obligations.StealsMoveWork : Prop :=
  ∀ (s : State) (k : Nat) (r : Steal), s.fl.steals[k]? = some r →
    (∀ th, r.reply = false → aget s.threads r.victim = some th → threadRuns s th = true →
      (th.mode ≠ .halted → th.regs.irNext.toNat < th.regs.irEnd.toNat →
        ∃ u, exec (.stealRequestLand k) s = .next u ∧ aget u.threads r.victim = some { th with thieves := th.thieves ++ [(r.thief, false)] } ∧
          u.fl.steals = s.fl.steals.eraseIdx k ∧ u.mem = s.mem) ∧
      ((th.mode = .halted ∨ th.regs.irEnd.toNat ≤ th.regs.irNext.toNat) →
        ∃ u g, exec (.stealRequestLand k) s = .next u ∧ u.threads = s.threads ∧
          u.fl.steals = s.fl.steals.eraseIdx k ++ [⟨r.thief, r.victim, true, none, g⟩] ∧ u.mem = s.mem)) ∧
    (∀ th, r.reply = true → aget s.threads r.thief = some th → th.mode = .trailing [.steal r.victim] .next →
      ∃ u, exec (.stealReplyLand k) s = .next u ∧ u.fl.steals = s.fl.steals.eraseIdx k ∧ threadHas u r.thief (fun x => x.mode = .ready ∧
        x.regs = (match r.grant with
          | some g => { th.regs with irNext := g.1, irEnd := g.2 }
          | none => th.regs) ∧ x.gs = th.gs ∧ x.ms = th.ms ∧ x.pc = th.pc))

/-! ### Operators of a cell (R152 to R175, R195 to R226) -/

/-- R152, R155, R161 to R170: a node of MAP, TRANSC, CONV or FILTER whose ports offer a beat (with its scalars and scales there) sends
what its mode makes of it: a lane of the result for each lane, none where an operand has none; FILTER keeps the lanes whose predicate
is true; WIDTH, LPACK and LUNPACK regroup elements and form every whole beat of them. Of the tokens that a step forms one leaves at once on an
output, and each step after it sends one more (R152); a TRANSPOSE takes beats of the next block meanwhile, where the two fit its buffer
(R218). -/
def Obligations.ElementOperators : Prop :=
  ∀ (s : State) (c n : Nat) (x : Cell) (nd : Node) (m p : Nat) (xs : List Lanes), LeadsTo s c n x nd m p →
    (nd.sentAll = true → nd.word.kind = kMAP → lockAct s x n nd (lockPorts nd) (scaleFwd nd) true = .beat xs → repReady nd = true → repShort nd = none →
      ∃ u l, exec (.mapFire c n) s = .next u ∧ queueAt u c m p = queueAt s c m p ++ [.data l] ∧ l.length = (nd.port 0).le ∧
        ∀ i < l.length, l.getD i none = (match laneOperand nd (lockPorts nd) xs i 0, laneOperand nd (lockPorts nd) xs i 1,
            laneOperand nd (lockPorts nd) xs i 2 with
          | some a, some b, some d => some (mapLane nd.word (nd.port 0).elem a b d).1
          | _, _, _ => none)) ∧
    (nd.sentAll = true → nd.word.kind = kTRANSC → lockAct s x n nd [0] (scaleFwd nd) true = .beat xs →
      ∃ u, exec (.transcFire c n) s = .next u ∧ queueAt u c m p = queueAt s c m p ++
        [.data ((xs.headD []).map (Option.map (fun a => (transcLane nd.word (nd.port 0).elem a).1)))]) ∧
    (nd.sentAll = true → nd.word.kind = kFILTER → lockAct s x n nd [0, 1] (scaleFwd nd) true = .beat xs →
      ∃ u l, exec (.filterFire c n) s = .next u ∧ queueAt u c m p = queueAt s c m p ++ [.data l] ∧ l.length = (xs.getD 0 []).length ∧
        ∀ i < l.length, l.getD i none = (match (xs.getD 1 []).getD i none with
          | some q => if q % 256 ≠ 0 then (xs.getD 0 []).getD i none else none
          | none => none)) ∧
    (nd.sentAll = true → nd.word.kind = kCONV → nd.word.mode = 0 → lockAct s x n nd [0] (cvtScale nd) true = .beat xs → nd.ord.lanes = (nd.port 0).le →
      0 < beatPositions (nd.port 0) →
      (∀ i < beatPositions (nd.port 0), ((xs.headD []).getD i none).isSome = true →
        cvtBlock nd.word = 0 ∨ (scaleAt (nd.port 0) (cvtBlock nd.word) ((nd.port 0).pos + i)).isSome = true) →
      ∃ u l, exec (.convCvt c n) s = .next u ∧ queueAt u c m p = queueAt s c m p ++ [.data l] ∧ l.length = (nd.port 0).le ∧
        ∀ i < l.length, l.getD i none = (match (xs.headD []).getD i none with
          | some a => (cvtLane nd.word (nd.port 0) ((nd.port 0).pos + i) a).map (fun e => e.1)
          | none => none)) ∧
    (nd.sentAll = true → nd.word.kind = kCONV → lockAct s x n nd [0] (fun _ => 0) false = .beat xs → 0 < nd.ord.lanes →
      ∀ ev f, (nd.word.mode = 1 ∧ ev = Instr.convWidth c n ∧ f = widthStep (typeBits (nd.port 0).elem) (typeBits nd.word.type) ∨
          nd.word.mode = 2 ∧ ev = .lpack c n ∧ f = lpackStep (lamPlanes nd.word.type) ∨
          nd.word.mode = 3 ∧ ev = .lunpack c n ∧ f = (fun l =>
            let r := lunpackStep (nd.port 0).elem (prmField nd.params 0 0 4) l
            (r.1, r.2.1.take (declared nd.ord - nd.outPosA - (convOf nd).2.1.length), none))) →
        (f ((convOf nd).1 ++ (xs.headD []).take (beatPositions (nd.port 0)))).2.2 = none →
        ∃ u, exec ev s = .next u ∧ sends s u c n m p
          ((chunks nd.ord.lanes ((convOf nd).2.1 ++ (f ((convOf nd).1 ++ (xs.headD []).take (beatPositions (nd.port 0)))).2.1)).map Token.data)) ∧
    (∀ t ts, nd.word.kind = kCONV → nd.word.mode = 1 → nd.pendA = t :: ts → nd.pendB = [] → roomAt x nd.word.outA = true →
      isData (some t) = true → ∃ u, exec (.convWidth c n) s = .next u ∧ sends s u c n m p (t :: ts)) ∧
    (∀ t ts, nd.word.kind = kPERM → nd.word.mode = 2 → nd.pendA = t :: ts → nd.pendB = [] → roomAt x nd.word.outA = true →
      isData (some t) = true →
      ∃ u y, exec (.permTranspose c n) s = .next u ∧ queueAt u c m p = queueAt s c m p ++ [t] ∧ nodeOf u c n = some y ∧
        y.pendA.take ts.length = ts ∧
        (∀ ys, lockAct s x n nd [0] (fun _ => 0) false = .beat ys → (nd.port 0).fed = true → 0 < beatPositions (nd.port 0) →
          (rowOf nd).buf.length + ts.length + 1 < nd.ord.lanes →
          y.pendA = ts ∧ (rowOf y).buf = (rowOf nd).buf ++ [ys.headD []]))

/-- R171 to R175: ORDERED merges two beats position by position; CONCAT serves the first input that has not ended, RROBIN the next
that is ready at or after its pointer; a LOOP with an empty table admits a beat, sends it into its body, and keeps its entry. -/
def Obligations.MergesAndLoops : Prop :=
  ∀ (s : State) (c n : Nat) (x : Cell) (nd : Node) (m p : Nat), Sends s c n x nd m p →
    (∀ a b : Lanes, nd.word.kind = kMERGE → nd.word.mode = 1 → lockAct s x n nd [0, 1] (scaleFwd nd) true = .beat [a, b] →
      (∀ i < a.length, a.getD i none = none ∨ b.getD i none = none) →
      ∃ u l, exec (.mergeOrdered c n) s = .next u ∧ queueAt u c m p = queueAt s c m p ++ [.data l] ∧ l.length = a.length ∧
        ∀ i < a.length, l.getD i none = (a.getD i none).or (b.getD i none)) ∧
    (∀ k l, nd.word.kind = kMERGE → roomAll x n = true → (readsOf nd).findSome? (mergePort s x n nd) = none →
      (nd.ord.anyRagged = true → (mergeOf nd).2 = true) → mergePick nd = some k → nd.head k = some (.data l) →
      (nd.word.mode = 2 → ∃ u, exec (.mergeConcat c n) s = .next u ∧
        queueAt u c m p = queueAt s c m p ++ [.data (padTo nd.ord.lanes l)]) ∧
      (nd.word.mode = 0 → replays s x.crew.asid = false → ∃ u, exec (.mergeRrobin c n) s = .next u ∧
        queueAt u c m p = queueAt s c m p ++ [.data (padTo nd.ord.lanes l)] ∧
        nodeHas u c n (fun y => (mergeOf y).1 = (k + 1) % 3))) ∧
    (∀ l : Lanes, nd.word.kind = kLOOP → nd.failing = false → loopOf nd = ([], false, false) → nd.head 0 = some (.data l) →
      nd.head 1 = none → nd.head 2 = none → roomAll x n = true → lenDue (nd.port 0) = false → beatBad (nd.port 0) l = none →
      l.any Option.isSome = true →
      ∃ u, exec (.loopCycle c n) s = .next u ∧ queueAt u c m p = queueAt s c m p ++ [.data l] ∧
        nodeHas u c n (fun y => loopOf y = ([⟨l, l.map Option.isSome, 0, 1⟩], false, false)))

/-- R212 to R224: the row operators. TABLE and RANK permute lanes, TRANSPOSE turns a block of beats, SCAN keeps running values, RED
folds a beat into one element, and DACC adds a column into its accumulator. -/
def Obligations.RowOperators : Prop :=
  ∀ (s : State) (c n : Nat) (x : Cell) (nd : Node) (m p : Nat) (xs : List Lanes), Sends s c n x nd m p →
    (nd.word.kind = kPERM → nd.word.mode = 0 → lockAct s x n nd [0] (fun _ => 0) false = .beat xs →
      ∃ u l, exec (.permTable c n) s = .next u ∧ queueAt u c m p = queueAt s c m p ++ [.data l] ∧ l.length = (xs.headD []).length ∧
        ∀ i < l.length, l.getD i none = (xs.headD []).getD ((rowOf nd).ptab.getD i 0) none) ∧
    (nd.word.kind = kPERM → nd.word.mode = 1 → (rowOf nd).due = 0 → nd.failing = false →
      lockAct s x n nd [0, 1] (fun _ => 0) false = .beat xs →
      ∃ u, exec (.permRank c n) s = .next u ∧ nodeHas u c n (fun y => (rowOf y).due = prmField nd.params 0 0 16 ∧
        (rowOf y).ptab = rankTable (rankCodes (xs.headD [])) ++
          (rowOf nd).ptab.drop (rankTable (rankCodes (xs.headD []))).length)) ∧
    (nd.word.kind = kPERM → nd.word.mode = 1 → (rowOf nd).due ≠ 0 → nd.failing = false → (rowOf nd).skip = false →
      lockAct s x n nd [1] (fun _ => 0) false = .beat xs →
      ∃ u l, exec (.permRank c n) s = .next u ∧ queueAt u c m p = queueAt s c m p ++ [.data l] ∧ l.length = (xs.headD []).length ∧
        ∀ j < l.length, l.getD j none = (let i := (rowOf nd).ptab.getD j 0
          if ((rowOf nd).codes.getD i none).getD 16 = 16 then none else (xs.headD []).getD i none)) ∧
    (nd.word.kind = kPERM → nd.word.mode = 2 → lockAct s x n nd [0] (fun _ => 0) false = .beat xs →
      ((rowOf nd).buf.length + 1 < nd.ord.lanes →
        ∃ u, exec (.permTranspose c n) s = .next u ∧ queueAt u c m p = queueAt s c m p) ∧
      ((rowOf nd).buf.length + 1 = nd.ord.lanes →
        ∃ u, exec (.permTranspose c n) s = .next u ∧ sends s u c n m p ((List.range nd.ord.lanes).map (fun j =>
          Token.data (((rowOf nd).buf ++ [xs.headD []]).map (fun l => l.getD j none)))))) ∧
    (nd.word.kind = kSCAN → nd.word.mode ≠ 2 → lockAct s x n nd (lockPorts nd) (fun _ => 0) true = .beat xs →
      ∃ u l, exec (.scanBeat c n) s = .next u ∧ queueAt u c m p = queueAt s c m p ++ [.data l] ∧ l.length = (xs.headD []).length ∧
        ∀ i < l.length, l.getD i none = ((xs.headD []).getD i none).map (fun v => (scanLane nd.word (nd.port 0).elem
          (!(rowOf nd).started.getD i false || (nd.word.mode == 1 && (match (xs.getD 1 []).getD i none with
            | some q => q % 256 != 0
            | none => false))) ((rowOf nd).rs.getD i 0) v).2.1)) ∧
    (nd.word.kind = kSCAN → nd.word.mode = 2 → lockAct s x n nd [0, 1] (fun _ => 0) false = .beat xs →
      boundaryFault (boundaryLanes (xs.headD []) (xs.getD 1 [])) = none →
      ∃ u, exec (.scanBoundary c n) s = .next u ∧
        (let r := boundaryGo nd.word (nd.port 0).elem (boundaryLanes (xs.headD []) (xs.getD 1 [])) (0, 0, false) (List.replicate 16 none)
         queueAt u c m p = queueAt s c m p ++
           [.data ((r.1.set 15 (some (boundaryElem (nd.port 0).elem r.2))).map (Option.map (fun e => e.1)))])) ∧
    (nd.word.kind = kRED → nd.word.mode ≤ 3 → lockAct s x n nd [0] (fun _ => 0) false = .beat xs → 0 < nd.ord.lanes →
      ∃ u, exec (.redBeat c n) s = .next u ∧ sends s u c n m p ((chunks nd.ord.lanes ((rowOf nd).out ++
        [(redBeat nd.word (nd.port 0).elem (xs.headD [])).map (fun e => e.1)])).map Token.data)) ∧
    (nd.word.kind = kRED → nd.word.mode = 4 → (rowOf nd).due = 0 → nd.failing = false →
      lockAct s x n nd [0, 1] (fun _ => 0) false = .beat xs →
      ∃ u, exec (.redDaccColumn c n) s = .next u ∧ nodeHas u c n (fun y => (rowOf y).ltab = daccTable (xs.getD 1 []) ∧
        (rowOf y).due = prmField nd.params 0 0 16)) ∧
    (∀ top, nd.word.kind = kRED → nd.word.mode = 4 → 2 ≤ (rowOf nd).due → nd.failing = false → (rowOf nd).skip = false →
      (rowOf nd).grp = 0 → (rowOf nd).ltab ≠ [] → lockAct s x n nd [0] (fun _ => 0) false = .beat xs →
      (xs.headD []).getD 15 none = some top →
      ∃ u, exec (.redDaccColumn c n) s = .next u ∧ nodeHas u c n (fun y => (rowOf y).due = (rowOf nd).due - 1 ∧
        (rowOf y).acc.getD (rowOf nd).col none = some (daccColumn nd.word x.cfg.nbv.toNat (rowOf nd).ltab
          ((nd.port 0).elem == 11) (xs.headD []) top).1))

/-- R202, R203, R205: one pass of an MMA adds the products of its operands' k-steps into the tile of the product stream, after the
prelude where the stream begins; an emission sends the tile's elements beat by beat, and its END with COUNT 4096. -/
def Obligations.MatrixOperator : Prop :=
  ∀ (s : State) (c n : Nat) (x : Cell) (nd : Node), NodeFree s c n x nd → nd.word.kind = kMMA → roomAll x n = true →
    (∀ d ca cb last sp, repAct s x n nd = none → (mmaOf nd).drop = false →
      (mmaPorts nd (mmaOf nd)).findSome? (mmaTake s x n nd) = none → mmaStation x n nd = none →
      ¬((mmaOf nd).begun = true ∧ (nd.port 0).ended = true ∧ (mmaOf nd).a.tiles = []) →
      ((mmaOf nd).tiles.getD (mmaTile nd (mmaOf nd)) (.empty, [])).1 ≠ .draining → mmaTile nd (mmaOf nd) < (mmaOf nd).tiles.length →
      passDecay nd (mmaOf nd) = .ok d → passIn s c n x nd (mmaOf nd) = .go ca cb last sp →
      ∃ u, exec (.mmaPass c n) s = .next u ∧ (Quiet s x.crew.asid → u.mem.bytes = s.mem.bytes) ∧ nodeHas u c n (fun y =>
        (mmaOf y).begun = true ∧ (mmaOf y).ksteps = (mmaOf nd).ksteps + ca.length ∧
        (mmaOf y).tiles[mmaTile nd (mmaOf nd)]? = some (.live, (mmaAccumulate nd x.cfg.nbv.toNat
          (if (mmaOf nd).begun then ((mmaOf nd).tiles.getD (mmaTile nd (mmaOf nd)) (.empty, zeroTile)).2
           else (mmaPrelude nd (mmaOf nd) (if nd.word.flags.getLsbD 6 then some d else none)).1) ca cb).1))) ∧
    (∀ m p t pos rest, Sends s c n x nd m p → (mmaOf nd).emits = (t, pos) :: rest →
      (pos < 4096 → ∃ u, exec (.mmaEmit c n) s = .next u ∧ queueAt u c m p = queueAt s c m p ++
        (let vs := (((mmaOf nd).tiles.getD t (.empty, zeroTile)).2.drop pos).take nd.ord.lanes
         [.data ((List.range vs.length).map (fun i => some (mmaOut nd ((mmaOf nd).made.contains (t, pos + i)) (vs.getD i 0)).1))])) ∧
      (4096 ≤ pos → ∃ u, exec (.mmaEmit c n) s = .next u ∧ queueAt u c m p = queueAt s c m p ++ [.fin 4096 (nodeSig s x n)] ∧
        nodeHas u c n (fun y => (mmaOf y).emits = rest)))

/-! ### Memory nodes, links, tokens and reorder stores (R157 to R160, R179 to R191, R229 to R237, R240 to R244, R313) -/

/-- R180: an AGEN that has begun a stream sends the next beat of addresses, those of an AFFINE order by its strides and those of a
RAGGED one with the offset of its table, and after the last the END with the count; before the first it sends the LEN of a ragged order,
which a replicate stream does not carry (R55); an INDEX stream multiplies what comes by its stride. -/
def Obligations.AddressGenerators : Prop :=
  ∀ (s : State) (c n : Nat) (x : Cell) (nd : Node) (m p : Nat), Sends s c n x nd m p → nd.word.kind = kAGEN →
    roomAll x n = true → ∀ b0 b1 len ts rest, (memOf nd).starts = (b0, b1, len, ts) :: rest →
      (nd.word.mode ≠ 1 → (memOf nd).begun = false → agenSluice s c n x nd = none →
        ∃ u, exec (.agenEmit c n) s = .next u ∧ nodeHas u c n (fun y => (memOf y).begun = true ∧ (memOf y).cur = 0) ∧
          queueAt u c m p = queueAt s c m p ++ (if nd.ord.anyRagged = true ∧ nd.word.repl = false then
            [.len (len.getD 0 0) (len.getD 1 0) (len.getD 2 0) (len.getD 3 0)] else [])) ∧
      (nd.word.mode ≠ 1 → (memOf nd).begun = true → (memOf nd).cur < countOf nd.ord (if nd.ord.anyRagged then some len else none) →
        let cs := ((coords nd.ord (if nd.ord.anyRagged then some len else none)).drop (memOf nd).cur).take nd.ord.lanes
        (nd.word.mode = 2 → ∀ q ∈ cs, ∃ v, offTable s c n x nd b1 (q.getD (prmField nd.params 2 0 2) 0) = .ok v) →
        ∃ u l, exec (.agenEmit c n) s = .next u ∧ queueAt u c m p = queueAt s c m p ++ [.data l] ∧
          nodeHas u c n (fun y => (memOf y).cur = (memOf nd).cur + cs.length) ∧
          (Quiet s x.crew.asid → (∀ b, nd.word.outB = some b → b.2 ≠ n) → u.mem.bytes = s.mem.bytes) ∧
          ∀ i, l.getD i none = (if i < cs.length ∧ inActual nd.ord (if nd.ord.anyRagged then some len else none) (cs.getD i []) = true then
            (if nd.word.mode = 2 then
              (match offTable s c n x nd b1 ((cs.getD i []).getD (prmField nd.params 2 0 2) 0) with
               | .ok v => some (agenAddr b0 ((v.1 : Int) + agenSum nd (cs.getD i []) (some (prmField nd.params 2 0 2))))
               | .error _ => none)
             else some (agenAddr b0 (agenSum nd (cs.getD i []) none)))
            else none)) ∧
      (nd.word.mode ≠ 1 → (memOf nd).begun = true → countOf nd.ord (if nd.ord.anyRagged then some len else none) ≤ (memOf nd).cur →
        ∃ u, exec (.agenEmit c n) s = .next u ∧ queueAt u c m p = queueAt s c m p ++
          [.fin (countOf nd.ord (if nd.ord.anyRagged then some len else none)) (nodeSig s x n)] ∧
          nodeHas u c n (fun y => (memOf y).starts = rest ∧ (memOf y).begun = false ∧ (memOf y).streams = (memOf nd).streams + 1)) ∧
      (∀ xs, nd.word.mode = 1 → lockAct s x n nd [0] (fun _ => 0) true = .beat xs →
        ∃ u, exec (.agenEmit c n) s = .next u ∧ queueAt u c m p = queueAt s c m p ++
          [.data ((xs.headD []).map (Option.map (fun v => agenAddr b0 (ival (nd.port 0).elem v * sval 64 (prmField nd.params 0 0 64)))))])

/-- R184 to R186: the lane of a MEM node that performs next. A LOAD notes the value of its element, which it reads from memory or from
the snapshot of its STREAM (R250); a STORE writes its element; an RMW does both as one event, and notes the old value. Once every lane of a beat has
performed, a LOAD and an RMW send its values; after the END of its ports, and once no access is under way, a MEM node sends DONE with the
count of its accesses, and its stream has ended (R182). -/
def Obligations.MemoryNodes : Prop :=
  (∀ (s : State) (c n e : Nat) (x : Cell) (nd : Node) (b : MemBeat) (i : Nat) (r : NodeLoc), LaneAt s c n e x nd b i r →
      let size := elemBytes nd.word.type
      let asid := x.crew.asid
      let v := (b.data.getD i none).getD 0
      (let seen := withImage s (memOf nd).image
       nd.word.mode = 0 → isRemote r.loc = false → laneReadFault seen asid size r.loc = none → replays s asid = false →
        ∃ u, exec (.memLoad c n e) s = .next u ∧ (Quiet s asid → u.mem.bytes = s.mem.bytes) ∧ nodeHas u c n (fun y =>
          (memOf y).out = (memOf nd).out ++ [(i, some (leVal (locBytes seen asid seen.mem.bytes r.loc size)))] ∧
          (memOf y).count = (memOf nd).count + 1)) ∧
      (∀ a, nd.word.mode = 1 → r.loc = .mem a → locMeta s asid r.loc size = none →
        ∃ u, exec (.memStore c n e) s = .next u ∧
          nodeHas u c n (fun y => (memOf y).out = (memOf nd).out ++ [(i, none)] ∧ (memOf y).count = (memOf nd).count + 1) ∧
          (Safe s → u.mem.num a size = v % 256 ^ size) ∧
          (Quiet s asid → Safe s → ∀ y, y < a ∨ a + size ≤ y → u.mem.byte y = s.mem.byte y)) ∧
      (∀ a, nd.word.mode = 2 → r.loc = .mem a → laneReadFault s asid size r.loc = none → locMeta s asid r.loc size = none → replays s asid = false →
        ∃ u, exec (.memRmw c n e) s = .next u ∧
          nodeHas u c n (fun y => (memOf y).out = (memOf nd).out ++ [(i, some (s.mem.num a size))]) ∧
          (Quiet s asid → Safe s → u.mem.num a size =
            (rmwNew (nd.word.flags.toNat / 16) nd.word.type (s.mem.num a size) v).1 % 256 ^ size) ∧
          (Quiet s asid → Safe s → ∀ y, y < a ∨ a + size ≤ y → u.mem.byte y = s.mem.byte y)) ∧
      (∀ ix pa port, nd.word.mode = 0 → r.loc = .peer ix pa → route s ix = .ok port →
        ∃ u, exec (.memLoad c n e) s = .next u ∧ u.mem.bytes = s.mem.bytes ∧
          u.fl.ops = s.fl.ops ++ [⟨s.nextId, .nodeLoad c n ((nd.port 0).pos + i), ix, some port, false, w64 pa, List.replicate size 0, []⟩]) ∧
      (∀ ix pa port, nd.word.mode = 1 → r.loc = .peer ix pa → route s ix = .ok port →
        ∃ u, exec (.memStore c n e) s = .next u ∧ u.mem.bytes = s.mem.bytes ∧
          u.fl.ops = s.fl.ops ++ [⟨s.nextId, .nodeStore c n ((nd.port 0).pos + i), ix, some port, true, w64 pa, leBytes size v, []⟩])) ∧
  (∀ (s : State) (c n e : Nat) (x : Cell) (nd : Node) (m p : Nat), nd.word.kind = kMEM → nd.word.mode ≤ 2 → (memOf nd).begun = true →
      (∀ xs, Sends s c n x nd m p → nd.word.mode ≠ 1 → memDone s x n nd = none → (memPorts nd).all (fun k => (nd.port k).ended) = false →
        lockAct s x n nd (memPorts nd) (fun _ => 0) false = .beat xs → lanesDue nd (memBeat nd xs) = [] →
        ∃ u l, exec (if nd.word.mode = 0 then .memLoad c n e else .memRmw c n e) s = .next u ∧
          queueAt u c m p = queueAt s c m p ++ [.data l] ∧ l.length = (memBeat nd xs).addr.length ∧
          ∀ i v, (memOf nd).out.find? (fun q => q.1 == i) = some (i, v) → i < l.length → l.getD i none = v) ∧
      ((memPorts nd).all (fun k => (nd.port k).ended) = true → nodeOps s c n = [] → roomAll x n = true →
        (NodeFree s c n x nd → ∃ u, exec (.doneEmit c n) s = .next u ∧
          ((∀ b, nd.word.outA = some b ∨ nd.word.outB = some b → b.2 ≠ n) → u.mem = s.mem) ∧ nodeHas u c n (fun y => (memOf y).begun = false ∧
          (memOf y).streams = (memOf nd).streams + 1 ∧ (memOf y).slot = none ∧ (memOf y).image = none)) ∧
        (Sends s c n x nd m p → nd.word.mode = 1 → ∃ u, exec (.doneEmit c n) s = .next u ∧
          sends s u c n m p [.done (memOf nd).count (nodeSig s x n), .fin 0 (nodeSig s x n)]) ∧
        (SendsB s c n x nd m p → nd.word.mode ≠ 1 → ∃ u, exec (.doneEmit c n) s = .next u ∧
          sendsB s u c n m p [.done (memOf nd).count (nodeSig s x n), .fin 0 (nodeSig s x n)])))

/-- R48, R65, R133, R157 to R160, R396: POISON passes a node in its place, on OUTB alone at a LOOP; a sink accepts it and its cell halts, and the
record goes to m15 of the thread that configured the cell; a SLUICE leaves once every port has it, and a SLUICE that reaches the last
sink of its cell completes there, and the flags and counts of the cell's nodes commit to GFLAG and EXCNT of the thread that configured it;
a SNAP passes, is awaited at a join, or is sent on when the wait is over. -/
def Obligations.TokensPass : Prop :=
  ∀ (s : State) (c n : Nat) (x : Cell) (nd : Node) (m p : Nat),
    (∀ k q, nd.head k = some (.poison q) → (nd.port k).fed = true → isSink nd = false →
      (governs nd k && columnsDue nd) = false →
      (Sends s c n x nd m p → nd.word.kind ≠ kLOOP → roomAll x n = true →
        ∃ u, exec (.poisonForward c n k) s = .next u ∧ queueAt u c m p = queueAt s c m p ++ [.poison q]) ∧
      (SendsB s c n x nd m p → nd.word.kind = kLOOP → roomAt x nd.word.outB = true →
        ∃ u, exec (.poisonForward c n k) s = .next u ∧ queueAt u c m p = queueAt s c m p ++ [.poison q])) ∧
    (∀ k q, NodeAt s c n x nd → nd.head k = some (.poison q) → isSink nd = true → linkHeld s x nd = false →
      (isLinkout nd = true → (noRoute s nd).isSome = true ∨ linkCredit s c n x nd = true) →
      ∃ u, exec (.sinkHalt c n k) s = .next u ∧ (∃ y, aget u.cells c = some y ∧ y.halted = true ∧ y.sluices = []) ∧
        (unconfirmed s x.crew = false → ∃ w ∈ u.fl.writes, w.thread = x.cfg.thread ∧ w.n = 15 ∧
          w.v = trapWord0 q.code q.sub ⟨1, q.node.toNat, q.origin, x.cfg.sntid⟩ false)) ∧
    (sluiceReady nd = true → roomAll x n = true → nodeOps s c n = [] →
      (Sends s c n x nd m p → isSink nd = false → ∃ u g, exec (.sluiceForward c n) s = .next u ∧
        queueAt u c m p = queueAt s c m p ++ [.sluice (sluiceAt nd ((readsOf nd).headD 0)).1 g]) ∧
      (∀ sl, NodeAt s c n x nd → isSink nd = true → linkGate s c n x nd = none →
        x.sluices = [sl] → sl.sid = (sluiceAt nd ((readsOf nd).headD 0)).1 → sl.left = [n] →
        ∃ u y, exec (.sluiceForward c n) s = .next u ∧ aget u.cells c = some y ∧ y.sluices = [] ∧ y.lastSink = n ∧
          y.drainedAt = max x.drainedAt sl.entered ∧
          ∀ th, aget s.threads x.cfg.thread = some th → threadHas u x.cfg.thread (fun z =>
            z.regs = (x.nodes.map (fun d => d.exc)).foldl commitExc th.regs ∧
            z.regs.gflag = (x.nodes.map (fun d => d.exc.flags)).foldl (fun a b => a ||| b) th.regs.gflag ∧
            z.regs.nancnt = (x.nodes.map (fun d => d.exc.nan)).foldl satAdd th.regs.nancnt ∧
            z.regs.satcnt = (x.nodes.map (fun d => d.exc.sat)).foldl satAdd th.regs.satcnt ∧
            z.regs.ofcnt = (x.nodes.map (fun d => d.exc.ovf)).foldl satAdd th.regs.ofcnt ∧
            z.regs.ufcnt = (x.nodes.map (fun d => d.exc.unf)).foldl satAdd th.regs.ufcnt))) ∧
    (∀ e, nd.word.kind ≠ kLOOP → roomAll x n = true → nd.late = [] →
      (∀ k, Sends s c n x nd m p → linkGate s c n x nd = none → readsOf nd = [k] → nd.head k = some (.snap e) →
        ∃ u, exec (.snapAlign c n) s = .next u ∧ queueAt u c m p = queueAt s c m p ++ [.snap e]) ∧
      (∀ j k, NodeFree s c n x nd → linkGate s c n x nd = none → readsOf nd = [j, k] → nd.head j = some (.snap e) →
        nd.head k = none → nd.snap = none →
        ∃ u, exec (.snapAlign c n) s = .next u ∧ nodeHas u c n (fun y => y.snap = some (e, s.cycle, [j]) ∧ y.ports = nd.ports)) ∧
      (∀ cx since l, Sends s c n x nd m p → aget s.ctxs x.crew.asid = some cx → nd.snap = some (e, since, l) →
        since + cx.log.align.toNat ≤ s.cycle →
        ∃ u, exec (.snapAlignTimeout c n) s = .next u ∧ queueAt u c m p = queueAt s c m p ++ [.snap e] ∧
          nodeHas u c n (fun y => y.snap = none ∧ y.late = ((readsOf nd).filter (fun k => snapAt nd k != some e)).map (fun k => (k, e)))))

/-- R230 to R237: a reorder store takes a beat, gives each position its place in the consumer's order, and lets the consumer's next
beat leave once it is whole; an END waits behind the elements and a SLUICE behind
those that are there; a POISON that is there leaves first (R243); a LEN is compared with what the store can hold, and passes, or POISON
stands in its place. -/
def Obligations.ReorderStores : Prop :=
  ∀ (s : State) (c n p : Nat) (x : Cell) (nd : Node) (st : Store), NodeAt s c n x nd → (nd.port p).store = some st →
    (∀ xs rest, (nd.port p).link = .data xs :: rest → st.ending = false → st.reg = [] → st.dropping = false →
      ∃ u, exec (.reorderStoreAccept c n p) s = .next u ∧ u.mem = s.mem ∧ nodeHas u c n (fun y => (y.port p).link = rest ∧
        (y.port p).store = some (st.takeBeat xs) ∧ (y.port p).q = (nd.port p).q)) ∧
    (∀ k g rest, (nd.port p).link = .fin k g :: rest → st.dropping = false →
      ∃ u, exec (.reorderStoreAccept c n p) s = .next u ∧ u.mem = s.mem ∧ nodeHas u c n (fun y => (y.port p).link = rest ∧
        ∃ st1, (y.port p).store = some st1 ∧ st1.tail = st.tail ++ [(.fin k g, [])] ∧ st1.held = st.held ∧ st1.reg = st.reg)) ∧
    (∀ sid g rest, (nd.port p).link = .sluice sid g :: rest → st.ending = false →
      ∃ u, exec (.reorderStoreAccept c n p) s = .next u ∧ u.mem = s.mem ∧ nodeHas u c n (fun y => (y.port p).link = rest ∧
        ∃ st1, (y.port p).store = some st1 ∧ st1.tail = st.tail ++ [(.sluice sid g, (st.held ++ st.reg).map Prod.fst)])) ∧
    (let first := (nd.port p).link.head?
     first.elim false Token.isPoison = false → (nd.port p).q.length < Config.linkCredit → (nd.port p).lp = (nd.port p).le → (nd.port p).rest = [] → st.tail = [] →
      st.ready = true →
      ∃ u, exec (.reorderStoreEmit c n p) s = .next u ∧ u.mem = s.mem ∧
        queueAt u c n p = queueAt s c n p ++ [.data (st.lanesOf st.cbeat)] ∧
        nodeHas u c n (fun y => (y.port p).store = some st.leave)) ∧
    (∀ k g rest w, (nd.port p).link.head?.elim false Token.isPoison = false → (nd.port p).q.length < Config.linkCredit → (nd.port p).rest = [] → st.tail = (.fin k g, w) :: rest →
      st.held = [] → st.reg = [] →
      ∃ u, exec (.reorderStoreEmit c n p) s = .next u ∧ queueAt u c n p = queueAt s c n p ++ [.fin k (labelSig s st.label g.pts)] ∧
        nodeHas u c n (fun y => (y.port p).store = some (st.cleared rest))) ∧
    (∀ a b d e rest, (nd.port p).link = .len a b d e :: rest → st.ending = false →
      ((ownAgen x.nodes n p = true ∨ storeFits st [a, b, d, e] = true) → ∃ u, exec (.reorderLenCheck c n p) s = .next u ∧
        queueAt u c n p = queueAt s c n p ++ [.len a b d e] ∧
        nodeHas u c n (fun y => (y.port p).store = some { st with len := some [a, b, d, e] } ∧ (y.port p).link = rest)) ∧
      (ownAgen x.nodes n p = false → storeFits st [a, b, d, e] = false → ∃ u, exec (.reorderLenCheck c n p) s = .next u ∧
        queueAt u c n p = queueAt s c n p ++ [.poison (poisonOf x n cCONNECT 8 0)] ∧
        nodeHas u c n (fun y => (y.port p).store = some { st with dropping := true } ∧ (y.port p).link = rest)))

/-- R187, R240 to R242: a LINKIN takes the descriptor of its channel and compares it with its own; then it sends on the tokens of the
channel, END with its own label; behind what a port delivered before it went down POISON and END stand in place of the current stream
(R53, R313); a LINKOUT puts the beat at its port onto its channel. -/
def Obligations.LinkNodes : Prop :=
  ∀ (s : State) (c n : Nat) (x : Cell) (nd : Node) (m p : Nat), nd.word.kind = kMEM →
    (∀ k a ch ord ty ctrl port, NodeFree s c n x nd → nd.word.mode = 3 → (memOf nd).broken = none →
      chanHead s x.crew.asid (linkChan nd) = some (k, .descriptor a ch ord ty ctrl port) →
      ∃ u, exec (.linkinDescriptorReceive c n) s = .next u ∧ u.fl.inbound = dropAt s.fl.inbound k ∧ nodeHas u c n (fun y =>
        (memOf y).desc = some (ord, ty, ctrl, port) ∧ (memOf y).broken =
          (if ord ≠ nd.ord.raw then some (poisonOf x n cCONNECT 4 0)
           else if ty ≠ nd.word.type ∨ ctrl ≠ nd.word.ctrl then some (poisonOf x n cCONNECT 5 0) else none))) ∧
    (∀ k a ch t d, Sends s c n x nd m p → nd.word.mode = 3 → roomAll x n = true → agenSluice s c n x nd = none →
      (memOf nd).desc = some d → (memOf nd).broken = none → replays s x.crew.asid = false →
      chanHead s x.crew.asid (linkChan nd) = some (k, .token a ch t) →
      (∀ l, t = .data l → ∃ u, exec (.linkinReceive c n) s = .next u ∧ u.fl.inbound = dropAt s.fl.inbound k ∧
        queueAt u c m p = queueAt s c m p ++ [.data l]) ∧
      (∀ q g, t = .fin q g → ∃ u g', exec (.linkinReceive c n) s = .next u ∧ u.fl.inbound = dropAt s.fl.inbound k ∧
        queueAt u c m p = queueAt s c m p ++ [.fin q g'])) ∧
    (∀ k a ch, Sends s c n x nd m p → nd.word.mode = 3 → roomAll x n = true → agenSluice s c n x nd = none → nd.word.outB = none →
      replays s x.crew.asid = false → chanHead s x.crew.asid (linkChan nd) = some (k, .down a ch) → (memOf nd).broken = none →
      ∃ u g, exec (.linkinReceive c n) s = .next u ∧ u.fl.inbound = dropAt s.fl.inbound k ∧
        nodeHas u c n (fun y => (memOf y).broken = some (poisonOf x n cLINK 2 0)) ∧
        sends s u c n m p (if (memOf nd).begun then [.poison (poisonOf x n cLINK 2 (memOf nd).cur), .fin 0 g] else [])) ∧
    (∀ l, NodeFree s c n x nd → nd.word.mode = 4 → (nd.port 0).q = [.data l] → linkHeld s x nd = false →
      prmField nd.params 0 16 16 = 0 → linkRoom s x.crew.asid (linkChan nd) = true → linkBad nd (.data l) = none →
      ∃ u, exec (.linkoutSend c n) s = .next u ∧
        u.fl.inbound = s.fl.inbound ++ [.token x.crew.asid (linkChan nd) (.data l)] ∧
        nodeHas u c n (fun y => (y.port 0).q = [] ∧ (y.port 0).pos = (nd.port 0).pos + beatPositions (nd.port 0)))

/-- R123, R129, R130, R244, R313: an acknowledgement ends an operation, but for a message that its sender waits for: that ends with its
wait once the peer says that it has landed, or has refused it, which is recorded; a peer's message lands in the mailbox that it names; the
value of a remote load reaches
the target of its instruction, or the lane of its node; a peer's write and read of this package's memory are performed. -/
def Obligations.RemoteOperations : Prop :=
  ∀ (s : State) (k : Nat),
    (∀ o, s.fl.ops[k]? = some o →
      (o.write = true → (∀ t id slot a, o.issuer = .message t id slot a → waitsFor s t id = false) →
        ∃ u, exec (.remoteAck k) s = .next u ∧ u.fl.ops = s.fl.ops.filter (fun q => q.id != o.id) ∧ u.cells = s.cells ∧
          u.threads = s.threads ∧ u.mem = s.mem) ∧
      (∀ t id slot a, o.issuer = .message t id slot a → waitsFor s t id = true → exec (.remoteAck k) s = .next s) ∧
      (∀ t j th b sl i sz sg ea v, o.write = false → o.issuer = .threadLoad t j → aget s.threads t = some th → th.block = some b →
        b.slots[j]? = some sl → slotInstr sl = some i → loadOf sl = some (sz, sg, ea) → replays s (asidOf th) = false →
        ∃ u, exec (.remoteLoadReply k v) s = .next u ∧ u.fl.ops = s.fl.ops.filter (fun q => q.id != o.id) ∧
          aget u.threads t = some { th with block := some (settle (b.slots.length + 1) (setPhase (deliver
            { b with accs := b.accs ++ [⟨j, (instrLsid i).getD 0, .load sg, sz, ea, opLoc o, 0, loadValue sg sz (v.toNat % pow2 (8 * sz))⟩] }
            j ((instrTargets i).headD noTarget) (loadValue sg sz (v.toNat % pow2 (8 * sz)))) j .fired)) }) ∧
      (∀ c n pos x nd v, o.write = false → o.issuer = .nodeLoad c n pos → aget s.cells c = some x → x.nodes[n]? = some nd →
        replays s x.crew.asid = false → nd.word.kind = kMEM →
        ∃ u, exec (.remoteLoadReply k v) s = .next u ∧ u.fl.ops = s.fl.ops.filter (fun q => q.id != o.id) ∧ nodeHas u c n (fun y =>
          (memOf y).out = (memOf nd).out ++ [(pos - (nd.port 0).pos, some (v.toNat % pow2 (8 * o.bytes.length)))]))) ∧
    (∀ t id g unit th, s.fl.inbound[k]? = some (.landed t id g unit) → aget s.threads t = some th → th.mode = .trailing [.msendw id] .next →
      ∃ u, exec (.messageLand (s.fl.msgs.length + k)) s = .next u ∧ u.fl.inbound = dropAt s.fl.inbound k ∧
        threadHas u t (fun y => y.mode = .ready ∧ sameRegs y th)) ∧
    (∀ t id slot a th, s.fl.inbound[k]? = some (.refused t id slot a) → aget s.threads t = some th →
      ∃ u w, exec (.messageLand (s.fl.msgs.length + k)) s = .next u ∧ u.fl.inbound = dropAt s.fl.inbound k ∧
        w ∈ u.fl.writes ∧ w.thread = t ∧ w.n = 15 ∧ w.v.extractLsb' 0 8 = cPROT) ∧
    (∀ asid d n v g unit t th, s.fl.inbound[k]? = some (.message asid d n v false g unit) → field d 48 16 = 0 → d.getLsbD 12 = false →
      mayLandInbound s.fl.inbound k asid d n unit = true → (aget s.ctxs asid).isSome = true →
      threadAt s asid (field d 10 2 * 64 + field d 4 6) (field d 0 4) = some t → aget s.threads t = some th → replays s asid = false →
      ∃ u, exec (.messageLand (s.fl.msgs.length + k)) s = .next u ∧ u.fl.inbound = dropAt s.fl.inbound k ∧ threadHas u t (tookMail th n v)) ∧
    (∀ write pa bytes len unit via a y, s.fl.inbound[k]? = some (.access write pa bytes len unit via) → accessBefore s k unit = false →
      outsideLoc s pa = some (a, .mem y) →
      (write = true → outsideHeld s = false → locMeta s a (.mem y) bytes.length = none → (∀ d, Quiet s d) → Safe s → ∃ u, exec (.incomingPeerAccess k) s = .next u ∧
        u.fl.inbound = dropAt s.fl.inbound k ∧ (∀ j < bytes.length, u.mem.byte (y + j) = bytes.getD j 0) ∧
        ∀ z, z < y ∨ y + bytes.length ≤ z → u.mem.byte z = s.mem.byte z) ∧
      (write = false → locPoisoned s a (.mem y) len = false → ∃ u, exec (.incomingPeerAccess k) s = .next u ∧ u.fl.inbound = dropAt s.fl.inbound k ∧
        u.fl.out = s.fl.out ++ [.peerReply (cellsTake s.mem.bytes y len)] ∧ u.mem.bytes = s.mem.bytes))

/-! ### Circular buffers, translations, engine sets, collectives and launches (R138, R139, R188, R189, R261 to R276, R280 to R294,
R304 to R312, R332, R336, R370, R371) -/

/-- R188, R189, R332, R336: a writer takes slot TAIL of a circular buffer while a slot is free, and a reader slot HEAD while one is
filled; else the node is held; channels of a crew that wait go first, in ascending number; a slot whose writes have performed is
filled in its turn. A page walk that ends in a leaf keeps the
translation, one that does not keeps none; both keep the entries that led to other tables, and change no byte of memory. -/
def Obligations.BuffersAndWalks : Prop :=
  (∀ (s : State) (c n : Nat) (x : Cell) (nd : Node) (b : BankAt) (f : FifoRun), NodeFree s c n x nd → nd.word.kind = kMEM →
    nodeWants s c nd = some (b, f) → fifoOf s b = some f →
    (nd.word.mode = 0 → 0 < f.filled → ∃ u, exec (.fifoReaderAcquire c n) s = .next u ∧ fifoOf u b = some (fifoRead f) ∧
      nodeHas u c n (fun y => (memOf y).slot = some f.head)) ∧
    (nd.word.mode = 0 → f.filled = 0 → ∃ u, exec (.fifoReaderAcquire c n) s = .next u ∧ fifoOf u b = some f ∧ u.mem = s.mem ∧
      nodeHas u c n (fun y => (memOf y).slot = (memOf nd).slot ∧ y.held = some (nd.held.getD s.cycle))) ∧
    (nd.word.mode = 1 → 0 < f.free → runWaited s b = false → ∃ u, exec (.fifoWriterAcquire (.node c n)) s = .next u ∧
      fifoOf u b = some (fifoTake f (.node c n)) ∧ nodeHas u c n (fun y => (memOf y).slot = some f.tail)) ∧
    (nd.word.mode = 1 → (f.free = 0 ∨ runWaited s b = true) → ∃ u, exec (.fifoWriterAcquire (.node c n)) s = .next u ∧ fifoOf u b = some f ∧ u.mem = s.mem ∧
      nodeHas u c n (fun y => (memOf y).slot = (memOf nd).slot ∧ y.held = some (nd.held.getD s.cycle)))) ∧
  (∀ (s : State) (e ch : Nat) (x : EngineSet) (c : Channel) (r : CopyRun) (b : BankAt) (f : FifoRun),
    aget s.esets e = some x → x.channels[ch]? = some c → c.cur = some r → esetRuns s x = true → slotWanted s x r = some b →
    fifoOf s b = some f → 0 < f.free → beginCheck s x r = .ok none → indexReady r = true → slotTurn s x b ch = true →
    ∃ u c', exec (.fifoWriterAcquire (.channel e ch)) s = .next u ∧ fifoOf u b = some (fifoTake f (.channel e ch)) ∧
      chanOf u e ch = some c' ∧ c'.cur = some { r with slot := some f.tail, waiting := false }) ∧
  (∀ (s : State) (e ch : Nat) (x : EngineSet) (c : Channel) (r : CopyRun) (b : BankAt) (f : FifoRun),
    aget s.esets e = some x → x.channels[ch]? = some c → c.cur = some r → esetRuns s x = true → slotWanted s x r = some b →
    fifoOf s b = some f → beginCheck s x r = .ok none → indexReady r = true → r.waiting = false → (f.free = 0 ∨ slotTurn s x b ch = false) →
    ∃ u c', exec (.fifoWriterAcquire (.channel e ch)) s = .next u ∧ fifoOf u b = some f ∧ u.mem = s.mem ∧
      chanOf u e ch = some c' ∧ c'.cur = some { r with waiting := true } ∧ c'.held = some s.cycle) ∧
  (∀ (s : State) (c k : Nat) (b : BankAt) (f : FifoRun) (j : Nat), cellBank s c k = some b → fifoOf s b = some f →
    fifoNext f = some j → ∃ u, exec (.fifoSlotFill c k) s = .next u ∧ fifoOf u b = some (fifoFill f j) ∧ u.mem = s.mem) ∧
  (∀ (s : State) (a : Nat) (va : W), field va 56 8 = 0 → tlbHit s (lowDie (diesOf s a)) a va.toNat = none →
    (∀ e, walk s (lowDie (diesOf s a)) a va.toNat = .ok e → ∃ u, exec (.pageWalkComplete a va) s = .next u ∧ e ∈ u.mem.tlb ∧
      u.mem.bytes = s.mem.bytes ∧ u.threads = s.threads ∧ u.cells = s.cells ∧
      u.mem.dirs = (walked s (lowDie (diesOf s a)) a va.toNat).dirs ++ s.mem.dirs) ∧
    (∀ f, walk s (lowDie (diesOf s a)) a va.toNat = .error f → ∃ u, exec (.pageWalkComplete a va) s = .next u ∧ u.mem.tlb = s.mem.tlb ∧
      u.mem.dirs = (walked s (lowDie (diesOf s a)) a va.toNat).dirs ++ s.mem.dirs ∧
      u.mem.bytes = s.mem.bytes ∧ u.threads = s.threads ∧ u.cells = s.cells))

/-- R138, R139, R266 to R276: a term that has latched every masked line starts the copy that is bound to it; a counter at its threshold
pulses its line, which the terms latch, and those that it completes fire in the same cycle; the next start of a queue begins; a sector performs once, in the window of eight; a copy that has performed all
its sectors counts up, and reports to the mailbox that its template names. -/
def Obligations.EngineSetsRun : Prop :=
  ∀ (s : State) (e : Nat) (x : EngineSet), aget s.esets e = some x → esetRuns s x = true →
    (∀ i t ch w th lvl c, x.terms[i]? = some t → t.mask ≠ 0 → t.latch &&& t.mask = t.mask → t.bound = some (ch, w, th, lvl) →
      t.fired = [] → x.channels[ch]? = some c →
      (hasRoom x ch = true → ∃ u y c', exec (.termFire e i) s = .next u ∧ aget u.esets e = some y ∧
        y.terms[i]? = some { t with latch := 0 } ∧ y.channels[ch]? = some c' ∧
        c'.queue = c.queue ++ [startOf x w th lvl t.sig s.nextId] ∧ u.mem = s.mem ∧ u.threads = s.threads) ∧
      (hasRoom x ch = false → ∃ u y, exec (.termFire e i) s = .next u ∧ aget u.esets e = some y ∧ y.channels = x.channels ∧
        y.terms[i]? = some { t with latch := 0, fired := [(ch, startOf x w th lvl t.sig s.nextId)] } ∧ u.mem = s.mem)) ∧
    (∀ i c, x.counters[i]? = some c → c.due = true →
      (∀ k d, x.counters[k]? = some d → (d.src = 16 + i → d.thresh = 0) ∧ (k ≠ i → d.due = false)) →
      ∃ u y, exec (.counterThreshold e i) s = .next u ∧ aget u.esets e = some y ∧ u.mem = s.mem ∧ u.threads = s.threads ∧
        y.counters[i]? = some { c with due := false } ∧
        ∀ (j : Nat) (t : Sys2Proof.Machine.Term), x.terms[j]? = some t →
          (t.mask &&& w64 (pow2 (16 + i)) = 0 → t.fired = [] → termMet t = false → y.terms[j]? = some t) ∧
          (t.mask &&& w64 (pow2 (16 + i)) ≠ 0 → t.fired = [] → (t.latch ||| w64 (pow2 (16 + i))) &&& t.mask ≠ t.mask →
            y.terms[j]? = some { t with latch := t.latch ||| w64 (pow2 (16 + i)), sig := pulseSig (t.latch == 0) t.sig c.sig }) ∧
          (t.mask &&& w64 (pow2 (16 + i)) ≠ 0 → (t.latch ||| w64 (pow2 (16 + i))) &&& t.mask = t.mask →
            ∃ t', y.terms[j]? = some t' ∧ t'.latch = 0 ∧ t'.sig = pulseSig (t.latch == 0) t.sig c.sig)) ∧
    (∀ ch c st rest, x.channels[ch]? = some c → c.cur = none → c.queue = st :: rest → ∀ ix sp, indexOf s x st [] = .ok (ix, sp) →
      (copyHeld s x st ix = false → ∃ u c' r, exec (.copyBegin e ch) s = .next u ∧ chanOf u e ch = some c' ∧ c'.queue = rest ∧
        c'.cur = some r ∧ r.start = st ∧ r.index = ix ∧ r.perf = [] ∧
        (destFifo s x (stepped (tmplOf st.tmpl) st.word).2 = none → Quiet s x.crew.asid → u.mem.bytes = s.mem.bytes)) ∧
      (copyHeld s x st ix = true → ∃ u, exec (.copyBegin e ch) s = .next u ∧
        chanOf u e ch = some { c with held := some (c.held.getD s.cycle) } ∧ u.mem = s.mem)) ∧
    (∀ ch j c r sec d, x.channels[ch]? = some c → c.cur = some r → (indexReady r = true ∨ r.fault ≠ none) → slotWanted s x r = none →
      sectorReady s e ch r j = true → (runSectors r)[j]? = some sec → performSector s e ch j x r c.pts sec = .ok d → Quiet s x.crew.asid →
      ∃ u c' r', exec (.copySector e ch j) s = .next u ∧ chanOf u e ch = some c' ∧ c'.cur = some r' ∧ r'.perf = j :: r.perf ∧
        r'.counts = ⟨j, d.flags, d.nsat, d.elems, d.pbytes⟩ :: r.counts ∧ c'.queue = c.queue ∧ c'.ccnt = c.ccnt ∧
        u.mem.bytes = d.s.mem.bytes) ∧
    (∀ ch j c r ps a va bs loc y, x.channels[ch]? = some c → c.cur = some r → indexReady r = true → slotWanted s x r = none →
      sectorReady s e ch r j = true → (runSectors r)[j]? = some (.puts ps) → (tmplOf r.start.tmpl).unpack = false →
      foldPuts s x r (tmplOf r.start.tmpl) none false ps ⟨[], 0, 0, []⟩ = .ok a → r.slot = none → runsGo a.bytes = [(va, bs)] →
      (let ev := loadEvent s.mem (sourceTs s x r c.pts ps) a.spans
       let s0 := noteForeign { s with mem := ev.2 } s.mem x.crew.asid (dieOf x.cluster) ev.1 (chanUnit s x ch) a.spans
       let s1 := useEng (chanMerges s0 e ch a.spans) x r.start (sourceVas r ps)
       engLoc s1 x r.start .store (w64 va) bs.length = .ok loc ∧ loc.loc = .mem y ∧ locMeta s1 x.crew.asid (.mem y) bs.length = none) →
      Quiet s x.crew.asid → Safe s → ∃ u, exec (.copySector e ch j) s = .next u ∧
        (∀ k < bs.length, u.mem.byte (y + k) = bs.getD k 0) ∧ ∀ z, z < y ∨ y + bs.length ≤ z → u.mem.byte z = s.mem.byte z) ∧
    (∀ ch c r, x.channels[ch]? = some c → c.cur = some r → sectorsDone r = true → slotWanted s x r = none →
      (∀ o ∈ s.fl.ops, ∀ j va, o.issuer ≠ .copy e ch j va) →
      ((tmplOf r.start.tmpl).rlog = 0 ∧ r.recSent = false ∨ r.recSent = true ∧ r.recFail = none) →
      (r.fault = none → ∃ u c', exec (.copyComplete e ch) s = .next u ∧ chanOf u e ch = some c' ∧ c'.ccnt = c.ccnt + 1 ∧
        c'.cur = none ∧ c'.lastcode = c.lastcode ∧ (∃ more, c'.queue = c.queue ++ more) ∧ u.mem = s.mem ∧
        ((tmplOf r.start.tmpl).mben = true → ∃ w ∈ u.fl.writes, w.thread = r.start.thread ∧
          w.n = BitVec.ofNat 4 (tmplOf r.start.tmpl).mbox ∧ w.v = recWord0 c r 0 0)) ∧
      (∀ k code sub va, r.fault = some (k, code, sub, va) → code ≠ 0 → ∃ u c', exec (.copyComplete e ch) s = .next u ∧
        chanOf u e ch = some c' ∧ c'.ccnt = c.ccnt + 1 ∧ c'.cur = none ∧ c'.lastcode = BitVec.ofNat 8 code ∧
        ∃ w ∈ u.fl.writes, w.thread = r.start.thread ∧ w.n = 15))

/-- R304 to R312: a payload is kept at its context, or until there is one; a level's contribution is encoded and sent, and the terms of
its members are combined in the order of rank; a step that has passed its levels stores its result, publishes it and counts; one that
has met a fault, or an abort, ends with it. -/
def Obligations.CollectivesRun : Prop :=
  ∀ (s : State) (h k : Nat),
    (∀ p, s.fl.inbound[k]? = some (.payload p) →
      (∀ c, aget s.colls h = some c → s.colls.find? (fun e => forColl e.2 p) = some (h, c) →
        (c.some_ = false ∨ ¬((c.cstep - p.step).toNat < 2 ^ 31 ∧ 15 < (c.cstep - p.step).toNat)) →
        ∃ u c', exec (.collPayloadArrive k) s = .next u ∧ aget u.colls h = some c' ∧
          c'.kept = c.kept ++ [p] ∧ c'.cur = c.cur ∧ u.fl.inbound = dropAt s.fl.inbound k) ∧
      (s.colls.find? (fun e => forColl e.2 p) = none → endedFor s p.asid p.group p.step = false →
        ∃ u, exec (.collPayloadArrive k) s = .next u ∧ u.colls = s.colls ∧ u.fl.inbound = dropAt s.fl.inbound k ∧
          u.fl.unmatched = s.fl.unmatched ++ [p])) ∧
    (∀ c r, aget s.colls h = some c → c.cur = some r →
      (∀ asid group step, s.fl.inbound[k]? = some (.abort asid group step) →
        s.colls.find? (fun e => e.2.asid == asid && cGroup e.2.tmpl == group) = some (h, c) → r.step = step → r.sentState = false →
        ∃ u c', exec (.collAbortArrive k) s = .next u ∧ aget u.colls h = some c' ∧
          c'.cur = some { r with fault := some (r.fault.getD (0x10, 4)) } ∧ u.fl.inbound = dropAt s.fl.inbound k) ∧
      (r.fault = none → r.sentState = false → breaking c r ≠ [] →
        ∃ u c' r', exec (.collLevelCombine h) s = .next u ∧ aget u.colls h = some c' ∧ c'.cur = some r' ∧ r'.fault = some (0x10, 3) ∧
          c'.kept = c.kept.filter (fun q => !(breaking c r).contains q)) ∧
      (r.fault = none → breaking c r = [] → r.level < cNlev c.tmpl →
        (∀ xs rs s2, r.sent = false → collInput s h c r = .ok xs → collResid s h c r xs = .ok rs →
          (let pay := (encodeLevel (cLev c.tmpl r.level) xs.vals rs.vals).pay
           let ev := loadEvent s.mem rs.pts rs.spans
           let c1 := { c with pts := ev.1, label := rs.sigs.foldl (mergeLabel s) c.label }
           let s0 := collUses (noteForeign { s with mem := ev.2 } s.mem c.asid c.die ev.1 (collUnit s c.die) rs.spans) c
             (if r.level = 0 then [(c.tmpl.getD 0 0, cCount c.tmpl * cSize c.tmpl)] else [])
           let s1 := updColl (if vEf (cLev c.tmpl r.level) then
             collUses s0 c [(c.tmpl.getD 2 0 + w64 (4 * residAt c.tmpl r.level), 4 * cCount c.tmpl)] else s0) h
             (fun y => { y with pts := c1.pts, label := c1.label })
           sendPayload s1 h (cLev c.tmpl r.level) (payloadOf s1 c1 r pay) (vOthers (cLev c.tmpl r.level)) = some s2 →
           ∃ u c' r', exec (.collLevelCombine h) s = .next u ∧ aget u.colls h = some c' ∧ c'.cur = some r' ∧ r'.sent = true ∧
             r'.level = r.level ∧ r'.v = xs.vals ∧ r'.dq = pay ∧ (Quiet s c.asid → u.mem.bytes = s.mem.bytes) ∧ u.fl.out = s2.fl.out)) ∧
        (∀ ps, r.sent = true → termsOf c r = some ps → replays s c.asid = false →
          ∃ u c' r', exec (.collLevelCombine h) s = .next u ∧ aget u.colls h = some c' ∧ c'.cur = some r' ∧ r'.sent = false ∧
            r'.level = r.level + 1 ∧ r'.v = (combineLevel (cOp c.tmpl) (cCount c.tmpl) ((List.range (vMemm1 (cLev c.tmpl r.level) + 1)).map
              (fun m => if m = vRank (cLev c.tmpl r.level) then rebuild (vCodec (cLev c.tmpl r.level)) r.dq
                else (match ps.find? (fun q => q.1 == m) with
                | some q => rebuild (vCodec (cLev c.tmpl r.level)) q.2.vals
                | none => [])))).1)) ∧
      (∀ x y, r.fault = none → (r.sentState = true ∨ c.aborted.contains r.step = false ∧ breaking c r = []) → cNlev c.tmpl ≤ r.level → stateUnacked s h c = false →
        (if r.sentState then .ok (s, c.pts) else collArea s h c r) = .ok x → collResult x.1 h c r x.2 = .ok y →
        x.1.fl.ops.length = s.fl.ops.length →
        ∃ u c', exec (.collStepComplete h) s = .next u ∧ aget u.colls h = some c' ∧ c'.cstep = r.step ∧ c'.some_ = true ∧
          c'.cur = none ∧ u.mem.bytes = y.1.mem.bytes ∧
          (cCmben c.tmpl = true → ∃ w ∈ u.fl.writes, w.thread = c.starter ∧ w.n = BitVec.ofNat 4 (cCmb c.tmpl) ∧
            w.v = completionWord { r with flags := (collOut c r).foldl (fun f p => f ||| p.2) r.flags } 0 0)) ∧
      (∀ st sub, (r.fault = some (st, sub) ∨ r.fault = none ∧ c.aborted.contains r.step = true ∧ r.sentState = false ∧ st = 0x10 ∧ sub = 4) →
        ∃ u c', exec (.collStepComplete h) s = .next u ∧ aget u.colls h = some c' ∧ c'.cstep = r.step ∧ c'.cur = none ∧
          (cCmben c.tmpl = true → ∃ w ∈ u.fl.writes, w.thread = c.starter ∧ w.n = BitVec.ofNat 4 (cCmb c.tmpl) ∧
            w.v = completionWord r st sub) ∧ ∃ w ∈ u.fl.writes, w.thread = c.starter ∧ w.n = 15))

/-- R281 to R294, R370, R371: a launch leaves its queue as a whole for the clusters that are chosen, with the threads that R284 starts;
one that has aged gets its target; a SHAPE confirms a crew below the extent and retires one beyond it; a launch whose threads have
halted and whose cells are drained completes, and what it held is free. -/
def Obligations.LaunchesRun : Prop :=
  ∀ (s : State) (a id : Nat) (c : Context) (l : Launch), aget s.ctxs a = some c → aget c.launches id = some l →
    (∀ pl, mayLeave s a id l = true → l.queued = true →
      (eligibleOf s c.part).any (fun y => ranksAbove s y (a, id, l) && mayLeave s y.1 y.2.1 y.2.2 &&
        (choosePlace s y.1 y.2.1 y.2.2).isSome) = false → choosePlace s a id l = some pl →
      ∃ u l', exec (.launchPlace a id) s = .next u ∧ launchOf u a id = some l' ∧ l'.queued = false ∧ l'.words = l.words ∧
        l'.crews.map (fun x => (x.crew, x.cluster)) = l.crews.map (fun x => (x.crew, x.cluster)) ++ pl ∧ u.mem = s.mem ∧
        ∀ k cl, pl = [(k, cl)] → ∃ th, aget u.threads (s.nextId + 1) = some th ∧ th.pc = l.words.getD 0 0 ∧ th.mode = .ready ∧
          th.block = none ∧ th.gs[1] = l.words.getD 6 0 ∧ th.gs[2] = l.words.getD 7 0 ∧ th.gs[3] = 0 ∧
          th.home.crew = ⟨a, id, k⟩ ∧ th.home.cluster = cl ∧ th.regs.priv = l.priv ∧ th.regs.nbv = l.nbv ∧
          th.regs.csize = BitVec.ofNat 7 (wSpillk l.words) ∧ th.regs.irNext = BitVec.ofNat 32 (leaderRange l.words k l.shape).1 ∧
          th.regs.irEnd = BitVec.ofNat 32 (leaderRange l.words k l.shape).2) ∧
    (∀ t, l.telig = some t → l.queued = true → l.target = none → t + ageOf s a ≤ s.cycle →
      ∃ u, exec (.launchAgeTarget a id) s = .next u ∧ launchOf u a id = some { l with target := some (fixTarget s a l) } ∧
        u.mem = s.mem ∧ u.threads = s.threads) ∧
    (∀ k m, s.fl.shapes[k]? = some m → m.asid = a → m.id = id → replays s a = false →
      (l.queued = true → ∃ u c', exec (.shapeArrive k) s = .next u ∧ launchOf u a id = some { l with shape := some m.e } ∧
        aget u.ctxs a = some c' ∧ c'.proof = pushExtent c.proof (wPkey l.words) m.e ∧ u.fl.shapes = dropAt s.fl.shapes k) ∧
      (∀ x, l.queued = false → l.crews = [x] → x.confirmed = false → x.retired = false →
        (x.lo < m.e.toNat → ∃ u l', exec (.shapeArrive k) s = .next u ∧ launchOf u a id = some l' ∧ l'.shape = some m.e ∧
          l'.crews = [{ x with confirmed := true }]) ∧
        (m.e.toNat ≤ x.lo → m.e.toNat < x.hi → ∃ u l', exec (.shapeArrive k) s = .next u ∧ launchOf u a id = some l' ∧
          l'.shape = some m.e ∧ l'.crews = [{ x with retired := true, spill := none }] ∧
          ∀ t ∈ x.threads, ∀ th, aget u.threads t = some th → th.mode = .halted))) ∧
    (launchDone s a id l = true → wProof l.words = false →
      ∃ u, exec (.launchComplete a id) s = .next u ∧ launchOf u a id = none ∧
        (∀ x ∈ l.crews, ∀ t ∈ x.threads, aget u.threads t = none) ∧
        (wCmben l.words = true → ∃ w ∈ u.fl.writes, w.thread = l.thread ∧ w.n = BitVec.ofNat 4 (wCmb l.words) ∧ w.v = w64 id) ∧
        ∀ x t th y, l.crews = [x] → x.retired = false → x.threads = [t] → t ≠ l.thread → aget s.threads t = some th →
          aget s.threads l.thread = some y → threadHas u l.thread (fun z => z.regs = foldFlags y.regs th.regs))

/-! ### Probes, walks, links (R296 to R298, R320, R321, R394, R401 to R403) -/

/-- R296, R297, R298, R320, R321, R394: a party that has been blocked for half of PROBE sends a probe along each of its links, and a
blocked party that it meets forwards it; one on a link to another device leaves, and one that comes from there enters at the partner that it names (R240, R322); one that
comes back to its origin while every link holds lets the lowest eligible party take
DEADLOCK: a thread abandons its block or its wait and traps, a node emits POISON, and where it is a sink but no link its cell halts. A walk takes the record of an edge
and goes on at its predecessor, or ends with a report; a read of this device's tables by another walker is answered and touches
nothing else. Blocking and the links of a party are those of log entry 32. -/
def Obligations.ProbesAndWalks : Prop :=
  (∀ (s : State) (q : Party),
    (probeDue s q = true → ∃ u, exec (.mireProbeSend q) s = .next u ∧ wasProbed u q = true ∧ u.mem = s.mem ∧
      u.fl.probes = s.fl.probes ++ (links s q).map (fun l => ⟨.here q, [(.here q, l.2.1, l.2.2)], l.1⟩)) ∧
    (probeDue s q = false → exec (.mireProbeSend q) s = .next s)) ∧
  (∀ (s : State) (k : Nat) (p : Probe), s.fl.probes[k]? = some p →
    (p.target ≠ p.origin →
      (∀ q, p.target = .here q → exec (.mireProbeForward k) s = .next { s with fl := { s.fl with probes := dropAt s.fl.probes k ++
        (if p.path.any (fun e => e.1 == .here q) then []
         else (links s q).map (fun l => ⟨p.origin, p.path ++ [(.here q, l.2.1, l.2.2)], l.1⟩)) } }) ∧
      (∀ ix g o port, p.target = .away ix g o → ix ≠ 0 → route s ix = .ok port → exec (.mireProbeForward k) s =
        .next { s with fl := { s.fl with probes := dropAt s.fl.probes k, out := s.fl.out ++ [.peerSent ix (.probe p)] } })) ∧
    (p.target = p.origin →
      (cycleHolds s p.origin p.path = false → exec (.deadlock k) s = .next { s with fl := { s.fl with probes := dropAt s.fl.probes k } }) ∧
      (cycleHolds s p.origin p.path = true →
        (∀ t kind ix th c, lowestParty s p.path = some (.here (.thread t), kind, ix) → aget s.threads t = some th →
          aget s.ctxs (asidOf th) = some c → c.regs.trapvec ≠ 0 → th.regs.intrap = false →
          (unconfirmed s th.home.crew = false ∨ ∃ h, th.mode = .proofHeld h) →
          ∃ u, exec (.deadlock k) s = .next u ∧ threadHas u t (fun x => x.pc = c.regs.trapvec ∧ x.block = none ∧ x.mode = .ready ∧
            x.regs.trapinfo.extractLsb' 0 8 = 0x0C ∧ x.regs.trapinfo.extractLsb' 8 8 = BitVec.ofNat 8 kind ∧ x.regs.trapaddr = ix ∧
            x.regs.trappc = (match th.block, th.mode with
              | some b, _ => b.addr
              | none, .trailing _ .halt => 0
              | none, _ => th.pc).extractLsb' 4 60 ++ (0 : BitVec 4) ∧ x.regs.intrap = true ∧
            x.gs = th.gs ∧ x.ms = th.ms ∧ x.mfull = th.mfull ∧ x.ras = th.ras) ∧
          ∀ r ∈ u.fl.probes, ∀ e ∈ p.path, r.origin ≠ e.1) ∧
        (∀ c n kind ix x nd, lowestParty s p.path = some (.here (.node c n), kind, ix) → NodeAt s c n x nd → nd.word.kind ≠ kMEM →
          nd.word.outA ≠ none → ∃ u, exec (.deadlock k) s = .next u ∧ u.threads = s.threads ∧ nodeHas u c n (fun y =>
            y.pendA = nd.pendA ++ [.poison (poisonOf x n 0x0C (BitVec.ofNat 8 kind) 0)] ∧
            y.pendB = nd.pendB ++ (if nd.word.outB = none then [] else [.poison (poisonOf x n 0x0C (BitVec.ofNat 8 kind) 0)]))) ∧
        (∀ c n kind ix x nd, lowestParty s p.path = some (.here (.node c n), kind, ix) → NodeAt s c n x nd →
          ((nd.word.kind = kMEM ∧ nd.word.mode ≠ 3 ∧ nd.word.mode ≠ 4 ∨ nd.word.kind ≠ kMEM ∧ nd.word.outA = none) →
            ∃ u y, exec (.deadlock k) s = .next u ∧ aget u.cells c = some y ∧ y.halted = true) ∧
          (nd.word.kind = kMEM → nd.word.mode = 3 → ∃ u y, exec (.deadlock k) s = .next u ∧ aget u.cells c = some y ∧ y.halted = x.halted ∧
            nodeHas u c n (fun z =>
              z.pendA = nd.pendA ++ (if nd.word.outA = none then [] else [.poison (poisonOf x n 0x0C (BitVec.ofNat 8 kind) 0)]) ∧
              z.pendB = nd.pendB ++ (if nd.word.outB = none then [] else [.poison (poisonOf x n 0x0C (BitVec.ofNat 8 kind) 0)]))) ∧
          (nd.word.kind = kMEM → nd.word.mode = 4 → 0 < nd.ports.length → ∃ u y, exec (.deadlock k) s = .next u ∧ aget u.cells c = some y ∧
            y.halted = x.halted ∧ nodeHas u c n (fun z =>
              (z.port 0).q = .poison (poisonOf x n 0x0C (BitVec.ofNat 8 kind) 0) :: (nd.port 0).q)))))) ∧
  (∀ (s : State) (j : Nat) (p : Probe), s.fl.inbound[j]? = some (.probe p) →
    exec (.mireProbeForward (s.fl.probes.length + j)) s =
      .next { s with fl := { s.fl with inbound := dropAt s.fl.inbound j, probes := s.fl.probes ++ arriveAt s p } } ∧
    (∀ q, p.target = .here q → arriveAt s p = [p]) ∧
    (∀ dev what r q kind ix, p.target = .away dev what r → p.path.getLast? = some (q, kind, ix) → ∀ z, z ∈ arriveAt s p ↔
      ∃ y, z = { p with target := .here y } ∧
        (kind = 16 ∧ (∃ e ∈ s.colls, y = .coll e.1 ∧ e.2.asid = what / 2 ^ 32 ∧ (cGroup e.2.tmpl).toNat = what % 2 ^ 32) ∨
         kind = 11 ∧ y ∈ linkNodes s (what / 2 ^ 32) (what % 2 ^ 32) 3 ∨
         kind = 12 ∧ y ∈ linkNodes s (what / 2 ^ 32) (what % 2 ^ 32) 4))) ∧
  (∀ (s : State) (k : Nat) (w : Walk) (r : List W), s.fl.walks[k]? = some w → w.recs.length ≠ 4096 →
    w.cur.extractLsb' 18 14 = s.pkg.devid → edgeEntry s w.cur = some r → (r.getD 0 0).extractLsb' 0 32 = w.cur →
    ¬(field (r.getD 6 0) 32 8 = 14 ∧ w.cur ≠ w.mark ∧ r.getD 4 0 = w.waiter) →
    ((r.getD 0 0).extractLsb' 32 32 ≠ 0 → ∃ u, exec (.walkerFetch k) s = .next u ∧ u.mem = s.mem ∧
      { w with recs := w.recs ++ [r], cur := (r.getD 0 0).extractLsb' 32 32 } ∈ u.fl.walks) ∧
    ((r.getD 0 0).extractLsb' 32 32 = 0 → ∃ u, exec (.walkerFetch k) s = .next u ∧ (∀ y ∈ u.fl.walks, y.id ≠ w.id) ∧
      u.threads = s.threads ∧ ∀ c, aget s.ctxs w.asid = some c → ringSize c.log.rbase ≠ 0 →
        ∃ c', aget u.ctxs w.asid = some c' ∧
          (c'.log.rwr = c.log.rwr + w64 (64 * (w.recs.length + 2)) ∧ c'.log.rdrop = c.log.rdrop ∨
           c'.log.rwr = c.log.rwr ∧ c'.log.rdrop = (if c.log.rdrop = 0xFFFFFFFF then c.log.rdrop else c.log.rdrop + 1)))) ∧
  (∀ (s : State) (k : Nat) (e : BitVec 32), s.fl.inbound[k]? = some (.fetch e) →
    exec (.remoteWalkerFetch k) s = .next { s with fl := { s.fl with
      inbound := dropAt s.fl.inbound k, out := s.fl.out ++ [.walkReply ((edgeEntry s e).getD [])] } })

/-- R313, R402, R403: the next frame in sequence that passes its check is taken and acknowledged, one that was taken before is
acknowledged again, and one that fails its check is dropped; frames are acknowledged in order, up to the first whose write has not
performed yet (R248); an acknowledgement empties the retry window up to its number and
completes the writes it carried; a frame that the retry window has no room for waits until there is (what a frame takes of it is log
entry 37); a frame that is not acknowledged is sent again until RETRYMAX, and then its port goes down: what it had
under way fails; a port in a mode comes up. -/
def Obligations.LinksAndPorts : Prop :=
  (∀ (s : State) (k : Nat) (f : Frame) (p : LinkPort), s.fl.frames[k]? = some f → s.pkg.ports[f.port]? = some p →
    (f.ok = false → exec (.frameReceive k) s = .next { s with fl := { s.fl with frames := dropAt s.fl.frames k } }) ∧
    (f.ok = true → p.up = true → p.mode = 2 → (∃ w ∈ p.keys, w.an = f.an ∧ w.rxPn ≤ f.pn) → f.seq ≤ p.rxSeq →
      ∃ u, exec (.frameReceive k) s = .next u ∧ u.fl.frames = dropAt s.fl.frames k ∧
        u.fl.inbound = s.fl.inbound ++ (if f.seq = p.rxSeq then [arrivedBody s f.port f.seq p f.body] else []) ∧ u.mem = s.mem ∧
        u.fl.out = s.fl.out ++ (match (u.fl.inbound.filterMap (heldFrame f.port)).foldl min
            (if f.seq = p.rxSeq then p.rxSeq + 1 else p.rxSeq) with
          | 0 => []
          | m + 1 => [.ack f.port m]) ∧
        u.pkg.ports[f.port]? = some { p with
          keys := p.keys.map (fun w => if w.an = f.an then { w with rxPn := f.pn + 1 } else w),
          rxSeq := if f.seq = p.rxSeq then p.rxSeq + 1 else p.rxSeq })) ∧
  (∀ (s : State) (q n : Nat) (p : LinkPort), q < 16 → s.pkg.ports[q]? = some p →
    (∃ u, exec (.frameAck q n) s = .next u ∧ u.mem = s.mem ∧
      u.pkg.ports[q]? = some (sendWaiting s p.waiting.length { p with window := p.window.filter (fun f => decide (n < f.seq)) }) ∧
      ∀ f ∈ p.window, f.seq ≤ n → ∀ o, s.fl.ops.find? (fun z => z.id == f.op) = some o → frameAcks s o = true →
        ∀ z ∈ u.fl.ops, z.id ≠ o.id) ∧
    (∀ f, p.window.find? (fun g => g.seq == n) = some f →
      (f.resent < p.retryMax.toNat → ∃ u, exec (.frameResend q n) s = .next u ∧ u.fl = s.fl ∧ u.mem = s.mem ∧
        u.pkg.ports[q]? = some { p with
          txPn := p.txPn + 1, window := p.window.map (fun g => if g.seq = n then { g with resent := g.resent + 1 } else g) }) ∧
      (p.retryMax.toNat ≤ f.resent → ∃ u, exec (.frameResend q n) s = .next u ∧
        u.pkg.ports[q]? = some { p with up := false, cause := 1, window := [], waiting := [] })) ∧
    (∀ cause, p.up = true → causeHolds p cause = true →
      (∃ u, exec (.portDown q cause) s = .next u ∧
        u.pkg.ports[q]? = some { p with up := false, cause := BitVec.ofNat 3 cause, window := [], waiting := [] }) ∧
      ∀ o t k th b sl, s.fl.ops = [o] → o.port = some q → o.issuer = .threadLoad t k → aget s.threads t = some th →
        th.block = some b → b.slots[k]? = some sl →
        ∃ u, exec (.portDown q cause) s = .next u ∧ u.fl.ops = [] ∧ threadHas u t (fun x => ∃ b', x.block = some b' ∧
          b'.faults = b.faults ++ [⟨cLINK, 2, BitVec.ofNat 7 k, false, (loadOf sl).elim 0 (fun e => e.2.2)⟩])) ∧
    (p.up = false → p.mode = 1 ∨ p.mode = 2 ∧ p.keys ≠ [] →
      ∃ u, exec (.portUp q) s = .next u ∧ u.pkg.ports[q]? = some { p with up := true } ∧ u.fl = s.fl ∧ u.mem = s.mem)) ∧
  (∀ (s : State) (i : Issuer) (ix q : Nat) (p : LinkPort) (w : Bool) (a : W) (bs : List Byte), s.pkg.ports[q]? = some p → p.mode = 2 →
    (p.waiting = [] → windowUsed p + frameSize bs ≤ p.wlen.toNat * 4096 →
      (sendOp s i ix (some q) w a bs).pkg.ports[q]? = some { p with
        window := p.window ++ [⟨p.txSeq, s.nextId, frameSize bs, 0⟩], txSeq := p.txSeq + 1, txPn := p.txPn + 1 }) ∧
    (p.window ≠ [] → p.wlen.toNat * 4096 < windowUsed p + frameSize bs →
      (sendOp s i ix (some q) w a bs).pkg.ports[q]? = some { p with waiting := p.waiting ++ [s.nextId] }))

/-! ### Regions, merges, observation (R14, R15, R192, R353 to R364, R372 to R376, R381, R382, R384, R388, R390, R396, R398) -/

/-- R14, R15, R355 to R364, R372 to R376, R381 to R383: a region is asked to go by a merge whose queues are empty, by a save, by the
allocator once its cells have rested, or for a launch that needs its place; a request that has lost its reason goes; at the gate, which
waits for the inactive sets, every block in progress is abandoned and everything else of its threads stays; it is read out; its restore,
in place or on a cluster that it fits, puts every thread there with its registers, once its crews' copies have put back what they staged
(R361), and the floor and the slice start; a cell moves to other pages with the same contents, where what its crew's copies have staged
is put back by them. How few regions a launch takes, and where a restore goes, are log entries 24 and 34. -/
def Obligations.RegionsMove : Prop :=
  (∀ (s : State) (a cl : Nat) (r : Region) (c : Context), regionAt s a cl = some r → aget s.ctxs a = some c →
    (∀ why, r.phase = .running → r.requests.contains why = false →
      (why = .merge ∧ mergeTakes s c = true ∨ why = .save ∧ c.stopped = true ∨
        why = .allocator ∧ cellsRested s a cl = true ∧ moveHelps s c.part a cl = true ∨
        why = .scheduler ∧ ∃ y ∈ needers (fixTargets s c.part) c.part cl, prioCase (fixTargets s c.part) y r = true ∧
          a ∈ victims (fixTargets s c.part) y cl (fun z =>
            mayPreempt (fixTargets s c.part) y z && regionFits (fixTargets s c.part) z.asid cl)) →
      ∃ u, exec (.preemptRequest a cl why) s = .next u ∧ regionAt u a cl = some { r with requests := r.requests ++ [why] } ∧
        u.threads = s.threads ∧ u.cells = s.cells ∧ u.mem = s.mem) ∧
    (r.phase = .running → r.requests.contains .scheduler = false → haltsNow s a cl = false →
      (∃ y ∈ needers (fixTargets s c.part) c.part cl, sliceCase (fixTargets s c.part) y r = true ∧
        a ∈ victims (fixTargets s c.part) y cl (fun z =>
          mayPreempt (fixTargets s c.part) y z && regionFits (fixTargets s c.part) z.asid cl)) →
      ∃ u, exec (.sliceExpire a cl) s = .next u ∧ regionAt u a cl = some { r with requests := r.requests ++ [.scheduler] } ∧
        u.threads = s.threads ∧ u.cells = s.cells ∧ u.mem = s.mem) ∧
    (r.floor ≠ 0 → r.floor ≤ s.cycle → ∃ u, exec (.quantumFloorExpire a cl) s = .next u ∧ regionAt u a cl = some { r with floor := 0 } ∧
      u.threads = s.threads ∧ u.mem = s.mem) ∧
    (s.cycle < r.floor → exec (.quantumFloorExpire a cl) s = .next s) ∧
    (∀ l, l = r.requests.filter (requestStands s c a cl) → r.phase = .running →
      (l.any (requestDue s r) = true → setsFree s r = true → ∃ u, exec (.regionGate a cl) s = .next u ∧
        regionAt u a cl = some { r with
          phase := .gated, why := servedBy l, requests := l.filter (fun w => !(servedBy l).contains w), gatedAt := s.cycle } ∧
        ∀ t th, aget s.threads t = some th →
          (asidOf th = a → th.home.cluster = cl → threadHas u t (fun x => x.block = none ∧ x.home = th.home ∧
            (th.waits.find? (drainOver s) = none → sameRegs x th))) ∧
          (asidOf th ≠ a ∨ th.home.cluster ≠ cl → aget u.threads t = some th)) ∧
      (l.any (requestDue s r) = false ∨ setsFree s r = false → ∃ u, exec (.regionGate a cl) s = .next u ∧
        regionAt u a cl = some { r with requests := l } ∧ u.threads = s.threads ∧ u.cells = s.cells ∧ u.mem = s.mem)) ∧
    (r.phase = .gated → c.stopped = false → ∃ u, exec (.readout a cl) s = .next u ∧
      regionAt u a cl = some { r with phase := .readOut } ∧ u.threads = s.threads ∧ u.cells = s.cells) ∧
    (∀ dst, c.saved = false → c.stopped = false → c.merging = false →
      (r.phase = .gated ∧ dst = cl ∧ fitsBack s a cl = true ∨
        r.phase = .readOut ∧ fitsRegion s a cl dst = true ∧ ∃ s1, restage (rehome s a cl dst) a dst = .ok s1) →
      ∃ u r', exec (.restore a cl dst) s = .next u ∧ regionAt u a dst = some r' ∧ r'.phase = .running ∧ r'.requests = r.requests ∧
        r'.floor = s.cycle + Config.quantumFloor ∧ r'.ranAt = s.cycle ∧ r'.slice = c.regs.slice.toNat ∧
        ∀ t th, aget s.threads t = some th → asidOf th = a → th.home.cluster = cl →
          threadHas u t (fun x => sameRegs x th ∧ x.home.cluster = dst ∧ x.mode = th.mode)) ∧
    (∀ dst q, c.saved = false → c.stopped = false → c.merging = false → r.phase = .readOut → fitsRegion s a cl dst = true →
      restage (rehome s a cl dst) a dst = .error q →
      ∃ u, exec (.restore a cl dst) s = .next u ∧ regionAt u a cl = some r ∧ u.threads = s.threads)) ∧
  (∀ (s : State) (c : Nat) (x : Cell), aget s.cells c = some x → cellRuns s x = true →
    compacts s ((aget s.ctxs x.crew.asid).elim 0 (fun k => k.part)) (dieOf x.cluster) = true →
    x.pages.length ≤ (freePhys s x.cluster x.pages.length).length → (x.movedAt = 0 ∨ x.movedAt + Config.quantumFloor ≤ s.cycle) →
    (∃ s1, restageCell (numberFaults s x.crew.asid x.cluster) x = .ok s1) →
    ∃ u y, exec (.cellMove c) s = .next u ∧ aget u.cells c = some y ∧ y.movedAt = s.cycle ∧
      y.pages.map (fun p => p.store) = x.pages.map (fun p => p.store) ∧
      y.pages.map (fun p => p.phys) = (freePhys s x.cluster x.pages.length).take x.pages.length ∧ y.cluster = x.cluster ∧
      u.threads = s.threads ∧ ((∀ e ∈ s.esets, e.2.crew = x.crew → e.2.staged = []) → Quiet s x.crew.asid → u.mem.bytes = s.mem.bytes))

/-- R192, R353, R381, R382, R388, R390, R396, R398: GO in PART.MERGE starts the handshake with the partition named, or finds REASON 4;
queues that do not empty in QWAIT refuse it with 1, a collective with 2, a save area with 3; once every region has been saved the
partition has the dies of both and
every context, and the other function has lost its dies. A counter at its top wraps and sets its bit; samples, epochs and their ends
come when they are due; a channel is BUSY, WAIT or IDLE (R384); replay ends with its last record; a hot bit goes with its idle count. -/
def Obligations.MergesAndObservation : Prop :=
  (∀ (s : State) (k : Nat) (p : Partition), aget s.parts k = some p →
    (p.merge.state ≠ 1 → ∀ j o, mergeOther s k p = some (j, o) → lowDie p.dies < lowDie o.dies →
      ∃ u, exec (.mergeStart k) s = .next u ∧ u.mem = s.mem ∧ u.threads = s.threads ∧
        aget u.parts k = some { p with merge := { p.merge with state := 1, go := true, reason := 0, since := s.cycle } } ∧
        ∀ a c, aget s.ctxs a = some c →
          aget u.ctxs a = some (if c.part = k ∨ c.part = j then { c with merging := true } else c)) ∧
    (p.merge.state ≠ 1 → (∀ j o, mergeOther s k p = some (j, o) → ¬ lowDie p.dies < lowDie o.dies) →
      ∃ u, exec (.mergeStart k) s = .next u ∧ u.mem = s.mem ∧ u.threads = s.threads ∧ u.ctxs = s.ctxs ∧
        aget u.parts k = some { p with merge := { p.merge with state := 3, go := false, reason := 4 } }) ∧
    (∀ j o, mergeOther s k p = some (j, o) → p.merge.state = 1 →
      (p.merge.since + p.merge.qwait.toNat ≤ s.cycle → queuesHold s k j = true →
        ∃ u, exec (.mergeQuiesceTimeout k) s = .next u ∧ refusedMerge s u k j p 1) ∧
      (queuesHold s k j = false → s.colls.any (fun e => (p.dies ||| o.dies).getLsbD e.2.die) = true →
        ∃ u, exec (.mergeComplete k) s = .next u ∧ refusedMerge s u k j p 2) ∧
      (queuesHold s k j = false → s.colls.any (fun e => (p.dies ||| o.dies).getLsbD e.2.die) = false →
        ((mergeCtxs s k j).all (areaHolds s) = false →
          ∃ u, exec (.mergeComplete k) s = .next u ∧ refusedMerge s u k j p 3) ∧
        ((mergeCtxs s k j).all (areaHolds s) = true → (mergeCtxs s k j).all (savedAway s) = false → exec (.mergeComplete k) s = .next s) ∧
        ((mergeCtxs s k j).all (areaHolds s) = true → (mergeCtxs s k j).all (savedAway s) = true →
          ∃ u y z, exec (.mergeComplete k) s = .next u ∧ aget u.parts k = some y ∧ y.dies = p.dies ||| o.dies ∧
            y.hbm = p.hbm ||| o.hbm ∧ y.merge.state = 2 ∧ y.merge.go = false ∧ aget u.parts j = some z ∧ z.live = false ∧ z.dies = 0 ∧
            z.dieslost = true ∧ z.barsOpen = false ∧ Outbound.msix j 3 ∈ u.fl.out ∧
            ∀ a c, aget s.ctxs a = some c → c.part = k ∨ c.part = j →
              ∃ c', aget u.ctxs a = some c' ∧ c'.part = k ∧ c'.merging = false)))) ∧
  (∀ (s : State) (a : Nat) (c : Context), aget s.ctxs a = some c →
    (∀ k < 8, c.pmc.cnt.getD k 0 = 0xFFFFFFFFFFFF → c.pmc.ctl.getLsbD 0 = true →
      ∃ u c', exec (.counterOverflow a k) s = .next u ∧ aget u.ctxs a = some c' ∧ 
        c'.pmc.cnt = (if (aget c.pmc.wrote k).isSome then c.pmc.cnt else c.pmc.cnt.set k 0) ∧
        c'.pmc.ovf.getLsbD k = true ∧ (∀ j < 8, j ≠ k → c'.pmc.ovf.getLsbD j = c.pmc.ovf.getLsbD j) ∧ u.threads = s.threads) ∧
    (sampleDue s c.pmc = true → ∃ u c', exec (.sampleTimer a) s = .next u ∧ aget u.ctxs a = some c' ∧ c'.pmc.sampledAt = s.cycle ∧
      c'.pmc.cnt = c.pmc.cnt ∧ u.threads = s.threads ∧ u.cells = s.cells) ∧
    (epochDue s c.log = true → ∃ u c', exec (.checkpointEpoch a) s = .next u ∧ aget u.ctxs a = some c' ∧
      c'.log.epoch = c.log.epoch + 1 ∧ c'.log.epochs.map (fun p => p.number) = c.log.epochs.map (fun p => p.number) ++ [(c.log.epoch + 1).toNat] ∧
      c'.log.epochAt = s.cycle ∧ u.threads = s.threads) ∧
    (∀ q rest, c.log.epochs = q :: rest → epochOwes s q = false → ∃ u c', exec (.epochEnd a) s = .next u ∧ aget u.ctxs a = some c' ∧
      c'.log.epochs = rest ∧ c'.log.epoch = c.log.epoch ∧ u.threads = s.threads ∧ u.cells = s.cells) ∧
    (c.log.replaying = true → c.log.replay = [] → ∃ u, exec (.replayEnd a) s = .next u ∧ u.mem = s.mem ∧ u.threads = s.threads ∧
      aget u.ctxs a = some { c with log := { c.log with ckctl := c.log.ckctl &&& 1, replaying := false } })) ∧
  (∀ (s : State) (k : Channel), (k.cur = none → chanClass s k = 0) ∧
    (∀ r, k.cur = some r → (r.perf ≠ [] → k.lastAct = s.cycle → chanClass s k = 1) ∧
      ((r.perf = [] ∨ k.lastAct ≠ s.cycle) → chanClass s k = if r.waiting then 3 else 0))) ∧
  (∀ (s : State) (k : Nat) (h : Nat × Nat), aget s.mem.hot k = some h →
    (h.1 + h.2 ≤ idleTo s k → ∃ u, exec (.compressionIdleExpire k) s = .next u ∧ aget u.mem.hot k = none ∧ u.mem.bytes = s.mem.bytes ∧
      u.threads = s.threads ∧ u.ctxs = s.ctxs) ∧
    (idleTo s k < h.1 + h.2 → exec (.compressionIdleExpire k) s = .next s))

/-! ### Register writes (R5, R327, R330, R331, R333, R338 to R342, R350 to R352, R374, R386, R392, R394, R395, R400, R402, R406) -/

/-- What a write leaves in every register: for those that only take it into their fields, what a read delivers after it; a
write-one-to-clear field keeps the bits that the write has 0. The instruction's checks and levels are those of R327. NBV 0 and a live ASID
trap, with the SEQ of log 17; fields of a breakpoint that its NODE bit leaves without use read zero (R392); a write that a check refuses
changes nothing; that PCTL refuses MODE 3 and WLEN refuses 0 at a FAR port is log 37. VALID is cleared only once no lease on the buffer is
left, and the SYSWR that waits for it goes on as it fires (R339). -/
def Obligations.RegisterWrites : Prop :=
  (∀ (s : State) (a : Nat) (c : Context) (v : W), aget s.ctxs a = some c →
    (∃ u, exec (.xlatResumeWrite a v) s = .next u ∧ u = { s with ctxs := u.ctxs } ∧ aget u.ctxs a = some { c with
      xlat := { c.xlat with resume := v &&& 0x1FFFFFFFF },
      reqs := if v.getLsbD 32 then [] else c.reqs.filter (fun q => q.seq != v.extractLsb' 0 32) }) ∧
    (∀ p, partOf s a = some p →
      (v.getLsbD 31 = false ∨ (wselWindow c.xlat).ctl.getLsbD 31 = false ∧
          windowFault p (field c.xlat.wsel 8 2) { wselWindow c.xlat with ctl := v } = none →
        ∃ u, exec (.fmtWctlWrite a v) s = .next u ∧ u = { s with ctxs := u.ctxs } ∧ ∃ c', aget u.ctxs a = some c' ∧
          aget c'.xlat.windows (wselKey c.xlat) = some { wselWindow c.xlat with ctl := v &&& 0xFFFFFFFFC3FFFF00 } ∧
          c' = { c with xlat := { c.xlat with windows := c'.xlat.windows } }) ∧
      (v.getLsbD 31 = true → (wselWindow c.xlat).ctl.getLsbD 31 = true ∨
          windowFault p (field c.xlat.wsel 8 2) { wselWindow c.xlat with ctl := v } ≠ none →
        exec (.fmtWctlWrite a v) s = .next s)) ∧
    (v.getLsbD 0 = true ∨ pblenLeased s a = true → exec (.pblenValidClear a v) s = .next s) ∧
    (∀ t k th b sl n p u, v.getLsbD 0 = false → pblenLeased s a = false → pblenSlot s a = some (t, k) → aget s.threads t = some th →
      th.block = some b → b.slots[k]? = some sl → slotInstr sl = some (.syswr 1 n p) → threadRuns s th = true →
      exec (.syswr 1 n p) { s with cur := (t, k) } = .next u →
      exec (.pblenValidClear a v) s = .next { busyAgain u t with cur := s.cur }) ∧
    (∀ b, v.getLsbD 0 = false → pblenLeased s a = false → pblenSlot s a = none → c.xlat.bufs[c.xlat.pbsel.toNat]? = some b →
      ∃ u c', exec (.pblenValidClear a v) s = .next u ∧
      u = { s with ctxs := u.ctxs } ∧ aget u.ctxs a = some c' ∧
      c'.xlat.bufs[c.xlat.pbsel.toNat]? = some { b with len := field v 12 28, valid := false } ∧
      ∀ j, j ≠ c.xlat.pbsel.toNat → c'.xlat.bufs[j]? = c.xlat.bufs[j]?) ∧
    (field v 0 5 = 0 ∨ 12 ≤ field v 0 5 ∧ field v 0 5 ≤ 30 → ∃ u, exec (.pmcSbaseWrite a v) s = .next u ∧
      u = { s with ctxs := u.ctxs } ∧
      aget u.ctxs a = some { c with pmc := { c.pmc with sbase := v &&& 0xFFFFFFFFFFFFF01F, swr := 0, srd := 0 } }) ∧
    (¬(field v 0 5 = 0 ∨ 12 ≤ field v 0 5 ∧ field v 0 5 ≤ 30) → exec (.pmcSbaseWrite a v) s = .next s) ∧
    (∃ u, exec (.ctxSliceWrite a v) s = .next u ∧ u = { s with ctxs := u.ctxs } ∧ aget u.ctxs a = some { c with
      regs := if 0 < field v 0 32 ∧ field v 0 32 < 75000 then { c.regs with slice := 75000, slclamp := true }
        else { c.regs with slice := v.extractLsb' 0 32 } })) ∧
  (∀ (s : State) (v : W) (p : LinkPort), s.pkg.ports[s.pkg.psel.toNat]? = some p →
    (v.getLsbD 0 = true → ∃ u, exec (.keyInstall v) s = .next u ∧ u = { s with pkg := u.pkg } ∧
      u.pkg.ports[s.pkg.psel.toNat]? = some { p with
        ssci := v.extractLsb' 32 32, an := v.extractLsb' 4 2, staging := List.replicate 4 0,
        txPn := 0, keys := (⟨v.extractLsb' 4 2, p.staging, 0⟩ :: p.keys.filter (fun k => k.an != v.extractLsb' 4 2)).take 2 }) ∧
    (v.extractLsb' 0 2 ≠ 3 → (p.up = true → v.extractLsb' 0 2 = p.mode) → (v.extractLsb' 0 2 = 2 → p.wlen ≠ 0 ∧
        ((List.range 16).filter (fun k => decide (k ≠ s.pkg.psel.toNat) && s.pkg.ports[k]?.elim false (fun r => r.mode == 2))).length < 8) →
      ∃ u, exec (.linkModeWrite v) s = .next u ∧ u = { s with pkg := u.pkg } ∧ u.pkg.ports[s.pkg.psel.toNat]? = some { p with
        lat := v.extractLsb' 32 32, retryMax := v.extractLsb' 16 16, mode := v.extractLsb' 0 2 }) ∧
    (v.extractLsb' 0 2 = 3 ∨ p.up = true ∧ v.extractLsb' 0 2 ≠ p.mode ∨ v.extractLsb' 0 2 = 2 ∧ (p.wlen = 0 ∨
        8 ≤ ((List.range 16).filter (fun k => decide (k ≠ s.pkg.psel.toNat) && s.pkg.ports[k]?.elim false (fun r => r.mode == 2))).length) →
      exec (.linkModeWrite v) s = .next s)) ∧
  (∀ (s : State) (v : W),
    (field v 0 2 ≠ 3 → exec (.pwrWrite 0 v) s = .next { s with pkg := { s.pkg with pwr := { s.pkg.pwr with mode := v.extractLsb' 0 2 } } }) ∧
    (field v 0 2 = 3 → exec (.pwrWrite 0 v) s = .next s) ∧
    (300 ≤ field v 0 12 → field v 0 12 ≤ 2400 →
      exec (.pwrWrite 1 v) s = .next { s with pkg := { s.pkg with pwr := { s.pkg.pwr with cap := v.extractLsb' 0 12 } } }) ∧
    (field v 0 12 < 300 ∨ 2400 < field v 0 12 → exec (.pwrWrite 1 v) s = .next s)) ∧
  (∀ (s : State) (t : Nat) (th : Thread) (c : Context) (v : W), aget s.threads t = some th → aget s.ctxs (asidOf th) = some c →
    (field v 0 2 ≠ 0 → ∃ u, exec (.ctxNbvWrite t v) s = .next u ∧ u.mem = s.mem ∧
      aget u.threads t = some { th with regs := { th.regs with nbv := v.extractLsb' 0 2 } }) ∧
    (field v 0 2 = 0 → c.regs.trapvec ≠ 0 → th.regs.intrap = false → ∃ u, exec (.ctxNbvWrite t v) s = .next u ∧
      aget u.threads t = some (trapped th c ⟨cNBV, 0, 0, false, th.pc⟩ th.pc)) ∧
    (th.regs.priv = lMGMT → field v 0 12 = asidOf th ∨ aget s.ctxs (field v 0 12) = none →
      ∃ u, exec (.ctxAsidWrite t v) s = .next u ∧ u.mem = s.mem ∧ aget u.ctxs (field v 0 12) = some c ∧
        threadHas u t (fun x => asidOf x = field v 0 12 ∧ sameRegs x th)) ∧
    (th.regs.priv = lMGMT → field v 0 12 ≠ asidOf th → (∃ d, aget s.ctxs (field v 0 12) = some d) → c.regs.trapvec ≠ 0 →
      th.regs.intrap = false → ∃ u, exec (.ctxAsidWrite t v) s = .next u ∧
        aget u.threads t = some (trapped th c ⟨cPROT, 0, 0, false, th.pc⟩ th.pc)) ∧
    (∀ g i, sysFault s t g i v ≠ none → exec (.registerWrite (.group t g) i.toNat 8 v) s = .next s) ∧
    (∀ k < 4, c.pmc.brk.length = 8 →
      (sysFault s t 5 (BitVec.ofNat 6 (23 + 2 * k)) v = none → ∃ u, exec (.registerWrite (.group t 5) (23 + 2 * k) 8 v) s = .next u ∧
        sysRead u t 5 (BitVec.ofNat 6 (23 + 2 * k)) = v &&& (if v.getLsbD 1 then 0xFFFFFFFFFFFF0007 else 0xFFFFFFFFFFFFFFF7)) ∧
      (sysFault s t 5 (BitVec.ofNat 6 (24 + 2 * k)) v = none → ∃ u, exec (.registerWrite (.group t 5) (24 + 2 * k) 8 v) s = .next u ∧
        sysRead u t 5 (BitVec.ofNat 6 (24 + 2 * k)) = (if (c.pmc.brk.getD (2 * k) 0).getLsbD 1 then v &&& 0xFFFFFFFF else v))) ∧
    (∀ j < 8, c.pmc.evt.length = 8 → c.pmc.cnt.length = 8 →
      (sysFault s t 5 (BitVec.ofNat 6 (1 + j)) v = none → ∃ u, exec (.registerWrite (.group t 5) (1 + j) 8 v) s = .next u ∧
        sysRead u t 5 (BitVec.ofNat 6 (1 + j)) = v &&& 0x1FF ∧ sysRead u t 5 (BitVec.ofNat 6 (9 + j)) = sysRead s t 5 (BitVec.ofNat 6 (9 + j))) ∧
      (sysFault s t 5 (BitVec.ofNat 6 (9 + j)) v = none → ∃ u, exec (.registerWrite (.group t 5) (9 + j) 8 v) s = .next u ∧
        sysRead u t 5 (BitVec.ofNat 6 (9 + j)) = v &&& 0x0000FFFFFFFFFFFF)) ∧
    (∀ i : BitVec 6, 6 ≤ i.toNat → i.toNat ≤ 9 → c.xlat.pbsel.toNat < c.xlat.bufs.length → sysFault s t 1 i v = none →
      ∃ u, exec (.registerWrite (.group t 1) i.toNat 8 v) s = .next u ∧ sysRead u t 1 i = (match i with
        | 6 => v &&& 0x00FFFFFFFFFFF000
        | 7 => v &&& 0x000000FFFFFFF001 ||| sysRead s t 1 7 &&& 2
        | _ => v &&& 0x0000FFFFFFFFF000)) ∧
    (∀ i : BitVec 6, 3 ≤ i.toNat → i.toNat ≤ 4 → s.pkg.psel.toNat < s.pkg.ports.length → sysFault s t 8 i v = none →
      ∃ u, exec (.registerWrite (.group t 8) i.toNat 8 v) s = .next u ∧
        sysRead u t 8 i = v &&& (if i = 3 then 0x0000FFFFFFFFF000 else 0x1FFFF)) ∧
    (∀ e ∈ ([(0, 1, 0x3F3F), (0, 5, 0xFFFF), (5, 17, 0xFF &&& ~~~(c.pmc.setNow.setWidth 64)), (4, 0, 0x100)] :
        List (BitVec 4 × BitVec 6 × W)), sysFault s t e.1 e.2.1 v = none →
      ∃ u, exec (.registerWrite (.group t e.1) e.2.1.toNat 8 v) s = .next u ∧ sysRead u t e.1 e.2.1 = sysRead s t e.1 e.2.1 &&& ~~~(v &&& e.2.2) ∧
        u.mem = s.mem ∧ u.cells = s.cells ∧ u.esets = s.esets) ∧
    (sysFault s t 0 9 v = none → ∃ u, exec (.registerWrite (.group t 0) 9 8 v) s = .next u ∧
      sysRead u t 0 9 = v &&& 0x1C ||| sysRead s t 0 9 &&& ~~~(v &&& 0x100) &&& 0x103) ∧
    (∀ p, aget s.parts c.part = some p → sysFault s t 4 6 v = none →
      (v.getLsbD 8 = false ∨ p.merge.state = 1 → ∃ u, exec (.registerWrite (.group t 4) 6 8 v) s = .next u ∧
        aget u.parts c.part = some { p with merge := { p.merge with other := v.extractLsb' 0 4 } } ∧ u.ctxs = s.ctxs) ∧
      (v.getLsbD 8 = true → p.merge.state ≠ 1 →
        (∀ j o, (j, o) ∈ s.parts → j ≠ c.part → o.live = true → o.dies ≠ v.extractLsb' 0 4) →
        ∃ u, exec (.registerWrite (.group t 4) 6 8 v) s = .next u ∧ u.ctxs = s.ctxs ∧ aget u.parts c.part = some { p with
          merge := { p.merge with other := v.extractLsb' 0 4, state := 3, go := false, reason := 4 } }) ∧
      (∀ j o, v.getLsbD 8 = true → p.merge.state ≠ 1 →
        s.parts.find? (fun e => e.1 != c.part && e.2.live && e.2.dies == v.extractLsb' 0 4) = some (j, o) →
        (lowDie p.dies < lowDie o.dies → ∃ u, exec (.registerWrite (.group t 4) 6 8 v) s = .next u ∧ aget u.parts c.part = some { p with
            merge := { p.merge with other := v.extractLsb' 0 4, state := 1, go := true, reason := 0, since := s.cycle } } ∧
          ∀ a d, aget s.ctxs a = some d → aget u.ctxs a = some (if d.part = c.part ∨ d.part = j then { d with merging := true } else d)) ∧
        (lowDie o.dies ≤ lowDie p.dies → ∃ u, exec (.registerWrite (.group t 4) 6 8 v) s = .next u ∧ u.ctxs = s.ctxs ∧
          aget u.parts c.part = some { p with
            merge := { p.merge with other := v.extractLsb' 0 4, state := 3, go := false, reason := 4 } }))) ∧
    (∀ p, aget s.parts c.part = some p → ∀ e ∈ ([(0, 2, 0xFFFFFFFFFFFFFFFF), (0, 4, 0xFFFFFFFFFFFFFFF8), (0, 6, 0xFFFFFFFFFFFFFFFF), (0, 7, 0xFFFFFFFF), (0, 8, 3),
        (0, 12, 0xFFFFFFFFFFFFFFF0), (0, 13, 0xFFFFFFFFFFFFFFF0), (0, 15, 0xFFFFFFFFFFFFF01F), (1, 0, 0x0000FFFFFFFFF000), (1, 1, 1),
        (1, 2, 0x0000FFFFFFFFF00F), (1, 5, 0x3F), (2, 0, 0x33F),
        (2, 1, 0x0000FFFFFFFFFFFF), (2, 2, 0x0000FFFFFFFFFFFF), (3, 0, 0xFFFFFFFF), (4, 3, 0x0000FFFFFFFFF000), (4, 4, 0x0FFFFFFF),
        (4, 5, 0xFFFFFFFF), (4, 7, 0xFFFFFFFF), (5, 0, 7), (5, 20, 0xFFFFFFFFFFFFFFFF), (5, 22, 0xFFFFFFFF), (5, 21, 0xFFFFFFFF),
        (6, 4, 0xFFFFFFFFFFFFF01F), (6, 6, 0xFFFFFFFFFFFFFFFF), (7, 1, 0xFFFF), (7, 2, 0xFFFFFFFF), (7, 3, 0xFFFFFFFFFFFFF000),
        (7, 4, 0x000000FFFFFFF000), (8, 1, 0xF), (8, 10, 0xFFFF), (8, 11, 0xC0000000FFFF3FFF), (9, 0, 3), (9, 1, 0xFFF)] : List (BitVec 4 × BitVec 6 × W)),
      sysFault s t e.1 e.2.1 v = none → ∃ u, exec (.registerWrite (.group t e.1) e.2.1.toNat 8 v) s = .next u ∧ sysRead u t e.1 e.2.1 = v &&& e.2.2 ∧
        u.mem = s.mem ∧ u.cells = s.cells ∧ u.esets = s.esets)) ∧
  (∀ (s : State) (f : Nat) (v : W) (p : Partition), aget s.parts f = some p →
    (p.live = false ∨ p.barsOpen = false →
      exec (.hostResumeWrite f v) s = .next { s with fl := { s.fl with out := s.fl.out ++ [.unsupported f] } }) ∧
    (p.live = true → p.barsOpen = true →
      (field v 44 20 ≠ 0 ∨ (∀ c, aget s.ctxs (field v 33 11) = some c → c.part ≠ f) → exec (.hostResumeWrite f v) s = .next s) ∧
      ∀ c, field v 44 20 = 0 → aget s.ctxs (field v 33 11) = some c → c.part = f → ∃ u, exec (.hostResumeWrite f v) s = .next u ∧
        (c.saved = false → u = { s with ctxs := u.ctxs }) ∧ ∃ d, aget u.ctxs (field v 33 11) = some d ∧
          d.xlat = { c.xlat with resume := v &&& 0x1FFFFFFFF } ∧
          d.reqs = if v.getLsbD 32 then [] else c.reqs.filter (fun q => q.seq != v.extractLsb' 0 32)))

/-! ### The platform (R114, R192, R253, R255, R399, R404 to R408) -/

/-- R114, R255, R399, R404 to R408: the host reads and writes the partition's memory through BAR2, each access within a stack; power is granted in proportion; an
error is recorded and signalled; SPDM requests are answered and join the transcript; the management processor starts a thread with the
registers that it gives; COLD_RESET brings the partitions up with their dispatchers, or stops at a rejected stage of the firmware, and
leaves no FAR port without a retry window and no ninth (R401, R402). The checks of an image, the digests, the signatures, the certificate
chain and the bytes of the transcript are open (log entry 7), and the platform's records are presumed (log entry 5). -/
def Obligations.PlatformRuns : Prop :=
  (∀ (s : State) (f off : Nat) (p : Partition), barOf s f = some p →
    (∀ a, bar2Addr p off = some a →
      (∀ len, off % 2 ^ 36 + len ≤ 2 ^ 36 → locPoisoned s 0 (.mem a) len = false → ∃ u bs, exec (.hostBar2Read f off len) s = .next u ∧ u.fl.out = s.fl.out ++ [.hostRead f bs] ∧ bs.length = len ∧
        (∀ k < len, bs.getD k 0 = s.mem.byte (a + k)) ∧ u.mem.bytes = s.mem.bytes ∧ u.threads = s.threads) ∧
      (∀ bytes, off % 2 ^ 36 + bytes.length ≤ 2 ^ 36 → outsideHeld s = false →
        (∀ q ∈ lineParts (bytes.length / 64 + 2) a bytes, locMeta s 0 (.mem q.1) q.2.length = none) → (∀ b, Quiet s b) → Safe s → ∃ u, exec (.hostBar2Write f off bytes) s = .next u ∧
        (∀ k < bytes.length, u.mem.byte (a + k) = bytes.getD k 0) ∧
        (∀ x, x < a ∨ a + bytes.length ≤ x → u.mem.byte x = s.mem.byte x) ∧ u.threads = s.threads)) ∧
    (∀ len bytes, bar2Addr p off = none →
      exec (.hostBar2Read f off len) s = .next { s with fl := { s.fl with out := s.fl.out ++ [.unsupported f] } } ∧
      exec (.hostBar2Write f off bytes) s = .next { s with fl := { s.fl with out := s.fl.out ++ [.unsupported f] } }) ∧
    (∀ nonce, ∀ e ∈ ([(.getVersion f, .version [(1, 3)]), (.getCapabilities f, .capabilities true true true),
        (.negotiateAlgorithms f, .algorithms "SHA-384" "ECDSA brainpoolP384r1" true),
        (.getDigests f, .digests [(0, Config.sha384 Config.certChain)]), (.getCertificate f, .certificate 0 Config.certChain),
        (.challenge f nonce, .challengeAuth (Config.ecdsaSign (Config.sha384 (p.spdm.flatMap Config.spdmBytes ++ nonce)))),
        (.getMeasurements f, .measurements (([1, 2, 3, 4, 5] : List Nat).zip s.pkg.measure))] : List (Instr × SpdmAnswer)),
      ∃ u, exec e.1 s = .next u ∧ u.fl.out = s.fl.out ++ [.spdm f e.2] ∧ aget u.parts f = some { p with spdm := p.spdm ++ [e.2] } ∧
        u.mem = s.mem ∧ u.threads = s.threads)) ∧
  (∀ (s : State) (d0 d1 d2 d3 : Nat), ∃ u, exec (.powerInterval d0 d1 d2 d3) s = .next u ∧ u = { s with pkg := u.pkg } ∧
    u.pkg.pwr.grant = [d0, d1, d2, d3].map (fun d => if d0 + d1 + d2 + d3 = 0 then 0
      else min ((if s.pkg.pwr.mode = 0 then 2400 else if s.pkg.pwr.mode = 1 then 1800 else 1200) / (if s.pkg.pwr.throt then 2 else 1))
        s.pkg.pwr.cap.toNat * d / (d0 + d1 + d2 + d3))) ∧
  (∀ (s : State) (inlet : BitVec 8) (hot : Bool), exec (.coolantLimitChange inlet hot) s =
    .next { s with pkg := { s.pkg with pwr := { s.pkg.pwr with inlet := inlet, throt := hot } } }) ∧
  (∀ (s : State) (kind die : Nat) (pa : W) (asid : Nat),
    (kind = 0 → exec (.machineCheck kind die pa asid) s = .next { s with pkg := { s.pkg with corrected := s.pkg.corrected + 1 } }) ∧
    (1 ≤ kind → kind ≤ 4 → die < 4 → ∃ u, exec (.machineCheck kind die pa asid) s = .next u ∧ u.mem.bytes = s.mem.bytes ∧
      u.threads = s.threads ∧ u.pkg.checks = s.pkg.checks ++ [[w64 (kind + 256 * die), pa, w64 (asid % 4096), w64 s.cycle]] ∧
      (kind = 1 → pa.toNat / 512 ∈ u.mem.metaErr) ∧ (kind = 2 ∨ kind = 3 → pa.toNat / 64 ∈ u.mem.badLines) ∧
      ∀ e ∈ s.parts, e.2.live = true → e.2.dies.getLsbD die = true → Outbound.msix e.1 2 ∈ u.fl.out)) ∧
  (∀ (s : State) (a : Nat) (c : Context) (entry : W) (level : Level) (cl slot : Nat) (gs : List W), aget s.ctxs a = some c →
    (diesOf s a).getLsbD (dieOf cl) = true → cl < 256 → slot < 16 → haltedResident s a cl slot = none →
    (freeSlots s cl).contains slot = true →
    ∃ u, exec (.managementThreadStart a entry level cl slot gs) s = .next u ∧ u.mem = s.mem ∧ threadHas u s.nextId (fun x =>
      x.pc = entry.extractLsb' 4 60 ++ (0 : BitVec 4) ∧ x.mode = .ready ∧ x.block = none ∧ x.regs.priv = levelBits level ∧
      asidOf x = a ∧ x.home.cluster = cl ∧ x.home.slot = slot ∧ x.mfull = 0 ∧ x.ras = [] ∧ x.gs[0] = 0 ∧
      ∀ k : Fin 64, 0 < k.val → x.gs[k.val] = gs.getD (k.val - 1) 0)) ∧
  (∀ (s : State), ∃ u, exec .coldReset s = .next u ∧
    (firmwareOk s.platform = false →
      u = { State.reset with cycle := s.cycle, agenda := s.agenda, nextId := s.nextId, platform := s.platform }) ∧
    (firmwareOk s.platform = true → u.pkg.booted = 6 ∧ u.pkg.devinfo = true ∧ u.pkg.devid = s.platform.devid ∧
      (∀ q ∈ u.pkg.ports, q.mode = 2 → q.wlen ≠ 0) ∧ (u.pkg.ports.filter (fun q => q.mode == 2)).length ≤ 8 ∧
      ∀ k e, s.platform.parts[k]? = some e → ∃ p, aget u.parts k = some p ∧ p.dies = e.1 ∧ p.hbm = e.2.2.1 ∧ p.live = true ∧
        threadHas u p.dispatcher (fun x => x.pc = e.2.2.2.extractLsb' 4 60 ++ (0 : BitVec 4) ∧ x.regs.priv = lSUPER ∧ x.mode = .ready ∧
          x.block = none ∧ asidOf x = k + 1 ∧ x.home.cluster = lowDie e.1 * 64 ∧ x.home.slot = 0 ∧ x.gs = Vector.replicate 64 0)))

/-! ### Reset, decoding and the step (R2, R20, R47, R67, R72 to R78, R82, R116, R284, R330, R345, R374, R379, R386, R395, R402, R406, R408) -/

/-- R297, R330, R345, R374, R379, R386, R395, R402, R406: what the machine holds after reset, and what contexts, threads and partitions
hold when they begin: the values that the rules give. Memory lists nothing, and every byte reads 0 (log entry 4). A program comes to run
when COLD_RESET has started the dispatchers (log entry 13); TRAPADDR 0 is what R284 gives a launched thread; the clauses on ROOT and staging are the
model's (log entry 3). -/
def Obligations.ResetState : Prop :=
  Safe State.reset ∧ State.reset.agenda = [.coldReset] ∧ State.reset.threads = [] ∧ State.reset.parts = [] ∧
  (∀ a, State.reset.mem.byte a = 0) ∧
  (∀ q, q < 16 → ∃ p, State.reset.pkg.ports[q]? = some p ∧ p.retryMax = 16 ∧ p.cause = 0 ∧ p.up = false ∧ p.mode = 0 ∧ p.wbase = 0 ∧
    p.wlen = 0 ∧ p.ssci = 0 ∧ p.an = 0 ∧ p.keys = []) ∧
  State.reset.pkg.psel = 0 ∧ State.reset.pkg.peersel = 0 ∧ State.reset.pkg.pwr.cap = 0x960 ∧ State.reset.pkg.pwr.throt = false ∧
  (∀ k, (Context.fresh k).regs.probe = 0x000124F8 ∧ (Context.fresh k).regs.trapvec = 0 ∧ (Context.fresh k).regs.slice = 0x000493E0 ∧
    (Context.fresh k).regs.savebase = 0 ∧ (Context.fresh k).regs.nosave = false ∧ (Context.fresh k).pmc.ctl = 0 ∧
    (Context.fresh k).pmc.ovf = 0 ∧ (Context.fresh k).pmc.sbase = 0 ∧ (Context.fresh k).log.ckctl = 0 ∧ (Context.fresh k).log.period = 10 ∧
    (Context.fresh k).log.align = 15000 ∧ (Context.fresh k).log.epoch = 0 ∧ (Context.fresh k).xlat.demand = false ∧
    (Context.fresh k).xlat.root = 0) ∧
  (∀ h pc p, (Thread.fresh h pc p 3).regs.nbv = 3 ∧ (Thread.fresh h pc p 3).regs.tflag = 0 ∧ (Thread.fresh h pc p 3).regs.gflag = 0 ∧
    (Thread.fresh h pc p 3).regs.nancnt = 0 ∧ (Thread.fresh h pc p 3).regs.mbovr = 0 ∧ (Thread.fresh h pc p 3).regs.intrap = false ∧
    (Thread.fresh h pc p 3).regs.ppriv = 0 ∧ (Thread.fresh h pc p 3).regs.trappc = 0 ∧ (Thread.fresh h pc p 3).regs.trapaddr = 0 ∧
    (Thread.fresh h pc p 3).ras = [] ∧ (Thread.fresh h pc p 3).mfull = 0 ∧ (Thread.fresh h pc p 3).pc = pc) ∧
  (∀ d g h, (Partition.fresh d g h).age = 0x000124F8 ∧ (Partition.fresh d g h).merge.qwait = 0x0016E360 ∧
    (Partition.fresh d g h).merge.state = 0 ∧ (Partition.fresh d g h).idle = 0x1000 ∧ (Partition.fresh d g h).dies = d)

/-- Memory, whose bytes stand at their addresses (R118, R120), keeps its canonical form in every step, whatever state it starts from: addresses
rise and no listed byte is what an unlisted one reads as, so that equal memories are equal data. The form is the model's own (log
entry 4). -/
def Obligations.StepKeepsMemoryCanonical : Prop :=
  ∀ s t : State, Safe s → step s = .next t → Safe t

/-- R67, R72 to R78, R82: every well-formed instruction that has a word is decoded from it with every operand, and every word that
decodes is the word of the well-formed instruction it stands for: no word has two meanings, and no bit of it is ignored. -/
def Obligations.DecodeAndEncodeAgree : Prop :=
  (∀ (i : Instr) (w : Word32), WellFormed i = true → encode i = some w → decode w = .ok i) ∧
  (∀ (i : Instr) (w : Word32), decode w = .ok i → WellFormed i = true ∧ encode i = some w)

/-- A step is one cycle in which what stands first in the agenda, else an instruction of a block in flight whose word decodes to it, else
the step of a unit runs, and nothing else; with nothing due the cycle passes (R20; the order is log entry 1). What passes with every
cycle is tick: the cycle count, counters and probes. -/
def Obligations.StepRunsDecodedInstruction : Prop :=
  ∀ s : State, (tick s).cycle = s.cycle + 1 ∧ (tick s).agenda = s.agenda ∧
    (∀ i rest, s.agenda = i :: rest → step s = exec i { tick s with agenda := rest }) ∧
    (s.agenda = [] →
      (∀ t k i, nextFire (tick s) (tick s).threads = some (t, k, i) → step s = exec i { tick s with cur := (t, k) } ∧
        ∃ th b sl, (t, th) ∈ (tick s).threads ∧ th.block = some b ∧ th.mode = .ready ∧ threadRuns (tick s) th = true ∧
          b.slots[k]? = some sl ∧ (sl.phase = .waiting ∨ sl.phase = .ordered) ∧ decode sl.word = .ok i) ∧
      (∀ t th b sl i, (tick s).threads = [(t, th)] → th.block = some b → th.mode = .ready → threadRuns (tick s) th = true →
        b.slots = [sl] → sl.phase = .waiting → decode sl.word = .ok i → portsReady sl i = true →
        step s = exec i { tick s with cur := (t, 0) }) ∧
      (nextFire (tick s) (tick s).threads = none → ∀ i, nextEvent (tick s) = some i → step s = exec i (tick s)) ∧
      (nextFire (tick s) (tick s).threads = none → nextEvent (tick s) = none → step s = .next (tick s)))

/-- R72 to R78, R101, R347, R348: words written out from the encoding tables decode to the instructions that they stand for: CMPLT.n32 to
s4.x, GRD g1 to s2.l, LD64 0, 16 to s3.l, ST32 1, -4, ACAS with LSID 2 to s5.l, MWAIT m2 to s1.l, TRAP 5, TRET 0; a word whose OP is not
assigned, or whose target of none names a slot, is refused. -/
def Obligations.WordsDecode : Prop :=
  decode 0x0004C222#32 = .ok (.cmplt ⟨0, .none⟩ ⟨4, .x⟩ false .w32 .none) ∧
  decode 0x04800230#32 = .ok (.grd ⟨2, .l⟩ 1 .none) ∧
  decode 0x06808043#32 = .ok (.ld64 ⟨3, .l⟩ 2 0 .none) ∧
  decode 0x007FC24A#32 = .ok (.st32 0x1FF 1 .none) ∧
  decode 0x0A8004D7#32 = .ok (.acas ⟨5, .l⟩ 0 2) ∧
  decode 0x02880434#32 = .ok (.mwait ⟨1, .l⟩ 2) ∧
  decode 0x00000A7E#32 = .ok (.trap 5 .none) ∧
  decode 0x0000007A#32 = .ok (.tret 0 .none) ∧
  (∃ e, decode 0x0000007F#32 = .error e) ∧ (∃ e, decode 0x02000030#32 = .error e)
end

