-- ==== Sys2Proof/Laws/Encoding.lean ====
section
/-! SUPPORT. Reading back what the encoder wrote: the fields of each format, and what each decoding scheme answers on the word of a
well-formed instruction. -/

namespace Sys2Proof

/-- A field that lies wholly in the low part of a concatenation. -/
theorem field_low {n m : Nat} (x : BitVec n) (y : BitVec m) (i k : Nat) (h : i + k ≤ m) :
    (x ++ y).extractLsb' i k = y.extractLsb' i k := by
  apply BitVec.eq_of_getLsbD_eq
  intro j hj
  simp only [BitVec.getLsbD_extractLsb', hj, decide_true, Bool.true_and, BitVec.getLsbD_append]
  rw [if_pos (by omega)]

/-- A field that lies wholly in the high part. -/
theorem field_high {n m : Nat} (x : BitVec n) (y : BitVec m) (i k : Nat) (h : m ≤ i) :
    (x ++ y).extractLsb' i k = x.extractLsb' (i - m) k := by
  apply BitVec.eq_of_getLsbD_eq
  intro j hj
  simp only [BitVec.getLsbD_extractLsb', hj, decide_true, Bool.true_and, BitVec.getLsbD_append]
  rw [if_neg (by omega)]
  congr 1
  omega

/-- A whole vector is its own field. -/
theorem field_whole {n : Nat} (x : BitVec n) : x.extractLsb' 0 n = x := by
  apply BitVec.eq_of_getLsbD_eq
  intro j hj
  simp [hj]

section G
variable (op : BitVec 7) (pm : BitVec 2) (xop : BitVec 5) (t0 t1 : BitVec 9)
@[simp] theorem fOp_encG : fOp (encG op pm xop t0 t1) = op := by
  simp only [fOp, encG]; rw [field_low _ _ _ _ (by omega), field_whole]
@[simp] theorem fPm_encG : fPm (encG op pm xop t0 t1) = pm := by
  simp only [fPm, encG]; rw [field_high _ _ _ _ (by omega), field_low _ _ _ _ (by omega), field_whole]
@[simp] theorem fXop_encG : fXop (encG op pm xop t0 t1) = xop := by
  simp only [fXop, encG]
  rw [field_high _ _ _ _ (by omega), field_high _ _ _ _ (by omega), field_low _ _ _ _ (by omega), field_whole]
@[simp] theorem fT0_encG : fT0 (encG op pm xop t0 t1) = t0 := by
  simp only [fT0, encG]
  rw [field_high _ _ _ _ (by omega), field_high _ _ _ _ (by omega), field_high _ _ _ _ (by omega), field_low _ _ _ _ (by omega), field_whole]
@[simp] theorem fTop_encG : fTop (encG op pm xop t0 t1) = t1 := by
  simp only [fTop, encG]
  rw [field_high _ _ _ _ (by omega), field_high _ _ _ _ (by omega), field_high _ _ _ _ (by omega), field_high _ _ _ _ (by omega), field_whole]
end G

section IMBS
variable (op : BitVec 7) (pm : BitVec 2) (imm : BitVec 14) (t0 m : BitVec 9) (l : BitVec 5) (e : BitVec 3) (f : BitVec 20) (sel : BitVec 12)
@[simp] theorem fOp_encI : fOp (encI op pm imm t0) = op := by
  simp only [fOp, encI]; rw [field_low _ _ _ _ (by omega), field_whole]
@[simp] theorem fPm_encI : fPm (encI op pm imm t0) = pm := by
  simp only [fPm, encI]; rw [field_high _ _ _ _ (by omega), field_low _ _ _ _ (by omega), field_whole]
@[simp] theorem fImm14_encI : fImm14 (encI op pm imm t0) = imm := by
  simp only [fImm14, encI]; rw [field_high _ _ _ _ (by omega), field_high _ _ _ _ (by omega), field_low _ _ _ _ (by omega), field_whole]
@[simp] theorem fTop_encI : fTop (encI op pm imm t0) = t0 := by
  simp only [fTop, encI]; rw [field_high _ _ _ _ (by omega), field_high _ _ _ _ (by omega), field_high _ _ _ _ (by omega), field_whole]
@[simp] theorem fOp_encM : fOp (encM op pm l m t0) = op := by
  simp only [fOp, encM]; rw [field_low _ _ _ _ (by omega), field_whole]
@[simp] theorem fPm_encM : fPm (encM op pm l m t0) = pm := by
  simp only [fPm, encM]; rw [field_high _ _ _ _ (by omega), field_low _ _ _ _ (by omega), field_whole]
@[simp] theorem fLsid_encM : fLsid (encM op pm l m t0) = l := by
  simp only [fLsid, encM]; rw [field_high _ _ _ _ (by omega), field_high _ _ _ _ (by omega), field_low _ _ _ _ (by omega), field_whole]
@[simp] theorem fImm9_encM : fImm9 (encM op pm l m t0) = m := by
  simp only [fImm9, encM]
  rw [field_high _ _ _ _ (by omega), field_high _ _ _ _ (by omega), field_high _ _ _ _ (by omega), field_low _ _ _ _ (by omega), field_whole]
@[simp] theorem fTop_encM : fTop (encM op pm l m t0) = t0 := by
  simp only [fTop, encM]
  rw [field_high _ _ _ _ (by omega), field_high _ _ _ _ (by omega), field_high _ _ _ _ (by omega), field_high _ _ _ _ (by omega), field_whole]
@[simp] theorem fOp_encB : fOp (encB op pm e f) = op := by
  simp only [fOp, encB]; rw [field_low _ _ _ _ (by omega), field_whole]
@[simp] theorem fPm_encB : fPm (encB op pm e f) = pm := by
  simp only [fPm, encB]; rw [field_high _ _ _ _ (by omega), field_low _ _ _ _ (by omega), field_whole]
@[simp] theorem fExit_encB : fExit (encB op pm e f) = e := by
  simp only [fExit, encB]; rw [field_high _ _ _ _ (by omega), field_high _ _ _ _ (by omega), field_low _ _ _ _ (by omega), field_whole]
@[simp] theorem fOff_encB : fOff (encB op pm e f) = f := by
  simp only [fOff, encB]; rw [field_high _ _ _ _ (by omega), field_high _ _ _ _ (by omega), field_high _ _ _ _ (by omega), field_whole]
@[simp] theorem fOp_encS : fOp (encS op pm sel t0) = op := by
  simp only [fOp, encS]; rw [field_low _ _ _ _ (by omega), field_whole]
@[simp] theorem fPm_encS : fPm (encS op pm sel t0) = pm := by
  simp only [fPm, encS]; rw [field_high _ _ _ _ (by omega), field_low _ _ _ _ (by omega), field_whole]
@[simp] theorem fSel_encS : fSel (encS op pm sel t0) = sel := by
  simp only [fSel, encS]; rw [field_high _ _ _ _ (by omega), field_high _ _ _ _ (by omega), field_low _ _ _ _ (by omega), field_whole]
@[simp] theorem fRes_encS : fRes (encS op pm sel t0) = 0 := by
  simp only [fRes, encS]
  rw [field_high _ _ _ _ (by omega), field_high _ _ _ _ (by omega), field_high _ _ _ _ (by omega), field_low _ _ _ _ (by omega), field_whole]
  rfl
@[simp] theorem fTop_encS : fTop (encS op pm sel t0) = t0 := by
  simp only [fTop, encS]
  rw [field_high _ _ _ _ (by omega), field_high _ _ _ _ (by omega), field_high _ _ _ _ (by omega), field_high _ _ _ _ (by omega), field_whole]
end IMBS

/-! ### Operands -/

@[simp] theorem Pm.ofBits_bits (p : Pm) : Pm.ofBits p.bits = p := by cases p <;> rfl
@[simp] theorem Width.ofBits_bits (w : Width) : Width.ofBits w.bits = w := by cases w <;> rfl
@[simp] theorem TPort.ofBits_bits (p : TPort) : TPort.ofBits p.bits = p := by cases p <;> rfl
@[simp] theorem Target.ofBits_bits (t : Target) : Target.ofBits t.bits = t := by
  simp only [Target.ofBits, Target.bits]
  rw [field_high _ _ _ _ (by omega), field_low _ _ _ _ (by omega), field_whole, field_whole, TPort.ofBits_bits]

theorem takeTarget_bits {t : Target} (h : t.ok = true) : takeTarget t.bits = .ok t := by simp [takeTarget, h]

theorem takePm_of {x : Word32} {p : Pm} (hx : fPm x = p.bits) (h : p.plain = true) : takePm x = .ok p := by simp [takePm, hx, h]

/-- The parts of XOP and SEL12 that the schemes read. -/
@[simp] theorem xopW_high (w : BitVec 2) : (0#3 ++ w : BitVec 5).extractLsb' 2 3 = 0 := by
  rw [field_high _ _ _ _ (by omega), field_whole]; rfl
@[simp] theorem xopW_low (w : BitVec 2) : (0#3 ++ w : BitVec 5).extractLsb' 0 2 = w := by rw [field_low _ _ _ _ (by omega), field_whole]
@[simp] theorem xopSW_high (b : BitVec 1) (w : BitVec 2) : (0#2 ++ b ++ w : BitVec 5).extractLsb' 3 2 = 0 := by
  rw [field_high _ _ _ _ (by omega), field_high _ _ _ _ (by omega), field_whole]; rfl
@[simp] theorem xopSW_low (b : BitVec 1) (w : BitVec 2) : (0#2 ++ b ++ w : BitVec 5).extractLsb' 0 2 = w := by
  rw [field_low _ _ _ _ (by omega), field_whole]
@[simp] theorem xopSW_sign (b : Bool) (w : BitVec 2) : (0#2 ++ ofBool b ++ w : BitVec 5).getLsbD 2 = b := by
  simp only [BitVec.getLsbD_append]; cases b <;> rfl
@[simp] theorem xopQ_high (q : BitVec 3) : (0#2 ++ q : BitVec 5).extractLsb' 3 2 = 0 := by
  rw [field_high _ _ _ _ (by omega), field_whole]; rfl
@[simp] theorem xopQ_low (q : BitVec 3) : (0#2 ++ q : BitVec 5).extractLsb' 0 3 = q := by rw [field_low _ _ _ _ (by omega), field_whole]
@[simp] theorem xopM_high (q : BitVec 4) : (0#1 ++ q : BitVec 5).extractLsb' 4 1 = 0 := by
  rw [field_high _ _ _ _ (by omega), field_whole]; rfl
@[simp] theorem xopM_low (q : BitVec 4) : (0#1 ++ q : BitVec 5).extractLsb' 0 4 = q := by rw [field_low _ _ _ _ (by omega), field_whole]
@[simp] theorem selG_high (n : BitVec 6) : (0#6 ++ n : BitVec 12).extractLsb' 6 6 = 0 := by
  rw [field_high _ _ _ _ (by omega), field_whole]; rfl
@[simp] theorem selG_low (n : BitVec 6) : (0#6 ++ n : BitVec 12).extractLsb' 0 6 = n := by rw [field_low _ _ _ _ (by omega), field_whole]
@[simp] theorem selM_high (n : BitVec 4) : (1#2 ++ 0#6 ++ n : BitVec 12).extractLsb' 4 8 = 0x40#8 := by
  rw [field_high _ _ _ _ (by omega), field_whole]; rfl
@[simp] theorem selM_low (n : BitVec 4) : (1#2 ++ 0#6 ++ n : BitVec 12).extractLsb' 0 4 = n := by
  rw [field_low _ _ _ _ (by omega), field_whole]
@[simp] theorem selS_high (g : BitVec 4) (n : BitVec 6) : (2#2 ++ g ++ n : BitVec 12).extractLsb' 10 2 = 2 := by
  rw [field_high _ _ _ _ (by omega), field_high _ _ _ _ (by omega), field_whole]; rfl
@[simp] theorem selS_mid (g : BitVec 4) (n : BitVec 6) : (2#2 ++ g ++ n : BitVec 12).extractLsb' 6 4 = g := by
  rw [field_high _ _ _ _ (by omega), field_low _ _ _ _ (by omega), field_whole]
@[simp] theorem selS_low (g : BitVec 4) (n : BitVec 6) : (2#2 ++ g ++ n : BitVec 12).extractLsb' 0 6 = n := by
  rw [field_low _ _ _ _ (by omega), field_whole]

/-! ### What each scheme answers -/

section Schemes
variable {op : BitVec 7} {v t : Target} {p : Pm}

theorem decW_enc {k : Target → Target → Width → Pm → Instr} {w : Width} (hv : v.ok = true) (ht : t.ok = true) (hp : p.plain = true) :
    decW k (encG op p.bits (0#3 ++ w.bits) t.bits v.bits) = .ok (k v t w p) := by
  simp [decW, takeTarget_bits hv, takeTarget_bits ht, takePm_of (fPm_encG ..) hp, bind, Except.bind, pure, Except.pure]

theorem decSW_enc {k : Target → Target → Bool → Width → Pm → Instr} {b : Bool} {w : Width} (hv : v.ok = true) (ht : t.ok = true)
    (hp : p.plain = true) : decSW k (encG op p.bits (0#2 ++ ofBool b ++ w.bits) t.bits v.bits) = .ok (k v t b w p) := by
  simp only [decSW, fXop_encG, xopSW_high, xopSW_low, xopSW_sign, fT0_encG, fTop_encG, takeTarget_bits hv, takeTarget_bits ht,
    takePm_of (fPm_encG ..) hp, if_true, Width.ofBits_bits, bind, Except.bind, pure, Except.pure]

theorem decTT_enc {k : Target → Target → Pm → Instr} (hv : v.ok = true) (ht : t.ok = true) (hp : p.plain = true) :
    decTT k (encG op p.bits 0#5 t.bits v.bits) = .ok (k v t p) := by
  simp [decTT, takeTarget_bits hv, takeTarget_bits ht, takePm_of (fPm_encG ..) hp, bind, Except.bind, pure, Except.pure]

theorem decLea_enc {k : Target → Target → BitVec 2 → Pm → Instr} {c : BitVec 2} (hv : v.ok = true) (ht : t.ok = true) (hp : p.plain = true) :
    decLea k (encG op p.bits (0#3 ++ c) t.bits v.bits) = .ok (k v t c p) := by
  simp [decLea, takeTarget_bits hv, takeTarget_bits ht, takePm_of (fPm_encG ..) hp, bind, Except.bind, pure, Except.pure]

theorem decThree_enc {k : Target → Target → Instr} (hv : v.ok = true) (ht : t.ok = true) :
    decThree k (encG op 1#2 0#5 t.bits v.bits) = .ok (k v t) := by
  simp [decThree, takeTarget_bits hv, takeTarget_bits ht, bind, Except.bind, pure, Except.pure]

theorem decNoT_enc {k : Pm → Instr} {x : BitVec 5} (hp : p.plain = true) : decNoT k (encG op p.bits x 0#9 0#9) = .ok (k p) := by
  simp [decNoT, takePm_of (fPm_encG ..) hp, bind, Except.bind, pure, Except.pure]

theorem decXop0_enc {k : Pm → Instr} (hp : p.plain = true) : decXop0 k (encG op p.bits 0#5 0#9 0#9) = .ok (k p) := by
  simp [decXop0, decNoT_enc hp]

theorem decQueue_enc {k : Target → BitVec 3 → Pm → Instr} {q : BitVec 3} (ht : t.ok = true) (hp : p.plain = true) :
    decQueue k (encG op p.bits (0#2 ++ q) t.bits 0#9) = .ok (k t q p) := by
  simp [decQueue, takeTarget_bits ht, takePm_of (fPm_encG ..) hp, bind, Except.bind, pure, Except.pure]

theorem decMsg_enc {k : BitVec 4 → Pm → Instr} {n : BitVec 4} (hp : p.plain = true) (hn : n.toNat < 15) :
    decMsg k (encG op p.bits (0#1 ++ n) 0#9 0#9) = .ok (k n p) := by
  simp only [decMsg, fXop_encG, xopM_high, xopM_low, hn, and_self, if_true]
  exact decNoT_enc hp

theorem decI_enc {k : Target → BitVec 14 → Pm → Instr} {i : BitVec 14} (ht : t.ok = true) (hp : p.plain = true) :
    decI k (encI op p.bits i t.bits) = .ok (k t i p) := by
  simp [decI, takeTarget_bits ht, takePm_of (fPm_encI ..) hp, bind, Except.bind, pure, Except.pure]

theorem decShift_enc {k : Target → BitVec 14 → Pm → Instr} {i : BitVec 14} (ht : t.ok = true) (hp : p.plain = true)
    (hi : shiftImmOk i = true) : decShift k (encI op p.bits i t.bits) = .ok (k t i p) := by
  simp [decShift, hi, decI_enc ht hp]

theorem decImm_enc {k : BitVec 14 → Pm → Instr} {i : BitVec 14} (hp : p.plain = true) :
    decImm k (encI op p.bits i 0#9) = .ok (k i p) := by
  simp [decImm, takePm_of (fPm_encI ..) hp, bind, Except.bind, pure, Except.pure]

theorem decM_enc {k : Target → BitVec 9 → BitVec 5 → Pm → Instr} {m : BitVec 9} {l : BitVec 5} (ht : t.ok = true) (hp : p.plain = true) :
    decM k (encM op p.bits l m t.bits) = .ok (k t m l p) := by
  simp [decM, takeTarget_bits ht, takePm_of (fPm_encM ..) hp, bind, Except.bind, pure, Except.pure]

theorem decSt_enc {k : BitVec 9 → BitVec 5 → Pm → Instr} {m : BitVec 9} {l : BitVec 5} (hp : p.plain = true) :
    decSt k (encM op p.bits l m 0#9) = .ok (k m l p) := by
  simp [decSt, takePm_of (fPm_encM ..) hp, bind, Except.bind, pure, Except.pure]

theorem decCas_enc {k : Target → BitVec 9 → BitVec 5 → Instr} {m : BitVec 9} {l : BitVec 5} (ht : t.ok = true) :
    decCas k (encM op 1#2 l m t.bits) = .ok (k t m l) := by
  simp [decCas, takeTarget_bits ht, bind, Except.bind, pure, Except.pure]

theorem decB_enc {k : BitVec 20 → BitVec 3 → Pm → Instr} {e : BitVec 3} {f : BitVec 20} (hp : p.plain = true) :
    decB k (encB op p.bits e f) = .ok (k f e p) := by
  simp [decB, takePm_of (fPm_encB ..) hp, bind, Except.bind, pure, Except.pure]

theorem decB0_enc {k : BitVec 3 → Pm → Instr} {e : BitVec 3} (hp : p.plain = true) : decB0 k (encB op p.bits e 0#20) = .ok (k e p) := by
  simp [decB0, takePm_of (fPm_encB ..) hp, bind, Except.bind, pure, Except.pure]

theorem decGR_enc {k : Target → BitVec 6 → Pm → Instr} {n : BitVec 6} (ht : t.ok = true) (hp : p.plain = true) :
    decGR k (encS op p.bits (0#6 ++ n) t.bits) = .ok (k t n p) := by
  simp [decGR, takeTarget_bits ht, takePm_of (fPm_encS ..) hp, bind, Except.bind, pure, Except.pure]

theorem decGW_enc {k : BitVec 6 → Pm → Instr} {n : BitVec 6} (hp : p.plain = true) :
    decGW k (encS op p.bits (0#6 ++ n) 0#9) = .ok (k n p) := by
  simp [decGW, takePm_of (fPm_encS ..) hp, bind, Except.bind, pure, Except.pure]

theorem decMR_enc {k : Target → BitVec 4 → Pm → Instr} {n : BitVec 4} (ht : t.ok = true) (hp : p.plain = true) :
    decMR k (encS op p.bits (1#2 ++ 0#6 ++ n) t.bits) = .ok (k t n p) := by
  simp only [decMR, fRes_encS, fSel_encS, fTop_encS, selM_high, selM_low, takeTarget_bits ht, takePm_of (fPm_encS ..) hp, if_true, bind,
    Except.bind, pure, Except.pure]

theorem decMW_enc {k : BitVec 4 → Pm → Instr} {n : BitVec 4} (hp : p.plain = true) :
    decMW k (encS op p.bits (1#2 ++ 0#6 ++ n) 0#9) = .ok (k n p) := by
  simp only [decMW, fRes_encS, fSel_encS, fTop_encS, selM_high, selM_low, takePm_of (fPm_encS ..) hp, if_true, bind,
    Except.bind, pure, Except.pure]
  rfl

theorem decMWait_enc {k : Target → BitVec 4 → Instr} {n : BitVec 4} (ht : t.ok = true) :
    decMWait k (encS op 0#2 (1#2 ++ 0#6 ++ n) t.bits) = .ok (k t n) := by
  simp only [decMWait, fRes_encS, fSel_encS, fTop_encS, fPm_encS, selM_high, selM_low, takeTarget_bits ht, if_true, bind, Except.bind,
    pure, Except.pure]
  rfl

theorem decSysR_enc {k : Target → BitVec 4 → BitVec 6 → Pm → Instr} {g : BitVec 4} {n : BitVec 6} (ht : t.ok = true) (hp : p.plain = true)
    (hg : sysRegOk g n = true) : decSysR k (encS op p.bits (2#2 ++ g ++ n) t.bits) = .ok (k t g n p) := by
  simp only [decSysR, fRes_encS, fSel_encS, fTop_encS, selS_high, selS_mid, selS_low, hg, and_self, takeTarget_bits ht,
    takePm_of (fPm_encS ..) hp, if_true, bind, Except.bind, pure, Except.pure]

theorem decSysW_enc {k : BitVec 4 → BitVec 6 → Pm → Instr} {g : BitVec 4} {n : BitVec 6} (hp : p.plain = true) (hg : sysRegOk g n = true) :
    decSysW k (encS op p.bits (2#2 ++ g ++ n) 0#9) = .ok (k g n p) := by
  simp only [decSysW, fRes_encS, fSel_encS, fTop_encS, selS_high, selS_mid, selS_low, hg, and_self,
    takePm_of (fPm_encS ..) hp, if_true, bind, Except.bind, pure, Except.pure]
  rfl
end Schemes

end Sys2Proof
end

