-- ==== Sys2Proof/Laws/Memory.lean ====
section
/-! SUPPORT. Laws of lists by handle and of memory: reading after writing, and the canonical form that every memory
operation keeps. -/

namespace Sys2Proof.Machine

/-! ### Lists by handle -/

/-- An entry that was put is there. -/
@[simp] theorem aget_aset_same {α : Type} (l : List (Nat × α)) (k : Nat) (v : α) : aget (aset l k v) k = some v := by
  induction l with
  | nil => simp [aset, aget]
  | cons e t ih =>
    obtain ⟨j, w⟩ := e
    simp only [aset]
    split
    · simp [aget]
    · split
      · simp [aget]
      · simp [aget, *]

/-- Putting an entry leaves every other one alone. -/
theorem aget_aset_ne {α : Type} (l : List (Nat × α)) {k m : Nat} (v : α) (h : m ≠ k) : aget (aset l k v) m = aget l m := by
  induction l with
  | nil => simp [aset, aget, Ne.symm h]
  | cons e t ih =>
    obtain ⟨j, w⟩ := e
    simp only [aset]
    split
    · simp [aget, Ne.symm h]
    · split
      · rename_i hj
        subst hj
        simp [aget, Ne.symm h]
      · simp [aget, ih]

/-- A removed entry is gone. -/
@[simp] theorem aget_adel_same {α : Type} (l : List (Nat × α)) (k : Nat) : aget (adel l k) k = none := by
  induction l with
  | nil => rfl
  | cons e t ih =>
    obtain ⟨j, w⟩ := e
    by_cases h : j = k
    · subst h; simpa [adel] using ih
    · have : adel ((j, w) :: t) k = (j, w) :: adel t k := by simp [adel, h]
      simp [this, aget, h, ih]

/-- Removing an entry leaves every other one alone. -/
theorem aget_adel_ne {α : Type} (l : List (Nat × α)) {k m : Nat} (h : m ≠ k) : aget (adel l k) m = aget l m := by
  induction l with
  | nil => rfl
  | cons e t ih =>
    obtain ⟨j, w⟩ := e
    by_cases hj : j = k
    · subst hj
      have : adel ((j, w) :: t) j = adel t j := by simp [adel]
      simp [this, aget, Ne.symm h, ih]
    · have : adel ((j, w) :: t) k = (j, w) :: adel t k := by simp [adel, hj]
      simp [this, aget, ih]

/-! ### The canonical form -/

/-- The form from a lower bound holds from every smaller one. -/
theorem cellsWf_mono {lo hi : Nat} {l : List Host.Cell} (h : lo ≤ hi) (w : cellsWf hi l = true) : cellsWf lo l = true := by
  cases l with
  | nil => rfl
  | cons e t =>
    obtain ⟨k, v⟩ := e
    simp only [cellsWf, Bool.and_eq_true, decide_eq_true_eq] at w ⊢
    exact ⟨⟨by omega, w.1.2⟩, w.2⟩

/-- Writing one byte keeps the form. -/
theorem cellsWf_cellsSet {lo a : Nat} {l : List Host.Cell} (v : Byte) (h : lo ≤ a) (w : cellsWf lo l = true) :
    cellsWf lo (cellsSet l a v) = true := by
  induction l generalizing lo with
  | nil =>
    simp only [cellsSet]
    split
    · rfl
    · simp [cellsWf, *]
  | cons e t ih =>
    obtain ⟨k, x⟩ := e
    simp only [cellsWf, Bool.and_eq_true, decide_eq_true_eq] at w
    simp only [cellsSet]
    split
    · split
      · simpa [cellsWf] using w
      · simp only [cellsWf, Bool.and_eq_true, decide_eq_true_eq]
        exact ⟨⟨h, by simpa using ‹¬v = _›⟩, ⟨by omega, w.1.2⟩, w.2⟩
    · split
      · split
        · exact cellsWf_mono (by omega) w.2
        · simp only [cellsWf, Bool.and_eq_true, decide_eq_true_eq]
          subst a
          exact ⟨⟨h, by simpa using ‹¬v = _›⟩, w.2⟩
      · simp only [cellsWf, Bool.and_eq_true, decide_eq_true_eq]
        exact ⟨w.1, ih (by omega) w.2⟩

/-- Writing bytes keeps the form. -/
theorem cellsWf_cellsPut {l : List Host.Cell} (a : Nat) (bs : List Byte) (w : cellsWf 0 l = true) :
    cellsWf 0 (cellsPut l a bs) = true := by
  induction bs generalizing l a with
  | nil => exact w
  | cons b t ih => exact ih (a + 1) (cellsWf_cellsSet b (Nat.zero_le a) w)

/-- A part of a list in canonical form is in that form. -/
theorem cellsWf_filter {lo : Nat} {l : List Host.Cell} (p : Host.Cell → Bool) (w : cellsWf lo l = true) :
    cellsWf lo (l.filter p) = true := by
  induction l generalizing lo with
  | nil => rfl
  | cons e t ih =>
    obtain ⟨k, v⟩ := e
    simp only [cellsWf, Bool.and_eq_true, decide_eq_true_eq] at w
    simp only [List.filter_cons]
    split
    · simp only [cellsWf, Bool.and_eq_true, decide_eq_true_eq]
      exact ⟨w.1, ih w.2⟩
    · exact cellsWf_mono (by omega) (ih w.2)

/-- Clearing a bank keeps the form. -/
theorem cellsWf_clearBytes {l : List Host.Cell} (a n : Nat) (w : cellsWf 0 l = true) : cellsWf 0 (clearBytes l a n) = true :=
  cellsWf_filter _ w

/-! ### Reading after writing -/

/-- Below its least address a list reads as memory that nothing has written. -/
theorem cellsGet_below {lo a : Nat} {l : List Host.Cell} (h : a < lo) (w : cellsWf lo l = true) : cellsGet l a = Config.freshByte := by
  cases l with
  | nil => rfl
  | cons e t =>
    obtain ⟨k, v⟩ := e
    simp only [cellsWf, Bool.and_eq_true, decide_eq_true_eq] at w
    simp [cellsGet, show a < k by omega]

/-- A written byte reads back. -/
theorem cellsGet_cellsSet_same {lo a : Nat} {l : List Host.Cell} (v : Byte) (w : cellsWf lo l = true) :
    cellsGet (cellsSet l a v) a = v := by
  induction l generalizing lo with
  | nil =>
    simp only [cellsSet]
    split
    · simp [cellsGet, *]
    · simp [cellsGet]
  | cons e t ih =>
    obtain ⟨k, x⟩ := e
    simp only [cellsWf, Bool.and_eq_true, decide_eq_true_eq] at w
    simp only [cellsSet]
    split
    · split
      · simp [cellsGet, *]
      · simp [cellsGet]
    · split
      · split
        · rename_i _ ha hv
          rw [hv]
          exact cellsGet_below (by omega) w.2
        · simp [cellsGet]
      · have hk : ¬ a < k := by assumption
        simp [cellsGet, *, ih w.2]

/-- Writing one byte leaves every other byte alone. -/
theorem cellsGet_cellsSet_ne {lo a b : Nat} {l : List Host.Cell} (v : Byte) (h : b ≠ a) (w : cellsWf lo l = true) :
    cellsGet (cellsSet l a v) b = cellsGet l b := by
  induction l generalizing lo with
  | nil =>
    simp only [cellsSet]
    split
    · rfl
    · simp [cellsGet, h]
  | cons e t ih =>
    obtain ⟨k, x⟩ := e
    simp only [cellsWf, Bool.and_eq_true, decide_eq_true_eq] at w
    simp only [cellsSet]
    split
    · split
      · rfl
      · simp only [cellsGet]
        split
        · have : b < k := by omega
          simp [this]
        · simp
    · split
      · subst a
        split
        · simp only [cellsGet]
          split
          · exact cellsGet_below (by omega) w.2
          · simp
        · simp [cellsGet, h]
      · simp [cellsGet, ih w.2]

/-- Writing bytes leaves every byte outside them alone. -/
theorem cellsGet_cellsPut_out {a b : Nat} {l : List Host.Cell} (bs : List Byte) (w : cellsWf 0 l = true)
    (h : b < a ∨ a + bs.length ≤ b) : cellsGet (cellsPut l a bs) b = cellsGet l b := by
  induction bs generalizing l a with
  | nil => rfl
  | cons x t ih =>
    simp only [List.length_cons] at h
    simp only [cellsPut]
    rw [ih (cellsWf_cellsSet x (Nat.zero_le a) w) (by omega), cellsGet_cellsSet_ne x (by omega) w]

/-- Written bytes read back. -/
theorem cellsTake_cellsPut_same {a : Nat} {l : List Host.Cell} (bs : List Byte) (w : cellsWf 0 l = true) :
    cellsTake (cellsPut l a bs) a bs.length = bs := by
  induction bs generalizing l a with
  | nil => rfl
  | cons x t ih =>
    have w1 := cellsWf_cellsSet x (Nat.zero_le a) w
    simp only [cellsPut, List.length_cons, cellsTake, List.cons.injEq]
    exact ⟨by rw [cellsGet_cellsPut_out t w1 (by omega), cellsGet_cellsSet_same x w], ih w1⟩

/-! ### Numbers and bytes (R2) -/

/-- n bytes of a number are n bytes. -/
@[simp] theorem leBytes_length (n v : Nat) : (leBytes n v).length = n := by
  induction n generalizing v with
  | zero => rfl
  | succ n ih => simp [leBytes, ih]

/-- The number of n bytes of a number is that number in n bytes. -/
theorem leVal_leBytes (n v : Nat) : leVal (leBytes n v) = v % 256 ^ n := by
  induction n generalizing v with
  | zero => simp [leBytes, leVal, Nat.mod_one]
  | succ n ih =>
    have h : v % 256 ^ (n + 1) = v % 256 + 256 * (v / 256 % 256 ^ n) := by
      rw [Nat.pow_succ', Nat.mod_mul]
    simp only [leBytes, leVal, ih, BitVec.toNat_ofNat, h]

/-! ### Memory -/

/-- Leases keep the form. -/
@[simp] theorem Memory.wf_leased (m : Memory) (ts a n : Nat) : (m.leased ts a n).wf = m.wf := rfl
/-- Stamps keep the form. -/
@[simp] theorem Memory.wf_stamped (m : Memory) (ts a n : Nat) : (m.stamped ts a n).wf = m.wf := rfl
/-- Clearing poison keeps the bytes. -/
@[simp] theorem Memory.bytes_unpoison (m : Memory) (a n : Nat) : (m.unpoison a n).bytes = m.bytes := by
  unfold Memory.unpoison; split <;> rfl
/-- So does the canonical form. -/
@[simp] theorem Memory.wf_unpoison (m : Memory) (a n : Nat) : (m.unpoison a n).wf = m.wf := by
  simp [Memory.wf]
/-- Leases change no byte. -/
@[simp] theorem Memory.byte_leased (m : Memory) (ts a n b : Nat) : (m.leased ts a n).byte b = m.byte b := rfl
/-- Stamps change no byte. -/
@[simp] theorem Memory.byte_stamped (m : Memory) (ts a n b : Nat) : (m.stamped ts a n).byte b = m.byte b := rfl
/-- Clearing poison changes no byte. -/
@[simp] theorem Memory.byte_unpoison (m : Memory) (a n b : Nat) : (m.unpoison a n).byte b = m.byte b := by
  simp [Memory.byte]
/-- Memory at reset is in canonical form. -/
theorem Memory.wf_reset : Memory.reset.wf = true := rfl

end Sys2Proof.Machine
end

