-- ==== Sys2Proof/Laws/State.lean ====
section
/-! SUPPORT. What each update of State leaves alone, field by field, and what it does to its own field: later proofs rewrite
with these and unfold no record. -/

namespace Sys2Proof.Machine

/-! ### updThread -/

@[simp] theorem updThread_cycle (s : State) (t : Nat) (f : Thread → Thread) : (updThread s t f).cycle = s.cycle := by
  unfold updThread; split <;> rfl
@[simp] theorem updThread_agenda (s : State) (t : Nat) (f : Thread → Thread) : (updThread s t f).agenda = s.agenda := by
  unfold updThread; split <;> rfl
@[simp] theorem updThread_cur (s : State) (t : Nat) (f : Thread → Thread) : (updThread s t f).cur = s.cur := by
  unfold updThread; split <;> rfl
@[simp] theorem updThread_nextId (s : State) (t : Nat) (f : Thread → Thread) : (updThread s t f).nextId = s.nextId := by
  unfold updThread; split <;> rfl
@[simp] theorem updThread_mem (s : State) (t : Nat) (f : Thread → Thread) : (updThread s t f).mem = s.mem := by
  unfold updThread; split <;> rfl
@[simp] theorem updThread_lastStarted (s : State) (t : Nat) (f : Thread → Thread) : (updThread s t f).lastStarted = s.lastStarted := by
  unfold updThread; split <;> rfl
@[simp] theorem updThread_cells (s : State) (t : Nat) (f : Thread → Thread) : (updThread s t f).cells = s.cells := by
  unfold updThread; split <;> rfl
@[simp] theorem updThread_cache (s : State) (t : Nat) (f : Thread → Thread) : (updThread s t f).cache = s.cache := by
  unfold updThread; split <;> rfl
@[simp] theorem updThread_released (s : State) (t : Nat) (f : Thread → Thread) : (updThread s t f).released = s.released := by
  unfold updThread; split <;> rfl
@[simp] theorem updThread_esets (s : State) (t : Nat) (f : Thread → Thread) : (updThread s t f).esets = s.esets := by
  unfold updThread; split <;> rfl
@[simp] theorem updThread_ctxs (s : State) (t : Nat) (f : Thread → Thread) : (updThread s t f).ctxs = s.ctxs := by
  unfold updThread; split <;> rfl
@[simp] theorem updThread_regions (s : State) (t : Nat) (f : Thread → Thread) : (updThread s t f).regions = s.regions := by
  unfold updThread; split <;> rfl
@[simp] theorem updThread_colls (s : State) (t : Nat) (f : Thread → Thread) : (updThread s t f).colls = s.colls := by
  unfold updThread; split <;> rfl
@[simp] theorem updThread_parts (s : State) (t : Nat) (f : Thread → Thread) : (updThread s t f).parts = s.parts := by
  unfold updThread; split <;> rfl
@[simp] theorem updThread_pkg (s : State) (t : Nat) (f : Thread → Thread) : (updThread s t f).pkg = s.pkg := by
  unfold updThread; split <;> rfl
@[simp] theorem updThread_fl (s : State) (t : Nat) (f : Thread → Thread) : (updThread s t f).fl = s.fl := by
  unfold updThread; split <;> rfl
@[simp] theorem updThread_platform (s : State) (t : Nat) (f : Thread → Thread) : (updThread s t f).platform = s.platform := by
  unfold updThread; split <;> rfl
@[simp] theorem updThread_vault (s : State) (t : Nat) (f : Thread → Thread) : (updThread s t f).vault = s.vault := by
  unfold updThread; split <;> rfl
/-- The entry that updThread names is changed. -/
@[simp] theorem updThread_same (s : State) (t : Nat) (f : Thread → Thread) :
    aget (updThread s t f).threads t = (aget s.threads t).map f := by
  unfold updThread; split <;> simp [*]
/-- Every other entry stays. -/
theorem updThread_ne (s : State) (t : Nat) (f : Thread → Thread) {k : Nat} (hk : k ≠ t) :
    aget (updThread s t f).threads k = aget s.threads k := by
  unfold updThread; split
  · exact aget_aset_ne _ _ hk
  · rfl

/-! ### updCell -/

@[simp] theorem updCell_cycle (s : State) (c : Nat) (f : Cell → Cell) : (updCell s c f).cycle = s.cycle := by
  unfold updCell; split <;> rfl
@[simp] theorem updCell_agenda (s : State) (c : Nat) (f : Cell → Cell) : (updCell s c f).agenda = s.agenda := by
  unfold updCell; split <;> rfl
@[simp] theorem updCell_cur (s : State) (c : Nat) (f : Cell → Cell) : (updCell s c f).cur = s.cur := by
  unfold updCell; split <;> rfl
@[simp] theorem updCell_nextId (s : State) (c : Nat) (f : Cell → Cell) : (updCell s c f).nextId = s.nextId := by
  unfold updCell; split <;> rfl
@[simp] theorem updCell_mem (s : State) (c : Nat) (f : Cell → Cell) : (updCell s c f).mem = s.mem := by
  unfold updCell; split <;> rfl
@[simp] theorem updCell_threads (s : State) (c : Nat) (f : Cell → Cell) : (updCell s c f).threads = s.threads := by
  unfold updCell; split <;> rfl
@[simp] theorem updCell_lastStarted (s : State) (c : Nat) (f : Cell → Cell) : (updCell s c f).lastStarted = s.lastStarted := by
  unfold updCell; split <;> rfl
@[simp] theorem updCell_cache (s : State) (c : Nat) (f : Cell → Cell) : (updCell s c f).cache = s.cache := by
  unfold updCell; split <;> rfl
@[simp] theorem updCell_released (s : State) (c : Nat) (f : Cell → Cell) : (updCell s c f).released = s.released := by
  unfold updCell; split <;> rfl
@[simp] theorem updCell_esets (s : State) (c : Nat) (f : Cell → Cell) : (updCell s c f).esets = s.esets := by
  unfold updCell; split <;> rfl
@[simp] theorem updCell_ctxs (s : State) (c : Nat) (f : Cell → Cell) : (updCell s c f).ctxs = s.ctxs := by
  unfold updCell; split <;> rfl
@[simp] theorem updCell_regions (s : State) (c : Nat) (f : Cell → Cell) : (updCell s c f).regions = s.regions := by
  unfold updCell; split <;> rfl
@[simp] theorem updCell_colls (s : State) (c : Nat) (f : Cell → Cell) : (updCell s c f).colls = s.colls := by
  unfold updCell; split <;> rfl
@[simp] theorem updCell_parts (s : State) (c : Nat) (f : Cell → Cell) : (updCell s c f).parts = s.parts := by
  unfold updCell; split <;> rfl
@[simp] theorem updCell_pkg (s : State) (c : Nat) (f : Cell → Cell) : (updCell s c f).pkg = s.pkg := by
  unfold updCell; split <;> rfl
@[simp] theorem updCell_fl (s : State) (c : Nat) (f : Cell → Cell) : (updCell s c f).fl = s.fl := by
  unfold updCell; split <;> rfl
@[simp] theorem updCell_platform (s : State) (c : Nat) (f : Cell → Cell) : (updCell s c f).platform = s.platform := by
  unfold updCell; split <;> rfl
@[simp] theorem updCell_vault (s : State) (c : Nat) (f : Cell → Cell) : (updCell s c f).vault = s.vault := by
  unfold updCell; split <;> rfl
/-- The entry that updCell names is changed. -/
@[simp] theorem updCell_same (s : State) (c : Nat) (f : Cell → Cell) :
    aget (updCell s c f).cells c = (aget s.cells c).map f := by
  unfold updCell; split <;> simp [*]
/-- Every other entry stays. -/
theorem updCell_ne (s : State) (c : Nat) (f : Cell → Cell) {k : Nat} (hk : k ≠ c) :
    aget (updCell s c f).cells k = aget s.cells k := by
  unfold updCell; split
  · exact aget_aset_ne _ _ hk
  · rfl

/-! ### updEset -/

@[simp] theorem updEset_cycle (s : State) (e : Nat) (f : EngineSet → EngineSet) : (updEset s e f).cycle = s.cycle := by
  unfold updEset; split <;> rfl
@[simp] theorem updEset_agenda (s : State) (e : Nat) (f : EngineSet → EngineSet) : (updEset s e f).agenda = s.agenda := by
  unfold updEset; split <;> rfl
@[simp] theorem updEset_cur (s : State) (e : Nat) (f : EngineSet → EngineSet) : (updEset s e f).cur = s.cur := by
  unfold updEset; split <;> rfl
@[simp] theorem updEset_nextId (s : State) (e : Nat) (f : EngineSet → EngineSet) : (updEset s e f).nextId = s.nextId := by
  unfold updEset; split <;> rfl
@[simp] theorem updEset_mem (s : State) (e : Nat) (f : EngineSet → EngineSet) : (updEset s e f).mem = s.mem := by
  unfold updEset; split <;> rfl
@[simp] theorem updEset_threads (s : State) (e : Nat) (f : EngineSet → EngineSet) : (updEset s e f).threads = s.threads := by
  unfold updEset; split <;> rfl
@[simp] theorem updEset_lastStarted (s : State) (e : Nat) (f : EngineSet → EngineSet) : (updEset s e f).lastStarted = s.lastStarted := by
  unfold updEset; split <;> rfl
@[simp] theorem updEset_cells (s : State) (e : Nat) (f : EngineSet → EngineSet) : (updEset s e f).cells = s.cells := by
  unfold updEset; split <;> rfl
@[simp] theorem updEset_cache (s : State) (e : Nat) (f : EngineSet → EngineSet) : (updEset s e f).cache = s.cache := by
  unfold updEset; split <;> rfl
@[simp] theorem updEset_released (s : State) (e : Nat) (f : EngineSet → EngineSet) : (updEset s e f).released = s.released := by
  unfold updEset; split <;> rfl
@[simp] theorem updEset_ctxs (s : State) (e : Nat) (f : EngineSet → EngineSet) : (updEset s e f).ctxs = s.ctxs := by
  unfold updEset; split <;> rfl
@[simp] theorem updEset_regions (s : State) (e : Nat) (f : EngineSet → EngineSet) : (updEset s e f).regions = s.regions := by
  unfold updEset; split <;> rfl
@[simp] theorem updEset_colls (s : State) (e : Nat) (f : EngineSet → EngineSet) : (updEset s e f).colls = s.colls := by
  unfold updEset; split <;> rfl
@[simp] theorem updEset_parts (s : State) (e : Nat) (f : EngineSet → EngineSet) : (updEset s e f).parts = s.parts := by
  unfold updEset; split <;> rfl
@[simp] theorem updEset_pkg (s : State) (e : Nat) (f : EngineSet → EngineSet) : (updEset s e f).pkg = s.pkg := by
  unfold updEset; split <;> rfl
@[simp] theorem updEset_fl (s : State) (e : Nat) (f : EngineSet → EngineSet) : (updEset s e f).fl = s.fl := by
  unfold updEset; split <;> rfl
@[simp] theorem updEset_platform (s : State) (e : Nat) (f : EngineSet → EngineSet) : (updEset s e f).platform = s.platform := by
  unfold updEset; split <;> rfl
@[simp] theorem updEset_vault (s : State) (e : Nat) (f : EngineSet → EngineSet) : (updEset s e f).vault = s.vault := by
  unfold updEset; split <;> rfl
/-- The entry that updEset names is changed. -/
@[simp] theorem updEset_same (s : State) (e : Nat) (f : EngineSet → EngineSet) :
    aget (updEset s e f).esets e = (aget s.esets e).map f := by
  unfold updEset; split <;> simp [*]
/-- Every other entry stays. -/
theorem updEset_ne (s : State) (e : Nat) (f : EngineSet → EngineSet) {k : Nat} (hk : k ≠ e) :
    aget (updEset s e f).esets k = aget s.esets k := by
  unfold updEset; split
  · exact aget_aset_ne _ _ hk
  · rfl

/-! ### updCtx -/

@[simp] theorem updCtx_cycle (s : State) (a : Nat) (f : Context → Context) : (updCtx s a f).cycle = s.cycle := by
  unfold updCtx; split <;> rfl
@[simp] theorem updCtx_agenda (s : State) (a : Nat) (f : Context → Context) : (updCtx s a f).agenda = s.agenda := by
  unfold updCtx; split <;> rfl
@[simp] theorem updCtx_cur (s : State) (a : Nat) (f : Context → Context) : (updCtx s a f).cur = s.cur := by
  unfold updCtx; split <;> rfl
@[simp] theorem updCtx_nextId (s : State) (a : Nat) (f : Context → Context) : (updCtx s a f).nextId = s.nextId := by
  unfold updCtx; split <;> rfl
@[simp] theorem updCtx_mem (s : State) (a : Nat) (f : Context → Context) : (updCtx s a f).mem = s.mem := by
  unfold updCtx; split <;> rfl
@[simp] theorem updCtx_threads (s : State) (a : Nat) (f : Context → Context) : (updCtx s a f).threads = s.threads := by
  unfold updCtx; split <;> rfl
@[simp] theorem updCtx_lastStarted (s : State) (a : Nat) (f : Context → Context) : (updCtx s a f).lastStarted = s.lastStarted := by
  unfold updCtx; split <;> rfl
@[simp] theorem updCtx_cells (s : State) (a : Nat) (f : Context → Context) : (updCtx s a f).cells = s.cells := by
  unfold updCtx; split <;> rfl
@[simp] theorem updCtx_cache (s : State) (a : Nat) (f : Context → Context) : (updCtx s a f).cache = s.cache := by
  unfold updCtx; split <;> rfl
@[simp] theorem updCtx_released (s : State) (a : Nat) (f : Context → Context) : (updCtx s a f).released = s.released := by
  unfold updCtx; split <;> rfl
@[simp] theorem updCtx_esets (s : State) (a : Nat) (f : Context → Context) : (updCtx s a f).esets = s.esets := by
  unfold updCtx; split <;> rfl
@[simp] theorem updCtx_regions (s : State) (a : Nat) (f : Context → Context) : (updCtx s a f).regions = s.regions := by
  unfold updCtx; split <;> rfl
@[simp] theorem updCtx_colls (s : State) (a : Nat) (f : Context → Context) : (updCtx s a f).colls = s.colls := by
  unfold updCtx; split <;> rfl
@[simp] theorem updCtx_parts (s : State) (a : Nat) (f : Context → Context) : (updCtx s a f).parts = s.parts := by
  unfold updCtx; split <;> rfl
@[simp] theorem updCtx_pkg (s : State) (a : Nat) (f : Context → Context) : (updCtx s a f).pkg = s.pkg := by
  unfold updCtx; split <;> rfl
@[simp] theorem updCtx_fl (s : State) (a : Nat) (f : Context → Context) : (updCtx s a f).fl = s.fl := by
  unfold updCtx; split <;> rfl
@[simp] theorem updCtx_platform (s : State) (a : Nat) (f : Context → Context) : (updCtx s a f).platform = s.platform := by
  unfold updCtx; split <;> rfl
@[simp] theorem updCtx_vault (s : State) (a : Nat) (f : Context → Context) : (updCtx s a f).vault = s.vault := by
  unfold updCtx; split <;> rfl
/-- The entry that updCtx names is changed. -/
@[simp] theorem updCtx_same (s : State) (a : Nat) (f : Context → Context) :
    aget (updCtx s a f).ctxs a = (aget s.ctxs a).map f := by
  unfold updCtx; split <;> simp [*]
/-- Every other entry stays. -/
theorem updCtx_ne (s : State) (a : Nat) (f : Context → Context) {k : Nat} (hk : k ≠ a) :
    aget (updCtx s a f).ctxs k = aget s.ctxs k := by
  unfold updCtx; split
  · exact aget_aset_ne _ _ hk
  · rfl

/-! ### updPart -/

@[simp] theorem updPart_cycle (s : State) (p : Nat) (f : Partition → Partition) : (updPart s p f).cycle = s.cycle := by
  unfold updPart; split <;> rfl
@[simp] theorem updPart_agenda (s : State) (p : Nat) (f : Partition → Partition) : (updPart s p f).agenda = s.agenda := by
  unfold updPart; split <;> rfl
@[simp] theorem updPart_cur (s : State) (p : Nat) (f : Partition → Partition) : (updPart s p f).cur = s.cur := by
  unfold updPart; split <;> rfl
@[simp] theorem updPart_nextId (s : State) (p : Nat) (f : Partition → Partition) : (updPart s p f).nextId = s.nextId := by
  unfold updPart; split <;> rfl
@[simp] theorem updPart_mem (s : State) (p : Nat) (f : Partition → Partition) : (updPart s p f).mem = s.mem := by
  unfold updPart; split <;> rfl
@[simp] theorem updPart_threads (s : State) (p : Nat) (f : Partition → Partition) : (updPart s p f).threads = s.threads := by
  unfold updPart; split <;> rfl
@[simp] theorem updPart_lastStarted (s : State) (p : Nat) (f : Partition → Partition) : (updPart s p f).lastStarted = s.lastStarted := by
  unfold updPart; split <;> rfl
@[simp] theorem updPart_cells (s : State) (p : Nat) (f : Partition → Partition) : (updPart s p f).cells = s.cells := by
  unfold updPart; split <;> rfl
@[simp] theorem updPart_cache (s : State) (p : Nat) (f : Partition → Partition) : (updPart s p f).cache = s.cache := by
  unfold updPart; split <;> rfl
@[simp] theorem updPart_released (s : State) (p : Nat) (f : Partition → Partition) : (updPart s p f).released = s.released := by
  unfold updPart; split <;> rfl
@[simp] theorem updPart_esets (s : State) (p : Nat) (f : Partition → Partition) : (updPart s p f).esets = s.esets := by
  unfold updPart; split <;> rfl
@[simp] theorem updPart_ctxs (s : State) (p : Nat) (f : Partition → Partition) : (updPart s p f).ctxs = s.ctxs := by
  unfold updPart; split <;> rfl
@[simp] theorem updPart_regions (s : State) (p : Nat) (f : Partition → Partition) : (updPart s p f).regions = s.regions := by
  unfold updPart; split <;> rfl
@[simp] theorem updPart_colls (s : State) (p : Nat) (f : Partition → Partition) : (updPart s p f).colls = s.colls := by
  unfold updPart; split <;> rfl
@[simp] theorem updPart_pkg (s : State) (p : Nat) (f : Partition → Partition) : (updPart s p f).pkg = s.pkg := by
  unfold updPart; split <;> rfl
@[simp] theorem updPart_fl (s : State) (p : Nat) (f : Partition → Partition) : (updPart s p f).fl = s.fl := by
  unfold updPart; split <;> rfl
@[simp] theorem updPart_platform (s : State) (p : Nat) (f : Partition → Partition) : (updPart s p f).platform = s.platform := by
  unfold updPart; split <;> rfl
@[simp] theorem updPart_vault (s : State) (p : Nat) (f : Partition → Partition) : (updPart s p f).vault = s.vault := by
  unfold updPart; split <;> rfl
/-- The entry that updPart names is changed. -/
@[simp] theorem updPart_same (s : State) (p : Nat) (f : Partition → Partition) :
    aget (updPart s p f).parts p = (aget s.parts p).map f := by
  unfold updPart; split <;> simp [*]
/-- Every other entry stays. -/
theorem updPart_ne (s : State) (p : Nat) (f : Partition → Partition) {k : Nat} (hk : k ≠ p) :
    aget (updPart s p f).parts k = aget s.parts k := by
  unfold updPart; split
  · exact aget_aset_ne _ _ hk
  · rfl

/-! ### updColl -/

@[simp] theorem updColl_cycle (s : State) (h : Nat) (f : Coll → Coll) : (updColl s h f).cycle = s.cycle := by
  unfold updColl; split <;> rfl
@[simp] theorem updColl_agenda (s : State) (h : Nat) (f : Coll → Coll) : (updColl s h f).agenda = s.agenda := by
  unfold updColl; split <;> rfl
@[simp] theorem updColl_cur (s : State) (h : Nat) (f : Coll → Coll) : (updColl s h f).cur = s.cur := by
  unfold updColl; split <;> rfl
@[simp] theorem updColl_nextId (s : State) (h : Nat) (f : Coll → Coll) : (updColl s h f).nextId = s.nextId := by
  unfold updColl; split <;> rfl
@[simp] theorem updColl_mem (s : State) (h : Nat) (f : Coll → Coll) : (updColl s h f).mem = s.mem := by
  unfold updColl; split <;> rfl
@[simp] theorem updColl_threads (s : State) (h : Nat) (f : Coll → Coll) : (updColl s h f).threads = s.threads := by
  unfold updColl; split <;> rfl
@[simp] theorem updColl_lastStarted (s : State) (h : Nat) (f : Coll → Coll) : (updColl s h f).lastStarted = s.lastStarted := by
  unfold updColl; split <;> rfl
@[simp] theorem updColl_cells (s : State) (h : Nat) (f : Coll → Coll) : (updColl s h f).cells = s.cells := by
  unfold updColl; split <;> rfl
@[simp] theorem updColl_cache (s : State) (h : Nat) (f : Coll → Coll) : (updColl s h f).cache = s.cache := by
  unfold updColl; split <;> rfl
@[simp] theorem updColl_released (s : State) (h : Nat) (f : Coll → Coll) : (updColl s h f).released = s.released := by
  unfold updColl; split <;> rfl
@[simp] theorem updColl_esets (s : State) (h : Nat) (f : Coll → Coll) : (updColl s h f).esets = s.esets := by
  unfold updColl; split <;> rfl
@[simp] theorem updColl_ctxs (s : State) (h : Nat) (f : Coll → Coll) : (updColl s h f).ctxs = s.ctxs := by
  unfold updColl; split <;> rfl
@[simp] theorem updColl_regions (s : State) (h : Nat) (f : Coll → Coll) : (updColl s h f).regions = s.regions := by
  unfold updColl; split <;> rfl
@[simp] theorem updColl_parts (s : State) (h : Nat) (f : Coll → Coll) : (updColl s h f).parts = s.parts := by
  unfold updColl; split <;> rfl
@[simp] theorem updColl_pkg (s : State) (h : Nat) (f : Coll → Coll) : (updColl s h f).pkg = s.pkg := by
  unfold updColl; split <;> rfl
@[simp] theorem updColl_fl (s : State) (h : Nat) (f : Coll → Coll) : (updColl s h f).fl = s.fl := by
  unfold updColl; split <;> rfl
@[simp] theorem updColl_platform (s : State) (h : Nat) (f : Coll → Coll) : (updColl s h f).platform = s.platform := by
  unfold updColl; split <;> rfl
@[simp] theorem updColl_vault (s : State) (h : Nat) (f : Coll → Coll) : (updColl s h f).vault = s.vault := by
  unfold updColl; split <;> rfl
/-- The entry that updColl names is changed. -/
@[simp] theorem updColl_same (s : State) (h : Nat) (f : Coll → Coll) :
    aget (updColl s h f).colls h = (aget s.colls h).map f := by
  unfold updColl; split <;> simp [*]
/-- Every other entry stays. -/
theorem updColl_ne (s : State) (h : Nat) (f : Coll → Coll) {k : Nat} (hk : k ≠ h) :
    aget (updColl s h f).colls k = aget s.colls k := by
  unfold updColl; split
  · exact aget_aset_ne _ _ hk
  · rfl

/-! ### updLaunch -/

@[simp] theorem updLaunch_cycle (s : State) (a id : Nat) (f : Launch → Launch) : (updLaunch s a id f).cycle = s.cycle := by
  simp [updLaunch]
@[simp] theorem updLaunch_agenda (s : State) (a id : Nat) (f : Launch → Launch) : (updLaunch s a id f).agenda = s.agenda := by
  simp [updLaunch]
@[simp] theorem updLaunch_cur (s : State) (a id : Nat) (f : Launch → Launch) : (updLaunch s a id f).cur = s.cur := by
  simp [updLaunch]
@[simp] theorem updLaunch_nextId (s : State) (a id : Nat) (f : Launch → Launch) : (updLaunch s a id f).nextId = s.nextId := by
  simp [updLaunch]
@[simp] theorem updLaunch_mem (s : State) (a id : Nat) (f : Launch → Launch) : (updLaunch s a id f).mem = s.mem := by
  simp [updLaunch]
@[simp] theorem updLaunch_threads (s : State) (a id : Nat) (f : Launch → Launch) : (updLaunch s a id f).threads = s.threads := by
  simp [updLaunch]
@[simp] theorem updLaunch_lastStarted (s : State) (a id : Nat) (f : Launch → Launch) : (updLaunch s a id f).lastStarted = s.lastStarted := by
  simp [updLaunch]
@[simp] theorem updLaunch_cells (s : State) (a id : Nat) (f : Launch → Launch) : (updLaunch s a id f).cells = s.cells := by
  simp [updLaunch]
@[simp] theorem updLaunch_cache (s : State) (a id : Nat) (f : Launch → Launch) : (updLaunch s a id f).cache = s.cache := by
  simp [updLaunch]
@[simp] theorem updLaunch_released (s : State) (a id : Nat) (f : Launch → Launch) : (updLaunch s a id f).released = s.released := by
  simp [updLaunch]
@[simp] theorem updLaunch_esets (s : State) (a id : Nat) (f : Launch → Launch) : (updLaunch s a id f).esets = s.esets := by
  simp [updLaunch]
@[simp] theorem updLaunch_regions (s : State) (a id : Nat) (f : Launch → Launch) : (updLaunch s a id f).regions = s.regions := by
  simp [updLaunch]
@[simp] theorem updLaunch_colls (s : State) (a id : Nat) (f : Launch → Launch) : (updLaunch s a id f).colls = s.colls := by
  simp [updLaunch]
@[simp] theorem updLaunch_parts (s : State) (a id : Nat) (f : Launch → Launch) : (updLaunch s a id f).parts = s.parts := by
  simp [updLaunch]
@[simp] theorem updLaunch_pkg (s : State) (a id : Nat) (f : Launch → Launch) : (updLaunch s a id f).pkg = s.pkg := by
  simp [updLaunch]
@[simp] theorem updLaunch_fl (s : State) (a id : Nat) (f : Launch → Launch) : (updLaunch s a id f).fl = s.fl := by
  simp [updLaunch]
@[simp] theorem updLaunch_platform (s : State) (a id : Nat) (f : Launch → Launch) : (updLaunch s a id f).platform = s.platform := by
  simp [updLaunch]
@[simp] theorem updLaunch_vault (s : State) (a id : Nat) (f : Launch → Launch) : (updLaunch s a id f).vault = s.vault := by
  simp [updLaunch]

/-! ### updNode -/

@[simp] theorem updNode_cycle (s : State) (c n : Nat) (f : Node → Node) : (updNode s c n f).cycle = s.cycle := by
  simp [updNode]
@[simp] theorem updNode_agenda (s : State) (c n : Nat) (f : Node → Node) : (updNode s c n f).agenda = s.agenda := by
  simp [updNode]
@[simp] theorem updNode_cur (s : State) (c n : Nat) (f : Node → Node) : (updNode s c n f).cur = s.cur := by
  simp [updNode]
@[simp] theorem updNode_nextId (s : State) (c n : Nat) (f : Node → Node) : (updNode s c n f).nextId = s.nextId := by
  simp [updNode]
@[simp] theorem updNode_mem (s : State) (c n : Nat) (f : Node → Node) : (updNode s c n f).mem = s.mem := by
  simp [updNode]
@[simp] theorem updNode_threads (s : State) (c n : Nat) (f : Node → Node) : (updNode s c n f).threads = s.threads := by
  simp [updNode]
@[simp] theorem updNode_lastStarted (s : State) (c n : Nat) (f : Node → Node) : (updNode s c n f).lastStarted = s.lastStarted := by
  simp [updNode]
@[simp] theorem updNode_cache (s : State) (c n : Nat) (f : Node → Node) : (updNode s c n f).cache = s.cache := by
  simp [updNode]
@[simp] theorem updNode_released (s : State) (c n : Nat) (f : Node → Node) : (updNode s c n f).released = s.released := by
  simp [updNode]
@[simp] theorem updNode_esets (s : State) (c n : Nat) (f : Node → Node) : (updNode s c n f).esets = s.esets := by
  simp [updNode]
@[simp] theorem updNode_ctxs (s : State) (c n : Nat) (f : Node → Node) : (updNode s c n f).ctxs = s.ctxs := by
  simp [updNode]
@[simp] theorem updNode_regions (s : State) (c n : Nat) (f : Node → Node) : (updNode s c n f).regions = s.regions := by
  simp [updNode]
@[simp] theorem updNode_colls (s : State) (c n : Nat) (f : Node → Node) : (updNode s c n f).colls = s.colls := by
  simp [updNode]
@[simp] theorem updNode_parts (s : State) (c n : Nat) (f : Node → Node) : (updNode s c n f).parts = s.parts := by
  simp [updNode]
@[simp] theorem updNode_pkg (s : State) (c n : Nat) (f : Node → Node) : (updNode s c n f).pkg = s.pkg := by
  simp [updNode]
@[simp] theorem updNode_fl (s : State) (c n : Nat) (f : Node → Node) : (updNode s c n f).fl = s.fl := by
  simp [updNode]
@[simp] theorem updNode_platform (s : State) (c n : Nat) (f : Node → Node) : (updNode s c n f).platform = s.platform := by
  simp [updNode]
@[simp] theorem updNode_vault (s : State) (c n : Nat) (f : Node → Node) : (updNode s c n f).vault = s.vault := by
  simp [updNode]

/-! ### updChan -/

@[simp] theorem updChan_cycle (s : State) (e ch : Nat) (f : Channel → Channel) : (updChan s e ch f).cycle = s.cycle := by
  simp [updChan]
@[simp] theorem updChan_agenda (s : State) (e ch : Nat) (f : Channel → Channel) : (updChan s e ch f).agenda = s.agenda := by
  simp [updChan]
@[simp] theorem updChan_cur (s : State) (e ch : Nat) (f : Channel → Channel) : (updChan s e ch f).cur = s.cur := by
  simp [updChan]
@[simp] theorem updChan_nextId (s : State) (e ch : Nat) (f : Channel → Channel) : (updChan s e ch f).nextId = s.nextId := by
  simp [updChan]
@[simp] theorem updChan_mem (s : State) (e ch : Nat) (f : Channel → Channel) : (updChan s e ch f).mem = s.mem := by
  simp [updChan]
@[simp] theorem updChan_threads (s : State) (e ch : Nat) (f : Channel → Channel) : (updChan s e ch f).threads = s.threads := by
  simp [updChan]
@[simp] theorem updChan_lastStarted (s : State) (e ch : Nat) (f : Channel → Channel) : (updChan s e ch f).lastStarted = s.lastStarted := by
  simp [updChan]
@[simp] theorem updChan_cells (s : State) (e ch : Nat) (f : Channel → Channel) : (updChan s e ch f).cells = s.cells := by
  simp [updChan]
@[simp] theorem updChan_cache (s : State) (e ch : Nat) (f : Channel → Channel) : (updChan s e ch f).cache = s.cache := by
  simp [updChan]
@[simp] theorem updChan_released (s : State) (e ch : Nat) (f : Channel → Channel) : (updChan s e ch f).released = s.released := by
  simp [updChan]
@[simp] theorem updChan_ctxs (s : State) (e ch : Nat) (f : Channel → Channel) : (updChan s e ch f).ctxs = s.ctxs := by
  simp [updChan]
@[simp] theorem updChan_regions (s : State) (e ch : Nat) (f : Channel → Channel) : (updChan s e ch f).regions = s.regions := by
  simp [updChan]
@[simp] theorem updChan_colls (s : State) (e ch : Nat) (f : Channel → Channel) : (updChan s e ch f).colls = s.colls := by
  simp [updChan]
@[simp] theorem updChan_parts (s : State) (e ch : Nat) (f : Channel → Channel) : (updChan s e ch f).parts = s.parts := by
  simp [updChan]
@[simp] theorem updChan_pkg (s : State) (e ch : Nat) (f : Channel → Channel) : (updChan s e ch f).pkg = s.pkg := by
  simp [updChan]
@[simp] theorem updChan_fl (s : State) (e ch : Nat) (f : Channel → Channel) : (updChan s e ch f).fl = s.fl := by
  simp [updChan]
@[simp] theorem updChan_platform (s : State) (e ch : Nat) (f : Channel → Channel) : (updChan s e ch f).platform = s.platform := by
  simp [updChan]
@[simp] theorem updChan_vault (s : State) (e ch : Nat) (f : Channel → Channel) : (updChan s e ch f).vault = s.vault := by
  simp [updChan]

/-! ### updBlock -/

@[simp] theorem updBlock_cycle (s : State) (t : Nat) (f : Block → Block) : (updBlock s t f).cycle = s.cycle := by
  simp [updBlock]
@[simp] theorem updBlock_agenda (s : State) (t : Nat) (f : Block → Block) : (updBlock s t f).agenda = s.agenda := by
  simp [updBlock]
@[simp] theorem updBlock_cur (s : State) (t : Nat) (f : Block → Block) : (updBlock s t f).cur = s.cur := by
  simp [updBlock]
@[simp] theorem updBlock_nextId (s : State) (t : Nat) (f : Block → Block) : (updBlock s t f).nextId = s.nextId := by
  simp [updBlock]
@[simp] theorem updBlock_mem (s : State) (t : Nat) (f : Block → Block) : (updBlock s t f).mem = s.mem := by
  simp [updBlock]
@[simp] theorem updBlock_lastStarted (s : State) (t : Nat) (f : Block → Block) : (updBlock s t f).lastStarted = s.lastStarted := by
  simp [updBlock]
@[simp] theorem updBlock_cells (s : State) (t : Nat) (f : Block → Block) : (updBlock s t f).cells = s.cells := by
  simp [updBlock]
@[simp] theorem updBlock_cache (s : State) (t : Nat) (f : Block → Block) : (updBlock s t f).cache = s.cache := by
  simp [updBlock]
@[simp] theorem updBlock_released (s : State) (t : Nat) (f : Block → Block) : (updBlock s t f).released = s.released := by
  simp [updBlock]
@[simp] theorem updBlock_esets (s : State) (t : Nat) (f : Block → Block) : (updBlock s t f).esets = s.esets := by
  simp [updBlock]
@[simp] theorem updBlock_ctxs (s : State) (t : Nat) (f : Block → Block) : (updBlock s t f).ctxs = s.ctxs := by
  simp [updBlock]
@[simp] theorem updBlock_regions (s : State) (t : Nat) (f : Block → Block) : (updBlock s t f).regions = s.regions := by
  simp [updBlock]
@[simp] theorem updBlock_colls (s : State) (t : Nat) (f : Block → Block) : (updBlock s t f).colls = s.colls := by
  simp [updBlock]
@[simp] theorem updBlock_parts (s : State) (t : Nat) (f : Block → Block) : (updBlock s t f).parts = s.parts := by
  simp [updBlock]
@[simp] theorem updBlock_pkg (s : State) (t : Nat) (f : Block → Block) : (updBlock s t f).pkg = s.pkg := by
  simp [updBlock]
@[simp] theorem updBlock_fl (s : State) (t : Nat) (f : Block → Block) : (updBlock s t f).fl = s.fl := by
  simp [updBlock]
@[simp] theorem updBlock_platform (s : State) (t : Nat) (f : Block → Block) : (updBlock s t f).platform = s.platform := by
  simp [updBlock]
@[simp] theorem updBlock_vault (s : State) (t : Nat) (f : Block → Block) : (updBlock s t f).vault = s.vault := by
  simp [updBlock]

/-! ### putCell -/

@[simp] theorem putCell_cycle (s : State) (c : Nat) (x : Cell) : (putCell s c x).cycle = s.cycle := rfl
@[simp] theorem putCell_agenda (s : State) (c : Nat) (x : Cell) : (putCell s c x).agenda = s.agenda := rfl
@[simp] theorem putCell_cur (s : State) (c : Nat) (x : Cell) : (putCell s c x).cur = s.cur := rfl
@[simp] theorem putCell_nextId (s : State) (c : Nat) (x : Cell) : (putCell s c x).nextId = s.nextId := rfl
@[simp] theorem putCell_mem (s : State) (c : Nat) (x : Cell) : (putCell s c x).mem = s.mem := rfl
@[simp] theorem putCell_threads (s : State) (c : Nat) (x : Cell) : (putCell s c x).threads = s.threads := rfl
@[simp] theorem putCell_lastStarted (s : State) (c : Nat) (x : Cell) : (putCell s c x).lastStarted = s.lastStarted := rfl
@[simp] theorem putCell_cache (s : State) (c : Nat) (x : Cell) : (putCell s c x).cache = s.cache := rfl
@[simp] theorem putCell_released (s : State) (c : Nat) (x : Cell) : (putCell s c x).released = s.released := rfl
@[simp] theorem putCell_esets (s : State) (c : Nat) (x : Cell) : (putCell s c x).esets = s.esets := rfl
@[simp] theorem putCell_ctxs (s : State) (c : Nat) (x : Cell) : (putCell s c x).ctxs = s.ctxs := rfl
@[simp] theorem putCell_regions (s : State) (c : Nat) (x : Cell) : (putCell s c x).regions = s.regions := rfl
@[simp] theorem putCell_colls (s : State) (c : Nat) (x : Cell) : (putCell s c x).colls = s.colls := rfl
@[simp] theorem putCell_parts (s : State) (c : Nat) (x : Cell) : (putCell s c x).parts = s.parts := rfl
@[simp] theorem putCell_pkg (s : State) (c : Nat) (x : Cell) : (putCell s c x).pkg = s.pkg := rfl
@[simp] theorem putCell_fl (s : State) (c : Nat) (x : Cell) : (putCell s c x).fl = s.fl := rfl
@[simp] theorem putCell_platform (s : State) (c : Nat) (x : Cell) : (putCell s c x).platform = s.platform := rfl
@[simp] theorem putCell_vault (s : State) (c : Nat) (x : Cell) : (putCell s c x).vault = s.vault := rfl

/-! ### rawPut -/

@[simp] theorem rawPut_cycle (s : State) (a : Nat) (bs : List Byte) : (rawPut s a bs).cycle = s.cycle := rfl
@[simp] theorem rawPut_agenda (s : State) (a : Nat) (bs : List Byte) : (rawPut s a bs).agenda = s.agenda := rfl
@[simp] theorem rawPut_cur (s : State) (a : Nat) (bs : List Byte) : (rawPut s a bs).cur = s.cur := rfl
@[simp] theorem rawPut_nextId (s : State) (a : Nat) (bs : List Byte) : (rawPut s a bs).nextId = s.nextId := rfl
@[simp] theorem rawPut_threads (s : State) (a : Nat) (bs : List Byte) : (rawPut s a bs).threads = s.threads := rfl
@[simp] theorem rawPut_lastStarted (s : State) (a : Nat) (bs : List Byte) : (rawPut s a bs).lastStarted = s.lastStarted := rfl
@[simp] theorem rawPut_cells (s : State) (a : Nat) (bs : List Byte) : (rawPut s a bs).cells = s.cells := rfl
@[simp] theorem rawPut_cache (s : State) (a : Nat) (bs : List Byte) : (rawPut s a bs).cache = s.cache := rfl
@[simp] theorem rawPut_released (s : State) (a : Nat) (bs : List Byte) : (rawPut s a bs).released = s.released := rfl
@[simp] theorem rawPut_esets (s : State) (a : Nat) (bs : List Byte) : (rawPut s a bs).esets = s.esets := rfl
@[simp] theorem rawPut_ctxs (s : State) (a : Nat) (bs : List Byte) : (rawPut s a bs).ctxs = s.ctxs := rfl
@[simp] theorem rawPut_regions (s : State) (a : Nat) (bs : List Byte) : (rawPut s a bs).regions = s.regions := rfl
@[simp] theorem rawPut_colls (s : State) (a : Nat) (bs : List Byte) : (rawPut s a bs).colls = s.colls := rfl
@[simp] theorem rawPut_parts (s : State) (a : Nat) (bs : List Byte) : (rawPut s a bs).parts = s.parts := rfl
@[simp] theorem rawPut_pkg (s : State) (a : Nat) (bs : List Byte) : (rawPut s a bs).pkg = s.pkg := rfl
@[simp] theorem rawPut_fl (s : State) (a : Nat) (bs : List Byte) : (rawPut s a bs).fl = s.fl := rfl
@[simp] theorem rawPut_platform (s : State) (a : Nat) (bs : List Byte) : (rawPut s a bs).platform = s.platform := rfl
@[simp] theorem rawPut_vault (s : State) (a : Nat) (bs : List Byte) : (rawPut s a bs).vault = s.vault := rfl

/-! ### checkRec and metaError -/

@[simp] theorem checkRec_cycle (s : State) (kind die : Nat) (pa : W) (asid : Nat) : (checkRec s kind die pa asid).cycle = s.cycle := rfl
@[simp] theorem checkRec_agenda (s : State) (kind die : Nat) (pa : W) (asid : Nat) : (checkRec s kind die pa asid).agenda = s.agenda := rfl
@[simp] theorem checkRec_cur (s : State) (kind die : Nat) (pa : W) (asid : Nat) : (checkRec s kind die pa asid).cur = s.cur := rfl
@[simp] theorem checkRec_nextId (s : State) (kind die : Nat) (pa : W) (asid : Nat) : (checkRec s kind die pa asid).nextId = s.nextId := rfl
@[simp] theorem checkRec_threads (s : State) (kind die : Nat) (pa : W) (asid : Nat) : (checkRec s kind die pa asid).threads = s.threads := rfl
@[simp] theorem checkRec_lastStarted (s : State) (kind die : Nat) (pa : W) (asid : Nat) : (checkRec s kind die pa asid).lastStarted = s.lastStarted := rfl
@[simp] theorem checkRec_cells (s : State) (kind die : Nat) (pa : W) (asid : Nat) : (checkRec s kind die pa asid).cells = s.cells := rfl
@[simp] theorem checkRec_cache (s : State) (kind die : Nat) (pa : W) (asid : Nat) : (checkRec s kind die pa asid).cache = s.cache := rfl
@[simp] theorem checkRec_released (s : State) (kind die : Nat) (pa : W) (asid : Nat) : (checkRec s kind die pa asid).released = s.released := rfl
@[simp] theorem checkRec_esets (s : State) (kind die : Nat) (pa : W) (asid : Nat) : (checkRec s kind die pa asid).esets = s.esets := rfl
@[simp] theorem checkRec_ctxs (s : State) (kind die : Nat) (pa : W) (asid : Nat) : (checkRec s kind die pa asid).ctxs = s.ctxs := rfl
@[simp] theorem checkRec_regions (s : State) (kind die : Nat) (pa : W) (asid : Nat) : (checkRec s kind die pa asid).regions = s.regions := rfl
@[simp] theorem checkRec_colls (s : State) (kind die : Nat) (pa : W) (asid : Nat) : (checkRec s kind die pa asid).colls = s.colls := rfl
@[simp] theorem checkRec_parts (s : State) (kind die : Nat) (pa : W) (asid : Nat) : (checkRec s kind die pa asid).parts = s.parts := rfl
@[simp] theorem checkRec_platform (s : State) (kind die : Nat) (pa : W) (asid : Nat) : (checkRec s kind die pa asid).platform = s.platform := rfl
@[simp] theorem checkRec_vault (s : State) (kind die : Nat) (pa : W) (asid : Nat) : (checkRec s kind die pa asid).vault = s.vault := rfl
@[simp] theorem checkRec_mem (s : State) (kind die : Nat) (pa : W) (asid : Nat) : (checkRec s kind die pa asid).mem = s.mem := rfl

@[simp] theorem metaError_cycle (s : State) (asid pts a : Nat) : (metaError s asid pts a).cycle = s.cycle := rfl
@[simp] theorem metaError_agenda (s : State) (asid pts a : Nat) : (metaError s asid pts a).agenda = s.agenda := rfl
@[simp] theorem metaError_cur (s : State) (asid pts a : Nat) : (metaError s asid pts a).cur = s.cur := rfl
@[simp] theorem metaError_nextId (s : State) (asid pts a : Nat) : (metaError s asid pts a).nextId = s.nextId := rfl
@[simp] theorem metaError_threads (s : State) (asid pts a : Nat) : (metaError s asid pts a).threads = s.threads := rfl
@[simp] theorem metaError_lastStarted (s : State) (asid pts a : Nat) : (metaError s asid pts a).lastStarted = s.lastStarted := rfl
@[simp] theorem metaError_cells (s : State) (asid pts a : Nat) : (metaError s asid pts a).cells = s.cells := rfl
@[simp] theorem metaError_cache (s : State) (asid pts a : Nat) : (metaError s asid pts a).cache = s.cache := rfl
@[simp] theorem metaError_released (s : State) (asid pts a : Nat) : (metaError s asid pts a).released = s.released := rfl
@[simp] theorem metaError_esets (s : State) (asid pts a : Nat) : (metaError s asid pts a).esets = s.esets := rfl
@[simp] theorem metaError_ctxs (s : State) (asid pts a : Nat) : (metaError s asid pts a).ctxs = s.ctxs := rfl
@[simp] theorem metaError_regions (s : State) (asid pts a : Nat) : (metaError s asid pts a).regions = s.regions := rfl
@[simp] theorem metaError_colls (s : State) (asid pts a : Nat) : (metaError s asid pts a).colls = s.colls := rfl
@[simp] theorem metaError_parts (s : State) (asid pts a : Nat) : (metaError s asid pts a).parts = s.parts := rfl
@[simp] theorem metaError_platform (s : State) (asid pts a : Nat) : (metaError s asid pts a).platform = s.platform := rfl
@[simp] theorem metaError_vault (s : State) (asid pts a : Nat) : (metaError s asid pts a).vault = s.vault := rfl

/-! ### devPut -/

@[simp] theorem devPut_cycle (s : State) (asid a : Nat) (bs : List Byte) : (devPut s asid a bs).cycle = s.cycle := by unfold devPut; split <;> rfl
@[simp] theorem devPut_agenda (s : State) (asid a : Nat) (bs : List Byte) : (devPut s asid a bs).agenda = s.agenda := by unfold devPut; split <;> rfl
@[simp] theorem devPut_cur (s : State) (asid a : Nat) (bs : List Byte) : (devPut s asid a bs).cur = s.cur := by unfold devPut; split <;> rfl
@[simp] theorem devPut_nextId (s : State) (asid a : Nat) (bs : List Byte) : (devPut s asid a bs).nextId = s.nextId := by unfold devPut; split <;> rfl
@[simp] theorem devPut_threads (s : State) (asid a : Nat) (bs : List Byte) : (devPut s asid a bs).threads = s.threads := by unfold devPut; split <;> rfl
@[simp] theorem devPut_lastStarted (s : State) (asid a : Nat) (bs : List Byte) : (devPut s asid a bs).lastStarted = s.lastStarted := by unfold devPut; split <;> rfl
@[simp] theorem devPut_cells (s : State) (asid a : Nat) (bs : List Byte) : (devPut s asid a bs).cells = s.cells := by unfold devPut; split <;> rfl
@[simp] theorem devPut_cache (s : State) (asid a : Nat) (bs : List Byte) : (devPut s asid a bs).cache = s.cache := by unfold devPut; split <;> rfl
@[simp] theorem devPut_released (s : State) (asid a : Nat) (bs : List Byte) : (devPut s asid a bs).released = s.released := by unfold devPut; split <;> rfl
@[simp] theorem devPut_esets (s : State) (asid a : Nat) (bs : List Byte) : (devPut s asid a bs).esets = s.esets := by unfold devPut; split <;> rfl
@[simp] theorem devPut_ctxs (s : State) (asid a : Nat) (bs : List Byte) : (devPut s asid a bs).ctxs = s.ctxs := by unfold devPut; split <;> rfl
@[simp] theorem devPut_regions (s : State) (asid a : Nat) (bs : List Byte) : (devPut s asid a bs).regions = s.regions := by unfold devPut; split <;> rfl
@[simp] theorem devPut_colls (s : State) (asid a : Nat) (bs : List Byte) : (devPut s asid a bs).colls = s.colls := by unfold devPut; split <;> rfl
@[simp] theorem devPut_parts (s : State) (asid a : Nat) (bs : List Byte) : (devPut s asid a bs).parts = s.parts := by unfold devPut; split <;> rfl
@[simp] theorem devPut_platform (s : State) (asid a : Nat) (bs : List Byte) : (devPut s asid a bs).platform = s.platform := by unfold devPut; split <;> rfl
@[simp] theorem devPut_vault (s : State) (asid a : Nat) (bs : List Byte) : (devPut s asid a bs).vault = s.vault := by unfold devPut; split <;> rfl

/-! ### sendWrite -/

@[simp] theorem sendWrite_cycle (s : State) (w : MbWrite) : (sendWrite s w).cycle = s.cycle := rfl
@[simp] theorem sendWrite_agenda (s : State) (w : MbWrite) : (sendWrite s w).agenda = s.agenda := rfl
@[simp] theorem sendWrite_cur (s : State) (w : MbWrite) : (sendWrite s w).cur = s.cur := rfl
@[simp] theorem sendWrite_nextId (s : State) (w : MbWrite) : (sendWrite s w).nextId = s.nextId := rfl
@[simp] theorem sendWrite_mem (s : State) (w : MbWrite) : (sendWrite s w).mem = s.mem := rfl
@[simp] theorem sendWrite_threads (s : State) (w : MbWrite) : (sendWrite s w).threads = s.threads := rfl
@[simp] theorem sendWrite_lastStarted (s : State) (w : MbWrite) : (sendWrite s w).lastStarted = s.lastStarted := rfl
@[simp] theorem sendWrite_cells (s : State) (w : MbWrite) : (sendWrite s w).cells = s.cells := rfl
@[simp] theorem sendWrite_cache (s : State) (w : MbWrite) : (sendWrite s w).cache = s.cache := rfl
@[simp] theorem sendWrite_released (s : State) (w : MbWrite) : (sendWrite s w).released = s.released := rfl
@[simp] theorem sendWrite_esets (s : State) (w : MbWrite) : (sendWrite s w).esets = s.esets := rfl
@[simp] theorem sendWrite_ctxs (s : State) (w : MbWrite) : (sendWrite s w).ctxs = s.ctxs := rfl
@[simp] theorem sendWrite_regions (s : State) (w : MbWrite) : (sendWrite s w).regions = s.regions := rfl
@[simp] theorem sendWrite_colls (s : State) (w : MbWrite) : (sendWrite s w).colls = s.colls := rfl
@[simp] theorem sendWrite_parts (s : State) (w : MbWrite) : (sendWrite s w).parts = s.parts := rfl
@[simp] theorem sendWrite_pkg (s : State) (w : MbWrite) : (sendWrite s w).pkg = s.pkg := rfl
@[simp] theorem sendWrite_platform (s : State) (w : MbWrite) : (sendWrite s w).platform = s.platform := rfl
@[simp] theorem sendWrite_vault (s : State) (w : MbWrite) : (sendWrite s w).vault = s.vault := rfl

/-! ### poisonUnit -/

@[simp] theorem poisonUnit_cycle (s : State) (pts a : Nat) : (poisonUnit s pts a).cycle = s.cycle := rfl
@[simp] theorem poisonUnit_agenda (s : State) (pts a : Nat) : (poisonUnit s pts a).agenda = s.agenda := rfl
@[simp] theorem poisonUnit_cur (s : State) (pts a : Nat) : (poisonUnit s pts a).cur = s.cur := rfl
@[simp] theorem poisonUnit_nextId (s : State) (pts a : Nat) : (poisonUnit s pts a).nextId = s.nextId := rfl
@[simp] theorem poisonUnit_threads (s : State) (pts a : Nat) : (poisonUnit s pts a).threads = s.threads := rfl
@[simp] theorem poisonUnit_lastStarted (s : State) (pts a : Nat) : (poisonUnit s pts a).lastStarted = s.lastStarted := rfl
@[simp] theorem poisonUnit_cells (s : State) (pts a : Nat) : (poisonUnit s pts a).cells = s.cells := rfl
@[simp] theorem poisonUnit_cache (s : State) (pts a : Nat) : (poisonUnit s pts a).cache = s.cache := rfl
@[simp] theorem poisonUnit_released (s : State) (pts a : Nat) : (poisonUnit s pts a).released = s.released := rfl
@[simp] theorem poisonUnit_esets (s : State) (pts a : Nat) : (poisonUnit s pts a).esets = s.esets := rfl
@[simp] theorem poisonUnit_ctxs (s : State) (pts a : Nat) : (poisonUnit s pts a).ctxs = s.ctxs := rfl
@[simp] theorem poisonUnit_regions (s : State) (pts a : Nat) : (poisonUnit s pts a).regions = s.regions := rfl
@[simp] theorem poisonUnit_colls (s : State) (pts a : Nat) : (poisonUnit s pts a).colls = s.colls := rfl
@[simp] theorem poisonUnit_parts (s : State) (pts a : Nat) : (poisonUnit s pts a).parts = s.parts := rfl
@[simp] theorem poisonUnit_pkg (s : State) (pts a : Nat) : (poisonUnit s pts a).pkg = s.pkg := rfl
@[simp] theorem poisonUnit_fl (s : State) (pts a : Nat) : (poisonUnit s pts a).fl = s.fl := rfl
@[simp] theorem poisonUnit_platform (s : State) (pts a : Nat) : (poisonUnit s pts a).platform = s.platform := rfl
@[simp] theorem poisonUnit_vault (s : State) (pts a : Nat) : (poisonUnit s pts a).vault = s.vault := rfl

/-! ### trackLines -/

@[simp] theorem trackLines_cycle (s : State) (g : Sig) (a n : Nat) : (trackLines s g a n).cycle = s.cycle := rfl
@[simp] theorem trackLines_agenda (s : State) (g : Sig) (a n : Nat) : (trackLines s g a n).agenda = s.agenda := rfl
@[simp] theorem trackLines_cur (s : State) (g : Sig) (a n : Nat) : (trackLines s g a n).cur = s.cur := rfl
@[simp] theorem trackLines_nextId (s : State) (g : Sig) (a n : Nat) : (trackLines s g a n).nextId = s.nextId := rfl
@[simp] theorem trackLines_threads (s : State) (g : Sig) (a n : Nat) : (trackLines s g a n).threads = s.threads := rfl
@[simp] theorem trackLines_lastStarted (s : State) (g : Sig) (a n : Nat) : (trackLines s g a n).lastStarted = s.lastStarted := rfl
@[simp] theorem trackLines_cells (s : State) (g : Sig) (a n : Nat) : (trackLines s g a n).cells = s.cells := rfl
@[simp] theorem trackLines_cache (s : State) (g : Sig) (a n : Nat) : (trackLines s g a n).cache = s.cache := rfl
@[simp] theorem trackLines_released (s : State) (g : Sig) (a n : Nat) : (trackLines s g a n).released = s.released := rfl
@[simp] theorem trackLines_esets (s : State) (g : Sig) (a n : Nat) : (trackLines s g a n).esets = s.esets := rfl
@[simp] theorem trackLines_ctxs (s : State) (g : Sig) (a n : Nat) : (trackLines s g a n).ctxs = s.ctxs := rfl
@[simp] theorem trackLines_regions (s : State) (g : Sig) (a n : Nat) : (trackLines s g a n).regions = s.regions := rfl
@[simp] theorem trackLines_colls (s : State) (g : Sig) (a n : Nat) : (trackLines s g a n).colls = s.colls := rfl
@[simp] theorem trackLines_parts (s : State) (g : Sig) (a n : Nat) : (trackLines s g a n).parts = s.parts := rfl
@[simp] theorem trackLines_pkg (s : State) (g : Sig) (a n : Nat) : (trackLines s g a n).pkg = s.pkg := rfl
@[simp] theorem trackLines_fl (s : State) (g : Sig) (a n : Nat) : (trackLines s g a n).fl = s.fl := rfl
@[simp] theorem trackLines_platform (s : State) (g : Sig) (a n : Nat) : (trackLines s g a n).platform = s.platform := rfl
@[simp] theorem trackLines_vault (s : State) (g : Sig) (a n : Nat) : (trackLines s g a n).vault = s.vault := rfl

/-! ### Memory of the updates -/

/-- The bytes after a raw write. -/
@[simp] theorem rawPut_mem_bytes (s : State) (a : Nat) (bs : List Byte) : (rawPut s a bs).mem.bytes = cellsPut s.mem.bytes a bs := by
  simp [rawPut]
/-- Raw bytes keep the canonical form. -/
theorem rawPut_wf {s : State} (a : Nat) (bs : List Byte) (h : s.mem.wf = true) : (rawPut s a bs).mem.wf = true := by
  simpa [Memory.wf] using cellsWf_cellsPut a bs h
/-- A byte outside the written ones stays. -/
theorem rawPut_byte_out {s : State} {a b : Nat} (bs : List Byte) (h : s.mem.wf = true) (ho : b < a ∨ a + bs.length ≤ b) :
    (rawPut s a bs).mem.byte b = s.mem.byte b := by
  simpa [Memory.byte] using cellsGet_cellsPut_out bs h ho
/-- The written bytes read back. -/
theorem rawPut_bytes {s : State} {a : Nat} (bs : List Byte) (h : s.mem.wf = true) :
    cellsTake (rawPut s a bs).mem.bytes a bs.length = bs := by
  simpa using cellsTake_cellsPut_same bs h
/-- The device's own write changes bytes as a raw write does, or none where its unit's metadata cannot be fetched. -/
theorem devPut_mem_bytes (s : State) (asid a : Nat) (bs : List Byte) :
    (devPut s asid a bs).mem.bytes = if metaFails s a bs.length then s.mem.bytes else cellsPut s.mem.bytes a bs := by
  unfold devPut; split
  · rfl
  · exact rawPut_mem_bytes s a bs
/-- The device's own write keeps the canonical form. -/
theorem devPut_wf {s : State} (asid a : Nat) (bs : List Byte) (h : s.mem.wf = true) : (devPut s asid a bs).mem.wf = true := by
  unfold devPut; split
  · exact h
  · exact rawPut_wf a bs h
@[simp] theorem poisonUnit_bytes (s : State) (pts a : Nat) : (poisonUnit s pts a).mem.bytes = s.mem.bytes := rfl
@[simp] theorem trackLines_bytes (s : State) (g : Sig) (a n : Nat) : (trackLines s g a n).mem.bytes = s.mem.bytes := rfl

/-! ### Reset -/

/-- Memory at reset is in canonical form. -/
theorem reset_mem_wf : State.reset.mem.wf = true := rfl

end Sys2Proof.Machine
end

