-- ==== Sys2Proof/Laws/Firing.lean ====
section
/-! SUPPORT. What the firing of an instruction can do, said once: which machine follows from what its effect answers. -/

namespace Sys2Proof

open Machine

/-- The slot that fires is a slot of the block in flight of its thread. -/
theorem firing_spec {s : State} {q : Firing} (h : firing s = some q) :
    s.cur = (q.t, q.k) ∧ aget s.threads q.t = some q.th ∧ q.th.block = some q.b ∧ q.b.slots[q.k]? = some q.sl := by
  simp only [firing] at h
  split at h
  · cases h
  · rename_i th hth
    split at h
    · cases h
    · rename_i b hb
      split at h
      · rename_i sl hsl
        cases h
        exact ⟨rfl, hth, hb, hsl⟩
      · cases h

/-- Changing the block of the thread that fires. -/
theorem updBlock_firing {s : State} {q : Firing} (h : firing s = some q) (f : Block → Block) :
    updBlock s q.t f = withBlock s q (f q.b) := by
  obtain ⟨-, hth, hb, -⟩ := firing_spec h
  simp [updBlock, updThread, withBlock, hth, hb]

/-- Changing that block in a machine with the same thread. -/
theorem updBlock_same {s u : State} {q : Firing} (h : firing s = some q) (hu : u.threads = s.threads) (f : Block → Block) :
    updBlock u q.t f = withBlock u q (f q.b) := by
  obtain ⟨-, hth, hb, -⟩ := firing_spec h
  simp [updBlock, updThread, withBlock, hu, hth, hb]

/-- An effect that goes on in the machine as it is: its block stands in the thread, and nothing else changes. -/
theorem fire_done {s : State} {i : Instr} {q : Firing} {f : Firing → Fired} {b : Block} (h : Fires s i q) (hf : f q = .done s b) :
    fire s i f = afterFiring s q b := by
  obtain ⟨h, hr, hp⟩ := h
  simp only [fire, h, hr, hp, hf, Bool.not_true]
  exact updBlock_firing h _

/-- An effect that goes on in a machine with the same threads. -/
theorem fire_done_same {s u : State} {i : Instr} {q : Firing} {f : Firing → Fired} {b : Block} (h : Fires s i q)
    (hu : u.threads = s.threads) (hf : f q = .done u b) : fire s i f = afterFiring u q b := by
  obtain ⟨h, hr, hp⟩ := h
  simp only [fire, h, hr, hp, hf, Bool.not_true]
  exact updBlock_same h hu _

/-- An effect that goes on in another machine, as a gate that has ended leaves it. -/
theorem fire_done_gate {s u : State} {i : Instr} {q : Firing} {f : Firing → Fired} {b : Block} (h : Fires s i q)
    (hf : f q = .done u b) : fire s i f = afterGate u q b := by
  obtain ⟨h, hr, hp⟩ := h
  simp [fire, h, hr, hp, hf, afterGate]

/-- An effect that raises a trap. -/
theorem fire_fault {s : State} {i : Instr} {q : Firing} {f : Firing → Fired} {code sub : BitVec 8} {a : W} (h : Fires s i q)
    (hf : f q = .fault s code sub a) : fire s i f = afterFault s q code sub a := by
  obtain ⟨h, hr, hp⟩ := h
  simp only [fire, h, hr, hp, hf, Bool.not_true]
  exact updBlock_firing h _

/-- An effect that raises a trap in a machine with the same threads. -/
theorem fire_fault_same {s u : State} {i : Instr} {q : Firing} {f : Firing → Fired} {code sub : BitVec 8} {a : W} (h : Fires s i q)
    (hu : u.threads = s.threads) (hf : f q = .fault u code sub a) : fire s i f = afterFault u q code sub a := by
  obtain ⟨h, hr, hp⟩ := h
  simp only [fire, h, hr, hp, hf, Bool.not_true]
  exact updBlock_same h hu _

/-- An effect that a gate holds, in a slot that no gate held before. -/
theorem fire_held {s : State} {i : Instr} {q : Firing} {f : Firing → Fired} (h : Fires s i q) (hg : q.sl.phase ≠ .gated)
    (hf : f q = .held) : fire s i f = gates s q := by
  obtain ⟨h, hr, hp⟩ := h
  simp [fire, h, hr, hp, hf, hg, gates]

/-- A slot that a gate holds and that cannot go on stays as it is. -/
theorem fire_held_again {s : State} {i : Instr} {q : Firing} {f : Firing → Fired} (h : Fires s i q) (hg : q.sl.phase = .gated)
    (hf : f q = .held) : fire s i f = s := by
  obtain ⟨h, hr, hp⟩ := h
  simp [fire, h, hr, hp, hf, hg]

/-- Operands that have not arrived: nothing happens (R74). -/
theorem fire_not_ready {s : State} {i : Instr} {q : Firing} (f : Firing → Fired) (h : firing s = some q)
    (hr : portsReady q.sl i = false) : fire s i f = s := by
  simp [fire, h, hr]

/-- The other polarity: the slot is resolved without firing (R74). -/
theorem fire_skipped {s : State} {i : Instr} {q : Firing} (f : Firing → Fired) (h : firing s = some q)
    (hr : portsReady q.sl i = true) (hp : polarity (instrPm i) q.sl.x = false) :
    fire s i f = withBlock s q (settle (q.b.slots.length + 1) (setPhase q.b q.k .skipped)) := by
  simp only [fire, h, hr, hp, Bool.not_true, Bool.not_false]
  exact updBlock_firing h _

/-- Nothing is selected: nothing happens. -/
theorem fire_none {s : State} {i : Instr} (f : Firing → Fired) (h : firing s = none) : fire s i f = s := by
  simp [fire, h]

/-- A two-operand instruction delivers its result. -/
theorem fireLR_delivers {s : State} {i : Instr} {q : Firing} {t v : Target} (f : W → W → W) (h : Fires s i q) :
    fireLR s i t v f = delivers s q t v (f (atL q) (atR q)) := fire_done h rfl

/-- A one-operand instruction delivers its result. -/
theorem fireL_delivers {s : State} {i : Instr} {q : Firing} {t : Target} (f : W → W) (h : Fires s i q) :
    fireL s i t f = delivers1 s q t (f (atL q)) := fire_done h rfl

/-- An instruction that only leaves an effect leaves it. -/
theorem fireEff_leaves {s : State} {i : Instr} {q : Firing} (f : W → W → Eff) (h : Fires s i q) :
    fireEff s i f = leaves s q (f (atL q) (atR q)) := fire_done h rfl

/-! ### Delivering a value (R73, R76, R97) -/

/-- A target of none receives nothing. -/
theorem deliver_none (b : Block) (k : Nat) (t : Target) (v : W) (h : t.port = .none) : deliver b k t v = b := by
  simp [deliver, h]

/-- What a delivery can do: nothing, put the value at an empty port of the target's slot, or raise DECODE for a second value. -/
theorem deliver_cases (b : Block) (k : Nat) (t : Target) (v : W) :
    deliver b k t v = b ∨
    (∃ sl, b.slots[t.slot.toNat]? = some sl ∧ portOf sl t.port = none ∧
      deliver b k t v = { b with slots := b.slots.set t.slot.toNat (putPort sl t.port v) }) ∨
    (∃ sl, b.slots[t.slot.toNat]? = some sl ∧ (portOf sl t.port).isSome = true ∧ deliver b k t v = raise b k cDECODE 0 b.addr) := by
  unfold deliver
  split
  · exact .inl rfl
  · split
    · exact .inl rfl
    · rename_i sl hsl
      split
      · exact .inr (.inr ⟨sl, hsl, by simp [*], rfl⟩)
      · exact .inr (.inl ⟨sl, hsl, by assumption, rfl⟩)

/-! ### Memory of the block's operations -/

/-- Nothing that fires, holds or skips in the machine as it is changes memory. -/
@[simp] theorem withBlock_mem (s : State) (q : Firing) (b : Block) : (withBlock s q b).mem = s.mem := rfl
@[simp] theorem withBlock_cells (s : State) (q : Firing) (b : Block) : (withBlock s q b).cells = s.cells := rfl
@[simp] theorem withBlock_esets (s : State) (q : Firing) (b : Block) : (withBlock s q b).esets = s.esets := rfl
@[simp] theorem withBlock_ctxs (s : State) (q : Firing) (b : Block) : (withBlock s q b).ctxs = s.ctxs := rfl
@[simp] theorem withBlock_pkg (s : State) (q : Firing) (b : Block) : (withBlock s q b).pkg = s.pkg := rfl
@[simp] theorem afterFiring_mem (s : State) (q : Firing) (b : Block) : (afterFiring s q b).mem = s.mem := rfl
@[simp] theorem afterFault_mem (s : State) (q : Firing) (c d : BitVec 8) (a : W) : (afterFault s q c d a).mem = s.mem := rfl

end Sys2Proof
end

