-- ==== Sys2Proof/Laws/PerInstr.lean ====
section
/-! SUPPORT. The families of per-instruction statements. RoundTrip: a well-formed instruction is what the decoder reads from its word
(R72 to R78); a machine step has no word. -/

namespace Sys2Proof

/-- A conjunction of two checks. -/
theorem and2 {a b : Bool} (h : (a && b) = true) : a = true ∧ b = true := by cases a <;> cases b <;> simp_all

/-- A conjunction of three checks. -/
theorem and3 {a b c : Bool} (h : (a && b && c) = true) : a = true ∧ b = true ∧ c = true := by
  cases a <;> cases b <;> cases c <;> simp_all

/-! ### Which scheme decodes a word of an OP (R77) -/

theorem decode_00 {w : Word32} (h : fOp w = 0x00#7) : decode w = decW .add w := by
  delta decode; rw [h]; rfl
theorem decode_01 {w : Word32} (h : fOp w = 0x01#7) : decode w = decW .sub w := by
  delta decode; rw [h]; rfl
theorem decode_02 {w : Word32} (h : fOp w = 0x02#7) : decode w = decW .mul w := by
  delta decode; rw [h]; rfl
theorem decode_03 {w : Word32} (h : fOp w = 0x03#7) : decode w = decSW .mulh w := by
  delta decode; rw [h]; rfl
theorem decode_04 {w : Word32} (h : fOp w = 0x04#7) : decode w = decSW .div w := by
  delta decode; rw [h]; rfl
theorem decode_05 {w : Word32} (h : fOp w = 0x05#7) : decode w = decSW .rem w := by
  delta decode; rw [h]; rfl
theorem decode_06 {w : Word32} (h : fOp w = 0x06#7) : decode w = decW .and w := by
  delta decode; rw [h]; rfl
theorem decode_07 {w : Word32} (h : fOp w = 0x07#7) : decode w = decW .or w := by
  delta decode; rw [h]; rfl
theorem decode_08 {w : Word32} (h : fOp w = 0x08#7) : decode w = decW .xor w := by
  delta decode; rw [h]; rfl
theorem decode_09 {w : Word32} (h : fOp w = 0x09#7) : decode w = decW .shl w := by
  delta decode; rw [h]; rfl
theorem decode_0a {w : Word32} (h : fOp w = 0x0a#7) : decode w = decSW .shr w := by
  delta decode; rw [h]; rfl
theorem decode_0b {w : Word32} (h : fOp w = 0x0b#7) : decode w = decW .sra w := by
  delta decode; rw [h]; rfl
theorem decode_0c {w : Word32} (h : fOp w = 0x0c#7) : decode w = decSW .min w := by
  delta decode; rw [h]; rfl
theorem decode_0d {w : Word32} (h : fOp w = 0x0d#7) : decode w = decSW .max w := by
  delta decode; rw [h]; rfl
theorem decode_0e {w : Word32} (h : fOp w = 0x0e#7) : decode w = decTT .ext w := by
  delta decode; rw [h]; rfl
theorem decode_0f {w : Word32} (h : fOp w = 0x0f#7) : decode w = decThree .ins w := by
  delta decode; rw [h]; rfl
theorem decode_10 {w : Word32} (h : fOp w = 0x10#7) : decode w = decI .addi w := by
  delta decode; rw [h]; rfl
theorem decode_11 {w : Word32} (h : fOp w = 0x11#7) : decode w = decI .muli w := by
  delta decode; rw [h]; rfl
theorem decode_12 {w : Word32} (h : fOp w = 0x12#7) : decode w = decI .andi w := by
  delta decode; rw [h]; rfl
theorem decode_13 {w : Word32} (h : fOp w = 0x13#7) : decode w = decI .ori w := by
  delta decode; rw [h]; rfl
theorem decode_14 {w : Word32} (h : fOp w = 0x14#7) : decode w = decI .xori w := by
  delta decode; rw [h]; rfl
theorem decode_15 {w : Word32} (h : fOp w = 0x15#7) : decode w = decShift .shli w := by
  delta decode; rw [h]; rfl
theorem decode_16 {w : Word32} (h : fOp w = 0x16#7) : decode w = decShift .shri w := by
  delta decode; rw [h]; rfl
theorem decode_17 {w : Word32} (h : fOp w = 0x17#7) : decode w = decShift .srai w := by
  delta decode; rw [h]; rfl
theorem decode_18 {w : Word32} (h : fOp w = 0x18#7) : decode w = decI .movi w := by
  delta decode; rw [h]; rfl
theorem decode_19 {w : Word32} (h : fOp w = 0x19#7) : decode w = decI .movhi w := by
  delta decode; rw [h]; rfl
theorem decode_1a {w : Word32} (h : fOp w = 0x1a#7) : decode w = decTT .tag w := by
  delta decode; rw [h]; rfl
theorem decode_1b {w : Word32} (h : fOp w = 0x1b#7) : decode w = decLea .lea w := by
  delta decode; rw [h]; rfl
theorem decode_1c {w : Word32} (h : fOp w = 0x1c#7) : decode w = decW .clz w := by
  delta decode; rw [h]; rfl
theorem decode_1d {w : Word32} (h : fOp w = 0x1d#7) : decode w = decW .popc w := by
  delta decode; rw [h]; rfl
theorem decode_1e {w : Word32} (h : fOp w = 0x1e#7) : decode w = decTT .mov w := by
  delta decode; rw [h]; rfl
theorem decode_20 {w : Word32} (h : fOp w = 0x20#7) : decode w = decW .cmpeq w := by
  delta decode; rw [h]; rfl
theorem decode_21 {w : Word32} (h : fOp w = 0x21#7) : decode w = decW .cmpne w := by
  delta decode; rw [h]; rfl
theorem decode_22 {w : Word32} (h : fOp w = 0x22#7) : decode w = decSW .cmplt w := by
  delta decode; rw [h]; rfl
theorem decode_23 {w : Word32} (h : fOp w = 0x23#7) : decode w = decSW .cmple w := by
  delta decode; rw [h]; rfl
theorem decode_24 {w : Word32} (h : fOp w = 0x24#7) : decode w = decI .cmpeqi w := by
  delta decode; rw [h]; rfl
theorem decode_25 {w : Word32} (h : fOp w = 0x25#7) : decode w = decI .cmpnei w := by
  delta decode; rw [h]; rfl
theorem decode_26 {w : Word32} (h : fOp w = 0x26#7) : decode w = decI .cmplti w := by
  delta decode; rw [h]; rfl
theorem decode_27 {w : Word32} (h : fOp w = 0x27#7) : decode w = decI .cmplei w := by
  delta decode; rw [h]; rfl
theorem decode_28 {w : Word32} (h : fOp w = 0x28#7) : decode w = decTT .pand w := by
  delta decode; rw [h]; rfl
theorem decode_29 {w : Word32} (h : fOp w = 0x29#7) : decode w = decTT .por w := by
  delta decode; rw [h]; rfl
theorem decode_2a {w : Word32} (h : fOp w = 0x2a#7) : decode w = decTT .pnot w := by
  delta decode; rw [h]; rfl
theorem decode_2b {w : Word32} (h : fOp w = 0x2b#7) : decode w = decThree .sel w := by
  delta decode; rw [h]; rfl
theorem decode_2c {w : Word32} (h : fOp w = 0x2c#7) : decode w = decW .tst w := by
  delta decode; rw [h]; rfl
theorem decode_30 {w : Word32} (h : fOp w = 0x30#7) : decode w = decGR .grd w := by
  delta decode; rw [h]; rfl
theorem decode_31 {w : Word32} (h : fOp w = 0x31#7) : decode w = decGW .gwr w := by
  delta decode; rw [h]; rfl
theorem decode_32 {w : Word32} (h : fOp w = 0x32#7) : decode w = decMR .mrd w := by
  delta decode; rw [h]; rfl
theorem decode_33 {w : Word32} (h : fOp w = 0x33#7) : decode w = decMW .mwr w := by
  delta decode; rw [h]; rfl
theorem decode_34 {w : Word32} (h : fOp w = 0x34#7) : decode w = decMWait .mwait w := by
  delta decode; rw [h]; rfl
theorem decode_35 {w : Word32} (h : fOp w = 0x35#7) : decode w = decMR .mfull w := by
  delta decode; rw [h]; rfl
theorem decode_38 {w : Word32} (h : fOp w = 0x38#7) : decode w = decB .br w := by
  delta decode; rw [h]; rfl
theorem decode_39 {w : Word32} (h : fOp w = 0x39#7) : decode w = decB0 .brx w := by
  delta decode; rw [h]; rfl
theorem decode_3a {w : Word32} (h : fOp w = 0x3a#7) : decode w = decB .call w := by
  delta decode; rw [h]; rfl
theorem decode_3b {w : Word32} (h : fOp w = 0x3b#7) : decode w = decB0 .callx w := by
  delta decode; rw [h]; rfl
theorem decode_3c {w : Word32} (h : fOp w = 0x3c#7) : decode w = decB0 .ret w := by
  delta decode; rw [h]; rfl
theorem decode_3d {w : Word32} (h : fOp w = 0x3d#7) : decode w = decB0 .stop w := by
  delta decode; rw [h]; rfl
theorem decode_40 {w : Word32} (h : fOp w = 0x40#7) : decode w = decM .ld8 w := by
  delta decode; rw [h]; rfl
theorem decode_41 {w : Word32} (h : fOp w = 0x41#7) : decode w = decM .ld16 w := by
  delta decode; rw [h]; rfl
theorem decode_42 {w : Word32} (h : fOp w = 0x42#7) : decode w = decM .ld32 w := by
  delta decode; rw [h]; rfl
theorem decode_43 {w : Word32} (h : fOp w = 0x43#7) : decode w = decM .ld64 w := by
  delta decode; rw [h]; rfl
theorem decode_44 {w : Word32} (h : fOp w = 0x44#7) : decode w = decM .lds8 w := by
  delta decode; rw [h]; rfl
theorem decode_45 {w : Word32} (h : fOp w = 0x45#7) : decode w = decM .lds16 w := by
  delta decode; rw [h]; rfl
theorem decode_46 {w : Word32} (h : fOp w = 0x46#7) : decode w = decM .lds32 w := by
  delta decode; rw [h]; rfl
theorem decode_48 {w : Word32} (h : fOp w = 0x48#7) : decode w = decSt .st8 w := by
  delta decode; rw [h]; rfl
theorem decode_49 {w : Word32} (h : fOp w = 0x49#7) : decode w = decSt .st16 w := by
  delta decode; rw [h]; rfl
theorem decode_4a {w : Word32} (h : fOp w = 0x4a#7) : decode w = decSt .st32 w := by
  delta decode; rw [h]; rfl
theorem decode_4b {w : Word32} (h : fOp w = 0x4b#7) : decode w = decSt .st64 w := by
  delta decode; rw [h]; rfl
theorem decode_50 {w : Word32} (h : fOp w = 0x50#7) : decode w = decM .aadd w := by
  delta decode; rw [h]; rfl
theorem decode_51 {w : Word32} (h : fOp w = 0x51#7) : decode w = decM .aand w := by
  delta decode; rw [h]; rfl
theorem decode_52 {w : Word32} (h : fOp w = 0x52#7) : decode w = decM .aor w := by
  delta decode; rw [h]; rfl
theorem decode_53 {w : Word32} (h : fOp w = 0x53#7) : decode w = decM .axor w := by
  delta decode; rw [h]; rfl
theorem decode_54 {w : Word32} (h : fOp w = 0x54#7) : decode w = decM .amin w := by
  delta decode; rw [h]; rfl
theorem decode_55 {w : Word32} (h : fOp w = 0x55#7) : decode w = decM .amax w := by
  delta decode; rw [h]; rfl
theorem decode_56 {w : Word32} (h : fOp w = 0x56#7) : decode w = decM .aswp w := by
  delta decode; rw [h]; rfl
theorem decode_57 {w : Word32} (h : fOp w = 0x57#7) : decode w = decCas .acas w := by
  delta decode; rw [h]; rfl
theorem decode_58 {w : Word32} (h : fOp w = 0x58#7) : decode w = decXop0 .cfg w := by
  delta decode; rw [h]; rfl
theorem decode_59 {w : Word32} (h : fOp w = 0x59#7) : decode w = decXop0 .strm w := by
  delta decode; rw [h]; rfl
theorem decode_5b {w : Word32} (h : fOp w = 0x5b#7) : decode w = decXop0 .tmpl w := by
  delta decode; rw [h]; rfl
theorem decode_5d {w : Word32} (h : fOp w = 0x5d#7) : decode w = decXop0 .pub w := by
  delta decode; rw [h]; rfl
theorem decode_5f {w : Word32} (h : fOp w = 0x5f#7) : decode w = decTT .waitc w := by
  delta decode; rw [h]; rfl
theorem decode_60 {w : Word32} (h : fOp w = 0x60#7) : decode w = decTT .waite w := by
  delta decode; rw [h]; rfl
theorem decode_68 {w : Word32} (h : fOp w = 0x68#7) : decode w = decQueue .launch w := by
  delta decode; rw [h]; rfl
theorem decode_69 {w : Word32} (h : fOp w = 0x69#7) : decode w = decXop0 .shape w := by
  delta decode; rw [h]; rfl
theorem decode_6a {w : Word32} (h : fOp w = 0x6a#7) : decode w = decTT .take w := by
  delta decode; rw [h]; rfl
theorem decode_6b {w : Word32} (h : fOp w = 0x6b#7) : decode w = decXop0 .steal w := by
  delta decode; rw [h]; rfl
theorem decode_6c {w : Word32} (h : fOp w = 0x6c#7) : decode w = decXop0 .yield w := by
  delta decode; rw [h]; rfl
theorem decode_6d {w : Word32} (h : fOp w = 0x6d#7) : decode w = decXop0 .cptag w := by
  delta decode; rw [h]; rfl
theorem decode_6e {w : Word32} (h : fOp w = 0x6e#7) : decode w = decXop0 .cpmark w := by
  delta decode; rw [h]; rfl
theorem decode_70 {w : Word32} (h : fOp w = 0x70#7) : decode w = decMsg .msend w := by
  delta decode; rw [h]; rfl
theorem decode_71 {w : Word32} (h : fOp w = 0x71#7) : decode w = decMsg .msendw w := by
  delta decode; rw [h]; rfl
theorem decode_72 {w : Word32} (h : fOp w = 0x72#7) : decode w = decMsg .mbcast w := by
  delta decode; rw [h]; rfl
theorem decode_78 {w : Word32} (h : fOp w = 0x78#7) : decode w = decSysR .sysrd w := by
  delta decode; rw [h]; rfl
theorem decode_79 {w : Word32} (h : fOp w = 0x79#7) : decode w = decSysW .syswr w := by
  delta decode; rw [h]; rfl
theorem decode_7a {w : Word32} (h : fOp w = 0x7a#7) : decode w = decB0 .tret w := by
  delta decode; rw [h]; rfl
theorem decode_7c {w : Word32} (h : fOp w = 0x7c#7) : decode w = decXop0 .ctxsave w := by
  delta decode; rw [h]; rfl
theorem decode_7d {w : Word32} (h : fOp w = 0x7d#7) : decode w = decXop0 .ctxload w := by
  delta decode; rw [h]; rfl
theorem decode_7e {w : Word32} (h : fOp w = 0x7e#7) : decode w = decImm .trap w := by
  delta decode; rw [h]; rfl
theorem decode_5a_0 {w : Word32} (h : fOp w = 0x5a#7) (hx : fXop w = 0#5) : decode w = decNoT .drainCell w := by
  delta decode; rw [h, hx]; rfl
theorem decode_5a_1 {w : Word32} (h : fOp w = 0x5a#7) (hx : fXop w = 1#5) : decode w = decNoT .drainAll w := by
  delta decode; rw [h, hx]; rfl
theorem decode_5c_0 {w : Word32} (h : fOp w = 0x5c#7) (hx : fXop w = 0#5) : decode w = decNoT .evxTerm w := by
  delta decode; rw [h, hx]; rfl
theorem decode_5c_1 {w : Word32} (h : fOp w = 0x5c#7) (hx : fXop w = 1#5) : decode w = decNoT .evxCnt w := by
  delta decode; rw [h, hx]; rfl
theorem decode_5c_2 {w : Word32} (h : fOp w = 0x5c#7) (hx : fXop w = 2#5) : decode w = decNoT .evxTgt w := by
  delta decode; rw [h, hx]; rfl
theorem decode_5c_3 {w : Word32} (h : fOp w = 0x5c#7) (hx : fXop w = 3#5) : decode w = decNoT .evxPulse w := by
  delta decode; rw [h, hx]; rfl
theorem decode_5e_0 {w : Word32} (h : fOp w = 0x5e#7) (hx : fXop w = 0#5) : decode w = decNoT .collStart w := by
  delta decode; rw [h, hx]; rfl
theorem decode_5e_1 {w : Word32} (h : fOp w = 0x5e#7) (hx : fXop w = 1#5) : decode w = decNoT .collWait w := by
  delta decode; rw [h, hx]; rfl
theorem decode_5e_2 {w : Word32} (h : fOp w = 0x5e#7) (hx : fXop w = 2#5) : decode w = decNoT .collEnd w := by
  delta decode; rw [h, hx]; rfl
theorem decode_7b_0 {w : Word32} (h : fOp w = 0x7b#7) (hx : fXop w = 0#5) : decode w = decNoT .tlbiAddr w := by
  delta decode; rw [h, hx]; rfl
theorem decode_7b_1 {w : Word32} (h : fOp w = 0x7b#7) (hx : fXop w = 1#5) : decode w = decNoT .tlbiAsid w := by
  delta decode; rw [h, hx]; rfl
theorem decode_7b_2 {w : Word32} (h : fOp w = 0x7b#7) (hx : fXop w = 2#5) : decode w = decNoT .tlbiAll w := by
  delta decode; rw [h, hx]; rfl

namespace Laws

/-- The family: decoding the word of a well-formed instruction gives the instruction. -/
def RoundTrip.Statement (i : Instr) : Prop := ∀ w, WellFormed i = true → encode i = some w → decode w = .ok i

theorem RoundTrip.add {v t w p} : RoundTrip.Statement (.add v t w p) := by
  intro x hw he; cases he
  obtain ⟨hv, ht, hp⟩ := and3 hw
  exact (decode_00 (fOp_encG ..)).trans (decW_enc hv ht hp)
theorem RoundTrip.sub {v t w p} : RoundTrip.Statement (.sub v t w p) := by
  intro x hw he; cases he
  obtain ⟨hv, ht, hp⟩ := and3 hw
  exact (decode_01 (fOp_encG ..)).trans (decW_enc hv ht hp)
theorem RoundTrip.mul {v t w p} : RoundTrip.Statement (.mul v t w p) := by
  intro x hw he; cases he
  obtain ⟨hv, ht, hp⟩ := and3 hw
  exact (decode_02 (fOp_encG ..)).trans (decW_enc hv ht hp)
theorem RoundTrip.mulh {v t s w p} : RoundTrip.Statement (.mulh v t s w p) := by
  intro x hw he; cases he
  obtain ⟨hv, ht, hp⟩ := and3 hw
  exact (decode_03 (fOp_encG ..)).trans (decSW_enc hv ht hp)
theorem RoundTrip.div {v t s w p} : RoundTrip.Statement (.div v t s w p) := by
  intro x hw he; cases he
  obtain ⟨hv, ht, hp⟩ := and3 hw
  exact (decode_04 (fOp_encG ..)).trans (decSW_enc hv ht hp)
theorem RoundTrip.rem {v t s w p} : RoundTrip.Statement (.rem v t s w p) := by
  intro x hw he; cases he
  obtain ⟨hv, ht, hp⟩ := and3 hw
  exact (decode_05 (fOp_encG ..)).trans (decSW_enc hv ht hp)
theorem RoundTrip.and {v t w p} : RoundTrip.Statement (.and v t w p) := by
  intro x hw he; cases he
  obtain ⟨hv, ht, hp⟩ := and3 hw
  exact (decode_06 (fOp_encG ..)).trans (decW_enc hv ht hp)
theorem RoundTrip.or {v t w p} : RoundTrip.Statement (.or v t w p) := by
  intro x hw he; cases he
  obtain ⟨hv, ht, hp⟩ := and3 hw
  exact (decode_07 (fOp_encG ..)).trans (decW_enc hv ht hp)
theorem RoundTrip.xor {v t w p} : RoundTrip.Statement (.xor v t w p) := by
  intro x hw he; cases he
  obtain ⟨hv, ht, hp⟩ := and3 hw
  exact (decode_08 (fOp_encG ..)).trans (decW_enc hv ht hp)
theorem RoundTrip.shl {v t w p} : RoundTrip.Statement (.shl v t w p) := by
  intro x hw he; cases he
  obtain ⟨hv, ht, hp⟩ := and3 hw
  exact (decode_09 (fOp_encG ..)).trans (decW_enc hv ht hp)
theorem RoundTrip.shr {v t s w p} : RoundTrip.Statement (.shr v t s w p) := by
  intro x hw he; cases he
  obtain ⟨hv, ht, hp⟩ := and3 hw
  exact (decode_0a (fOp_encG ..)).trans (decSW_enc hv ht hp)
theorem RoundTrip.sra {v t w p} : RoundTrip.Statement (.sra v t w p) := by
  intro x hw he; cases he
  obtain ⟨hv, ht, hp⟩ := and3 hw
  exact (decode_0b (fOp_encG ..)).trans (decW_enc hv ht hp)
theorem RoundTrip.min {v t s w p} : RoundTrip.Statement (.min v t s w p) := by
  intro x hw he; cases he
  obtain ⟨hv, ht, hp⟩ := and3 hw
  exact (decode_0c (fOp_encG ..)).trans (decSW_enc hv ht hp)
theorem RoundTrip.max {v t s w p} : RoundTrip.Statement (.max v t s w p) := by
  intro x hw he; cases he
  obtain ⟨hv, ht, hp⟩ := and3 hw
  exact (decode_0d (fOp_encG ..)).trans (decSW_enc hv ht hp)
theorem RoundTrip.ext {v t p} : RoundTrip.Statement (.ext v t p) := by
  intro x hw he; cases he
  obtain ⟨hv, ht, hp⟩ := and3 hw
  exact (decode_0e (fOp_encG ..)).trans (decTT_enc hv ht hp)
theorem RoundTrip.ins {v t} : RoundTrip.Statement (.ins v t) := by
  intro x hw he; cases he
  obtain ⟨hv, ht⟩ := and2 hw
  exact (decode_0f (fOp_encG ..)).trans (decThree_enc hv ht)
theorem RoundTrip.addi {t i p} : RoundTrip.Statement (.addi t i p) := by
  intro x hw he; cases he
  obtain ⟨ht, hp⟩ := and2 hw
  exact (decode_10 (fOp_encI ..)).trans (decI_enc ht hp)
theorem RoundTrip.muli {t i p} : RoundTrip.Statement (.muli t i p) := by
  intro x hw he; cases he
  obtain ⟨ht, hp⟩ := and2 hw
  exact (decode_11 (fOp_encI ..)).trans (decI_enc ht hp)
theorem RoundTrip.andi {t i p} : RoundTrip.Statement (.andi t i p) := by
  intro x hw he; cases he
  obtain ⟨ht, hp⟩ := and2 hw
  exact (decode_12 (fOp_encI ..)).trans (decI_enc ht hp)
theorem RoundTrip.ori {t i p} : RoundTrip.Statement (.ori t i p) := by
  intro x hw he; cases he
  obtain ⟨ht, hp⟩ := and2 hw
  exact (decode_13 (fOp_encI ..)).trans (decI_enc ht hp)
theorem RoundTrip.xori {t i p} : RoundTrip.Statement (.xori t i p) := by
  intro x hw he; cases he
  obtain ⟨ht, hp⟩ := and2 hw
  exact (decode_14 (fOp_encI ..)).trans (decI_enc ht hp)
theorem RoundTrip.shli {t i p} : RoundTrip.Statement (.shli t i p) := by
  intro x hw he; cases he
  obtain ⟨ht, hp, hi⟩ := and3 hw
  exact (decode_15 (fOp_encI ..)).trans (decShift_enc ht hp hi)
theorem RoundTrip.shri {t i p} : RoundTrip.Statement (.shri t i p) := by
  intro x hw he; cases he
  obtain ⟨ht, hp, hi⟩ := and3 hw
  exact (decode_16 (fOp_encI ..)).trans (decShift_enc ht hp hi)
theorem RoundTrip.srai {t i p} : RoundTrip.Statement (.srai t i p) := by
  intro x hw he; cases he
  obtain ⟨ht, hp, hi⟩ := and3 hw
  exact (decode_17 (fOp_encI ..)).trans (decShift_enc ht hp hi)
theorem RoundTrip.movi {t i p} : RoundTrip.Statement (.movi t i p) := by
  intro x hw he; cases he
  obtain ⟨ht, hp⟩ := and2 hw
  exact (decode_18 (fOp_encI ..)).trans (decI_enc ht hp)
theorem RoundTrip.movhi {t i p} : RoundTrip.Statement (.movhi t i p) := by
  intro x hw he; cases he
  obtain ⟨ht, hp⟩ := and2 hw
  exact (decode_19 (fOp_encI ..)).trans (decI_enc ht hp)
theorem RoundTrip.tag {v t p} : RoundTrip.Statement (.tag v t p) := by
  intro x hw he; cases he
  obtain ⟨hv, ht, hp⟩ := and3 hw
  exact (decode_1a (fOp_encG ..)).trans (decTT_enc hv ht hp)
theorem RoundTrip.lea {v t s p} : RoundTrip.Statement (.lea v t s p) := by
  intro x hw he; cases he
  obtain ⟨hv, ht, hp⟩ := and3 hw
  exact (decode_1b (fOp_encG ..)).trans (decLea_enc hv ht hp)
theorem RoundTrip.clz {v t w p} : RoundTrip.Statement (.clz v t w p) := by
  intro x hw he; cases he
  obtain ⟨hv, ht, hp⟩ := and3 hw
  exact (decode_1c (fOp_encG ..)).trans (decW_enc hv ht hp)
theorem RoundTrip.popc {v t w p} : RoundTrip.Statement (.popc v t w p) := by
  intro x hw he; cases he
  obtain ⟨hv, ht, hp⟩ := and3 hw
  exact (decode_1d (fOp_encG ..)).trans (decW_enc hv ht hp)
theorem RoundTrip.mov {v t p} : RoundTrip.Statement (.mov v t p) := by
  intro x hw he; cases he
  obtain ⟨hv, ht, hp⟩ := and3 hw
  exact (decode_1e (fOp_encG ..)).trans (decTT_enc hv ht hp)
theorem RoundTrip.cmpeq {v t w p} : RoundTrip.Statement (.cmpeq v t w p) := by
  intro x hw he; cases he
  obtain ⟨hv, ht, hp⟩ := and3 hw
  exact (decode_20 (fOp_encG ..)).trans (decW_enc hv ht hp)
theorem RoundTrip.cmpne {v t w p} : RoundTrip.Statement (.cmpne v t w p) := by
  intro x hw he; cases he
  obtain ⟨hv, ht, hp⟩ := and3 hw
  exact (decode_21 (fOp_encG ..)).trans (decW_enc hv ht hp)
theorem RoundTrip.cmplt {v t s w p} : RoundTrip.Statement (.cmplt v t s w p) := by
  intro x hw he; cases he
  obtain ⟨hv, ht, hp⟩ := and3 hw
  exact (decode_22 (fOp_encG ..)).trans (decSW_enc hv ht hp)
theorem RoundTrip.cmple {v t s w p} : RoundTrip.Statement (.cmple v t s w p) := by
  intro x hw he; cases he
  obtain ⟨hv, ht, hp⟩ := and3 hw
  exact (decode_23 (fOp_encG ..)).trans (decSW_enc hv ht hp)
theorem RoundTrip.cmpeqi {t i p} : RoundTrip.Statement (.cmpeqi t i p) := by
  intro x hw he; cases he
  obtain ⟨ht, hp⟩ := and2 hw
  exact (decode_24 (fOp_encI ..)).trans (decI_enc ht hp)
theorem RoundTrip.cmpnei {t i p} : RoundTrip.Statement (.cmpnei t i p) := by
  intro x hw he; cases he
  obtain ⟨ht, hp⟩ := and2 hw
  exact (decode_25 (fOp_encI ..)).trans (decI_enc ht hp)
theorem RoundTrip.cmplti {t i p} : RoundTrip.Statement (.cmplti t i p) := by
  intro x hw he; cases he
  obtain ⟨ht, hp⟩ := and2 hw
  exact (decode_26 (fOp_encI ..)).trans (decI_enc ht hp)
theorem RoundTrip.cmplei {t i p} : RoundTrip.Statement (.cmplei t i p) := by
  intro x hw he; cases he
  obtain ⟨ht, hp⟩ := and2 hw
  exact (decode_27 (fOp_encI ..)).trans (decI_enc ht hp)
theorem RoundTrip.pand {v t p} : RoundTrip.Statement (.pand v t p) := by
  intro x hw he; cases he
  obtain ⟨hv, ht, hp⟩ := and3 hw
  exact (decode_28 (fOp_encG ..)).trans (decTT_enc hv ht hp)
theorem RoundTrip.por {v t p} : RoundTrip.Statement (.por v t p) := by
  intro x hw he; cases he
  obtain ⟨hv, ht, hp⟩ := and3 hw
  exact (decode_29 (fOp_encG ..)).trans (decTT_enc hv ht hp)
theorem RoundTrip.pnot {v t p} : RoundTrip.Statement (.pnot v t p) := by
  intro x hw he; cases he
  obtain ⟨hv, ht, hp⟩ := and3 hw
  exact (decode_2a (fOp_encG ..)).trans (decTT_enc hv ht hp)
theorem RoundTrip.sel {v t} : RoundTrip.Statement (.sel v t) := by
  intro x hw he; cases he
  obtain ⟨hv, ht⟩ := and2 hw
  exact (decode_2b (fOp_encG ..)).trans (decThree_enc hv ht)
theorem RoundTrip.tst {v t w p} : RoundTrip.Statement (.tst v t w p) := by
  intro x hw he; cases he
  obtain ⟨hv, ht, hp⟩ := and3 hw
  exact (decode_2c (fOp_encG ..)).trans (decW_enc hv ht hp)
theorem RoundTrip.grd {t n p} : RoundTrip.Statement (.grd t n p) := by
  intro x hw he; cases he
  obtain ⟨ht, hp⟩ := and2 hw
  exact (decode_30 (fOp_encS ..)).trans (decGR_enc ht hp)
theorem RoundTrip.gwr {n p} : RoundTrip.Statement (.gwr n p) := by
  intro x hp he; cases he
  exact (decode_31 (fOp_encS ..)).trans (decGW_enc hp)
theorem RoundTrip.mrd {t n p} : RoundTrip.Statement (.mrd t n p) := by
  intro x hw he; cases he
  obtain ⟨ht, hp⟩ := and2 hw
  exact (decode_32 (fOp_encS ..)).trans (decMR_enc ht hp)
theorem RoundTrip.mwr {n p} : RoundTrip.Statement (.mwr n p) := by
  intro x hp he; cases he
  exact (decode_33 (fOp_encS ..)).trans (decMW_enc hp)
theorem RoundTrip.mwait {t n} : RoundTrip.Statement (.mwait t n) := by
  intro x ht he; cases he
  exact (decode_34 (fOp_encS ..)).trans (decMWait_enc ht)
theorem RoundTrip.mfull {t n p} : RoundTrip.Statement (.mfull t n p) := by
  intro x hw he; cases he
  obtain ⟨ht, hp⟩ := and2 hw
  exact (decode_35 (fOp_encS ..)).trans (decMR_enc ht hp)
theorem RoundTrip.br {f e p} : RoundTrip.Statement (.br f e p) := by
  intro x hp he; cases he
  exact (decode_38 (fOp_encB ..)).trans (decB_enc hp)
theorem RoundTrip.brx {e p} : RoundTrip.Statement (.brx e p) := by
  intro x hp he; cases he
  exact (decode_39 (fOp_encB ..)).trans (decB0_enc hp)
theorem RoundTrip.call {f e p} : RoundTrip.Statement (.call f e p) := by
  intro x hp he; cases he
  exact (decode_3a (fOp_encB ..)).trans (decB_enc hp)
theorem RoundTrip.callx {e p} : RoundTrip.Statement (.callx e p) := by
  intro x hp he; cases he
  exact (decode_3b (fOp_encB ..)).trans (decB0_enc hp)
theorem RoundTrip.ret {e p} : RoundTrip.Statement (.ret e p) := by
  intro x hp he; cases he
  exact (decode_3c (fOp_encB ..)).trans (decB0_enc hp)
theorem RoundTrip.stop {e p} : RoundTrip.Statement (.stop e p) := by
  intro x hp he; cases he
  exact (decode_3d (fOp_encB ..)).trans (decB0_enc hp)
theorem RoundTrip.ld8 {t m l p} : RoundTrip.Statement (.ld8 t m l p) := by
  intro x hw he; cases he
  obtain ⟨ht, hp⟩ := and2 hw
  exact (decode_40 (fOp_encM ..)).trans (decM_enc ht hp)
theorem RoundTrip.ld16 {t m l p} : RoundTrip.Statement (.ld16 t m l p) := by
  intro x hw he; cases he
  obtain ⟨ht, hp⟩ := and2 hw
  exact (decode_41 (fOp_encM ..)).trans (decM_enc ht hp)
theorem RoundTrip.ld32 {t m l p} : RoundTrip.Statement (.ld32 t m l p) := by
  intro x hw he; cases he
  obtain ⟨ht, hp⟩ := and2 hw
  exact (decode_42 (fOp_encM ..)).trans (decM_enc ht hp)
theorem RoundTrip.ld64 {t m l p} : RoundTrip.Statement (.ld64 t m l p) := by
  intro x hw he; cases he
  obtain ⟨ht, hp⟩ := and2 hw
  exact (decode_43 (fOp_encM ..)).trans (decM_enc ht hp)
theorem RoundTrip.lds8 {t m l p} : RoundTrip.Statement (.lds8 t m l p) := by
  intro x hw he; cases he
  obtain ⟨ht, hp⟩ := and2 hw
  exact (decode_44 (fOp_encM ..)).trans (decM_enc ht hp)
theorem RoundTrip.lds16 {t m l p} : RoundTrip.Statement (.lds16 t m l p) := by
  intro x hw he; cases he
  obtain ⟨ht, hp⟩ := and2 hw
  exact (decode_45 (fOp_encM ..)).trans (decM_enc ht hp)
theorem RoundTrip.lds32 {t m l p} : RoundTrip.Statement (.lds32 t m l p) := by
  intro x hw he; cases he
  obtain ⟨ht, hp⟩ := and2 hw
  exact (decode_46 (fOp_encM ..)).trans (decM_enc ht hp)
theorem RoundTrip.st8 {m l p} : RoundTrip.Statement (.st8 m l p) := by
  intro x hp he; cases he
  exact (decode_48 (fOp_encM ..)).trans (decSt_enc hp)
theorem RoundTrip.st16 {m l p} : RoundTrip.Statement (.st16 m l p) := by
  intro x hp he; cases he
  exact (decode_49 (fOp_encM ..)).trans (decSt_enc hp)
theorem RoundTrip.st32 {m l p} : RoundTrip.Statement (.st32 m l p) := by
  intro x hp he; cases he
  exact (decode_4a (fOp_encM ..)).trans (decSt_enc hp)
theorem RoundTrip.st64 {m l p} : RoundTrip.Statement (.st64 m l p) := by
  intro x hp he; cases he
  exact (decode_4b (fOp_encM ..)).trans (decSt_enc hp)
theorem RoundTrip.aadd {t m l p} : RoundTrip.Statement (.aadd t m l p) := by
  intro x hw he; cases he
  obtain ⟨ht, hp⟩ := and2 hw
  exact (decode_50 (fOp_encM ..)).trans (decM_enc ht hp)
theorem RoundTrip.aand {t m l p} : RoundTrip.Statement (.aand t m l p) := by
  intro x hw he; cases he
  obtain ⟨ht, hp⟩ := and2 hw
  exact (decode_51 (fOp_encM ..)).trans (decM_enc ht hp)
theorem RoundTrip.aor {t m l p} : RoundTrip.Statement (.aor t m l p) := by
  intro x hw he; cases he
  obtain ⟨ht, hp⟩ := and2 hw
  exact (decode_52 (fOp_encM ..)).trans (decM_enc ht hp)
theorem RoundTrip.axor {t m l p} : RoundTrip.Statement (.axor t m l p) := by
  intro x hw he; cases he
  obtain ⟨ht, hp⟩ := and2 hw
  exact (decode_53 (fOp_encM ..)).trans (decM_enc ht hp)
theorem RoundTrip.amin {t m l p} : RoundTrip.Statement (.amin t m l p) := by
  intro x hw he; cases he
  obtain ⟨ht, hp⟩ := and2 hw
  exact (decode_54 (fOp_encM ..)).trans (decM_enc ht hp)
theorem RoundTrip.amax {t m l p} : RoundTrip.Statement (.amax t m l p) := by
  intro x hw he; cases he
  obtain ⟨ht, hp⟩ := and2 hw
  exact (decode_55 (fOp_encM ..)).trans (decM_enc ht hp)
theorem RoundTrip.aswp {t m l p} : RoundTrip.Statement (.aswp t m l p) := by
  intro x hw he; cases he
  obtain ⟨ht, hp⟩ := and2 hw
  exact (decode_56 (fOp_encM ..)).trans (decM_enc ht hp)
theorem RoundTrip.acas {t m l} : RoundTrip.Statement (.acas t m l) := by
  intro x ht he; cases he
  exact (decode_57 (fOp_encM ..)).trans (decCas_enc ht)
theorem RoundTrip.cfg {p} : RoundTrip.Statement (.cfg p) := by
  intro x hp he; cases he
  exact (decode_58 (fOp_encG ..)).trans (decXop0_enc hp)
theorem RoundTrip.strm {p} : RoundTrip.Statement (.strm p) := by
  intro x hp he; cases he
  exact (decode_59 (fOp_encG ..)).trans (decXop0_enc hp)
theorem RoundTrip.drainCell {p} : RoundTrip.Statement (.drainCell p) := by
  intro x hp he; cases he
  exact (decode_5a_0 (fOp_encG ..) (fXop_encG ..)).trans (decNoT_enc hp)
theorem RoundTrip.drainAll {p} : RoundTrip.Statement (.drainAll p) := by
  intro x hp he; cases he
  exact (decode_5a_1 (fOp_encG ..) (fXop_encG ..)).trans (decNoT_enc hp)
theorem RoundTrip.tmpl {p} : RoundTrip.Statement (.tmpl p) := by
  intro x hp he; cases he
  exact (decode_5b (fOp_encG ..)).trans (decXop0_enc hp)
theorem RoundTrip.evxTerm {p} : RoundTrip.Statement (.evxTerm p) := by
  intro x hp he; cases he
  exact (decode_5c_0 (fOp_encG ..) (fXop_encG ..)).trans (decNoT_enc hp)
theorem RoundTrip.evxCnt {p} : RoundTrip.Statement (.evxCnt p) := by
  intro x hp he; cases he
  exact (decode_5c_1 (fOp_encG ..) (fXop_encG ..)).trans (decNoT_enc hp)
theorem RoundTrip.evxTgt {p} : RoundTrip.Statement (.evxTgt p) := by
  intro x hp he; cases he
  exact (decode_5c_2 (fOp_encG ..) (fXop_encG ..)).trans (decNoT_enc hp)
theorem RoundTrip.evxPulse {p} : RoundTrip.Statement (.evxPulse p) := by
  intro x hp he; cases he
  exact (decode_5c_3 (fOp_encG ..) (fXop_encG ..)).trans (decNoT_enc hp)
theorem RoundTrip.pub {p} : RoundTrip.Statement (.pub p) := by
  intro x hp he; cases he
  exact (decode_5d (fOp_encG ..)).trans (decXop0_enc hp)
theorem RoundTrip.collStart {p} : RoundTrip.Statement (.collStart p) := by
  intro x hp he; cases he
  exact (decode_5e_0 (fOp_encG ..) (fXop_encG ..)).trans (decNoT_enc hp)
theorem RoundTrip.collWait {p} : RoundTrip.Statement (.collWait p) := by
  intro x hp he; cases he
  exact (decode_5e_1 (fOp_encG ..) (fXop_encG ..)).trans (decNoT_enc hp)
theorem RoundTrip.collEnd {p} : RoundTrip.Statement (.collEnd p) := by
  intro x hp he; cases he
  exact (decode_5e_2 (fOp_encG ..) (fXop_encG ..)).trans (decNoT_enc hp)
theorem RoundTrip.waitc {v t p} : RoundTrip.Statement (.waitc v t p) := by
  intro x hw he; cases he
  obtain ⟨hv, ht, hp⟩ := and3 hw
  exact (decode_5f (fOp_encG ..)).trans (decTT_enc hv ht hp)
theorem RoundTrip.waite {v t p} : RoundTrip.Statement (.waite v t p) := by
  intro x hw he; cases he
  obtain ⟨hv, ht, hp⟩ := and3 hw
  exact (decode_60 (fOp_encG ..)).trans (decTT_enc hv ht hp)
theorem RoundTrip.launch {t q p} : RoundTrip.Statement (.launch t q p) := by
  intro x hw he; cases he
  obtain ⟨ht, hp⟩ := and2 hw
  exact (decode_68 (fOp_encG ..)).trans (decQueue_enc ht hp)
theorem RoundTrip.shape {p} : RoundTrip.Statement (.shape p) := by
  intro x hp he; cases he
  exact (decode_69 (fOp_encG ..)).trans (decXop0_enc hp)
theorem RoundTrip.take {v t p} : RoundTrip.Statement (.take v t p) := by
  intro x hw he; cases he
  obtain ⟨hv, ht, hp⟩ := and3 hw
  exact (decode_6a (fOp_encG ..)).trans (decTT_enc hv ht hp)
theorem RoundTrip.steal {p} : RoundTrip.Statement (.steal p) := by
  intro x hp he; cases he
  exact (decode_6b (fOp_encG ..)).trans (decXop0_enc hp)
theorem RoundTrip.yield {p} : RoundTrip.Statement (.yield p) := by
  intro x hp he; cases he
  exact (decode_6c (fOp_encG ..)).trans (decXop0_enc hp)
theorem RoundTrip.cptag {p} : RoundTrip.Statement (.cptag p) := by
  intro x hp he; cases he
  exact (decode_6d (fOp_encG ..)).trans (decXop0_enc hp)
theorem RoundTrip.cpmark {p} : RoundTrip.Statement (.cpmark p) := by
  intro x hp he; cases he
  exact (decode_6e (fOp_encG ..)).trans (decXop0_enc hp)
theorem RoundTrip.msend {n p} : RoundTrip.Statement (.msend n p) := by
  intro x hw he; cases he
  obtain ⟨hp, hn⟩ := and2 hw
  exact (decode_70 (fOp_encG ..)).trans (decMsg_enc hp (of_decide_eq_true hn))
theorem RoundTrip.msendw {n p} : RoundTrip.Statement (.msendw n p) := by
  intro x hw he; cases he
  obtain ⟨hp, hn⟩ := and2 hw
  exact (decode_71 (fOp_encG ..)).trans (decMsg_enc hp (of_decide_eq_true hn))
theorem RoundTrip.mbcast {n p} : RoundTrip.Statement (.mbcast n p) := by
  intro x hw he; cases he
  obtain ⟨hp, hn⟩ := and2 hw
  exact (decode_72 (fOp_encG ..)).trans (decMsg_enc hp (of_decide_eq_true hn))
theorem RoundTrip.sysrd {t g n p} : RoundTrip.Statement (.sysrd t g n p) := by
  intro x hw he; cases he
  obtain ⟨ht, hp, hg⟩ := and3 hw
  exact (decode_78 (fOp_encS ..)).trans (decSysR_enc ht hp hg)
theorem RoundTrip.syswr {g n p} : RoundTrip.Statement (.syswr g n p) := by
  intro x hw he; cases he
  obtain ⟨hp, hg⟩ := and2 hw
  exact (decode_79 (fOp_encS ..)).trans (decSysW_enc hp hg)
theorem RoundTrip.tret {e p} : RoundTrip.Statement (.tret e p) := by
  intro x hp he; cases he
  exact (decode_7a (fOp_encB ..)).trans (decB0_enc hp)
theorem RoundTrip.tlbiAddr {p} : RoundTrip.Statement (.tlbiAddr p) := by
  intro x hp he; cases he
  exact (decode_7b_0 (fOp_encG ..) (fXop_encG ..)).trans (decNoT_enc hp)
theorem RoundTrip.tlbiAsid {p} : RoundTrip.Statement (.tlbiAsid p) := by
  intro x hp he; cases he
  exact (decode_7b_1 (fOp_encG ..) (fXop_encG ..)).trans (decNoT_enc hp)
theorem RoundTrip.tlbiAll {p} : RoundTrip.Statement (.tlbiAll p) := by
  intro x hp he; cases he
  exact (decode_7b_2 (fOp_encG ..) (fXop_encG ..)).trans (decNoT_enc hp)
theorem RoundTrip.ctxsave {p} : RoundTrip.Statement (.ctxsave p) := by
  intro x hp he; cases he
  exact (decode_7c (fOp_encG ..)).trans (decXop0_enc hp)
theorem RoundTrip.ctxload {p} : RoundTrip.Statement (.ctxload p) := by
  intro x hp he; cases he
  exact (decode_7d (fOp_encG ..)).trans (decXop0_enc hp)
theorem RoundTrip.trap {i p} : RoundTrip.Statement (.trap i p) := by
  intro x hp he; cases he
  exact (decode_7e (fOp_encI ..)).trans (decImm_enc hp)
theorem RoundTrip.blockFetch {a0} : RoundTrip.Statement (.blockFetch a0) := fun _ _ he => nomatch he
theorem RoundTrip.blockCommit {a0} : RoundTrip.Statement (.blockCommit a0) := fun _ _ he => nomatch he
theorem RoundTrip.mwaitSatisfied {a0} : RoundTrip.Statement (.mwaitSatisfied a0) := fun _ _ he => nomatch he
theorem RoundTrip.cfgGateOpen {a0 a1} : RoundTrip.Statement (.cfgGateOpen a0 a1) := fun _ _ he => nomatch he
theorem RoundTrip.strmGateOpen {a0 a1} : RoundTrip.Statement (.strmGateOpen a0 a1) := fun _ _ he => nomatch he
theorem RoundTrip.pubGateOpen {a0 a1} : RoundTrip.Statement (.pubGateOpen a0 a1) := fun _ _ he => nomatch he
theorem RoundTrip.waitcSatisfied {a0 a1} : RoundTrip.Statement (.waitcSatisfied a0 a1) := fun _ _ he => nomatch he
theorem RoundTrip.waiteSatisfied {a0 a1} : RoundTrip.Statement (.waiteSatisfied a0 a1) := fun _ _ he => nomatch he
theorem RoundTrip.apertureQueueRoom {a0 a1} : RoundTrip.Statement (.apertureQueueRoom a0 a1) := fun _ _ he => nomatch he
theorem RoundTrip.launchQueueRoom {a0 a1} : RoundTrip.Statement (.launchQueueRoom a0 a1) := fun _ _ he => nomatch he
theorem RoundTrip.collWaitSatisfied {a0 a1} : RoundTrip.Statement (.collWaitSatisfied a0 a1) := fun _ _ he => nomatch he
theorem RoundTrip.collEndSatisfied {a0 a1} : RoundTrip.Statement (.collEndSatisfied a0 a1) := fun _ _ he => nomatch he
theorem RoundTrip.engineSetReleased {a0 a1} : RoundTrip.Statement (.engineSetReleased a0 a1) := fun _ _ he => nomatch he
theorem RoundTrip.drainComplete {a0} : RoundTrip.Statement (.drainComplete a0) := fun _ _ he => nomatch he
theorem RoundTrip.yieldEnd {a0} : RoundTrip.Statement (.yieldEnd a0) := fun _ _ he => nomatch he
theorem RoundTrip.tlbiComplete {a0} : RoundTrip.Statement (.tlbiComplete a0) := fun _ _ he => nomatch he
theorem RoundTrip.ctxsaveComplete {a0} : RoundTrip.Statement (.ctxsaveComplete a0) := fun _ _ he => nomatch he
theorem RoundTrip.ctxloadComplete {a0} : RoundTrip.Statement (.ctxloadComplete a0) := fun _ _ he => nomatch he
theorem RoundTrip.mailboxWriteLand {a0} : RoundTrip.Statement (.mailboxWriteLand a0) := fun _ _ he => nomatch he
theorem RoundTrip.messageLand {a0} : RoundTrip.Statement (.messageLand a0) := fun _ _ he => nomatch he
theorem RoundTrip.hostMailboxLand {a0} : RoundTrip.Statement (.hostMailboxLand a0) := fun _ _ he => nomatch he
theorem RoundTrip.stealRequestLand {a0} : RoundTrip.Statement (.stealRequestLand a0) := fun _ _ he => nomatch he
theorem RoundTrip.stealReplyLand {a0} : RoundTrip.Statement (.stealReplyLand a0) := fun _ _ he => nomatch he
theorem RoundTrip.agenEmit {a0 a1} : RoundTrip.Statement (.agenEmit a0 a1) := fun _ _ he => nomatch he
theorem RoundTrip.mapFire {a0 a1} : RoundTrip.Statement (.mapFire a0 a1) := fun _ _ he => nomatch he
theorem RoundTrip.transcFire {a0 a1} : RoundTrip.Statement (.transcFire a0 a1) := fun _ _ he => nomatch he
theorem RoundTrip.convCvt {a0 a1} : RoundTrip.Statement (.convCvt a0 a1) := fun _ _ he => nomatch he
theorem RoundTrip.convWidth {a0 a1} : RoundTrip.Statement (.convWidth a0 a1) := fun _ _ he => nomatch he
theorem RoundTrip.lpack {a0 a1} : RoundTrip.Statement (.lpack a0 a1) := fun _ _ he => nomatch he
theorem RoundTrip.lunpack {a0 a1} : RoundTrip.Statement (.lunpack a0 a1) := fun _ _ he => nomatch he
theorem RoundTrip.filterFire {a0 a1} : RoundTrip.Statement (.filterFire a0 a1) := fun _ _ he => nomatch he
theorem RoundTrip.mergeOrdered {a0 a1} : RoundTrip.Statement (.mergeOrdered a0 a1) := fun _ _ he => nomatch he
theorem RoundTrip.mergeRrobin {a0 a1} : RoundTrip.Statement (.mergeRrobin a0 a1) := fun _ _ he => nomatch he
theorem RoundTrip.mergeConcat {a0 a1} : RoundTrip.Statement (.mergeConcat a0 a1) := fun _ _ he => nomatch he
theorem RoundTrip.loopCycle {a0 a1} : RoundTrip.Statement (.loopCycle a0 a1) := fun _ _ he => nomatch he
theorem RoundTrip.mmaPass {a0 a1} : RoundTrip.Statement (.mmaPass a0 a1) := fun _ _ he => nomatch he
theorem RoundTrip.mmaEmit {a0 a1} : RoundTrip.Statement (.mmaEmit a0 a1) := fun _ _ he => nomatch he
theorem RoundTrip.permTable {a0 a1} : RoundTrip.Statement (.permTable a0 a1) := fun _ _ he => nomatch he
theorem RoundTrip.permRank {a0 a1} : RoundTrip.Statement (.permRank a0 a1) := fun _ _ he => nomatch he
theorem RoundTrip.permTranspose {a0 a1} : RoundTrip.Statement (.permTranspose a0 a1) := fun _ _ he => nomatch he
theorem RoundTrip.scanBeat {a0 a1} : RoundTrip.Statement (.scanBeat a0 a1) := fun _ _ he => nomatch he
theorem RoundTrip.scanBoundary {a0 a1} : RoundTrip.Statement (.scanBoundary a0 a1) := fun _ _ he => nomatch he
theorem RoundTrip.redBeat {a0 a1} : RoundTrip.Statement (.redBeat a0 a1) := fun _ _ he => nomatch he
theorem RoundTrip.redDaccColumn {a0 a1} : RoundTrip.Statement (.redDaccColumn a0 a1) := fun _ _ he => nomatch he
theorem RoundTrip.memLoad {a0 a1 a2} : RoundTrip.Statement (.memLoad a0 a1 a2) := fun _ _ he => nomatch he
theorem RoundTrip.memStore {a0 a1 a2} : RoundTrip.Statement (.memStore a0 a1 a2) := fun _ _ he => nomatch he
theorem RoundTrip.memRmw {a0 a1 a2} : RoundTrip.Statement (.memRmw a0 a1 a2) := fun _ _ he => nomatch he
theorem RoundTrip.doneEmit {a0 a1} : RoundTrip.Statement (.doneEmit a0 a1) := fun _ _ he => nomatch he
theorem RoundTrip.remoteAck {a0} : RoundTrip.Statement (.remoteAck a0) := fun _ _ he => nomatch he
theorem RoundTrip.linkinReceive {a0 a1} : RoundTrip.Statement (.linkinReceive a0 a1) := fun _ _ he => nomatch he
theorem RoundTrip.linkinDescriptorReceive {a0 a1} : RoundTrip.Statement (.linkinDescriptorReceive a0 a1) := fun _ _ he => nomatch he
theorem RoundTrip.linkoutSend {a0 a1} : RoundTrip.Statement (.linkoutSend a0 a1) := fun _ _ he => nomatch he
theorem RoundTrip.incomingPeerAccess {a0} : RoundTrip.Statement (.incomingPeerAccess a0) := fun _ _ he => nomatch he
theorem RoundTrip.sluiceForward {a0 a1} : RoundTrip.Statement (.sluiceForward a0 a1) := fun _ _ he => nomatch he
theorem RoundTrip.snapAlign {a0 a1} : RoundTrip.Statement (.snapAlign a0 a1) := fun _ _ he => nomatch he
theorem RoundTrip.snapAlignTimeout {a0 a1} : RoundTrip.Statement (.snapAlignTimeout a0 a1) := fun _ _ he => nomatch he
theorem RoundTrip.poisonForward {a0 a1 a2} : RoundTrip.Statement (.poisonForward a0 a1 a2) := fun _ _ he => nomatch he
theorem RoundTrip.sinkHalt {a0 a1 a2} : RoundTrip.Statement (.sinkHalt a0 a1 a2) := fun _ _ he => nomatch he
theorem RoundTrip.reorderStoreAccept {a0 a1 a2} : RoundTrip.Statement (.reorderStoreAccept a0 a1 a2) := fun _ _ he => nomatch he
theorem RoundTrip.reorderStoreEmit {a0 a1 a2} : RoundTrip.Statement (.reorderStoreEmit a0 a1 a2) := fun _ _ he => nomatch he
theorem RoundTrip.reorderLenCheck {a0 a1 a2} : RoundTrip.Statement (.reorderLenCheck a0 a1 a2) := fun _ _ he => nomatch he
theorem RoundTrip.fifoWriterAcquire {a0} : RoundTrip.Statement (.fifoWriterAcquire a0) := fun _ _ he => nomatch he
theorem RoundTrip.fifoReaderAcquire {a0 a1} : RoundTrip.Statement (.fifoReaderAcquire a0 a1) := fun _ _ he => nomatch he
theorem RoundTrip.fifoSlotFill {a0 a1} : RoundTrip.Statement (.fifoSlotFill a0 a1) := fun _ _ he => nomatch he
theorem RoundTrip.pageWalkComplete {a0 a1} : RoundTrip.Statement (.pageWalkComplete a0 a1) := fun _ _ he => nomatch he
theorem RoundTrip.termFire {a0 a1} : RoundTrip.Statement (.termFire a0 a1) := fun _ _ he => nomatch he
theorem RoundTrip.counterThreshold {a0 a1} : RoundTrip.Statement (.counterThreshold a0 a1) := fun _ _ he => nomatch he
theorem RoundTrip.copyBegin {a0 a1} : RoundTrip.Statement (.copyBegin a0 a1) := fun _ _ he => nomatch he
theorem RoundTrip.copySector {a0 a1 a2} : RoundTrip.Statement (.copySector a0 a1 a2) := fun _ _ he => nomatch he
theorem RoundTrip.copyComplete {a0 a1} : RoundTrip.Statement (.copyComplete a0 a1) := fun _ _ he => nomatch he
theorem RoundTrip.collPayloadArrive {a0} : RoundTrip.Statement (.collPayloadArrive a0) := fun _ _ he => nomatch he
theorem RoundTrip.collLevelCombine {a0} : RoundTrip.Statement (.collLevelCombine a0) := fun _ _ he => nomatch he
theorem RoundTrip.collStepComplete {a0} : RoundTrip.Statement (.collStepComplete a0) := fun _ _ he => nomatch he
theorem RoundTrip.collAbortArrive {a0} : RoundTrip.Statement (.collAbortArrive a0) := fun _ _ he => nomatch he
theorem RoundTrip.launchPlace {a0 a1} : RoundTrip.Statement (.launchPlace a0 a1) := fun _ _ he => nomatch he
theorem RoundTrip.launchComplete {a0 a1} : RoundTrip.Statement (.launchComplete a0 a1) := fun _ _ he => nomatch he
theorem RoundTrip.shapeArrive {a0} : RoundTrip.Statement (.shapeArrive a0) := fun _ _ he => nomatch he
theorem RoundTrip.launchAgeTarget {a0 a1} : RoundTrip.Statement (.launchAgeTarget a0 a1) := fun _ _ he => nomatch he
theorem RoundTrip.mireProbeSend {a0} : RoundTrip.Statement (.mireProbeSend a0) := fun _ _ he => nomatch he
theorem RoundTrip.mireProbeForward {a0} : RoundTrip.Statement (.mireProbeForward a0) := fun _ _ he => nomatch he
theorem RoundTrip.deadlock {a0} : RoundTrip.Statement (.deadlock a0) := fun _ _ he => nomatch he
theorem RoundTrip.walkerFetch {a0} : RoundTrip.Statement (.walkerFetch a0) := fun _ _ he => nomatch he
theorem RoundTrip.remoteWalkerFetch {a0} : RoundTrip.Statement (.remoteWalkerFetch a0) := fun _ _ he => nomatch he
theorem RoundTrip.frameReceive {a0} : RoundTrip.Statement (.frameReceive a0) := fun _ _ he => nomatch he
theorem RoundTrip.frameAck {a0 a1} : RoundTrip.Statement (.frameAck a0 a1) := fun _ _ he => nomatch he
theorem RoundTrip.frameResend {a0 a1} : RoundTrip.Statement (.frameResend a0 a1) := fun _ _ he => nomatch he
theorem RoundTrip.portDown {a0 a1} : RoundTrip.Statement (.portDown a0 a1) := fun _ _ he => nomatch he
theorem RoundTrip.preemptRequest {a0 a1 a2} : RoundTrip.Statement (.preemptRequest a0 a1 a2) := fun _ _ he => nomatch he
theorem RoundTrip.regionGate {a0 a1} : RoundTrip.Statement (.regionGate a0 a1) := fun _ _ he => nomatch he
theorem RoundTrip.readout {a0 a1} : RoundTrip.Statement (.readout a0 a1) := fun _ _ he => nomatch he
theorem RoundTrip.restore {a0 a1 a2} : RoundTrip.Statement (.restore a0 a1 a2) := fun _ _ he => nomatch he
theorem RoundTrip.quantumFloorExpire {a0 a1} : RoundTrip.Statement (.quantumFloorExpire a0 a1) := fun _ _ he => nomatch he
theorem RoundTrip.sliceExpire {a0 a1} : RoundTrip.Statement (.sliceExpire a0 a1) := fun _ _ he => nomatch he
theorem RoundTrip.cellMove {a0} : RoundTrip.Statement (.cellMove a0) := fun _ _ he => nomatch he
theorem RoundTrip.mergeStart {a0} : RoundTrip.Statement (.mergeStart a0) := fun _ _ he => nomatch he
theorem RoundTrip.mergeQuiesceTimeout {a0} : RoundTrip.Statement (.mergeQuiesceTimeout a0) := fun _ _ he => nomatch he
theorem RoundTrip.mergeComplete {a0} : RoundTrip.Statement (.mergeComplete a0) := fun _ _ he => nomatch he
theorem RoundTrip.counterOverflow {a0 a1} : RoundTrip.Statement (.counterOverflow a0 a1) := fun _ _ he => nomatch he
theorem RoundTrip.sampleTimer {a0} : RoundTrip.Statement (.sampleTimer a0) := fun _ _ he => nomatch he
theorem RoundTrip.checkpointEpoch {a0} : RoundTrip.Statement (.checkpointEpoch a0) := fun _ _ he => nomatch he
theorem RoundTrip.epochEnd {a0} : RoundTrip.Statement (.epochEnd a0) := fun _ _ he => nomatch he
theorem RoundTrip.replayEnd {a0} : RoundTrip.Statement (.replayEnd a0) := fun _ _ he => nomatch he
theorem RoundTrip.compressionIdleExpire {a0} : RoundTrip.Statement (.compressionIdleExpire a0) := fun _ _ he => nomatch he
theorem RoundTrip.xlatResumeWrite {a0 a1} : RoundTrip.Statement (.xlatResumeWrite a0 a1) := fun _ _ he => nomatch he
theorem RoundTrip.fmtWctlWrite {a0 a1} : RoundTrip.Statement (.fmtWctlWrite a0 a1) := fun _ _ he => nomatch he
theorem RoundTrip.pblenValidClear {a0 a1} : RoundTrip.Statement (.pblenValidClear a0 a1) := fun _ _ he => nomatch he
theorem RoundTrip.keyInstall {a0} : RoundTrip.Statement (.keyInstall a0) := fun _ _ he => nomatch he
theorem RoundTrip.linkModeWrite {a0} : RoundTrip.Statement (.linkModeWrite a0) := fun _ _ he => nomatch he
theorem RoundTrip.pmcSbaseWrite {a0 a1} : RoundTrip.Statement (.pmcSbaseWrite a0 a1) := fun _ _ he => nomatch he
theorem RoundTrip.ctxSliceWrite {a0 a1} : RoundTrip.Statement (.ctxSliceWrite a0 a1) := fun _ _ he => nomatch he
theorem RoundTrip.ctxNbvWrite {a0 a1} : RoundTrip.Statement (.ctxNbvWrite a0 a1) := fun _ _ he => nomatch he
theorem RoundTrip.ctxAsidWrite {a0 a1} : RoundTrip.Statement (.ctxAsidWrite a0 a1) := fun _ _ he => nomatch he
theorem RoundTrip.pwrWrite {a0 a1} : RoundTrip.Statement (.pwrWrite a0 a1) := fun _ _ he => nomatch he
theorem RoundTrip.registerWrite {a0 a1 a2 a3} : RoundTrip.Statement (.registerWrite a0 a1 a2 a3) := fun _ _ he => nomatch he
theorem RoundTrip.dmbWrite {a0 a1 a2 a3} : RoundTrip.Statement (.dmbWrite a0 a1 a2 a3) := fun _ _ he => nomatch he
theorem RoundTrip.hmbRead {a0} : RoundTrip.Statement (.hmbRead a0) := fun _ _ he => nomatch he
theorem RoundTrip.hostResumeWrite {a0 a1} : RoundTrip.Statement (.hostResumeWrite a0 a1) := fun _ _ he => nomatch he
theorem RoundTrip.hostBar2Read {a0 a1 a2} : RoundTrip.Statement (.hostBar2Read a0 a1 a2) := fun _ _ he => nomatch he
theorem RoundTrip.hostBar2Write {a0 a1 a2} : RoundTrip.Statement (.hostBar2Write a0 a1 a2) := fun _ _ he => nomatch he
theorem RoundTrip.powerInterval {a0 a1 a2 a3} : RoundTrip.Statement (.powerInterval a0 a1 a2 a3) := fun _ _ he => nomatch he
theorem RoundTrip.coolantLimitChange {a0 a1} : RoundTrip.Statement (.coolantLimitChange a0 a1) := fun _ _ he => nomatch he
theorem RoundTrip.machineCheck {a0 a1 a2 a3} : RoundTrip.Statement (.machineCheck a0 a1 a2 a3) := fun _ _ he => nomatch he
theorem RoundTrip.coldReset : RoundTrip.Statement (.coldReset) := fun _ _ he => nomatch he
theorem RoundTrip.getVersion {a0} : RoundTrip.Statement (.getVersion a0) := fun _ _ he => nomatch he
theorem RoundTrip.getCapabilities {a0} : RoundTrip.Statement (.getCapabilities a0) := fun _ _ he => nomatch he
theorem RoundTrip.negotiateAlgorithms {a0} : RoundTrip.Statement (.negotiateAlgorithms a0) := fun _ _ he => nomatch he
theorem RoundTrip.getDigests {a0} : RoundTrip.Statement (.getDigests a0) := fun _ _ he => nomatch he
theorem RoundTrip.getCertificate {a0} : RoundTrip.Statement (.getCertificate a0) := fun _ _ he => nomatch he
theorem RoundTrip.challenge {a0 a1} : RoundTrip.Statement (.challenge a0 a1) := fun _ _ he => nomatch he
theorem RoundTrip.getMeasurements {a0} : RoundTrip.Statement (.getMeasurements a0) := fun _ _ he => nomatch he
theorem RoundTrip.portUp {a0} : RoundTrip.Statement (.portUp a0) := fun _ _ he => nomatch he
theorem RoundTrip.remoteLoadReply {a0 a1} : RoundTrip.Statement (.remoteLoadReply a0 a1) := fun _ _ he => nomatch he
theorem RoundTrip.managementThreadStart {a0 a1 a2 a3 a4 a5} : RoundTrip.Statement (.managementThreadStart a0 a1 a2 a3 a4 a5) := fun _ _ he => nomatch he

end Laws

end Sys2Proof
end

