-- ==== Sys2Proof/Tests/Slice0.lean ====
section
/-! SUPPORT. The model's own tests: ill-formed terms that WellFormed refuses, words written out from the encoding tables, single
steps whose results stand in tables of the specification, and for every statement of the obligations a state and operands that
meet its hypotheses. -/

namespace Sys2Proof

open Machine

/-! ### A small world -/

/-- A thread of context 1, outside any launch, on cluster 0, at MGMT level. -/
def tThread : Thread := Thread.fresh ⟨0, 0, ⟨1, 0, 0⟩, 0, 0, 0xFF, 0xFF, false⟩ 0x1000 lMGMT 3

/-- Context 1 with a trap handler. -/
def tCtx : Context := { Context.fresh 0 with regs := { CtxRegs.reset with trapvec := 0x4000 } }

/-- A machine with context 1, its engine set and its partition, whose first 64 KiB of addresses a TLB holds translated to the start
of HBM, and with the threads given. -/
def tWorld (ths : List (Nat × Thread)) : State :=
  { State.reset with
    agenda := [], cycle := 1000, nextId := 100, threads := ths, ctxs := [(1, tCtx)], esets := [(0, EngineSet.fresh ⟨1, 0, 0⟩ 0)],
    parts := [(0, { Partition.fresh 0xF 12 0xFF with dispatcher := 0 })],
    mem := { Memory.reset with tlb := [⟨0, 1, 0, 16, 0x01000000003F⟩] } }

/-- A slot with a word and its ports. -/
def tSlot (i : Instr) (l r x : Option W) : Slot := ⟨(encode i).getD 0, l, r, x, .waiting⟩

/-- A block of two slots: the instruction with values at its ports, and a MOV that waits for its port L. -/
def tBlock (i : Instr) (l r x : W) : Block :=
  { loneBlock 0 with addr := 0x1000, slots := [tSlot i (some l) (some r) (some x), tSlot (.mov noTarget noTarget .none) none none none] }

/-- The instruction as the one that fires next, with values at its ports. -/
def tAt (i : Instr) (l r x : W) : State := tWorld [(0, { tThread with block := some (tBlock i l r x) })]

/-- Target port L of slot 1. -/
def t1L : Target := ⟨1, .l⟩

/-- The value that stands at port L of slot 1 after the instruction. -/
def got (i : Instr) (l r x : W) : Option W :=
  match exec i (tAt i l r x) with
  | .next u => (aget u.threads 0).bind (fun th => th.block.bind (fun b => b.slots[1]?.bind (fun sl => sl.l)))
  | _ => none

/-- The instruction fires, and p holds of the slot that fires. -/
def firesB (s : State) (i : Instr) (p : Firing → Bool) : Bool :=
  match firing s with
  | some q => portsReady q.sl i && polarity (instrPm i) q.sl.x && p q
  | none => false

theorem firesB_spec {s : State} {i : Instr} {p : Firing → Bool} (h : firesB s i p = true) : ∃ q, Fires s i q ∧ p q = true := by
  unfold firesB at h
  split at h
  · rename_i q hq
    simp only [Bool.and_eq_true] at h
    exact ⟨q, ⟨hq, h.1.1, h.1.2⟩, h.2⟩
  · cases h

theorem firesP {s : State} {i : Instr} {P : Firing → Prop} [DecidablePred P] (h : firesB s i (fun q => decide (P q)) = true) :
    ∃ q, Fires s i q ∧ P q := by
  obtain ⟨q, h, hp⟩ := firesB_spec h
  exact ⟨q, h, of_decide_eq_true hp⟩

/-- Every instruction of a list fires in its state. -/
theorem fires_all {l : List (State × Instr)} (h : l.all (fun e => firesB e.1 e.2 (fun _ => true)) = true) :
    ∀ e ∈ l, ∃ q, Fires e.1 e.2 q := by
  intro e he
  obtain ⟨q, h, -⟩ := firesB_spec (List.all_eq_true.mp h e he)
  exact ⟨q, h⟩

/-- An answer that is no error, with what f asks of it. -/
def okB {ε α : Type} (x : Except ε α) (f : α → Bool) : Bool :=
  match x with
  | .ok a => f a
  | .error _ => false

/-- An answer that is an error, with what f asks of it. -/
def errB {ε α : Type} (x : Except ε α) (f : ε → Bool) : Bool :=
  match x with
  | .ok _ => false
  | .error e => f e

/-- Every member of a list: its instruction fires in its state, with what P says. -/
theorem firesP_all {α : Type} {l : List α} {f : α → State} {g : α → Instr} {P : α → Firing → Prop} [∀ a q, Decidable (P a q)]
    (h : l.all (fun e => firesB (f e) (g e) (fun q => decide (P e q))) = true) : ∀ e ∈ l, ∃ q, Fires (f e) (g e) q ∧ P e q := by
  intro e he
  obtain ⟨q, h, hp⟩ := firesB_spec (List.all_eq_true.mp h e he)
  exact ⟨q, h, of_decide_eq_true hp⟩

/-! ### Terms that WellFormed refuses -/

theorem test_wf_target_none_slot : WellFormed (.mov ⟨3, .none⟩ t1L .none) = false := by decide
theorem test_wf_pm_three : WellFormed (.add noTarget t1L .w64 .three) = false := by decide
theorem test_wf_shift_64 : WellFormed (.shli t1L 64 .none) = false := by decide
theorem test_wf_shift_63 : WellFormed (.shli t1L 63 .none) = true := by decide
theorem test_wf_sysreg_group : WellFormed (.sysrd t1L 15 0 .none) = false := by decide
theorem test_wf_msend_m15 : WellFormed (.msend 15 .none) = false := by decide

/-! ### Results that the tables of R99, R101, R104 and R121 give -/

theorem test_add_wraps : got (.add noTarget t1L .w32 .none) 0xFFFFFFFF 1 0 = some 0 := by decide
theorem test_add_i32_zero_extends : got (.add noTarget t1L .w32 .none) 0xFFFFFFFF 0 0 = some 0x00000000FFFFFFFF := by decide
theorem test_sub_wraps : got (.sub noTarget t1L .w8 .none) 0 1 0 = some 0xFF := by decide
theorem test_mul_wraps : got (.mul noTarget t1L .w16 .none) 0x100 0x100 0 = some 0 := by decide
theorem test_div_i32 : got (.div noTarget t1L true .w32 .none) 0xFFFFFFF9 2 0 = some 0xFFFFFFFFFFFFFFFD := by decide
theorem test_rem_i32 : got (.rem noTarget t1L true .w32 .none) 0xFFFFFFF9 2 0 = some 0xFFFFFFFFFFFFFFFF := by decide
theorem test_div_n32_zero : got (.div noTarget t1L false .w32 .none) 9 0 0 = some 0x00000000FFFFFFFF := by decide
theorem test_div_i8_overflow : got (.div noTarget t1L true .w8 .none) 0x80 0xFF 0 = some 0xFFFFFFFFFFFFFF80 := by decide
theorem test_mulh_n64 : got (.mulh noTarget t1L false .w64 .none) 0x8000000000000000 4 0 = some 2 := by decide
theorem test_shl_modulo_width : got (.shl noTarget t1L .w8 .none) 0x81 9 0 = some 0x02 := by decide
theorem test_shr_signed_is_logical : got (.shr noTarget t1L true .w8 .none) 0x80 1 0 = some 0x40 := by decide
theorem test_sra_signed : got (.sra noTarget t1L .w8 .none) 0x80 1 0 = some 0xFFFFFFFFFFFFFFC0 := by decide
theorem test_min_signed : got (.min noTarget t1L true .w8 .none) 0x80 0x7F 0 = some 0xFFFFFFFFFFFFFF80 := by decide
theorem test_max_natural : got (.max noTarget t1L false .w8 .none) 0x80 0x7F 0 = some 0x80 := by decide
theorem test_movi : got (.movi t1L 0x123 .none) 0 0 0 = some 0x123 := by decide
theorem test_movi_negative : got (.movi t1L 0x3FFF .none) 0 0 0 = some 0xFFFFFFFFFFFFFFFF := by decide
theorem test_movhi : got (.movhi t1L 0x1159 .none) 0x123 0 0 = some 0x48D159 := by decide
theorem test_movhi_next : got (.movhi t1L 0x3890 .none) 0x48D159 0 0 = some 0x1234567890 := by decide
theorem test_ins_drops_above_63 : got (.ins noTarget t1L) 0 0xFF 0x1FC = some 0xF000000000000000 := by decide
theorem test_lea_keeps_tag : got (.lea noTarget t1L 3 .none) 0x9FFFFFFFFFFFFFF8 1 0 = some 0x9000000000000000 := by decide
theorem test_tag : got (.tag noTarget t1L .none) 0x1000000000000005 0xA 0 = some 0xA000000000000005 := by decide
theorem test_clz_zero : got (.clz noTarget t1L .w16 .none) 0x10000 0 0 = some 16 := by decide
theorem test_popc : got (.popc noTarget t1L .w8 .none) 0x1FF 0 0 = some 8 := by decide
theorem test_cmplt_natural : got (.cmplt noTarget t1L false .w8 .none) 0x80 0x7F 0 = some 0 := by decide
theorem test_cmplt_signed : got (.cmplt noTarget t1L true .w8 .none) 0x80 0x7F 0 = some 1 := by decide
theorem test_cmplei_equal : got (.cmplei t1L 0x3FFF .none) 0xFFFFFFFFFFFFFFFF 0 0 = some 1 := by decide
theorem test_sel_other : got (.sel noTarget t1L) 5 7 2 = some 7 := by decide
theorem test_pnot : got (.pnot noTarget t1L .none) 2 0 0 = some 1 := by decide

/-! ### Hypotheses of the statements on results -/

/-- The instruction with zeros at its ports. -/
def tZero (i : Instr) : State × Instr := (tAt i 0 0 0, i)

theorem test_hyp_IntegerResults : ∀ e ∈ [.add noTarget t1L .w8 .none, .sub noTarget t1L .w64 .none, .mul noTarget t1L .w16 .none,
      .mulh noTarget t1L true .w64 .none, .div noTarget t1L true .w8 .none, .rem noTarget t1L false .w64 .none,
      .and noTarget t1L .w32 .none, .or noTarget t1L .w64 .none, .xor noTarget t1L .w64 .none, .shl noTarget t1L .w8 .none,
      .shr noTarget t1L true .w8 .none, .sra noTarget t1L .w32 .none, .min noTarget t1L true .w8 .none,
      .max noTarget t1L false .w64 .none].map tZero, ∃ q, Fires e.1 e.2 q :=
  fires_all (by decide)

theorem test_hyp_BitFieldResults : ∀ e ∈ [.ext noTarget t1L .none, .ins noTarget t1L, .tag noTarget t1L .none,
      .lea noTarget t1L 3 .none, .clz noTarget t1L .w8 .none, .popc noTarget t1L .w64 .none, .mov noTarget t1L .none].map tZero,
    ∃ q, Fires e.1 e.2 q := fires_all (by decide)

theorem test_hyp_CompareAndSelectResults : ∀ e ∈ [.cmpeq noTarget t1L .w8 .none, .cmpne noTarget t1L .w64 .none,
      .cmplt noTarget t1L true .w8 .none, .cmple noTarget t1L false .w32 .none, .tst noTarget t1L .w16 .none,
      .pand noTarget t1L .none, .por noTarget t1L .none, .pnot noTarget t1L .none, .sel noTarget t1L].map tZero,
    ∃ q, Fires e.1 e.2 q := fires_all (by decide)

/-- The shift counts are at their top, 63; the other immediates at their least, −8192. -/
theorem test_hyp_ImmediateResults : ∀ e ∈ [.addi t1L 0x2000 .none, .muli t1L 0x2000 .none, .andi t1L 0x2000 .none,
      .ori t1L 0x2000 .none, .xori t1L 0x2000 .none, .shli t1L 63 .none, .shri t1L 63 .none, .srai t1L 63 .none,
      .movi t1L 0x2000 .none, .movhi t1L 0x2000 .none, .cmpeqi t1L 0x2000 .none, .cmpnei t1L 0x2000 .none,
      .cmplti t1L 0x2000 .none, .cmplei t1L 0x2000 .none].map tZero,
    ∃ q, Fires e.1 e.2 q := fires_all (by decide)


/-! ### Hypotheses of the statements on registers, branches and calls -/

/-- The instruction fires in a thread with other registers. -/
def tWith (f : Thread → Thread) (i : Instr) (l r x : W) : State := tWorld [(0, f { tThread with block := some (tBlock i l r x) })]

/-- At USER level. -/
def asUser (th : Thread) : Thread := { th with regs := { th.regs with priv := lUSER } }

/-- At SUPER level. -/
def asSuper (th : Thread) : Thread := { th with regs := { th.regs with priv := lSUPER } }

/-- With a TRAPPC. -/
def withTrappc (a : W) (th : Thread) : Thread := { th with regs := { th.regs with trappc := a } }

/-- With live return addresses, SPC and an overflow area. -/
def withRas (n : Nat) (spc : BitVec 20) (ovf : W) (th : Thread) : Thread :=
  { th with ras := List.replicate n 0x2000, regs := { th.regs with spc := spc, ovfptr := ovf } }

/-- With one branch of the block fired. -/
def branched (th : Thread) : Thread := { th with block := th.block.map (fun b => { b with branches := 1, choice := some .stop }) }

theorem test_hyp_RegisterInstructions :
    (∀ e ∈ [.grd t1L 0 .none, .grd t1L 63 .none, .gwr 63 .none, .mrd t1L 15 .none, .mwait t1L 15, .mfull t1L 15 .none].map tZero,
      ∃ q, Fires e.1 e.2 q) ∧
    (∃ q, Fires (tAt (.mwr 15 .none) 5 0 0) (.mwr 15 .none) q ∧ ¬((15 : BitVec 4) = 15 ∧ q.th.regs.priv = lUSER)) ∧
    (∃ q, Fires (tWith asUser (.mwr 14 .none) 5 0 0) (.mwr 14 .none) q ∧ ¬((14 : BitVec 4) = 15 ∧ q.th.regs.priv = lUSER)) ∧
    (∃ q, Fires (tWith asUser (.mwr 15 .none) 5 0 0) (.mwr 15 .none) q ∧ q.th.regs.priv = lUSER) :=
  ⟨fires_all (by decide), firesP (by decide), firesP (by decide), firesP (by decide)⟩

theorem test_hyp_BranchInstructions :
    (∃ q, Fires (tAt (.br 0x80000 0 .none) 0 0 0) (.br 0x80000 0 .none) q ∧ q.b.branches = 0) ∧
    (∃ q, Fires (tWith branched (.br 1 0 .none) 0 0 0) (.br 1 0 .none) q ∧ q.b.branches ≠ 0) ∧
    (∃ q, Fires (tAt (.brx 0 .none) 0x2010 0 0) (.brx 0 .none) q ∧ q.b.branches = 0 ∧ (atL q).toNat % 16 = 0) ∧
    (∃ q, Fires (tAt (.brx 0 .none) 0x200F 0 0) (.brx 0 .none) q ∧ (atL q).toNat % 16 ≠ 0) ∧
    (∃ q, Fires (tAt (.stop 0 .none) 0 0 0) (.stop 0 .none) q ∧ q.b.branches = 0) ∧
    (∃ q, Fires (tWith asSuper (.tret 0 .none) 0 0 0) (.tret 0 .none) q ∧ q.th.regs.priv ≠ lUSER ∧ q.b.branches = 0 ∧
      q.th.regs.trappc.toNat % 16 = 0) ∧
    (∃ q, Fires (tWith (withTrappc 0x2001) (.tret 0 .none) 0 0 0) (.tret 0 .none) q ∧ q.th.regs.priv ≠ lUSER ∧
      q.th.regs.trappc.toNat % 16 ≠ 0) ∧
    (∃ q, Fires (tWith asUser (.tret 0 .none) 0 0 0) (.tret 0 .none) q ∧ q.th.regs.priv = lUSER) :=
  by and_intros <;> exact firesP (by decide)

theorem test_hyp_CallsAndReturns :
    (∃ q, Fires (tWith (withRas 15 0 0) (.call 1 0 .none) 0 0 0) (.call 1 0 .none) q ∧ q.b.branches = 0 ∧ q.th.ras.length < 16) ∧
    (∃ q, Fires (tWith (withRas 0 0 0) (.callx 0 .none) 0x2010 0 0) (.callx 0 .none) q ∧ q.b.branches = 0 ∧ (atL q).toNat % 16 = 0 ∧
      q.th.ras.length < 16) ∧
    (∃ q, Fires (tWith (withRas 16 0xFFFFF 0x2000) (.call 1 0 .none) 0 0 0) (.call 1 0 .none) q ∧ q.b.branches = 0 ∧
      16 ≤ q.th.ras.length ∧ q.th.regs.spc = 0xFFFFF) ∧
    (∃ q, Fires (tWith (withRas 16 0 0) (.call 1 0 .none) 0 0 0) (.call 1 0 .none) q ∧ q.b.branches = 0 ∧ 16 ≤ q.th.ras.length ∧
      carveBytes q.th.regs ≤ 8 * q.th.regs.spc.toNat ∧ overflowAbsent q.th.regs = true) ∧
    (∃ q, Fires (tWith (withRas 16 0 0x2000) (.call 1 0 .none) 0 0 0) (.call 1 0 .none) q ∧ q.b.branches = 0 ∧ 16 ≤ q.th.ras.length ∧
      q.th.regs.spc ≠ 0xFFFFF ∧ overflowAbsent q.th.regs = false ∧
      okB (spillAccess (tWith (withRas 16 0 0x2000) (.call 1 0 .none) 0 0 0) q .store 0 (q.th.ras.headD 0)).1 (fun _ => true) = true) ∧
    (∃ q, Fires (tWith (withRas 16 0 0xF0000) (.call 1 0 .none) 0 0 0) (.call 1 0 .none) q ∧ q.b.branches = 0 ∧ 16 ≤ q.th.ras.length ∧
      q.th.regs.spc ≠ 0xFFFFF ∧ overflowAbsent q.th.regs = false ∧
      errB (spillAccess (tWith (withRas 16 0 0xF0000) (.call 1 0 .none) 0 0 0) q .store 0 (q.th.ras.headD 0)).1 (fun _ => true) = true) ∧
    (∃ q, Fires (tAt (.callx 0 .none) 1 0 0) (.callx 0 .none) q ∧ q.b.branches = 0 ∧ (atL q).toNat % 16 ≠ 0) ∧
    (∃ q, Fires (tWith (withRas 1 0 0) (.ret 0 .none) 0 0 0) (.ret 0 .none) q ∧ q.b.branches = 0 ∧ q.th.ras.getLast? = some 0x2000) ∧
    (∃ q, Fires (tWith (withRas 0 0 0) (.ret 0 .none) 0 0 0) (.ret 0 .none) q ∧ q.b.branches = 0 ∧ q.th.ras = [] ∧ q.th.regs.spc = 0) ∧
    (∃ q, Fires (tWith (withRas 0 1 0x2000) (.ret 0 .none) 0 0 0) (.ret 0 .none) q ∧ q.b.branches = 0 ∧ q.th.ras = [] ∧
      q.th.regs.spc ≠ 0 ∧
      okB (spillAccess (tWith (withRas 0 1 0x2000) (.ret 0 .none) 0 0 0) q (.load false) 0 0).1 (fun _ => true) = true) ∧
    (∃ q, Fires (tWith (withRas 0 1 0xF0000) (.ret 0 .none) 0 0 0) (.ret 0 .none) q ∧ q.b.branches = 0 ∧ q.th.ras = [] ∧
      q.th.regs.spc ≠ 0 ∧
      errB (spillAccess (tWith (withRas 0 1 0xF0000) (.ret 0 .none) 0 0 0) q (.load false) 0 0).1 (fun _ => true) = true) :=
  by and_intros <;> exact firesP (by decide +kernel)

/-- The slot that fires has no value at port L. -/
def withoutL (th : Thread) : Thread :=
  { th with block := th.block.map (fun b => { b with slots := b.slots.modify 0 (fun sl => { sl with l := none }) }) }

theorem test_hyp_PredicationHoldsBack :
    (∃ q, firing (tWith withoutL (.add noTarget t1L .w64 .none) 0 0 0) = some q ∧
      portsReady q.sl (.add noTarget t1L .w64 .none) = false) ∧
    (∃ q, firing (tAt (.add noTarget t1L .w64 .onTrue) 0 0 2) = some q ∧ portsReady q.sl (.add noTarget t1L .w64 .onTrue) = true ∧
      polarity (instrPm (.add noTarget t1L .w64 .onTrue)) q.sl.x = false) ∧
    (∃ q, firing (tAt (.add noTarget t1L .w64 .onFalse) 0 0 3) = some q ∧ portsReady q.sl (.add noTarget t1L .w64 .onFalse) = true ∧
      polarity (instrPm (.add noTarget t1L .w64 .onFalse)) q.sl.x = false) ∧ IsControl (.add noTarget t1L .w64 .onTrue) :=
  ⟨⟨_, rfl, rfl⟩, ⟨_, rfl, rfl, rfl⟩, ⟨_, rfl, rfl, rfl⟩, rfl⟩


/-! ### Hypotheses of the statements on memory accesses and engine instructions -/

/-- The world with words in memory, at an offset of its first page. -/
def withWords (s : State) (off : Nat) (ws : List W) : State :=
  { s with mem := { s.mem with bytes := cellsPut s.mem.bytes (2 ^ 40 + off) (wordBytes ws) } }

/-- An access of this package resolves, and raises no data fault. -/
def hereB (s : State) (q : Firing) (ak : AccKind) (k : AccessKind) (n : Nat) (ap : Bool) (m : BitVec 9) (l : BitVec 5) : Bool :=
  okB (resolveThread s q.th ak n ap (effAddr (atL q) m n)) (fun r => isHere r.loc && !proofHolds s q k r (effAddr (atL q) m n) n &&
    (dataFault s (asidOf q.th) q.th.pts (mergedBytes s (asidOf q.th) q.b l.toNat) k r.loc n (atR q)).1.isNone)

/-- The last bytes that the TLB entry reaches. -/
def tLast (i : Instr) : State := withWords (tAt i 0xFFF8 0x8877665544332211 0) 0xFFF8 [0x8070605040302010]

theorem test_hyp_LoadsDeliver : ∀ e ∈ loadForms t1L 0 31 .none,
    ∃ q, Fires (tLast e.1) e.1 q ∧ hereB (tLast e.1) q .load (.load e.2.1) e.2.2.1 e.2.2.2 0 31 = true :=
  firesP_all (by decide +kernel)

theorem test_hyp_StoresAreRecorded : ∀ e ∈ storeForms 0 31 .none,
    ∃ q, Fires (tLast e.1) e.1 q ∧ hereB (tLast e.1) q .store .store e.2.1 e.2.2 0 31 = true :=
  firesP_all (by decide +kernel)

theorem test_hyp_AtomicsDeliverTheOldValue : ∀ e ∈ atomicForms t1L 0 31 .none 0,
    ∃ q, Fires (tLast e.1) e.1 q ∧ atX q = 0 ∧ hereB (tLast e.1) q .atomic e.2 8 false 0 31 = true :=
  firesP_all (by decide +kernel)

/-- Channel 15 of the aperture. -/
def tAper : W := 0xA000000000000F00

/-- Every access at 0x10001, misaligned for more than a byte; at 0x10000, which no entry translates; beyond the window of tag 8; with a tag
that names no space; and in the aperture where it is not reached. -/
theorem test_hyp_AccessFaults : (∀ e ∈ (accessForms t1L 0 0 .none).filter (fun e => e.2.2.1 != 1),
      ∃ q, Fires (tAt e.1 0x10001 0 0) e.1 q ∧ (effAddr (atL q) 0 e.2.2.1).toNat % e.2.2.1 ≠ 0) ∧
    (∀ e ∈ (accessForms t1L 0 0 .none), ∃ q, Fires (tAt e.1 0x10000 0 0) e.1 q ∧
      errB (resolveThread (tAt e.1 0x10000 0 0) q.th e.2.1 e.2.2.1 e.2.2.2 (effAddr (atL q) 0 e.2.2.1)) (fun _ => true) = true ∧
      (effAddr (atL q) 0 e.2.2.1).extractLsb' 60 4 = 0 ∧ (effAddr (atL q) 0 e.2.2.1).toNat % e.2.2.1 = 0 ∧
      errB (xlate (tAt e.1 0x10000 0 0) (whoThread (tAt e.1 0x10000 0 0) q.th (effAddr (atL q) 0 e.2.2.1) e.2.2.1) e.2.1
        (effAddr (atL q) 0 e.2.2.1)) (fun _ => true) = true) ∧
    (∀ e ∈ (accessForms t1L 0 0 .none), ∃ q, Fires (tAt e.1 0x8000000000400000 0 0) e.1 q ∧ (effAddr (atL q) 0 e.2.2.1).toNat % e.2.2.1 = 0 ∧
      (effAddr (atL q) 0 e.2.2.1).extractLsb' 60 4 = 8 ∧ (effAddr (atL q) 0 e.2.2.1).extractLsb' 22 38 ≠ 0) ∧
    (∀ e ∈ (accessForms t1L 0 0 .none), ∃ q, Fires (tAt e.1 0xB000000000000000 0 0) e.1 q ∧ (effAddr (atL q) 0 e.2.2.1).toNat % e.2.2.1 = 0 ∧
      (effAddr (atL q) 0 e.2.2.1).extractLsb' 60 4 = 11) ∧
    (∀ e ∈ (accessForms t1L 0 0 .none).filter (fun e => !e.2.2.2), ∃ q, Fires (tAt e.1 tAper 0 0) e.1 q ∧
      (effAddr (atL q) 0 e.2.2.1).toNat % e.2.2.1 = 0 ∧ (effAddr (atL q) 0 e.2.2.1).extractLsb' 60 4 = 10 ∧ e.2.2.2 = false) :=
  ⟨firesP_all (by decide +kernel), firesP_all (by decide +kernel), firesP_all (by decide +kernel), firesP_all (by decide +kernel),
    firesP_all (by decide +kernel)⟩

/-- Loads of the last bytes: little-endian, extended by zeros and by the sign (R120). -/
theorem test_lds16 : (match exec (.lds16 t1L 6 0 .none) (withWords (tAt (.lds16 t1L 6 0 .none) 0x100 0 0) 0x100 [0, 0x8070605040302010]) with
    | .next u => (aget u.threads 0).bind (fun th => th.block.bind (fun b => b.slots[1]?.bind (fun sl => sl.l)))
    | _ => none) = some 0x0000000000006050 := by decide +kernel

theorem test_lds32 : (match exec (.lds32 t1L 3 0 .none) (withWords (tAt (.lds32 t1L 3 0 .none) 0x100 0 0) 0x100 [0, 0x8070605040302010]) with
    | .next u => (aget u.threads 0).bind (fun th => th.block.bind (fun b => b.slots[1]?.bind (fun sl => sl.l)))
    | _ => none) = some 0xFFFFFFFF80706050 := by decide +kernel

theorem test_hyp_ApertureAccesses :
    (∃ q, Fires (tAt (.st64 0 0 .none) tAper 63 0) (.st64 0 0 .none) q ∧ esetTaken (tAt (.st64 0 0 .none) tAper 63 0) q.th = false ∧
      okB (resolveThread (tAt (.st64 0 0 .none) tAper 63 0) q.th .store 8 true (effAddr (atL q) 0 8)) (fun r => r.loc == .aper 15 &&
        !proofHolds (tAt (.st64 0 0 .none) tAper 63 0) q .store r (effAddr (atL q) 0 8) 8) = true ∧
      (atR q).extractLsb' 6 26 = 0 ∧ queueFull (tAt (.st64 0 0 .none) tAper 63 0) q.th.home.eset 15 q.b = false) ∧
    (∃ q, Fires (tAt (.st64 0 0 .none) tAper 64 0) (.st64 0 0 .none) q ∧ esetTaken (tAt (.st64 0 0 .none) tAper 64 0) q.th = false ∧
      okB (resolveThread (tAt (.st64 0 0 .none) tAper 64 0) q.th .store 8 true (effAddr (atL q) 0 8)) (fun r => r.loc == .aper 15 &&
        !proofHolds (tAt (.st64 0 0 .none) tAper 64 0) q .store r (effAddr (atL q) 0 8) 8) = true ∧
      (atR q).extractLsb' 6 26 ≠ 0) ∧
    (∃ q, Fires (tAt (.ld64 t1L 0 0 .none) tAper 0 0) (.ld64 t1L 0 0 .none) q ∧
      esetTaken (tAt (.ld64 t1L 0 0 .none) tAper 0 0) q.th = false ∧
      okB (resolveThread (tAt (.ld64 t1L 0 0 .none) tAper 0 0) q.th .load 8 true (effAddr (atL q) 0 8)) (fun r => r.loc == .aper 15) = true ∧
      (chanOf (tAt (.ld64 t1L 0 0 .none) tAper 0 0) q.th.home.eset 15).isSome = true) :=
  ⟨firesP (by decide +kernel), firesP (by decide +kernel), firesP (by decide +kernel)⟩

/-- The record at 0x1000. -/
def tRec (i : Instr) (l r : W) (ws : List W) : State := withWords (tAt i l r 0) 0x1000 ws

/-- The slot of the instruction that would fire is held at its gate, and p holds of it. -/
def heldB (s : State) (i : Instr) (p : Firing → Bool) : Bool :=
  match firing s with
  | some q => portsReady q.sl i && polarity (instrPm i) q.sl.x && (decide (s.cur = (q.t, q.k)) && decide (slotInstr q.sl = some i) &&
      decide (q.sl.phase = .gated) && threadRuns s q.th && p q)
  | none => false

theorem heldB_spec {s : State} {i : Instr} {p : Firing → Bool} (h : heldB s i p = true) : ∃ q, Gated s i q ∧ p q = true := by
  unfold heldB at h
  split at h
  · rename_i q hq
    simp only [Bool.and_eq_true, decide_eq_true_eq] at h
    obtain ⟨⟨h1, h2⟩, ⟨⟨⟨h3, h4⟩, h5⟩, h6⟩, h7⟩ := h
    have hs : lookAt s q = s := by rw [lookAt, ← h3]
    exact ⟨q, ⟨by rw [hs]; exact ⟨hq, h1, h2⟩, h4, h5, h6⟩, h7⟩
  · cases h

theorem heldP {s : State} {i : Instr} {P : Firing → Prop} [DecidablePred P] (h : heldB s i (fun q => decide (P q)) = true) :
    ∃ q, Gated s i q ∧ P q := by
  obtain ⟨q, h, hp⟩ := heldB_spec h
  exact ⟨q, h, of_decide_eq_true hp⟩

/-- Every member of a list: its instruction is held at its gate in its state, with what P says. -/
theorem heldP_all {α : Type} {l : List α} {f : α → State} {g : α → Instr} {P : α → Firing → Prop} [∀ a q, Decidable (P a q)]
    (h : l.all (fun e => heldB (f e) (g e) (fun q => decide (P e q))) = true) : ∀ e ∈ l, ∃ q, Gated (f e) (g e) q ∧ P e q := by
  intro e he
  obtain ⟨q, h, hp⟩ := heldB_spec (List.all_eq_true.mp h e he)
  exact ⟨q, h, of_decide_eq_true hp⟩

/-- The slot that fires is held at its gate. -/
def gatedIn (s : State) : State :=
  updThread s 0 (fun th => { th with block := th.block.map (fun b => { b with slots := modAt b.slots 0 (fun sl => { sl with phase := .gated }) }) })

/-- The record at an address can be read by the thread that fires, and f holds of its words. -/
def recordB (s : State) (q : Firing) (a : W) (n : Nat) (f : List W → Bool) : Bool :=
  match readRecord s q a n with
  | .ok parts => f (wordsOf (n / 8) (recBytes parts))
  | _ => false


/-- A template that copies one row of 16 n8 elements from 0x100 to 0x200 (R264). -/
def tTmpl : List W := [0x100, 0x200, 0, 0, 0x0010000100100001, 0x82, 0, 0]

/-- The same with 0 rows, which R265 forbids. -/
def tBadTmpl : List W := [0x100, 0x200, 0, 0, 0x0010000100100000, 0x82, 0, 0]

theorem test_hyp_EngineSetInstructions :
    (∃ q, Fires (tRec (.tmpl .none) 0x1000 63 tTmpl) (.tmpl .none) q ∧ esetTaken (tRec (.tmpl .none) 0x1000 63 tTmpl) q.th = false ∧
      (atL q).toNat % 64 = 0 ∧ (atR q).extractLsb' 6 58 = 0 ∧
      recordB (tRec (.tmpl .none) 0x1000 63 tTmpl) q (atL q) 64 tmplOk = true) ∧
    (∃ q, Fires (tRec (.tmpl .none) 0x1000 64 tTmpl) (.tmpl .none) q ∧ (atL q).toNat % 64 = 0 ∧ (atR q).extractLsb' 6 58 ≠ 0) ∧
    (∃ q, Fires (tRec (.tmpl .none) 0x1000 0 tBadTmpl) (.tmpl .none) q ∧ (atL q).toNat % 64 = 0 ∧ (atR q).extractLsb' 6 58 = 0 ∧
      recordB (tRec (.tmpl .none) 0x1000 0 tBadTmpl) q (atL q) 64 (fun ws => !tmplOk ws) = true) ∧
    (∃ q, Fires (tRec (.tmpl .none) 0x1020 0 tTmpl) (.tmpl .none) q ∧ (atL q).toNat % 64 ≠ 0) ∧
    (∀ e ∈ ([(.evxTerm .none, 31), (.evxTerm .none, 32), (.evxCnt .none, 15), (.evxCnt .none, 16), (.evxTgt .none, 511),
        (.evxTgt .none, 512), (.evxPulse .none, 48), (.evxPulse .none, 63), (.evxPulse .none, 64)] : List (Instr × W)),
      ∃ q, Fires (tAt e.1 e.2 0 0) e.1 q ∧ esetTaken (tAt e.1 e.2 0 0) q.th = false ∧
        unconfirmed (tAt e.1 e.2 0 0) q.th.home.crew = false) ∧
    (∃ q, Gated (gatedIn (tRec (.tmpl .none) 0x1000 63 tTmpl)) (.tmpl .none) q ∧
      esetTaken (gatedIn (tRec (.tmpl .none) 0x1000 63 tTmpl)) q.th = false ∧ (atL q).toNat % 64 = 0 ∧ (atR q).extractLsb' 6 58 = 0 ∧
      recordB (lookAt (gatedIn (tRec (.tmpl .none) 0x1000 63 tTmpl)) q) q (atL q) 64 tmplOk = true) ∧
    (∀ e ∈ ([(.evxTerm .none, 31), (.evxCnt .none, 15), (.evxTgt .none, 511), (.evxPulse .none, 63)] : List (Instr × W)),
      ∃ q, Gated (gatedIn (tAt e.1 e.2 0 0)) e.1 q ∧ esetTaken (gatedIn (tAt e.1 e.2 0 0)) q.th = false ∧
        unconfirmed (gatedIn (tAt e.1 e.2 0 0)) q.th.home.crew = false) :=
  ⟨firesP (by decide +kernel), firesP (by decide +kernel), firesP (by decide +kernel), firesP (by decide +kernel),
    firesP_all (f := fun e : Instr × W => tAt e.1 e.2 0 0) (g := fun e => e.1) (by decide +kernel), heldP (by decide +kernel),
    heldP_all (f := fun e : Instr × W => gatedIn (tAt e.1 e.2 0 0)) (g := fun e => e.1) (by decide +kernel)⟩

/-- Channel 15 and counter 15 at a count of 5. -/
def tCounted (i : Instr) (l r : W) : State :=
  { tAt i l r 0 with
    esets := [(0, { EngineSet.fresh ⟨1, 0, 0⟩ 0 with
      channels := List.replicate 16 { Channel.reset with ccnt := 5 }, counters := List.replicate 16 { Counter.reset with count := 5 } })] }

/-- A gate of an engine set, with the count that it looks at. -/
def gateB (s : State) (q : Firing) (chan : Bool) (f : Nat → Bool) : Bool :=
  !esetTaken s q.th && (match aget s.esets q.th.home.eset with
    | some x => if chan then x.channels[(atL q).toNat]?.any (fun c => f (c.ccnt - (atR q).setWidth 32).toNat)
      else x.counters[(atL q).toNat]?.any (fun c => f c.count)
    | none => false)

theorem test_hyp_EngineGates :
    (∃ q, Fires (tCounted (.waitc noTarget t1L .none) 15 5) (.waitc noTarget t1L .none) q ∧
      gateB (tCounted (.waitc noTarget t1L .none) 15 5) q true (fun d => decide (d < 2 ^ 31)) = true) ∧
    (∃ q, Fires (tCounted (.waitc noTarget t1L .none) 15 6) (.waitc noTarget t1L .none) q ∧ q.sl.phase ≠ .gated ∧
      gateB (tCounted (.waitc noTarget t1L .none) 15 6) q true (fun d => decide (2 ^ 31 ≤ d)) = true) ∧
    (∃ q, Fires (tCounted (.waite noTarget t1L .none) 15 5) (.waite noTarget t1L .none) q ∧
      gateB (tCounted (.waite noTarget t1L .none) 15 5) q false (fun n => decide (5 ≤ n)) = true) ∧
    (∃ q, Fires (tCounted (.waite noTarget t1L .none) 15 6) (.waite noTarget t1L .none) q ∧ q.sl.phase ≠ .gated ∧
      gateB (tCounted (.waite noTarget t1L .none) 15 6) q false (fun n => decide (n < 6)) = true) ∧
    (∀ e ∈ ([(.waitc noTarget t1L .none, 16, 0), (.waitc noTarget t1L .none, 15, 0x100000000), (.waite noTarget t1L .none, 15, 0x10000)] : List (Instr × W × W)),
      ∃ q, Fires (tCounted e.1 e.2.1 e.2.2) e.1 q ∧ esetTaken (tCounted e.1 e.2.1 e.2.2) q.th = false) ∧
    (∃ q, Gated (gatedIn (tCounted (.waitc noTarget t1L .none) 15 5)) (.waitc noTarget t1L .none) q ∧
      gateB (gatedIn (tCounted (.waitc noTarget t1L .none) 15 5)) q true (fun d => decide (d < 2 ^ 31)) = true) ∧
    (∃ q, Gated (gatedIn (tCounted (.waite noTarget t1L .none) 15 5)) (.waite noTarget t1L .none) q ∧
      gateB (gatedIn (tCounted (.waite noTarget t1L .none) 15 5)) q false (fun n => decide (5 ≤ n)) = true) ∧
    (∃ q, Gated (gatedIn (tAt (.st64 0 0 .none) tAper 63 0)) (.st64 0 0 .none) q ∧ effAddr (atL q) 0 8 = tAper ∧
      (atR q).extractLsb' 6 26 = 0 ∧ unconfirmed (gatedIn (tAt (.st64 0 0 .none) tAper 63 0)) q.th.home.crew = false ∧
      esetTaken (gatedIn (tAt (.st64 0 0 .none) tAper 63 0)) q.th = false ∧
      (chanOf (gatedIn (tAt (.st64 0 0 .none) tAper 63 0)) q.th.home.eset 15).isSome = true ∧
      queueFull (gatedIn (tAt (.st64 0 0 .none) tAper 63 0)) q.th.home.eset 15 q.b = false) :=
  ⟨firesP (by decide +kernel), firesP (by decide +kernel), firesP (by decide +kernel), firesP (by decide +kernel),
    firesP_all (f := fun e : Instr × W × W => tCounted e.1 e.2.1 e.2.2) (g := fun e => e.1) (by decide +kernel),
    heldP (by decide +kernel), heldP (by decide +kernel), heldP (by decide +kernel)⟩

/-- A graph block of one AGEN node in mode AFFINE, of one beat of one position, on one page (R69, R70, R79, R179). -/
def tGraph : List W :=
  [0x0000000020600002, 0x91FB811D00000000, 0xA022000000001200, 0, 0x0001000100010001, 0x0000800000000000, 0, 0, 8, 0, 0, 0]

/-- CFG of that block at 0x2000, for cell 0 with page 0 in role AG. -/
def tCfg (l r : W) : State := withWords (tAt (.cfg .none) l r 0) 0x2000 tGraph

/-- Everything that CfgReady asks of a CFG. -/
def cfgB (s : State) (q : Firing) : Bool :=
  decide ((atL q).toNat % 16 = 0) && (decide ((atR q).extractLsb' 40 24 = 0) &&
  ((cellAt s q.th.home.crew (field (atR q) 0 4)).elim true (fun e => drained e.2) &&
  (match fetchBytes s (whoThread s q.th (atL q) 16) .graph (atL q) 16 with
   | none => false
   | some hb =>
     let h : BitVec 128 := BitVec.ofNat 128 (leVal hb)
     let old := cellAt s q.th.home.crew (field (atR q) 0 4)
     match graphOrFetch s q (atL q) (atR q) h with
     | none => false
     | some bs =>
       decide (h.extractLsb' 0 4 = 2) && (decide (0 < (h.extractLsb' 29 8).toNat) && (pagesFit s q.th.home.crew old (h.extractLsb' 29 8).toNat &&
       (rolesOk (atR q) (h.extractLsb' 29 8).toNat &&
       (decide ((h.extractLsb' 29 8).toNat ≤ pagesAvail s q.th.home.crew q.th.home.cluster (field (atR q) 0 4)) &&
       (decide (connCheck s (graphOf bs) bs ((List.range 16).map (roleOf (atR q))) (diesOf s q.th.home.crew.asid) q.th.home.crew.asid
         (old.elim s.nextId (fun e => e.1)) (field (atR q) 0 4) (spillOf s q.th.home.crew) = none) &&
       cfgOpen s q.th (field (atR q) 0 4) (graphOf bs) old))))))))

theorem cfgB_spec {s : State} {q : Firing} (h : cfgB s q = true) : ∃ h bs, CfgReady s q h bs := by
  unfold cfgB at h
  simp only [Bool.and_eq_true, decide_eq_true_eq] at h
  obtain ⟨h1, h2, h3, h4⟩ := h
  split at h4
  · cases h4
  · rename_i hb hhb
    split at h4
    · cases h4
    · rename_i bs hbs
      simp only [Bool.and_eq_true, decide_eq_true_eq] at h4
      obtain ⟨h5, h6, h7, h8, h9, h10, h11⟩ := h4
      exact ⟨_, bs, ⟨h1, h2, h3, ⟨hb, hhb, rfl⟩, h5, h6, h7, h8, h9, hbs, h10, h11⟩⟩

/-- That CFG fires, ready. -/
theorem firesReady {s : State} {i : Instr} (h : firesB s i (cfgB s) = true) : ∃ q h bs, Fires s i q ∧ CfgReady s q h bs := by
  obtain ⟨q, hq, hp⟩ := firesB_spec h
  obtain ⟨h, bs, hr⟩ := cfgB_spec hp
  exact ⟨q, h, bs, hq, hr⟩

set_option maxRecDepth 20000 in
theorem test_hyp_CfgFires :
    (∃ q h bs, Fires (tCfg 0x2000 0) (.cfg .none) q ∧ CfgReady (tCfg 0x2000 0) q h bs) ∧
    (∃ q h bs, Gated (gatedIn (tCfg 0x2000 0)) (.cfg .none) q ∧ CfgReady (lookAt (gatedIn (tCfg 0x2000 0)) q) q h bs) ∧
    (∃ q, Fires (tCfg 0x2008 0) (.cfg .none) q ∧ (atL q).toNat % 16 ≠ 0) ∧
    (∃ q, Fires (tCfg 0x2000 0x10000000000) (.cfg .none) q ∧ (atL q).toNat % 16 = 0 ∧ (atR q).extractLsb' 40 24 ≠ 0) :=
  ⟨firesReady (by decide +kernel), by
      obtain ⟨q, hq, hp⟩ := heldB_spec (p := fun q => cfgB (lookAt (gatedIn (tCfg 0x2000 0)) q) q) (s := gatedIn (tCfg 0x2000 0))
        (i := .cfg .none) (by decide +kernel)
      obtain ⟨h, bs, hr⟩ := cfgB_spec hp
      exact ⟨q, h, bs, hq, hr⟩, firesP (by decide +kernel), firesP (by decide +kernel)⟩

/-! ### A small cell -/

/-- An order of one dim with an extent, of one lane and elements of EBYTES. -/
def tOrder (ext ebytes lanes : Nat) : Order := ⟨BitVec.ofNat 128 (ext + 16777216 * ebytes + 268435456 * lanes), ebytes, 0, 0, lanes,
  [(0, 15), (0, 0), (0, 0), (0, 0), (0, 0), (0, 0)], [ext, 1, 1, 1]⟩

/-- A port with waiting tokens: elements of a type, one lane. -/
def tPort (src elem : Nat) (q : List Token) : Port :=
  { fed := true, src := src, rep := false, free := false, lp := 1, le := 1, exp := tOrder 4 (ebytesOf (typeBits elem)) 0, elem := elem,
    link := [], rest := [], sent := 0, alen := none, store := none, q := q, pos := 0, begun := false, len := none, ended := false,
    poisoned := false, scalar := none, nscal := 0, scBase := 0, scBytes := [] }

/-- A port that nothing feeds. -/
def tNoPort : Port := { tPort 0 1 [] with fed := false }

/-- A node word. -/
def tWord (kind mode type : Nat) (outA outB : Option (Nat × Nat)) : NodeWord := ⟨kind, mode, type, 0, outA, outB, false, false, 0, 0, 0, 0⟩

/-- A node. -/
def tNode (w : NodeWord) (ps : List Port) (st : NodeState) : Node :=
  { word := w, params := [], ord := tOrder 4 (ebytesOf (typeBits w.type)) 0, ports := ps, st := st, outPosA := 0, outPosB := 0, failing := false, label := Label.zero,
    pts := 0, held := none, snap := none, late := [], lastFire := 0, probed := false, cnt := ⟨0, 0, 0, 0⟩,
    pendA := [], pendB := [], exc := ExcCount.zero }

/-- A page of a cell, its eight banks in mode CACHE. -/
def tPage : Page := ⟨0, 7, 0, List.replicate 8 ⟨.cache, false, 0, 0, none⟩⟩

/-- Cell 0 of the crew of thread 0, with nodes. -/
def tCell (nodes : List Node) : Cell :=
  { crew := ⟨1, 0, 0⟩, cluster := 0, cfg := ⟨0x2000, 0, 5, 1, [tOrder 4 1 0], [], 3, 0, lMGMT, 0, 0, 0⟩, pages := [tPage], nodes := nodes, halted := false,
    gated := false, sluices := [], entered := 0, drainedAt := 0, lastSink := 0,
    movedAt := 0, deferred := [], drainSig := Sig.zero }

/-- The world with that cell, of handle 50. -/
def tCells (s : State) (nodes : List Node) : State := { s with cells := [(50, tCell nodes)] }


/-! ### Hypotheses of the statements on streams, collectives, launches, messages and system instructions -/

/-- An AGEN of one AFFINE stream that holds none. -/
def tAgen (out : Option (Nat × Nat)) : Node :=
  { tNode (tWord kAGEN 0 34 out none) [tNoPort, tNoPort, tNoPort] (.mem MemState.fresh) with params := [8, 0] }

/-- STRM of node 0 of cell 0, with its record at 0x1000 (R132). -/
def tStrm (l r : W) : State := tCells (tRec (.strm .none) l r [0x100, 0, 0, 0]) [tAgen none]

/-- What StrmReady asks, of an AGEN whose order type is not ragged. -/
def strmB (s : State) (q : Firing) : Bool :=
  decide ((atR q).toNat % 16 = 0) && (decide ((atL q).toNat < 2 ^ 11) &&
  (match cellAt s q.th.home.crew ((atL q).toNat % 16) with
   | none => false
   | some (_, x) =>
     match x.nodes[(atL q).toNat / 16]? with
     | none => false
     | some nd =>
       match readRecord s q (atR q) 32 with
       | .ok parts => decide (nd.word.kind = kAGEN) && (decide ((memOf nd).starts = [] ∨ x.halted = true) &&
           (decide ((wordsOf 4 (recBytes parts)).getD 3 0 = 0) && decide (nd.ord.anyRagged = false)))
       | _ => false))

theorem strmB_spec {s : State} {q : Firing} (h : strmB s q = true) : ∃ c x nd parts, StrmReady s q c x nd parts := by
  unfold strmB at h
  simp only [Bool.and_eq_true, decide_eq_true_eq] at h
  obtain ⟨h1, h2, h3⟩ := h
  split at h3
  · cases h3
  · rename_i c x hx
    split at h3
    · cases h3
    · rename_i nd hn
      split at h3
      · rename_i parts hp
        simp only [Bool.and_eq_true, decide_eq_true_eq] at h3
        obtain ⟨h4, h5, h6, h7⟩ := h3
        exact ⟨c, x, nd, parts, ⟨h1, h2, hx, hn, h4, h5, hp, h6, fun h => by rw [h7] at h; cases h⟩⟩
      · cases h3

theorem test_hyp_StreamAndDrainInstructions :
    (∃ q c x nd parts, Fires (tStrm 0 0x1000) (.strm .none) q ∧ StrmReady (tStrm 0 0x1000) q c x nd parts) ∧
    (∃ q c x nd parts, Gated (gatedIn (tStrm 0 0x1000)) (.strm .none) q ∧ StrmReady (lookAt (gatedIn (tStrm 0 0x1000)) q) q c x nd parts) ∧
    (∃ q, Fires (tStrm 0 0x1008) (.strm .none) q ∧ (atR q).toNat % 16 ≠ 0) ∧
    (∃ q, Fires (tAt (.drainCell .none) 0xFFFF000F 0 0) (.drainCell .none) q ∧ (atL q).extractLsb' 32 32 = 0 ∧
      (atL q).extractLsb' 4 12 = 0) ∧
    (∃ q, Fires (tAt (.drainAll .none) 0xFFFF0000 0 0) (.drainAll .none) q ∧ (atL q).extractLsb' 32 32 = 0 ∧
      (atL q).extractLsb' 0 16 = 0) ∧
    (∃ q, Fires (tAt (.drainCell .none) 0x10 0 0) (.drainCell .none) q ∧
      ((atL q).extractLsb' 32 32 ≠ 0 ∨ (atL q).extractLsb' 4 12 ≠ 0)) ∧
    (∃ q, Fires (tAt (.drainAll .none) 1 0 0) (.drainAll .none) q ∧ ((atL q).extractLsb' 32 32 ≠ 0 ∨ (atL q).extractLsb' 0 16 ≠ 0)) :=
  ⟨by
      obtain ⟨q, hq, hp⟩ := firesB_spec (p := strmB (tStrm 0 0x1000)) (s := tStrm 0 0x1000) (i := .strm .none) (by decide +kernel)
      obtain ⟨c, x, nd, parts, hr⟩ := strmB_spec hp
      exact ⟨q, c, x, nd, parts, hq, hr⟩, by
      obtain ⟨q, hq, hp⟩ := heldB_spec (p := fun q => strmB (lookAt (gatedIn (tStrm 0 0x1000)) q) q) (s := gatedIn (tStrm 0 0x1000))
        (i := .strm .none) (by decide +kernel)
      obtain ⟨c, x, nd, parts, hr⟩ := strmB_spec hp
      exact ⟨q, c, x, nd, parts, hq, hr⟩, firesP (by decide +kernel), firesP (by decide +kernel), firesP (by decide +kernel),
    firesP (by decide +kernel), firesP (by decide +kernel)⟩

/-- A collective template: one f32 from 0x100 to 0x8000, one NEAR level of two members over peer index 1 (R301, R302). -/
def tColl : List W := [0x100, 0x8000, 0, 0x0000000B00000001, 0x0000000100000007, 0x0001000100000011, 0, 0]

/-- Context 1 with a publishable buffer of a page at 0x8000. -/
def tBufCtx : Context :=
  { tCtx with xlat := { tCtx.xlat with bufs := ⟨0x8000, 1, false, true, 0x10000020000, 0x10000030000, 0, none⟩ :: List.replicate 63 PubBuf.reset } }

/-- With that buffer, and a mapped peer entry 1. -/
def withBuf (s : State) : State :=
  { s with ctxs := [(1, tBufCtx)], pkg := { s.pkg with peers := [(0, ⟨true, false, 1, 5⟩), (1, ⟨true, false, 1, 6⟩), (2, ⟨true, false, 1, 7⟩)] } }

/-- A collective context of that template, with the steps given last started and last completed. -/
def tHeld (lstep cstep : BitVec 32) : Coll :=
  { die := 0, asid := 1, addr := 0x1000, tmpl := tColl, lstep := lstep, cstep := cstep, begun := true, some_ := true, cur := none, kept := [],
    label := Label.zero, pts := 0, starter := 0, level := lMGMT, eset := 0, aborted := [], lastAct := 0, probed := false, doneSig := Sig.zero }

/-- A machine that holds it. -/
def withColl (s : State) (lstep cstep : BitVec 32) : State := { s with colls := [(60, tHeld lstep cstep)] }

theorem test_hyp_CollectiveAndPublishInstructions :
    (∃ q, Fires (withBuf (tRec (.collStart .none) 0x1000 0xFFFFFFFF tColl)) (.collStart .none) q ∧
      unconfirmed (withBuf (tRec (.collStart .none) 0x1000 0xFFFFFFFF tColl)) q.th.home.crew = false ∧
      (atL q).toNat % 64 = 0 ∧ (atR q).toNat < 2 ^ 32 ∧
      recordB (withBuf (tRec (.collStart .none) 0x1000 0xFFFFFFFF tColl)) q (atL q) 64 (fun ws =>
        (collFault (useXlate (withBuf (tRec (.collStart .none) 0x1000 0xFFFFFFFF tColl)) q.th (atL q)) q.th (atL q) ((atR q).setWidth 32)
          ws).isNone) = true) ∧
    (∃ q, Fires (withColl (tAt (.collWait .none) 0x1000 5 0) 5 5) (.collWait .none) q ∧ (atL q).toNat % 64 = 0 ∧
      (atR q).toNat < 2 ^ 32 ∧ (collHere (withColl (tAt (.collWait .none) 0x1000 5 0) 5 5) q.th (atL q)).any (fun e =>
        e.2.some_ && decide ((e.2.cstep - (atR q).setWidth 32).toNat < 2 ^ 31)) = true) ∧
    (∃ q, Fires (withColl (tAt (.collEnd .none) 0x1000 0 0) 5 5) (.collEnd .none) q ∧ (atL q).toNat % 64 = 0 ∧ atR q = 0 ∧
      (collHere (withColl (tAt (.collEnd .none) 0x1000 0 0) 5 5) q.th (atL q)).any (fun e => e.2.cstep == e.2.lstep) = true) ∧
    (∃ q, Fires (withColl (tAt (.collEnd .none) 0x1000 0 0) 5 4) (.collEnd .none) q ∧ (atL q).toNat % 64 = 0 ∧ atR q = 0 ∧
      (collHere (withColl (tAt (.collEnd .none) 0x1000 0 0) 5 4) q.th (atL q)).any (fun e => e.2.cstep != e.2.lstep) = true ∧
      q.sl.phase ≠ .gated) ∧
    (∃ q, Fires (withBuf (tAt (.pub .none) 0x8FFF 0 0)) (.pub .none) q ∧
      (pubBuf (withBuf (tAt (.pub .none) 0x8FFF 0 0)) (asidOf q.th) (atL q)).any (fun e =>
        shadowQuiet (withBuf (tAt (.pub .none) 0x8FFF 0 0)) (asidOf q.th) e.2.1 e.2.2 q.b.born) = true) ∧
    (∃ q, Gated (gatedIn (withColl (tAt (.collWait .none) 0x1000 5 0) 5 5)) (.collWait .none) q ∧
      unconfirmed (gatedIn (withColl (tAt (.collWait .none) 0x1000 5 0) 5 5)) q.th.home.crew = false ∧
      (collHere (gatedIn (withColl (tAt (.collWait .none) 0x1000 5 0) 5 5)) q.th (atL q)).any (fun e =>
        e.2.some_ && decide ((e.2.cstep - (atR q).setWidth 32).toNat < 2 ^ 31)) = true) ∧
    (∃ q, Gated (gatedIn (withColl (tAt (.collEnd .none) 0x1000 0 0) 5 5)) (.collEnd .none) q ∧ atR q = 0 ∧
      (collHere (gatedIn (withColl (tAt (.collEnd .none) 0x1000 0 0) 5 5)) q.th (atL q)).any (fun e => e.2.cstep == e.2.lstep) = true) ∧
    (∃ q, Gated (gatedIn (withBuf (tAt (.pub .none) 0x8FFF 0 0))) (.pub .none) q ∧
      (pubBuf (gatedIn (withBuf (tAt (.pub .none) 0x8FFF 0 0))) (asidOf q.th) (atL q)).any (fun e =>
        shadowQuiet (gatedIn (withBuf (tAt (.pub .none) 0x8FFF 0 0))) (asidOf q.th) e.2.1 e.2.2 q.b.born) = true) ∧
    (∃ q, Fires (withBuf (tAt (.pub .none) 0x9000 0 0)) (.pub .none) q ∧
      pubBuf (withBuf (tAt (.pub .none) 0x9000 0 0)) (asidOf q.th) (atL q) = none) :=
  by and_intros <;> first | exact firesP (by decide +kernel) | exact heldP (by decide +kernel)

/-- A launch record: entry 0x1000, one shard of one crew, mailbox 3 at completion, g1 5 and g2 6 (R280). -/
def tLaunch : List W := [0x1000, 0x000000000E000009, 0, 0, 0, 0, 5, 6]

/-- A proofed launch record: one shard, IRMODE SPLIT, extent in rows of 1 byte, one row a cell, default 1, its window in the buffer. -/
def tProof : List W := [0x1000, 0x0000000001000041, 0, 0x0000000100000009, 0x0000000100000001, 0x8000, 0, 0]

/-- A launch of those words, still queued. -/
def tQueued (ws : List W) : Launch :=
  { words := ws, thread := 0, nbv := 3, priv := lUSER, q := 7, queued := true, telig := none, target := none, prio := 0, placedAt := 0, rows := 0,
    shape := none, crews := [], lastHalt := 0, lineMet := false }

/-- Context 1 with launch 9. -/
def withLaunch (s : State) (l : Launch) : State :=
  { s with ctxs := [(1, { tBufCtx with launches := [(9, l)], queues := (List.replicate 7 []) ++ [[9]], nextLaunch := 10 })] }

theorem test_hyp_LaunchAndWorkInstructions :
    (∃ q, Fires (tRec (.launch t1L 7 .none) 0x1000 0 tLaunch) (.launch t1L 7 .none) q ∧ (atL q).toNat % 64 = 0 ∧
      unconfirmed (tRec (.launch t1L 7 .none) 0x1000 0 tLaunch) q.th.home.crew = false ∧
      recordB (tRec (.launch t1L 7 .none) 0x1000 0 tLaunch) q (atL q) 64 (fun ws =>
        !launchProt (diesOf (tRec (.launch t1L 7 .none) 0x1000 0 tLaunch) (asidOf q.th)) ws &&
        (aget (tRec (.launch t1L 7 .none) 0x1000 0 tLaunch).ctxs (asidOf q.th)).any (fun c => !launchProof c ws &&
          decide ((c.queues.getD 7 []).length + launchesOf q.b 7 < 16))) = true) ∧
    (∃ q, Gated (gatedIn (tRec (.launch t1L 7 .none) 0x1000 0 tLaunch)) (.launch t1L 7 .none) q ∧ (atL q).toNat % 64 = 0 ∧
      unconfirmed (gatedIn (tRec (.launch t1L 7 .none) 0x1000 0 tLaunch)) q.th.home.crew = false ∧
      recordB (lookAt (gatedIn (tRec (.launch t1L 7 .none) 0x1000 0 tLaunch)) q) q (atL q) 64 (fun ws =>
        !launchProt (diesOf (gatedIn (tRec (.launch t1L 7 .none) 0x1000 0 tLaunch)) (asidOf q.th)) ws &&
        (aget (gatedIn (tRec (.launch t1L 7 .none) 0x1000 0 tLaunch)).ctxs (asidOf q.th)).any (fun c => !launchProof c ws &&
          decide ((c.queues.getD 7 []).length + launchesOf q.b 7 < 16))) = true) ∧
    (∃ q, Fires (tRec (.launch t1L 7 .none) 0x1020 0 tLaunch) (.launch t1L 7 .none) q ∧ (atL q).toNat % 64 ≠ 0) ∧
    (∃ q, Fires (withLaunch (tAt (.shape .none) 9 64 0) (tQueued tProof)) (.shape .none) q ∧
      (launchOf (withLaunch (tAt (.shape .none) 9 64 0) (tQueued tProof)) (asidOf q.th) (atL q).toNat).any (fun l =>
        wProof l.words && l.shape.isNone && decide ((atR q).toNat ≤ 64 * wCellrows l.words)) = true) ∧
    (∃ q, Fires (tAt (.shape .none) 9 64 0) (.shape .none) q ∧ launchOf (tAt (.shape .none) 9 64 0) (asidOf q.th) (atL q).toNat = none) ∧
    (∀ e ∈ [.take noTarget t1L .none, .yield .none, .cptag .none, .cpmark .none].map tZero, ∃ q, Fires e.1 e.2 q) :=
  ⟨firesP (by decide +kernel), heldP (by decide +kernel), firesP (by decide +kernel), firesP (by decide +kernel),
    firesP (by decide +kernel), fires_all (by decide +kernel)⟩

/-- Two threads of context 1 on cluster 0, in slots 0 and 15. -/
def tPair (i : Instr) (l r : W) : State :=
  { tAt i l r 0 with threads := (tAt i l r 0).threads ++ [(1, { tThread with home := { tThread.home with slot := 15 } })] }

theorem test_hyp_MessageInstructions :
    (∀ e ∈ [.msend 14 .none, .msendw 0 .none], ∃ q, Fires (tPair e 15 0) e q ∧ unconfirmed (tPair e 15 0) q.th.home.crew = false ∧
      okB (destOf (tPair e 15 0) q.th (atL q) false false) (fun _ => true) = true) ∧
    (∃ q, Fires (tPair (.mbcast 14 .none) 0x8001000000000000 0) (.mbcast 14 .none) q ∧
      okB (destOf (tPair (.mbcast 14 .none) 0x8001000000000000 0) q.th (atL q) true false) (fun _ => true) = true) ∧
    (∃ q, Fires (tPair (.steal .none) 15 0) (.steal .none) q ∧
      okB (destOf (tPair (.steal .none) 15 0) q.th (atL q) false true) (fun d => d == .here [1]) = true) ∧
    (∃ q, Fires (tPair (.msend 14 .none) 14 0) (.msend 14 .none) q ∧
      errB (destOf (tPair (.msend 14 .none) 14 0) q.th (atL q) false false) (fun _ => true) = true) ∧
    (∃ q, Fires (tPair (.steal .none) 0x10000 0) (.steal .none) q ∧
      errB (destOf (tPair (.steal .none) 0x10000 0) q.th (atL q) false true) (fun _ => true) = true) :=
  ⟨firesP_all (f := fun e : Instr => tPair e 15 0) (g := fun e => e) (by decide +kernel), firesP (by decide +kernel),
    firesP (by decide +kernel), firesP (by decide +kernel), firesP (by decide +kernel)⟩

/-- A context 2 of the same partition, saved or not. -/
def withTwo (saved : Bool) (s : State) : State := { s with ctxs := [(1, tCtx), (2, { Context.fresh 0 with saved := saved })] }

/-- What CTXSAVE or CTXLOAD asks of the contexts and of the image. -/
def ctxB (s : State) (q : Firing) (saved : Bool) (k : AccKind) : Bool :=
  (match aget s.ctxs 2, aget s.ctxs (asidOf q.th) with
   | some c, some me => me.part == c.part && c.saved == saved
   | _, _ => false) &&
  (badPage s ⟨asidOf q.th, lMGMT, dieOf q.th.home.cluster, false⟩ k (atR q) 1).isNone

theorem test_hyp_SystemInstructions :
    (∃ q, Fires (tWith asUser (.sysrd t1L 5 22 .none) 0 0 0) (.sysrd t1L 5 22 .none) q ∧ readLevel 5 22 ≤ q.th.regs.priv) ∧
    (∃ q, Fires (tWith asUser (.sysrd t1L 1 0 .none) 0 0 0) (.sysrd t1L 1 0 .none) q ∧ q.th.regs.priv < readLevel 1 0) ∧
    (∃ q, Fires (tAt (.syswr 0 8 .none) 3 0 0) (.syswr 0 8 .none) q ∧
      sysFault (tAt (.syswr 0 8 .none) 3 0 0) q.t 0 8 (atL q) = none) ∧
    (∃ q, Fires (tWith asSuper (.syswr 4 0 .none) 3 0 0) (.syswr 4 0 .none) q ∧
      (aget (tWith asSuper (.syswr 4 0 .none) 3 0 0).ctxs (asidOf q.th)).isSome = true ∧ q.th.regs.priv < writeLevel 4 0) ∧
    (∃ q, Fires (tWith asSuper (.tlbiAddr .none) 0x1000 1 0) (.tlbiAddr .none) q ∧ q.th.regs.priv ≠ lUSER ∧
      (q.th.regs.priv = lMGMT ∨ (atR q).toNat % 4096 = asidOf q.th) ∧ (atR q).toNat < 4096) ∧
    (∃ q, Fires (tAt (.tlbiAddr .none) 0x1000 4095 0) (.tlbiAddr .none) q ∧ q.th.regs.priv ≠ lUSER ∧
      (q.th.regs.priv = lMGMT ∨ (atR q).toNat % 4096 = asidOf q.th) ∧ (atR q).toNat < 4096) ∧
    (∃ q, Fires (tWith asSuper (.tlbiAsid .none) 1 0 0) (.tlbiAsid .none) q ∧ q.th.regs.priv ≠ lUSER ∧
      (q.th.regs.priv = lMGMT ∨ (atL q).toNat % 4096 = asidOf q.th) ∧ (atL q).toNat < 4096) ∧
    (∃ q, Fires (tAt (.tlbiAll .none) 0 0 0) (.tlbiAll .none) q ∧ q.th.regs.priv = lMGMT) ∧
    (∃ q, Fires (tWith asSuper (.tlbiAll .none) 0 0 0) (.tlbiAll .none) q ∧ q.th.regs.priv ≠ lMGMT) ∧
    (∃ q, Fires (withTwo false (tAt (.ctxsave .none) 0x10002 0x5000 0)) (.ctxsave .none) q ∧ q.th.regs.priv = lMGMT ∧
      (atL q).toNat = 2 + 1 * 2 ^ 16 ∧ (atR q).toNat < 2 ^ 60 ∧ (atR q).toNat % 4096 = 0 ∧ 2 ≠ asidOf q.th ∧
      ctxB (withTwo false (tAt (.ctxsave .none) 0x10002 0x5000 0)) q false .store = true) ∧
    (∃ q, Fires (withTwo true (tAt (.ctxload .none) 2 0x5000 0)) (.ctxload .none) q ∧ q.th.regs.priv = lMGMT ∧
      (atL q).toNat < 4096 ∧ (atR q).toNat < 2 ^ 60 ∧ (atR q).toNat % 4096 = 0 ∧ (atL q).toNat ≠ asidOf q.th ∧ (atL q).toNat = 2 ∧
      ctxB (withTwo true (tAt (.ctxload .none) 2 0x5000 0)) q true .load = true) ∧
    (∀ e ∈ [.ctxsave .none, .ctxload .none], ∃ q, Fires (tWith asSuper e 2 0x5000 0) e q ∧ q.th.regs.priv ≠ lMGMT) ∧
    (∃ q, Fires (tAt (.trap 0x2000 .none) 0 0 0) (.trap 0x2000 .none) q) :=
  by
    and_intros
    any_goals exact firesP (by decide +kernel)
    · exact firesP_all (f := fun e : Instr => tWith asSuper e 2 0x5000 0) (g := fun e => e) (by decide +kernel)
    · exact fires_all (l := [(tAt (.trap 0x2000 .none) 0 0 0, .trap 0x2000 .none)]) (by decide +kernel) _ (List.mem_singleton.mpr rfl)


/-! ### Hypotheses of the statements on blocks -/

/-- The 64-bit words of a control block: its header with NEXIT 1, and its instruction words two to a word (R67, R68). -/
def tCode (ncnt : Nat) (gwmask : W) (ws : List Word32) : List W :=
  [BitVec.ofNat 64 (1 + 16 * ncnt + 0x200000) ||| (gwmask <<< 32), gwmask >>> 32] ++
  (List.range ((ncnt + 4) / 4 * 2)).map (fun k => (ws.getD (2 * k + 1) 0 ++ ws.getD (2 * k) 0 : BitVec 64))

/-- A thread that is ready at 0x1000, where a block stands. -/
def tReady (f : Thread → Thread) (code : List W) : State := withWords (tWorld [(0, f tThread)]) 0x1000 code


/-- What BlockFetchStarts asks: the block can be read, and its header, its words and its padding are well made. -/
def fetchB (s : State) (t : Nat) (p : Instrs → Bool) : Bool :=
  match aget s.threads t with
  | none => false
  | some th =>
    match aget s.ctxs (asidOf th) with
    | none => false
    | some c =>
      canFetch s th && (breakHit c th).isNone && decide (th.pc.extractLsb' 56 8 = 0) && decide (th.pc.toNat % 16 = 0) &&
      (match fetchBytes s (whoThread s th th.pc 16) .fetch th.pc 16 with
       | none => false
       | some hb =>
         let h : BitVec 128 := BitVec.ofNat 128 (leVal hb)
         headerOk h && (match fetchBytes s (whoThread s th th.pc (16 + 16 * (((h.extractLsb' 4 7).toNat + 4) / 4))) .fetch th.pc
             (16 + 16 * (((h.extractLsb' 4 7).toNat + 4) / 4)) with
          | none => false
          | some bs =>
            okB (decodeAll 0 (words32 ((h.extractLsb' 4 7).toNat + 1) (bs.drop 16))) (fun is => (loadFault h is).isNone && p is) &&
            ((bs.drop 16).drop (4 * ((h.extractLsb' 4 7).toNat + 1))).all (fun x => x == 0)))

/-- STOP. -/
def tStop : List W := tCode 0 0 [(encode (.stop 0 .none)).getD 0]

/-- MWAIT m2 to the GWR of g1, and STOP. -/
def tMwait : List W := tCode 2 2 [(encode (.mwait ⟨1, .l⟩ 2)).getD 0, (encode (.gwr 1 .none)).getD 0, (encode (.stop 0 .none)).getD 0]

theorem test_hyp_BlockFetchStarts :
    fetchB (tReady id tStop) 0 (fun is => (mwaitSet is).isEmpty) = true ∧
    fetchB (tReady id tMwait) 0 (fun is => !(mwaitSet is).all (fun n => tThread.mfull.getLsbD n.toNat)) = true ∧
    fetchB (tReady (fun th => { th with mfull := 4 }) tMwait) 0 (fun is => (mwaitSet is).all (fun n => (4 : BitVec 16).getLsbD n.toNat)) = true :=
  ⟨by decide +kernel, by decide +kernel, by decide +kernel⟩

/-- What BadBlocksTrap asks of the thread and its context. -/
def trapsB (s : State) (t : Nat) : Bool :=
  match aget s.threads t with
  | none => false
  | some th =>
    match aget s.ctxs (asidOf th) with
    | none => false
    | some c => canFetch s th && (breakHit c th).isNone && !unconfirmed s th.home.crew && c.regs.trapvec != 0 && !th.regs.intrap &&
      decide (th.pc.toNat % 16 = 0)

/-- At another pc. -/
def atPc (a : W) (th : Thread) : Thread := { th with pc := a }

theorem test_hyp_BadBlocksTrap :
    (trapsB (tReady (atPc 0x0100000000000000) tStop) 0 = true ∧ (0x0100000000000000 : W).extractLsb' 56 8 ≠ 0) ∧
    (trapsB (tReady (atPc 0x10000) tStop) 0 = true ∧ fetchBytes (tReady (atPc 0x10000) tStop)
      (whoThread (tReady (atPc 0x10000) tStop) (atPc 0x10000 tThread) 0x10000 16) .fetch 0x10000 16 = none) ∧
    (trapsB (tReady id (tCode 0 0 [0x7F])) 0 = true ∧ (match fetchBytes (tReady id (tCode 0 0 [0x7F]))
        (whoThread (tReady id (tCode 0 0 [0x7F])) tThread 0x1000 32) .fetch 0x1000 32 with
      | some bs => headerOk (BitVec.ofNat 128 (leVal (bs.take 16))) && errB (decodeAll 0 (words32 1 (bs.drop 16))) (fun k => k == 0)
      | none => false) = true) :=
  ⟨⟨by decide +kernel, by decide +kernel⟩, ⟨by decide +kernel, by decide +kernel⟩, ⟨by decide +kernel, by decide +kernel⟩⟩

/-- A thread that MWAIT holds, with mailbox 15 full. -/
def tHeldBlock : State :=
  tWorld [(0, { tThread with mode := .mwait, mfull := 0x8000, block := some { loneBlock 0 with slots := [tSlot (.mwait t1L 15) none none none] } })]

/-- A thread whose YIELD waits for thread 0 and for one that is gone. -/
def withYield (s : State) : State :=
  { s with threads := s.threads ++ [(1, { tThread with mode := .trailing [.yield [0, 7]] .next, home := { tThread.home with slot := 15 } })] }

theorem test_hyp_YieldWaits : (aget (withYield tHeldBlock).threads 1).any (fun o => o.mode == .trailing [.yield [0, 7]] .next) = true ∧
    (aget (withYield tHeldBlock).threads 0).any (fun th => threadRuns (withYield tHeldBlock) th && inTurn (withYield tHeldBlock) th) = true ∧
    fetchB (withYield (tReady id tStop)) 0 (fun is => (mwaitSet is).isEmpty) = true := by
  exact ⟨by decide +kernel, by decide +kernel, by decide +kernel⟩

theorem test_hyp_MwaitStarts : ∃ th b, aget tHeldBlock.threads 0 = some th ∧ th.block = some b ∧ th.mode = .mwait ∧
    threadRuns tHeldBlock th = true ∧ inTurn tHeldBlock th = true ∧ (mwaitSet (b.slots.filterMap slotInstr)).all (fun n => th.mfull.getLsbD n.toNat) = true :=
  ⟨_, _, rfl, rfl, rfl, by decide +kernel, by decide +kernel, by decide +kernel⟩

/-- Of two ready threads the one after the slot that was started last has the turn (R377). -/
theorem test_turn :
    let s := { tWorld [(0, tThread), (1, { tThread with home := { tThread.home with slot := 1 } })] with lastStarted := [(0, 0)] }
    (aget s.threads 0).any (canFetch s) = false ∧ (aget s.threads 1).any (canFetch s) = true := by decide +kernel

/-- A slot that has fired. -/
def tFired (i : Instr) : Slot := { tSlot i (some 0) (some 0) (some 0) with phase := .fired }

/-- A block of fired slots that chose c, with what they left. -/
def tDone (is : List Instr) (effs : List (Nat × Eff)) (c : Choice) : Block :=
  { loneBlock 0 with addr := 0x1000, slots := is.map tFired, effs := effs.map (fun e => e.2), effBy := effs.map (fun e => e.1),
                     choice := some c, branches := 1 }

/-- A thread whose block it is. -/
def tCommit (f : Thread → Thread) (b : Block) : State := tWorld [(0, f { tThread with block := some b })]

/-- What Commits asks for, of thread t of a machine. -/
def commitsB (s : State) (t : Nat) (p : Thread → Block → Bool) : Bool :=
  match aget s.threads t with
  | none => false
  | some th =>
    match th.block with
    | none => false
    | some b => th.mode == .ready && threadRuns s th && blockComplete b && (seeds s th b).isEmpty && !replayHolds s th b && !unconfirmed s th.home.crew &&
      (lowestFault b).isNone && (emptySlots s th b).isEmpty && b.choice.isSome && (closedGates t th b s (orderedEffs b)).isEmpty && p th b

theorem commitsB_spec {s : State} {t : Nat} {p : Thread → Block → Bool} (h : commitsB s t p = true) :
    ∃ th b c, Commits s t th b c ∧ p th b = true := by
  unfold commitsB at h
  split at h
  · cases h
  · rename_i th hth
    split at h
    · cases h
    · rename_i b hb
      simp only [Bool.and_eq_true, beq_iff_eq, List.isEmpty_iff, Bool.not_eq_true', Option.isNone_iff_eq_none] at h
      obtain ⟨⟨⟨⟨⟨⟨⟨⟨⟨⟨h1, h2⟩, h3⟩, h4⟩, h0⟩, h5⟩, h6⟩, h7⟩, h8⟩, h9⟩, h10⟩ := h
      obtain ⟨c, hc⟩ := Option.isSome_iff_exists.mp h8
      exact ⟨th, b, c, ⟨⟨hth, hb, h1, h2, h3, h4, h0, h5⟩, h6, h7, hc, h9⟩, h10⟩

/-- GWR of g63, MWR of m14, MRD of m15 that was full, and a branch. -/
def tRegs : State :=
  tCommit id (tDone [.gwr 63 .none, .mwr 14 .none, .mrd t1L 15 .none, .br 1 0 .none] [(0, .gwr 63 5), (1, .mwr 14 6), (2, .mclr 15)]
    (.jump 0x1010))

theorem test_hyp_CommitWritesRegisters : ∃ th b c, Commits tRegs 0 th b c ∧
    (b.choice == some (.jump 0x1010) && (slotEffs b).all (fun e => registerEff e.2) && decide (b.landed.getLsbD 15 = false)) = true :=
  commitsB_spec (by decide +kernel)

theorem test_hyp_CommitBranches : ∀ e ∈ ([(Instr.br 1 0 .none, .jump 0x1010, 0), (.call 1 0 .none, .call 0x1010, 15),
      (.call 1 0 .none, .call 0x1010, 16), (.ret 0 .none, .ret 0x2000 false, 1), (.ret 0 .none, .ret 0x2000 true, 0),
      (.stop 0 .none, .stop, 0), (.tret 0 .none, .tret 0, 0), (.tret 0 .none, .tret 0x2000, 0)] : List (Instr × Choice × Nat)),
    ∃ th b c, Commits (tCommit (withRas e.2.2 1 0x2000) (tDone [e.1] [] e.2.1)) 0 th b c ∧
      (b.choice == some e.2.1 && decide (th.ras.length = e.2.2) && (slotEffs b).isEmpty) = true := by
  intro e he
  exact commitsB_spec (List.all_eq_true.mp (by decide +kernel : ([(Instr.br 1 0 .none, Choice.jump 0x1010, 0),
    (.call 1 0 .none, .call 0x1010, 15), (.call 1 0 .none, .call 0x1010, 16), (.ret 0 .none, .ret 0x2000 false, 1),
    (.ret 0 .none, .ret 0x2000 true, 0), (.stop 0 .none, .stop, 0), (.tret 0 .none, .tret 0, 0), (.tret 0 .none, .tret 0x2000, 0)] :
    List (Instr × Choice × Nat)).all (fun e => commitsB (tCommit (withRas e.2.2 1 0x2000) (tDone [e.1] [] e.2.1)) 0 (fun th b =>
      b.choice == some e.2.1 && decide (th.ras.length = e.2.2) && (slotEffs b).isEmpty)) = true) e he)

/-- Two stores of one block, of LSIDs 0 and 31, that meet in a byte. -/
def tStores : State :=
  tCommit id { tDone [.st64 0 0 .none, .st8 7 31 .none, .br 1 0 .none] [] (.jump 0x1010) with
    accs := [⟨0, 0, .store, 8, 0x100, .mem 0x10000000100, 0x1122334455667788, 0⟩, ⟨1, 31, .store, 1, 0x107, .mem 0x10000000107, 0xFF, 0⟩] }

theorem test_hyp_CommitStoresToMemory : (∃ th b c, Commits tStores 0 th b c ∧
    ((slotEffs b).all (fun e => registerEff e.2) && b.recs.isEmpty && decide (b.accs.length = 2) && b.accs.all (fun a => a.kind == .store &&
      decide (a.lsid ≤ 32) && (match a.loc with
        | .mem _ => true
        | _ => false))) = true) ∧ Safe tStores ∧ Quiet tStores 1 :=
  ⟨commitsB_spec (by decide +kernel), by unfold Safe; decide +kernel, by intro c hc; cases hc; decide +kernel⟩

/-- A block with two traps, in slots 0 and 1. -/
def tFaulty (f : Thread → Thread) : State :=
  tCommit f { tDone [Instr.movi t1L 0 .none, .movi t1L 0 .none] [] .stop with
    choice := none, branches := 0,
    faults := [⟨cALIGN, 0, 1, false, 0x2001⟩, ⟨cPRIV, 0, 0, false, 0x1000⟩] }

/-- What Completes asks for, of thread t of a machine. -/
def completesB (s : State) (t : Nat) (p : Thread → Block → Bool) : Bool :=
  match aget s.threads t with
  | none => false
  | some th =>
    match th.block with
    | none => false
    | some b => th.mode == .ready && threadRuns s th && blockComplete b && (seeds s th b).isEmpty && !replayHolds s th b && !unconfirmed s th.home.crew && p th b

theorem completesB_spec {s : State} {t : Nat} {p : Thread → Block → Bool} (h : completesB s t p = true) :
    ∃ th b, Completes s t th b ∧ p th b = true := by
  unfold completesB at h
  split at h
  · cases h
  · rename_i th hth
    split at h
    · cases h
    · rename_i b hb
      simp only [Bool.and_eq_true, beq_iff_eq, List.isEmpty_iff, Bool.not_eq_true'] at h
      obtain ⟨⟨⟨⟨⟨⟨h1, h2⟩, h3⟩, h4⟩, h0⟩, h5⟩, h6⟩ := h
      exact ⟨th, b, ⟨hth, hb, h1, h2, h3, h4, h0, h5⟩, h6⟩


theorem test_hyp_FaultingBlockTraps :
    (∃ th b, Completes (tFaulty id) 0 th b ∧ ((lowestFault b).any (fun tr => tr.code == cPRIV) && (aget (tFaulty id).ctxs (asidOf th)).any
      (fun c => c.regs.trapvec != 0) && !th.regs.intrap) = true) ∧
    (∃ th b, Completes (tFaulty (fun x => { x with regs := { x.regs with intrap := true } })) 0 th b ∧
      ((lowestFault b).isSome && th.regs.intrap) = true) ∧
    (∃ th b, Completes { tFaulty id with ctxs := [(1, Context.fresh 0)] } 0 th b ∧
      ((lowestFault b).isSome && (aget { tFaulty id with ctxs := [(1, Context.fresh 0)] }.ctxs (asidOf th)).any
        (fun c => c.regs.trapvec == 0)) = true) ∧ Quiet (tFaulty id) 1 :=
  ⟨completesB_spec (by decide +kernel), completesB_spec (by decide +kernel), completesB_spec (by decide +kernel),
    by intro c hc; cases hc; decide +kernel⟩

/-- A block with a GWR and a TRAP in slot 1, that chose c. -/
def tSoft (c : Choice) : State :=
  tCommit id (tDone [.gwr 1 .none, .trap 5 .none, .stop 0 .none] [(0, .gwr 1 7), (1, .soft 1 5)] c)

theorem test_hyp_SoftTrapFollowsCommit : ∀ c ∈ [Choice.stop, .jump 0x2000], ∃ th b c', Commits (tSoft c) 0 th b c' ∧
    (b.choice == some c && softOf b == some (1, 5) && (slotEffs b).all (fun e => registerEff e.2 || (match e.2 with
      | .soft _ _ => true
      | _ => false)) && (aget (tSoft c).ctxs (asidOf th)).any (fun x => x.regs.trapvec != 0) && !th.regs.intrap) = true := by
  intro c hc
  simp only [List.mem_cons, List.not_mem_nil, or_false] at hc
  rcases hc with rfl | rfl
  · exact commitsB_spec (by decide +kernel)
  · exact commitsB_spec (by decide +kernel)

/-- Slot 0 of the block of thread 0 is held at its gate, and holds the instruction. -/
def gatedB (s : State) (i : Instr) : Bool :=
  match aget s.threads 0 with
  | none => false
  | some th =>
    match th.block with
    | none => false
    | some b =>
      match b.slots[0]? with
      | none => false
      | some sl => sl.phase == .gated && threadRuns s th && slotInstr sl == some i

theorem test_hyp_GatesTryAgain :
    (∀ i ∈ [Instr.cfg .none, .strm .none, .pub .none, .waitc noTarget t1L .none, .waite noTarget t1L .none, .launch t1L 7 .none,
      .collWait .none, .collEnd .none], gatedB (gatedIn (tAt i 0 0 0)) i = true) ∧
    (∀ i ∈ [Instr.tmpl .none, .evxTerm .none, .evxCnt .none, .evxTgt .none, .evxPulse .none],
      (gatedB (gatedIn (tAt i 0 0 0)) i && (aget (gatedIn (tAt i 0 0 0)).threads 0).any (fun th => !esetTaken (gatedIn (tAt i 0 0 0)) th)) =
        true) ∧
    (gatedB (gatedIn (tAt (.st64 0 0 .none) tAper 0 0)) (.st64 0 0 .none) && (aget (gatedIn (tAt (.st64 0 0 .none) tAper 0 0)).threads 0).any
      (fun th => !esetTaken (gatedIn (tAt (.st64 0 0 .none) tAper 0 0)) th &&
        (chanOf (gatedIn (tAt (.st64 0 0 .none) tAper 0 0)) th.home.eset (tAper.extractLsb' 8 4).toNat).any (fun c => decide (c.queue.length < 4)))) =
      true :=
  ⟨by decide +kernel, by decide +kernel, by decide +kernel⟩

/-- A thread in a trailing wait. -/
def tTrail (w : Waiting) : State := tWorld [(0, { tThread with mode := .trailing [w] .next })]

/-- Thread 0 runs and waits as f says. -/
def trailB (s : State) (f : Thread → Bool) : Bool := (aget s.threads 0).any (fun th => threadRuns s th && f th)

/-- Thread 0 waits for a thread that has halted and for one that is gone. -/
def tYield : State :=
  tWorld [(0, { tThread with mode := .trailing [.yield [1, 2]] .next }), (1, { tThread with mode := .halted })]

/-- Context 1 saves context 2, whose image goes to 0x5000. -/
def tSaving : State := withTwo false (tTrail (.ctxsave 2 1 0x5000))

/-- Context 1 loads context 2, from 0x5000, where no image stands. -/
def tLoading : State := withTwo true (tTrail (.ctxload 2 0x5000))

/-- Context 1 loads context 2 from the image that CTXSAVE has written. -/
def tRestoring : State :=
  match exec (.ctxsaveComplete 0) tSaving with
  | .next u => updThread u 0 (fun th => { th with mode := .trailing [.ctxload 2 0x5000] .next })
  | _ => tSaving

set_option maxRecDepth 4000 in
theorem test_hyp_TrailingWaitsEnd :
    trailB (tTrail (.drain [(50, 0), (51, 3)] 7)) (fun th => th.mode == .trailing [.drain [(50, 0), (51, 3)] 7] .next &&
      [(50, 0), (51, 3)].all (drainEntryDone (tTrail (.drain [(50, 0), (51, 3)] 7)))) = true ∧
    trailB tYield (fun th => th.mode == .trailing [.yield [1, 2]] .next && [1, 2].all (fun x => (aget tYield.threads x).all stopped)) = true ∧
    trailB (tTrail (.tlbi 0 0xFFFF 1 0)) (fun th => th.mode == .trailing [.tlbi 0 0xFFFF 1 0] .next) = true ∧
    trailB (tTrail (.tlbi 0 0xFFFF 1 100)) (fun th => th.mode == .trailing [.tlbi 0 0xFFFF 1 100] .next &&
      !tlbiPending (tTrail (.tlbi 0 0xFFFF 1 100)) 0 1 100) = true ∧
    trailB tSaving (fun th => th.mode == .trailing [.ctxsave 2 1 0x5000] .next && (aget tSaving.ctxs 2).isSome &&
      decide (imageSize tSaving 2 (regionClusters tSaving 2) ≤ 4096 * 1) && tSaving.regions.all (fun r => r.asid != 2) &&
      (vaPut (keepImage tSaving 2 (regionClusters tSaving 2)) (asidOf th) (dieOf th.home.cluster) 0x5000
        (wordBytes (imageWords (keepImage tSaving 2 (regionClusters tSaving 2)) 2 (regionClusters tSaving 2)))).isSome) = true ∧
    trailB (withTwo false (tTrail (.ctxsave 2 0 0x5000))) (fun _ => decide (4096 * 0 < imageSize (withTwo false (tTrail (.ctxsave 2 0 0x5000)))
      2 (regionClusters (withTwo false (tTrail (.ctxsave 2 0 0x5000))) 2))) = true ∧
    trailB tRestoring (fun th => th.mode == .trailing [.ctxload 2 0x5000] .next && decide (asidOf th ≠ 2) &&
      (aget tRestoring.ctxs 2).any (fun c => c.saved) && okB (checkImage tRestoring th 2 0x5000) (fun ws =>
        let s1 := updCtx (loadThreads (imageUnits tRestoring 2 (dieOf th.home.cluster) ws) 2 ws) 2 (fun x => { x with
          saved := false, stopped := false, image := none, regs := { x.regs with fseq := (ws.getD 4 0).extractLsb' 32 32 } })
        (placeRegions s1 2 (outClusters s1 2)).any (fun s2 => aget s2.threads 0 == some th))) = true ∧
    trailB tLoading (fun th => th.mode == .trailing [.ctxload 2 0x5000] .next && (aget tLoading.ctxs 2).any (fun c => c.saved) &&
      errB (checkImage tLoading th 2 0x5000) (fun _ => true)) = true :=
  by and_intros <;> decide +kernel

/-- A write and two messages on their way to thread 0. -/
def tMails (full : BitVec 16) : State :=
  { tWorld [(0, { tThread with mfull := full }), (1, { tThread with mode := .trailing [.msendw 9] .next, home := { tThread.home with slot := 15 } })] with
    fl := { Flight.empty with
      writes := [⟨0, 15, 77, Sig.zero, 0, false, none⟩],
      msgs := [⟨9, 1, 1, none, 0, 14, 5, true, Sig.zero⟩, ⟨10, 1, 1, some 0, 0, 0, 6, false, Sig.zero⟩] } }

/-- A write that tells thread 1 of the message that it lost. -/
def tTold : State := { tMails 0 with fl := { Flight.empty with writes := [⟨1, 15, 77, Sig.zero, 0, false, some (.msendw 9)⟩] } }

theorem test_hyp_MailboxesFill :
    ((tMails 0).fl.writes[0]?.any (fun w => (aget (tMails 0).threads w.thread).any (fun th => !replays (tMails 0) (asidOf th)))) = true ∧
    ((tMails 0).fl.msgs[0]?.any (fun m => m.host.isNone && (aget (tMails 0).threads m.dst).any (fun th =>
      !replays (tMails 0) (asidOf th) && !(m.wait && th.mfull.getLsbD m.n.toNat)))) = true ∧
    ((tMails 0x4000).fl.msgs[0]?.any (fun m => m.host.isNone && (aget (tMails 0x4000).threads m.dst).any (fun th =>
      !replays (tMails 0x4000) (asidOf th) && (m.wait && th.mfull.getLsbD m.n.toNat)))) = true ∧
    ((tMails 0).fl.msgs[0]?.any (fun m => (aget (tMails 0).threads m.src).any (fun x => x.mode == .trailing [.msendw m.id] .next))) = true ∧
    (tTold.fl.writes[0]?.any (fun w => w.ends == some (.msendw 9) && (aget tTold.threads w.thread).any (fun th =>
      th.mode == .trailing [.msendw 9] .next && !replays tTold (asidOf th)))) = true := by
  and_intros <;> decide +kernel

theorem test_hyp_HostMailboxes :
    ((aget (tMails 0).parts 0).any (fun p => p.barsOpen && (tMails 0).fl.msgs[1]?.any (fun m => m.host == some 0 &&
      mayLand (tMails 0).fl.msgs 1 m && !hostStoresBefore (tMails 0) m && !(m.wait && p.full)))) = true ∧
    ((aget { tMails 0 with pkg := { (tMails 0).pkg with devinfo := true } }.parts 0).any (fun p => p.live && p.barsOpen && (14 : BitVec 4) != 15 &&
      { tMails 0 with pkg := { (tMails 0).pkg with devinfo := true } }.pkg.devinfo &&
      (aget (tMails 0).threads p.dispatcher).any (fun th => !replays (tMails 0) (asidOf th)))) = true ∧
    (aget { tWorld [] with parts := [(0, { Partition.fresh 0 12 0 with live := false })] }.parts 0).any (fun p => !(p.live && p.barsOpen)) = true := by
  and_intros <;> decide +kernel

/-- A word of BAR0: DEVINFO gives DEVID and the dies (R400). -/
theorem test_devinfo : (match exec (.hmbRead (.bar0 0 0)) { tWorld [] with pkg := { (tWorld []).pkg with devinfo := true, devid := 5 } } with
    | .next u => u.fl.out == [.bar0 0 0 0xF0005]
    | _ => false) = true := by decide +kernel

/-- Thread 0, whose index range is 5 to 9, is asked by thread 1, or answers it. -/
def tSteal (rep : Bool) (m : Mode) (g : Option (BitVec 32 × BitVec 32)) : State :=
  { tWorld [(0, { tThread with mode := m, regs := { tThread.regs with irNext := 5, irEnd := 9 } }), (1, { tThread with mode := .trailing [.steal 0] .next })] with
    fl := { Flight.empty with steals := [⟨1, 0, rep, g, Sig.zero⟩] } }

theorem test_hyp_StealsMoveWork :
    ((tSteal false .ready none).fl.steals[0]?.any (fun r => !r.reply && (aget (tSteal false .ready none).threads r.victim).any (fun th =>
      threadRuns (tSteal false .ready none) th && th.mode != .halted && decide (th.regs.irNext.toNat < th.regs.irEnd.toNat)))) = true ∧
    ((tSteal false .halted none).fl.steals[0]?.any (fun r => !r.reply && (aget (tSteal false .halted none).threads r.victim).any (fun th =>
      threadRuns (tSteal false .halted none) th && th.mode == .halted))) = true ∧
    ((tSteal true .ready (some (7, 9))).fl.steals[0]?.any (fun r => r.reply &&
      (aget (tSteal true .ready (some (7, 9))).threads r.thief).isSome && r.grant.isSome)) = true ∧
    ((tSteal true .ready none).fl.steals[0]?.any (fun r => r.reply && (aget (tSteal true .ready none).threads r.thief).isSome &&
      r.grant.isNone)) = true :=
  ⟨by decide +kernel, by decide +kernel, by decide +kernel, by decide +kernel⟩


/-! ### Hypotheses of the statements on the operators of a cell -/

/-- What LeadsTo asks for, of node n of cell c. -/
def leadsOk (s : State) (c n m p : Nat) (f : Cell → Node → Bool) : Bool :=
  match aget s.cells c with
  | none => false
  | some x =>
    match x.nodes[n]? with
    | none => false
    | some nd =>
      cellRuns s x && (decide (nd.word.outA = some (p + 1, m)) && (decide (m ≠ n) && ((nd.word.outB.all (fun b =>
        decide (b.2 ≠ m ∨ b.1 ≠ p + 1 ∧ b.1 ≠ 0))) &&
      ((match x.nodes[m]? with
       | none => false
       | some md => (match md.ports[p]? with
         | none => false
         | some pt => decide (pt.store = none ∧ pt.link = [] ∧ pt.rest = [] ∧ (pt.elem = tDONE ∨ pt.rep = true ∨ pt.lp = pt.le)))) && f x nd))))

theorem leadsOk_spec {s : State} {c n m p : Nat} {f : Cell → Node → Bool} (h : leadsOk s c n m p f = true) :
    ∃ x nd, LeadsTo s c n x nd m p ∧ f x nd = true := by
  unfold leadsOk at h
  split at h
  · cases h
  · rename_i x hx
    split at h
    · cases h
    · rename_i nd hn
      simp only [Bool.and_eq_true, decide_eq_true_eq] at h
      obtain ⟨h1, h2, h3, h4, h5, h6⟩ := h
      refine ⟨x, nd, ⟨hx, h1, hn, h2, ?_, h3, ?_⟩, h6⟩
      · intro b hb
        rw [hb] at h4
        simpa using h4
      · split at h5
        · cases h5
        · rename_i md hm
          split at h5
          · cases h5
          · rename_i pt hp
            exact ⟨md, pt, hm, hp, of_decide_eq_true h5⟩

/-- What Sends asks for. -/
def sendsOk (s : State) (c n m p : Nat) (f : Cell → Node → Bool) : Bool := leadsOk s c n m p (fun x nd => nd.sentAll && f x nd)

theorem sendsOk_spec {s : State} {c n m p : Nat} {f : Cell → Node → Bool} (h : sendsOk s c n m p f = true) :
    ∃ x nd, Sends s c n x nd m p ∧ f x nd = true := by
  obtain ⟨x, nd, hl, hf⟩ := leadsOk_spec h
  simp only [Bool.and_eq_true] at hf
  exact ⟨x, nd, ⟨hl, hf.1⟩, hf.2⟩

/-- What NodeAt asks for. -/
def nodeB (s : State) (c n : Nat) (f : Cell → Node → Bool) : Bool :=
  match aget s.cells c with
  | none => false
  | some x =>
    match x.nodes[n]? with
    | none => false
    | some nd => cellRuns s x && f x nd

theorem nodeB_spec {s : State} {c n : Nat} {f : Cell → Node → Bool} (h : nodeB s c n f = true) :
    ∃ x nd, NodeAt s c n x nd ∧ f x nd = true := by
  unfold nodeB at h
  split at h
  · cases h
  · rename_i x hx
    split at h
    · cases h
    · rename_i nd hn
      simp only [Bool.and_eq_true] at h
      exact ⟨x, nd, ⟨hx, h.1, hn⟩, h.2⟩

/-- The lockstep ports offer a beat, of which f holds. -/
def beatB (a : Act) (f : List Lanes → Bool) : Bool :=
  match a with
  | .beat xs => f xs
  | _ => false

/-- A consumer that takes what stands at its port A. -/
def tSink (elem lanes : Nat) : Node :=
  tNode (tWord kMAP 20 elem none none) [{ tPort 0 elem [] with lp := lanes, le := lanes }, tNoPort, tNoPort] .plain

/-- A port of lanes lanes, whose stream has n positions. -/
def tWide (elem lanes n : Nat) (q : List Token) : Port :=
  { tPort 0 elem q with lp := lanes, le := lanes, exp := { tOrder n (ebytesOf (typeBits elem)) 0 with lanesLog := lanes.log2 } }

/-- A machine with cell 50: node 0 under test, node 1 its consumer. -/
def tOp (nd : Node) : State := tCells (tWorld [(0, tThread)]) [nd, tSink 2 1]

/-- A node of one lane with OUTA to port A of node 1. -/
def tOne (kind mode type : Nat) (ps : List Port) (st : NodeState) : Node := tNode (tWord kind mode type (some (1, 1)) none) ps st

/-- MAP ADD of two n8 elements; TRANSC RCP of an f32; FILTER of an n8 by a predicate; CVT of an n8 to an n16; WIDTH of an n16 to
two n8; LPACK of a plane of i8; LUNPACK of planes. -/
def tMap : Node := tOne kMAP 0 2 [tPort 9 2 [.data [some 200]], tPort 9 2 [.data [some 100]], tNoPort] .plain
/-- TRANSC RCP of an f32. -/
def tRcp : Node := tOne kTRANSC 2 11 [tPort 9 11 [.data [some 0x40000000]], tNoPort, tNoPort] .plain
/-- FILTER of an n8 by a predicate. -/
def tFilter : Node := tOne kFILTER 1 2 [tPort 9 2 [.data [some 7]], tPort 9 32 [.data [some 1]], tNoPort] .plain
/-- CVT of an n8 to an n16. -/
def tCvt : Node := tOne kCONV 0 4 [tPort 9 2 [.data [some 7]], tNoPort, tNoPort] (.conv [] [] false)
/-- WIDTH of an n16 to two n8. -/
def tWidth : Node := tOne kCONV 1 2 [tPort 9 4 [.data [some 0x1234]], tNoPort, tNoPort] (.conv [] [] false)
/-- LPACK of i8 into planes. -/
def tLpack : Node := tOne kCONV 2 16 [tPort 9 1 [.data [some 5]], tNoPort, tNoPort] (.conv [] [] false)
/-- LUNPACK of planes into i8. -/
def tLunpack : Node := { tOne kCONV 3 1 [tPort 9 16 [.data [some 5]], tNoPort, tNoPort] (.conv [] [] false) with params := [2] }

/-- A beat at lockstep ports. -/
def tBeat (s : State) (x : Cell) (nd : Node) (ls : List Nat) (sc : Nat → Nat) (fwd : Bool) (f : List Lanes → Bool) : Bool :=
  beatB (lockAct s x 0 nd ls sc fwd) f

theorem test_hyp_ElementOperators :
    (∃ x nd, Sends (tOp tMap) 50 0 x nd 1 0 ∧ (nd.word.kind == kMAP && tBeat (tOp tMap) x nd (lockPorts nd) (scaleFwd nd) true (fun _ => true) &&
      repReady nd && (repShort nd).isNone) = true) ∧
    (∃ x nd, Sends (tOp tRcp) 50 0 x nd 1 0 ∧ (nd.word.kind == kTRANSC && tBeat (tOp tRcp) x nd [0] (scaleFwd nd) true (fun _ => true)) = true) ∧
    (∃ x nd, Sends (tOp tFilter) 50 0 x nd 1 0 ∧
      (nd.word.kind == kFILTER && tBeat (tOp tFilter) x nd [0, 1] (scaleFwd nd) true (fun _ => true)) = true) ∧
    (∃ x nd, Sends (tOp tCvt) 50 0 x nd 1 0 ∧ (nd.word.kind == kCONV && nd.word.mode == 0 &&
      tBeat (tOp tCvt) x nd [0] (cvtScale nd) true (fun _ => true) && nd.ord.lanes == (nd.port 0).le && decide (0 < beatPositions (nd.port 0)) &&
      cvtBlock nd.word == 0) = true) ∧
    (∃ x nd, Sends (tOp tWidth) 50 0 x nd 1 0 ∧ (nd.word.kind == kCONV && decide (0 < nd.ord.lanes) && nd.word.mode == 1 &&
      tBeat (tOp tWidth) x nd [0] (fun _ => 0) false (fun xs => (widthStep (typeBits (nd.port 0).elem) (typeBits nd.word.type)
        ((convOf nd).1 ++ (xs.headD []).take (beatPositions (nd.port 0)))).2.2.isNone)) = true) ∧
    (∃ x nd, Sends (tOp tLpack) 50 0 x nd 1 0 ∧ (nd.word.kind == kCONV && decide (0 < nd.ord.lanes) && nd.word.mode == 2 &&
      tBeat (tOp tLpack) x nd [0] (fun _ => 0) false (fun xs => (lpackStep (lamPlanes nd.word.type)
        ((convOf nd).1 ++ (xs.headD []).take (beatPositions (nd.port 0)))).2.2.isNone)) = true) ∧
    (∃ x nd, Sends (tOp tLunpack) 50 0 x nd 1 0 ∧ (nd.word.kind == kCONV && decide (0 < nd.ord.lanes) && nd.word.mode == 3 &&
      tBeat (tOp tLunpack) x nd [0] (fun _ => 0) false (fun _ => true)) = true) :=
  by and_intros <;> exact sendsOk_spec (by decide +kernel)

/-- MERGE ORDERED of two beats of two lanes that do not meet. -/
def tOrdered : Node :=
  tOne kMERGE 1 2 [tWide 2 2 4 [.data [some 1, none]], tWide 2 2 4 [.data [none, some 2]], tNoPort] (.merge 0 false)
/-- MERGE CONCAT and RROBIN of a beat at port A. -/
def tMerge (mode : Nat) : Node := tOne kMERGE mode 2 [tPort 9 2 [.data [some 5]], tPort 9 2 [.data [some 6]], tNoPort] (.merge 0 false)
/-- LOOP with an empty table and a beat at port A. -/
def tLoop : Node := tOne kLOOP 0 2 [tPort 9 2 [.data [some 5]], tPort 9 2 [], tPort 9 32 []] (.loop [] false false)

theorem test_hyp_MergesAndLoops :
    (∃ x nd, Sends (tOp tOrdered) 50 0 x nd 1 0 ∧ (nd.word.kind == kMERGE && nd.word.mode == 1 &&
      tBeat (tOp tOrdered) x nd [0, 1] (scaleFwd nd) true (fun xs => xs == [[some 1, none], [none, some 2]])) = true) ∧
    (∀ mode ∈ [0, 2], ∃ x nd, Sends (tOp (tMerge mode)) 50 0 x nd 1 0 ∧ (nd.word.kind == kMERGE && nd.word.mode == mode && roomAll x 0 &&
      ((readsOf nd).findSome? (mergePort (tOp (tMerge mode)) x 0 nd)).isNone && !nd.ord.anyRagged &&
      (mergePick nd).any (fun k => nd.head k == some (.data [some (5 + k)])) && !replays (tOp (tMerge mode)) x.crew.asid) = true) ∧
    (∃ x nd, Sends (tOp tLoop) 50 0 x nd 1 0 ∧ (nd.word.kind == kLOOP && !nd.failing && decide (loopOf nd = ([], false, false)) &&
      nd.head 0 == some (.data [some 5]) && nd.head 1 == none && nd.head 2 == none && roomAll x 0 && !lenDue (nd.port 0) &&
      (beatBad (nd.port 0) [some 5]).isNone && ([some 5] : Lanes).any Option.isSome) = true) := by
  refine ⟨sendsOk_spec (by decide +kernel), ?_, sendsOk_spec (by decide +kernel)⟩
  intro mode hm
  simp only [List.mem_cons, List.not_mem_nil, or_false] at hm
  rcases hm with rfl | rfl
  · exact sendsOk_spec (by decide +kernel)
  · exact sendsOk_spec (by decide +kernel)


/-- A stream of two lanes whose first beat is there. -/
def tTwo (elem : Nat) (l : Lanes) : Port := tWide elem 2 4 [.data l]

/-- PERM TABLE with the table 1, 0. -/
def tTable : Node := tOne kPERM 0 2 [tTwo 2 [some 7, none], tNoPort, tNoPort] (.row (RowState.fresh [1, 0]))
/-- PERM RANK of one group (R217), with its codes and its beat to come. -/
def tRankA : Node :=
  { tOne kPERM 1 2 [tTwo 2 [some 7, some 9], tTwo 2 [some 1, some 0], tNoPort] (.row (RowState.fresh (List.replicate 64 0))) with params := [1] }
/-- PERM RANK with its table made and one beat of the group due. -/
def tRankB : Node :=
  { tOne kPERM 1 2 [tTwo 2 [], tTwo 2 [some 7, some 9], tNoPort]
      (.row { RowState.fresh [1, 0] with due := 1, codes := [some 3, some 1] }) with params := [1] }
/-- PERM TRANSPOSE of beats of two lanes, which holds n beats. -/
def tTrans (n : Nat) : Node :=
  { tOne kPERM 2 2 [tTwo 2 [some 7, some 9], tNoPort, tNoPort]
      (.row { RowState.fresh [] with buf := List.replicate n [some 1, some 2] }) with ord := { tOrder 4 1 1 with lanesLog := 1 } }
/-- SCAN of a mode, of n8 by predicates. -/
def tScan (mode : Nat) : Node := tOne kSCAN mode 2 [tPort 9 2 [.data [some 7]], tPort 9 32 [.data [some 1]], tNoPort] (.row (RowState.fresh []))
/-- SCAN BOUNDARY (R221) of a beat of four codes. -/
def tBoundary : Node := tOne kSCAN 2 2 [tPort 9 2 [.data [some 7]], tPort 9 2 [.data [some 1]], tNoPort] (.row (RowState.fresh []))
/-- RED of a mode. -/
def tRed (mode : Nat) : Node := tOne kRED mode 2 [tTwo 2 [some 7, some 9], tNoPort, tNoPort] (.row (RowState.fresh []))
/-- RED DACC (R222) that takes the codes of a group. -/
def tDaccL : Node :=
  { tOne kRED 4 11 [tTwo 11 [some 7, some 9], tTwo 2 [some 1, some 0], tNoPort] (.row (RowState.fresh [])) with params := [4] }
/-- RED DACC that adds a column of sixteen lanes, of two that are due. -/
def tDaccC : Node :=
  { tOne kRED 4 11 [tWide 11 16 64 [.data (List.replicate 16 (some 0x3F800000))], tWide 2 16 64 [], tNoPort]
      (.row { RowState.fresh [] with due := 2, ltab := List.replicate 16 1 }) with params := [4] }

theorem test_hyp_RowOperators :
    (∃ x nd, Sends (tOp tTable) 50 0 x nd 1 0 ∧ (nd.word.kind == kPERM && nd.word.mode == 0 &&
      tBeat (tOp tTable) x nd [0] (fun _ => 0) false (fun _ => true)) = true) ∧
    (∃ x nd, Sends (tOp tRankA) 50 0 x nd 1 0 ∧ (nd.word.kind == kPERM && nd.word.mode == 1 && (rowOf nd).due == 0 && !nd.failing &&
      tBeat (tOp tRankA) x nd [0, 1] (fun _ => 0) false (fun _ => true)) = true) ∧
    (∃ x nd, Sends (tOp tRankB) 50 0 x nd 1 0 ∧ (nd.word.kind == kPERM && nd.word.mode == 1 && (rowOf nd).due != 0 && !nd.failing &&
      !(rowOf nd).skip && tBeat (tOp tRankB) x nd [1] (fun _ => 0) false (fun _ => true)) = true) ∧
    (∀ k ∈ [0, 1], ∃ x nd, Sends (tOp (tTrans k)) 50 0 x nd 1 0 ∧ (nd.word.kind == kPERM && nd.word.mode == 2 &&
      (rowOf nd).buf.length == k && nd.ord.lanes == 2 && tBeat (tOp (tTrans k)) x nd [0] (fun _ => 0) false (fun _ => true)) = true) ∧
    (∀ mode ∈ [0, 1], ∃ x nd, Sends (tOp (tScan mode)) 50 0 x nd 1 0 ∧ (nd.word.kind == kSCAN && nd.word.mode != 2 &&
      tBeat (tOp (tScan mode)) x nd (lockPorts nd) (fun _ => 0) true (fun _ => true)) = true) ∧
    (∃ x nd, Sends (tOp tBoundary) 50 0 x nd 1 0 ∧ (nd.word.kind == kSCAN && nd.word.mode == 2 &&
      tBeat (tOp tBoundary) x nd [0, 1] (fun _ => 0) false (fun xs => (boundaryFault (boundaryLanes (xs.headD []) (xs.getD 1 []))).isNone)) =
      true) ∧
    (∀ mode ∈ [0, 1, 2, 3], ∃ x nd, Sends (tOp (tRed mode)) 50 0 x nd 1 0 ∧ (nd.word.kind == kRED && decide (nd.word.mode ≤ 3) &&
      decide (0 < nd.ord.lanes) && tBeat (tOp (tRed mode)) x nd [0] (fun _ => 0) false (fun _ => true)) = true) ∧
    (∃ x nd, Sends (tOp tDaccL) 50 0 x nd 1 0 ∧ (nd.word.kind == kRED && nd.word.mode == 4 && (rowOf nd).due == 0 && !nd.failing &&
      tBeat (tOp tDaccL) x nd [0, 1] (fun _ => 0) false (fun _ => true)) = true) ∧
    (∃ x nd, Sends (tOp tDaccC) 50 0 x nd 1 0 ∧ (nd.word.kind == kRED && nd.word.mode == 4 && decide (2 ≤ (rowOf nd).due) && !nd.failing &&
      !(rowOf nd).skip && (rowOf nd).grp == 0 && (rowOf nd).ltab != [] &&
      tBeat (tOp tDaccC) x nd [0] (fun _ => 0) false (fun xs => ((xs.headD []).getD 15 none).isSome)) = true) := by
  refine ⟨sendsOk_spec (by decide +kernel), sendsOk_spec (by decide +kernel), sendsOk_spec (by decide +kernel), ?_, ?_,
    sendsOk_spec (by decide +kernel), ?_, sendsOk_spec (by decide +kernel), sendsOk_spec (by decide +kernel)⟩ <;>
  · intro k hk
    simp only [List.mem_cons, List.not_mem_nil, or_false] at hk
    rcases hk with rfl | rfl | rfl | rfl <;> exact sendsOk_spec (by decide +kernel)

/-- Tokens that wait to leave: a WIDTH's, and a TRANSPOSE's with the next beat at its port. -/
theorem test_hyp_Waiting :
    (∃ x nd, LeadsTo (tOp { tWidth with pendA := [.data [some 1], .data [some 2]] }) 50 0 x nd 1 0 ∧ (nd.word.kind == kCONV &&
      nd.word.mode == 1 && nd.pendA.length == 2 && nd.pendB == [] && roomAt x nd.word.outA) = true) ∧
    (∃ x nd, LeadsTo (tOp { tTrans 0 with pendA := [.data [some 1, some 2]], ord := { tOrder 4 1 1 with lanesLog := 2 } }) 50 0 x nd 1 0 ∧
      (nd.word.kind == kPERM && nd.word.mode == 2 && nd.pendA.length == 1 && nd.pendB == [] && roomAt x nd.word.outA && (nd.port 0).fed &&
       decide (0 < beatPositions (nd.port 0)) && decide ((rowOf nd).buf.length + 0 + 1 < nd.ord.lanes) &&
       tBeat (tOp nd) x nd [0] (fun _ => 0) false (fun _ => true)) = true) :=
  ⟨leadsOk_spec (by decide +kernel), leadsOk_spec (by decide +kernel)⟩

/-- An MMA of n8 by n8 whose two operand tiles of one k-step of ones are there, with emissions to send. -/
def tMma (emits : List (Nat × Nat)) : Node :=
  { tOne kMMA 0 7 [tPort 9 2 [], tPort 9 2 [], tNoPort]
      (.mma { MmaState.fresh none with a := ⟨[⟨[List.replicate 64 (some (1, none))], true⟩], [], []⟩,
                                       b := ⟨[⟨[List.replicate 64 (some (1, none))], true⟩], [], []⟩, emits := emits }) with params := [0x82] }

theorem test_hyp_MatrixOperator :
    (∃ x nd, Sends (tOp (tMma [])) 50 0 x nd 1 0 ∧ (nd.word.kind == kMMA && roomAll x 0 && (repAct (tOp (tMma [])) x 0 nd).isNone &&
      !(mmaOf nd).drop && ((mmaPorts nd (mmaOf nd)).findSome? (mmaTake (tOp (tMma [])) x 0 nd)).isNone && (mmaStation x 0 nd).isNone &&
      !((mmaOf nd).begun) && ((mmaOf nd).tiles.getD (mmaTile nd (mmaOf nd)) (.empty, [])).1 != .draining &&
      decide (mmaTile nd (mmaOf nd) < (mmaOf nd).tiles.length) && passDecay nd (mmaOf nd) == .ok 0 &&
      (match passIn (tOp (tMma [])) 50 0 x nd (mmaOf nd) with
       | .go _ _ _ _ => true
       | _ => false)) = true) ∧
    (∀ pos ∈ [4095, 4096], ∃ x nd, Sends (tOp (tMma [(3, pos)])) 50 0 x nd 1 0 ∧ (nd.word.kind == kMMA && roomAll x 0 &&
      (mmaOf nd).emits == [(3, pos)]) = true) := by
  refine ⟨sendsOk_spec (by decide +kernel), ?_⟩
  intro k hk
  simp only [List.mem_cons, List.not_mem_nil, or_false] at hk
  rcases hk with rfl | rfl <;> exact sendsOk_spec (by decide +kernel)

/-- An AGEN of a mode with one stream, begun or not, at a position. -/
def tAgenAt (mode : Nat) (begun : Bool) (cur : Nat) (q : List Token) : Node :=
  { tNode (tWord kAGEN mode 34 (some (1, 1)) none) [tPort 9 4 q, tNoPort, tNoPort]
      (.mem { MemState.fresh with starts := [(0x100, 0x200, [0, 0, 0, 0], 0)], begun := begun, cur := cur }) with params := [8, 0, 0] }

theorem test_hyp_AddressGenerators :
    (∀ e ∈ [(0, false, 0), (0, true, 3), (0, true, 4), (2, true, 3)], ∃ x nd, Sends (tOp (tAgenAt e.1 e.2.1 e.2.2 [])) 50 0 x nd 1 0 ∧
      (nd.word.kind == kAGEN && roomAll x 0 && (memOf nd).starts.length == 1 && nd.word.mode != 1 && (memOf nd).begun == e.2.1 &&
        (agenSluice (tOp (tAgenAt e.1 e.2.1 e.2.2 [])) 50 0 x nd).isNone && !nd.ord.anyRagged &&
        decide (e.2.2 = 4 → countOf nd.ord none ≤ (memOf nd).cur) && decide (e.2.2 < 4 → (memOf nd).cur < countOf nd.ord none) &&
        (((coords nd.ord none).drop (memOf nd).cur).take nd.ord.lanes).all (fun q =>
          e.1 != 2 || okB (offTable (tOp (tAgenAt e.1 e.2.1 e.2.2 [])) 50 0 x nd 0x200 (q.getD (prmField nd.params 2 0 2) 0)) (fun _ => true))) =
        true) ∧
    (∃ x nd, Sends (tOp (tAgenAt 1 true 0 [.data [some 5]])) 50 0 x nd 1 0 ∧ (nd.word.kind == kAGEN && roomAll x 0 && nd.word.mode == 1 &&
      tBeat (tOp (tAgenAt 1 true 0 [.data [some 5]])) x nd [0] (fun _ => 0) true (fun _ => true)) = true) := by
  refine ⟨?_, sendsOk_spec (by decide +kernel)⟩
  intro e he
  simp only [List.mem_cons, List.not_mem_nil, or_false] at he
  rcases he with rfl | rfl | rfl | rfl <;> exact sendsOk_spec (by decide +kernel)


/-! ### Hypotheses of the statements on memory nodes, tokens, reorder stores and links -/

/-- What LaneAt asks for of lane i of the beat that stands at the ports, with what f asks of its place. -/
def laneB (s : State) (c n e : Nat) (f : Cell → Node → MemBeat → Nat → NodeLoc → Bool) : Bool :=
  nodeB s c n (fun x nd => match lockAct s x n nd (memPorts nd) (fun _ => 0) false with
    | .beat xs =>
      (match laneNext nd (memBeat nd xs) e with
       | none => false
       | some i =>
         match memLoc s c n x nd (laneAddr (memBeat nd xs) i) with
         | .error _ => false
         | .ok r => nd.sentAll && (decide (nd.word.kind = kMEM) && (decide (nd.word.mode ≤ 2) && (decide (memDone s x n nd = none) &&
             ((memOf nd).begun && (!(memPorts nd).all (fun k => (nd.port k).ended) && (!loadOut s c n ((nd.port 0).pos + i) &&
             (!laneHeld s c n x (laneLoc s c n x nd (memBeat nd xs)) (lanesDue nd (memBeat nd xs)) i (elemBytes nd.word.type) r.loc &&
             (decide (nd.word.mode = 0 ∨ laneProof s x (laneAddr (memBeat nd xs) i) (elemBytes nd.word.type) r = false) &&
             f x nd (memBeat nd xs) i r)))))))))
    | _ => false)

theorem laneB_spec {s : State} {c n e : Nat} {f : Cell → Node → MemBeat → Nat → NodeLoc → Bool} (h : laneB s c n e f = true) :
    ∃ x nd b i r, LaneAt s c n e x nd b i r ∧ f x nd b i r = true := by
  obtain ⟨x, nd, hn, h⟩ := nodeB_spec h
  split at h
  · rename_i xs hxs
    split at h
    · cases h
    · rename_i i hi
      split at h
      · cases h
      · rename_i r hr
        simp only [Bool.and_eq_true, decide_eq_true_eq, Bool.not_eq_true'] at h
        obtain ⟨h1, h2, h3, h4, h5, h6, h7, h8, h9, h10⟩ := h
        exact ⟨x, nd, _, i, r, ⟨⟨hn, h1⟩, h2, h3, h4, h5, h6, ⟨xs, hxs, rfl⟩, hi, h7, hr, h8, h9⟩, h10⟩
  · cases h

theorem freeB_spec {s : State} {c n : Nat} {f : Cell → Node → Bool} (h : nodeB s c n (fun x nd => nd.sentAll && f x nd) = true) :
    ∃ x nd, NodeFree s c n x nd ∧ f x nd = true := by
  obtain ⟨x, nd, hn, h⟩ := nodeB_spec h
  simp only [Bool.and_eq_true] at h
  exact ⟨x, nd, ⟨hn, h.1⟩, h.2⟩

/-- What SendsB asks for. -/
def sendsOkB (s : State) (c n m p : Nat) (f : Cell → Node → Bool) : Bool :=
  nodeB s c n (fun x nd => nd.sentAll && (decide (nd.word.outB = some (p + 1, m)) && (decide (m ≠ n) &&
    ((match x.nodes[m]? with
      | none => false
      | some md => (match md.ports[p]? with
        | none => false
        | some pt => decide (pt.store = none ∧ pt.link = [] ∧ pt.rest = []))) && f x nd))))

theorem sendsOkB_spec {s : State} {c n m p : Nat} {f : Cell → Node → Bool} (h : sendsOkB s c n m p f = true) :
    ∃ x nd, SendsB s c n x nd m p ∧ f x nd = true := by
  obtain ⟨x, nd, hn, h⟩ := freeB_spec h
  simp only [Bool.and_eq_true, decide_eq_true_eq] at h
  obtain ⟨h1, h2, h3, h4⟩ := h
  refine ⟨x, nd, ⟨hn, h1, h2, ?_⟩, h4⟩
  split at h3
  · cases h3
  · rename_i md hm
    split at h3
    · cases h3
    · rename_i pt hp
      exact ⟨md, pt, hm, hp, of_decide_eq_true h3⟩

/-- Ports of a MEM node of a mode, with addresses and with data that wait. -/
def memPs (mode : Nat) (a v : List Token) : List Port :=
  match mode with
  | 0 => [tPort 9 34 a, tNoPort, tNoPort]
  | 1 => [tPort 9 2 v, tPort 9 34 a, tNoPort]
  | _ => [tPort 9 34 a, tPort 9 2 v, tNoPort]

/-- A MEM node of n8 elements whose stream has begun. -/
def tMem (mode : Nat) (a v : List Token) : Node :=
  tNode { tWord kMEM mode 2 (some (1, 1)) none with mclass := 1 } (memPs mode a v) (.mem { MemState.fresh with begun := true })

/-- The same, with both ports ended and one access performed. -/
def tMemEnd (mode : Nat) : Node :=
  let nd := tMem mode [] []
  { nd with ports := nd.ports.map (fun p => { p with ended := true }), st := .mem { MemState.fresh with begun := true, count := 1 },
            word := if mode = 1 then nd.word else { nd.word with outB := some (1, 1), outA := none } }

/-- The machine with that node, at an address. -/
def tMemAt (mode a : Nat) : State := tOp (tMem mode [.data [some a]] [.data [some 5]])

/-- With a page of peer 1 at 0x20000, whose port 0 is up. -/
def withPeer (s : State) : State :=
  { s with
    mem := { s.mem with tlb := s.mem.tlb ++ [⟨0, 1, 0x20, 1, 0x000101000000023F⟩] },
    pkg := { s.pkg with peers := [(0, ⟨true, false, 1, 5⟩), (1, ⟨true, false, 1, 6⟩)], ports := s.pkg.ports.map (fun p => { p with up := true }) } }

theorem test_hyp_MemoryNodes :
    (∃ x nd b i r, LaneAt (tMemAt 0 0x100) 50 0 0 x nd b i r ∧ (nd.word.mode == 0 && !isRemote r.loc &&
      (laneReadFault (withImage (tMemAt 0 0x100) (memOf nd).image) x.crew.asid (elemBytes nd.word.type) r.loc).isNone &&
      !replays (tMemAt 0 0x100) x.crew.asid) = true) ∧ Quiet (tMemAt 0 0x100) 1 ∧
    (∃ x nd b i r, LaneAt (tMemAt 1 0xFFFF) 50 0 0 x nd b i r ∧ (nd.word.mode == 1 && r.loc == .mem 0x1000000FFFF &&
      (locMeta (tMemAt 1 0xFFFF) x.crew.asid r.loc (elemBytes nd.word.type)).isNone) = true) ∧
    (∃ x nd b i r, LaneAt (tMemAt 2 0x100) 50 0 0 x nd b i r ∧ (nd.word.mode == 2 && r.loc == .mem 0x10000000100 &&
      (laneReadFault (tMemAt 2 0x100) x.crew.asid (elemBytes nd.word.type) r.loc).isNone &&
      (locMeta (tMemAt 2 0x100) x.crew.asid r.loc (elemBytes nd.word.type)).isNone && !replays (tMemAt 2 0x100) x.crew.asid) = true) ∧
    (∀ mode ∈ [0, 1], ∃ x nd b i r, LaneAt (withPeer (tMemAt mode 0x20000)) 50 0 0 x nd b i r ∧ (nd.word.mode == mode &&
      (match r.loc with
       | .peer ix _ => okB (route (withPeer (tMemAt mode 0x20000)) ix) (fun _ => true)
       | _ => false)) = true) ∧
    (∃ x nd, Sends (tOp { tMem 0 [.data [none]] [] with st := .mem { MemState.fresh with begun := true } }) 50 0 x nd 1 0 ∧
      (nd.word.kind == kMEM && nd.word.mode == 0 && (memOf nd).begun && (memDone (tOp nd) x 0 nd).isNone &&
        !(memPorts nd).all (fun k => (nd.port k).ended) && tBeat (tOp nd) x nd (memPorts nd) (fun _ => 0) false (fun xs =>
          (lanesDue nd (memBeat nd xs)).isEmpty)) = true) ∧
    (∀ mode ∈ [0, 1, 2], ∃ x nd, NodeFree (tOp (tMemEnd mode)) 50 0 x nd ∧ (nd.word.kind == kMEM && nd.word.mode == mode && (memOf nd).begun &&
      (memPorts nd).all (fun k => (nd.port k).ended) && (nodeOps (tOp (tMemEnd mode)) 50 0).isEmpty && roomAll x 0) = true) ∧
    (∃ x nd, Sends (tOp (tMemEnd 1)) 50 0 x nd 1 0 ∧ (memOf nd).begun = true) ∧
    (∃ x nd, SendsB (tOp (tMemEnd 0)) 50 0 x nd 1 0 ∧ (memOf nd).begun = true) := by
  refine ⟨laneB_spec (by decide +kernel), by intro c hc; cases hc; decide +kernel, laneB_spec (by decide +kernel),
    laneB_spec (by decide +kernel), ?_,
    sendsOk_spec (by decide +kernel), ?_, ?_, ?_⟩
  · intro k hk
    simp only [List.mem_cons, List.not_mem_nil, or_false] at hk
    rcases hk with rfl | rfl <;> exact laneB_spec (by decide +kernel)
  · intro k hk
    simp only [List.mem_cons, List.not_mem_nil, or_false] at hk
    rcases hk with rfl | rfl | rfl <;> exact freeB_spec (by decide +kernel)
  · obtain ⟨x, nd, h, hb⟩ := sendsOk_spec (s := tOp (tMemEnd 1)) (c := 50) (n := 0) (m := 1) (p := 0) (f := fun _ nd => (memOf nd).begun)
      (by decide +kernel)
    exact ⟨x, nd, h, hb⟩
  · obtain ⟨x, nd, h, hb⟩ := sendsOkB_spec (s := tOp (tMemEnd 0)) (c := 50) (n := 0) (m := 1) (p := 0) (f := fun _ nd => (memOf nd).begun)
      (by decide +kernel)
    exact ⟨x, nd, h, hb⟩


/-- A POISON. -/
def tPoison : Poison := ⟨cLENGTH, 3, 0, 0, 7⟩

/-- A MAP of one port, at which a token waits. -/
def tPass (t : Token) : Node := tOne kMAP 20 2 [tPort 9 2 [t], tNoPort, tNoPort] .plain

/-- A MAP of two ports, at which tokens wait. -/
def tJoin (a b : List Token) : Node := tOne kMAP 0 2 [tPort 9 2 a, tPort 9 2 b, tNoPort] .plain

/-- A LOOP whose OUTB leads to node 1. -/
def tLoopB : Node :=
  tNode (tWord kLOOP 0 2 none (some (1, 1))) [tPort 9 2 [.poison tPoison], tPort 9 2 [], tPort 9 32 []] (.loop [] false false)

/-- A sink that holds a token. -/
def tEnd (t : Token) : Node := tNode (tWord kMAP 20 2 none none) [tPort 9 2 [t], tNoPort, tNoPort] .plain

/-- A cell with a sluice in it, which has only node 0 to reach. -/
def tSluiced (nd : Node) : State :=
  { tOp nd with cells := [(50, { tCell [nd, tSink 2 1] with sluices := [⟨9, [0], 3, 0, Sig.zero⟩], entered := 3 })] }

/-- A LINKIN and a LINKOUT of channel 4 (R187). -/
def tLinkin (d : Bool) : Node :=
  { tOne kMEM 3 2 [tNoPort, tNoPort, tNoPort] (.mem { MemState.fresh with
      desc := if d then some ((tOrder 4 1 0).raw, 2, false, none) else none }) with params := [4] }
/-- The LINKOUT. -/
def tLinkout (q : List Token) : Node :=
  { tNode (tWord kMEM 4 2 none none) [tPort 9 2 q, tNoPort, tNoPort] (.mem MemState.fresh) with params := [4] }

/-- A LINKOUT beside a cell whose LINKIN is live. -/
def tLinked (q : List Token) : State :=
  { tOp (tLinkout q) with cells := [(50, tCell [tLinkout q, tSink 2 1]), (51, tCell [tLinkin true, tSink 2 1])] }

/-- Something has come in. -/
def withIn (s : State) (l : List Inbound) : State := { s with fl := { s.fl with inbound := l } }

theorem test_hyp_TokensPass :
    (∃ x nd, Sends (tOp (tPass (.poison tPoison))) 50 0 x nd 1 0 ∧ (nd.head 0 == some (.poison tPoison) && (nd.port 0).fed && !isSink nd &&
      roomAll x 0 && !(governs nd 0 && columnsDue nd) && nd.word.kind != kLOOP) = true) ∧
    (∃ x nd, SendsB (tOp { tLoopB with word := { tLoopB.word with outA := some (1, 1) } }) 50 0 x nd 1 0 ∧
      (nd.head 0 == some (.poison tPoison) && (nd.port 0).fed && !isSink nd && roomAt x nd.word.outB && !(governs nd 0 && columnsDue nd) &&
      nd.word.kind == kLOOP) = true) ∧
    (nodeB (tOp (tEnd (.poison tPoison))) 50 0 (fun x nd => nd.head 0 == some (.poison tPoison) && isSink nd &&
      !linkHeld (tOp (tEnd (.poison tPoison))) x nd && !isLinkout nd && !unconfirmed (tOp (tEnd (.poison tPoison))) x.crew)) = true ∧
    (nodeB (tLinked [.poison tPoison]) 50 0 (fun x nd => isSink nd && !linkHeld (tLinked [.poison tPoison]) x nd && isLinkout nd &&
      linkCredit (tLinked [.poison tPoison]) 50 0 x nd)) = true ∧
    (∃ x nd, Sends (tOp (tPass (.sluice 9 Sig.zero))) 50 0 x nd 1 0 ∧ (sluiceReady nd && roomAll x 0 &&
      (nodeOps (tOp (tPass (.sluice 9 Sig.zero))) 50 0).isEmpty && !isSink nd) = true) ∧
    (nodeB (tSluiced (tEnd (.sluice 9 Sig.zero))) 50 0 (fun x nd => sluiceReady nd && roomAll x 0 && isSink nd &&
      (linkGate (tSluiced (tEnd (.sluice 9 Sig.zero))) 50 0 x nd).isNone && x.sluices == [⟨9, [0], 3, 0, Sig.zero⟩] && (nodeOps (tSluiced (tEnd (.sluice 9 Sig.zero))) 50 0).isEmpty &&
      (aget (tSluiced (tEnd (.sluice 9 Sig.zero))).threads x.cfg.thread).isSome && (sluiceAt nd 0).1 == 9)) = true ∧
    (∃ x nd, Sends (tOp (tPass (.snap 5))) 50 0 x nd 1 0 ∧ (nd.word.kind != kLOOP && roomAll x 0 && nd.late == [] &&
      (linkGate (tOp (tPass (.snap 5))) 50 0 x nd).isNone && readsOf nd == [0] && nd.head 0 == some (.snap 5)) = true) ∧
    (∃ x nd, Sends (tOp (tJoin [.snap 5] [])) 50 0 x nd 1 0 ∧ (nd.word.kind != kLOOP && roomAll x 0 && nd.late == [] &&
      (linkGate (tOp (tJoin [.snap 5] [])) 50 0 x nd).isNone && readsOf nd == [0, 1] && nd.head 0 == some (.snap 5) &&
      nd.head 1 == none && nd.snap == none) = true) ∧
    (∃ x nd, Sends (tOp { tJoin [.snap 5] [] with snap := some (5, 0, [0]) }) 50 0 x nd 1 0 ∧ (nd.word.kind != kLOOP && roomAll x 0 &&
      nd.late == [] && (aget { tOp { tJoin [.snap 5] [] with snap := some (5, 0, [0]) } with cycle := 15000 }.ctxs x.crew.asid).any (fun cx =>
        decide (cx.log.align.toNat ≤ 15000))) = true) := by
  exact ⟨sendsOk_spec (by decide +kernel), sendsOkB_spec (by decide +kernel), by decide +kernel, by decide +kernel,
    sendsOk_spec (by decide +kernel), by decide +kernel, sendsOk_spec (by decide +kernel), sendsOk_spec (by decide +kernel),
    sendsOk_spec (by decide +kernel)⟩

/-- A store of four positions, which its producer sends in the order of its consumer. -/
def tStore (held reg : List (Nat × Option Nat)) (tail : List (Token × List Nat)) : Store :=
  ⟨[0], tOrder 4 1 0, tOrder 4 1 0, held, reg, 0, 0, none, tail, false, Label.zero⟩

/-- A node whose port 0 has that store, and tokens before it. -/
def tStored (st : Store) (link : List Token) : Node :=
  tOne kMAP 20 2 [{ tPort 9 2 [] with store := some st, link := link }, tNoPort, tNoPort] .plain

/-- A store without granules, between a producer and a consumer that walk a square in different orders. -/
def tSmall : Store :=
  { tStore [] [] [] with
    granules := [], prod := { tOrder 4 1 0 with walk := [(0, 15), (1, 15), (0, 0), (0, 0), (0, 0), (0, 0)], ext := [4, 4, 1, 1] },
    cons := { tOrder 4 1 0 with walk := [(1, 15), (0, 15), (0, 0), (0, 0), (0, 0), (0, 0)], ext := [4, 4, 1, 1] } }

/-- The store of port 0 of node 0, where p holds of it. -/
def storeB (s : State) (p : Cell → Node → Store → Bool) : Bool :=
  nodeB s 50 0 (fun x nd => (nd.port 0).store.any (p x nd))

theorem test_hyp_ReorderStores :
    storeB (tOp (tStored (tStore [] [] []) [.data [some 5]])) (fun _ nd st =>
      (nd.port 0).link == [.data [some 5]] && !st.ending && st.reg == [] && !st.dropping) = true ∧
    storeB (tOp (tStored (tStore [] [] []) [.fin 4 Sig.zero])) (fun _ nd st =>
      (nd.port 0).link == [.fin 4 Sig.zero] && !st.dropping) = true ∧
    storeB (tOp (tStored (tStore [] [(0, some 5)] []) [.sluice 9 Sig.zero])) (fun _ nd st =>
      (nd.port 0).link == [.sluice 9 Sig.zero] && !st.ending) = true ∧
    storeB (tOp (tStored (tStore [] [(0, some 5)] []) [])) (fun _ nd st => decide ((nd.port 0).q.length < Config.linkCredit) &&
      !(nd.port 0).link.head?.elim false Token.isPoison && (nd.port 0).lp == (nd.port 0).le && (nd.port 0).rest == [] && st.tail == [] && st.ready) = true ∧
    storeB (tOp (tStored (tStore [] [] [(.fin 4 Sig.zero, [])]) [])) (fun _ nd st => decide ((nd.port 0).q.length < Config.linkCredit) &&
      !(nd.port 0).link.head?.elim false Token.isPoison && (nd.port 0).rest == [] && st.tail == [(.fin 4 Sig.zero, [])] && st.held == [] && st.reg == []) =
      true ∧
    storeB (tOp (tStored (tStore [] [] []) [.len 4 1 1 1])) (fun x nd st => (nd.port 0).link == [.len 4 1 1 1] && !st.ending &&
      !ownAgen x.nodes 0 0 && storeFits st [4, 1, 1, 1]) = true ∧
    storeB (tOp (tStored tSmall [.len 4 4 1 1])) (fun x nd st => (nd.port 0).link == [.len 4 4 1 1] &&
      !st.ending && !ownAgen x.nodes 0 0 && !storeFits st [4, 4, 1, 1]) = true := by
  and_intros <;> decide +kernel

/-- The LINKIN with something of its channel at hand. -/
def tComing (d : Bool) (i : Inbound) : State := withIn (tOp (tLinkin d)) [.token 1 3 (.data []), i]

/-- The LINKIN whose port went down, in a stream or between two. -/
def tDown (b : Bool) : State :=
  withIn (tOp { tLinkin true with st := .mem { memOf (tLinkin true) with begun := b } }) [.token 1 3 (.data []), .down 1 4]

theorem test_hyp_LinkNodes :
    (∀ ty ∈ [2, 4], ∃ x nd, NodeFree (tComing false (.descriptor 1 4 (tOrder 4 1 0).raw ty false none)) 50 0 x nd ∧
      (nd.word.kind == kMEM && nd.word.mode == 3 && (chanHead (tComing false (.descriptor 1 4 (tOrder 4 1 0).raw ty false none)) x.crew.asid
        (linkChan nd)).any (fun e => e.1 == 1)) = true) ∧
    (∀ t ∈ [Token.data [some 5], .fin 4 Sig.zero], ∃ x nd, Sends (tComing true (.token 1 4 t)) 50 0 x nd 1 0 ∧
      (nd.word.kind == kMEM && nd.word.mode == 3 && roomAll x 0 && (agenSluice (tComing true (.token 1 4 t)) 50 0 x nd).isNone &&
       (memOf nd).desc.isSome && (memOf nd).broken == none && !replays (tComing true (.token 1 4 t)) x.crew.asid &&
       chanHead (tComing true (.token 1 4 t)) x.crew.asid (linkChan nd) == some (1, .token 1 4 t)) = true) ∧
    (∀ b ∈ [true, false], ∃ x nd, Sends (tDown b) 50 0 x nd 1 0 ∧ (nd.word.kind == kMEM && nd.word.mode == 3 && roomAll x 0 &&
      (agenSluice (tDown b) 50 0 x nd).isNone && nd.word.outB.isNone && !replays (tDown b) x.crew.asid && (memOf nd).broken.isNone &&
      (memOf nd).begun == b && chanHead (tDown b) x.crew.asid (linkChan nd) == some (1, .down 1 4)) = true) ∧
    (∃ x nd, NodeFree (tLinked [.data [some 5]]) 50 0 x nd ∧ (nd.word.kind == kMEM && nd.word.mode == 4 &&
      (nd.port 0).q == [.data [some 5]] && !linkHeld (tLinked [.data [some 5]]) x nd && prmField nd.params 0 16 16 == 0 &&
      linkRoom (tLinked [.data [some 5]]) x.crew.asid (linkChan nd) && (linkBad nd (.data [some 5])).isNone) = true) := by
  refine ⟨?_, ?_, ?_, freeB_spec (by decide +kernel)⟩
  · intro k hk
    simp only [List.mem_cons, List.not_mem_nil, or_false] at hk
    rcases hk with rfl | rfl <;> exact freeB_spec (by decide +kernel)
  · intro k hk
    simp only [List.mem_cons, List.not_mem_nil, or_false] at hk
    rcases hk with rfl | rfl <;> exact sendsOk_spec (by decide +kernel)
  · intro k hk
    simp only [List.mem_cons, List.not_mem_nil, or_false] at hk
    rcases hk with rfl | rfl <;> exact sendsOk_spec (by decide +kernel)


/-! ### Hypotheses of the statements on what is in flight, engine sets, collectives and launches -/

/-- An operation that has left, of thread 0's load or of a node's. -/
def withOps (s : State) (l : List RemoteOp) : State := { s with fl := { s.fl with ops := l } }

/-- An outside write of 0x1234 to the last bytes of a line at the start of HBM. -/
def tAccess (w : Bool) : Inbound := .access w 0x1000000003E [0x34, 0x12] 2 0x123 none

theorem test_hyp_RemoteOperations :
    ((withOps (tMails 0) [⟨7, .message 1 9 0 0, 1, some 0, true, 0, [], []⟩]).fl.ops[0]?.any (fun o => o.write &&
      waitsFor (withOps (tMails 0) [o]) 1 9)) = true ∧
    ((withOps (tMails 0) [⟨7, .message 1 8 0 0, 1, some 0, true, 0, [], []⟩]).fl.ops[0]?.any (fun o => o.write &&
      !waitsFor (withOps (tMails 0) [o]) 1 8)) = true ∧
    (let s := withIn (tMails 0) [.landed 1 9 Sig.zero 0, .refused 1 9 3 0x10000, .message 1 15 14 5 false Sig.zero 0x77]
     (aget s.threads 1).any (fun th => th.mode == .trailing [.msendw 9] .next && !replays s (asidOf th)) &&
       mayLandInbound s.fl.inbound 2 1 15 14 0x77 && threadAt s 1 0 15 == some 1 && (aget s.ctxs 1).isSome &&
       s.fl.inbound.length == 3) = true ∧
    (let s := withOps (tAt (.ld32 t1L 0 0 .none) 0x100 0 0) [⟨7, .threadLoad 0 0, 1, some 0, false, 0x100, List.replicate 4 0, []⟩]
     (s.fl.ops[0]?.any (fun o => !o.write) && (aget s.threads 0).any (fun th => !replays s (asidOf th) && th.block.any (fun b =>
       b.slots[0]?.any (fun sl => (slotInstr sl).isSome && loadOf sl == some (4, false, 0x100)))))) = true ∧
    (let s := withOps (tMemAt 0 0x100) [⟨7, .nodeLoad 50 0 0, 1, some 0, false, 0x100, [0], []⟩]
     (s.fl.ops[0]?.any (fun o => !o.write) && (aget s.cells 50).any (fun x => !replays s x.crew.asid && x.nodes[0]?.any (fun nd =>
       nd.word.kind == kMEM)))) = true ∧
    (let s := withIn (tWorld []) [tAccess true]
     s.fl.inbound[0]? == some (tAccess true) && !accessBefore s 0 0x123 && outsideLoc s 0x1000000003E == some (0, .mem 0x1000000003E) &&
       !outsideHeld s && (locMeta s 0 (.mem 0x1000000003E) 2).isNone && s.mem.wf) = true ∧
    (∀ d, Quiet (withIn (tWorld []) [tAccess true]) d) ∧
    (let s := withIn (tWorld []) [tAccess false]
     s.fl.inbound[0]? == some (tAccess false) && !accessBefore s 0 0x123 && !locPoisoned s 0 (.mem 0x1000000003E) 2) = true := by
  refine ⟨by decide +kernel, by decide +kernel, by decide +kernel, by decide +kernel, by decide +kernel, by decide +kernel, ?_, by decide +kernel⟩
  intro d c hc
  change (if (1 : Nat) = d then some tCtx else none) = some c at hc
  split at hc
  · cases hc
    decide +kernel
  · cases hc

/-- A page whose first bank begins a circular buffer of two slots of 4 KiB, in a state. -/
def tFifoPage (f : FifoRun) : Page := { tPage with banks := ⟨.fifo, false, 12, 0, some f⟩ :: List.replicate 7 ⟨.cache, false, 0, 0, none⟩ }

/-- A circular buffer of two slots, k of them filled. -/
def tFifo (k : Nat) : FifoRun :=
  ⟨k % 2, 0, 2 - k, k, [(if k = 0 then 0 else 3, none), (if k = 2 then 3 else 0, none)], none⟩

/-- A POP or PUSH node of that buffer, whose stream has come. -/
def tPop (mode : Nat) : Node :=
  { tMem mode [.data [some 0]] [.data [some 5]] with
    word := { (tMem mode [] []).word with flags := 0x10 }, st := .mem MemState.fresh, params := [0] }

/-- The machine with that node and a buffer in a state. -/
def tFifoAt (nd : Node) (f : FifoRun) : State := { tOp nd with cells := [(50, { tCell [nd, tSink 2 1] with pages := [tFifoPage f] })] }

/-- A node wants a slot of a buffer of which p holds. -/
def wantsB (s : State) (mode : Nat) (p : BankAt → FifoRun → Bool) : Bool :=
  nodeB s 50 0 (fun _ nd => nd.sentAll && nd.word.kind == kMEM && nd.word.mode == mode && (nodeWants s 50 nd).any (fun e =>
    fifoOf s e.1 == some e.2 && p e.1 e.2))

/-- A copy that starts: the template, from slot 0. -/
def tStart (tmpl : List W) : CopyStart := ⟨tmpl, 0, 0, lMGMT, Sig.zero, 1⟩

/-- A copy that runs. -/
def tRun (tmpl : List W) (perf : List Nat) : CopyRun :=
  { start := tStart tmpl, perf := perf, index := [], image := [], slot := none, waiting := false, stalls := [], parked := false, counts := [],
    fault := none, seq := none, recSent := false, recFail := none, recSeq := none, slotDone := false }

/-- The engine set of the world, whose channel 2 is as given, with a term and counter 0. -/
def tEset (c : Channel) (t : Sys2Proof.Machine.Term) (k : Counter) : EngineSet :=
  { EngineSet.fresh ⟨1, 0, 0⟩ 0 with
    slots := some tTmpl :: List.replicate 63 none, channels := (List.replicate 16 Channel.reset).set 2 c,
    terms := (List.replicate 32 Term.reset).set 5 t, counters := (List.replicate 16 Counter.reset).set 0 k }

/-- The world with that engine set. -/
def tEng (c : Channel) (t : Sys2Proof.Machine.Term) (k : Counter) : State := { tWorld [(0, tThread)] with esets := [(0, tEset c t k)] }

/-- A copy into a circular buffer: its destination is the first bank of the crew's pages. -/
def tPushTmpl : List W := [0x100, 0x8000000000000000, 0, 0, 0x0010000100100001, 0x82, 0, 0]

/-- The world with a copy into a circular buffer of a cell. -/
def tPushing : State :=
  { tEng { Channel.reset with cur := some { tRun tPushTmpl [] with waiting := true } } Term.reset Counter.reset with
    cells := [(50, { tCell [tSink 2 1] with pages := [tFifoPage (tFifo 1)] })] }

/-- The same with k of the two slots filled, where the copy has not tried to take one yet. -/
def tPushFull (k : Nat) : State :=
  { tEng { Channel.reset with cur := some (tRun tPushTmpl []) } Term.reset Counter.reset with
    cells := [(50, { tCell [tSink 2 1] with pages := [tFifoPage (tFifo k)] })] }

/-- Engine set 0 runs, and p holds of it. -/
def esetB (s : State) (p : EngineSet → Bool) : Bool := (aget s.esets 0).any (fun x => esetRuns s x && p x)

/-- Channel 2 of it holds a running copy, of which p holds. -/
def runB (s : State) (p : EngineSet → Channel → CopyRun → Bool) : Bool :=
  esetB s (fun x => x.channels[2]?.any (fun c => c.cur.any (p x c)))

/-- The world before anything has been translated. -/
def tWalk : State := { tWorld [] with mem := { (tWorld []).mem with tlb := [] } }

/-- The same, whose root table lies at the start of HBM: entry 0 points to the table itself, entry 1 maps a page (R332). -/
def tMapped : State :=
  { withWords tWalk 0 [0x010000000001, 0x01000000003F] with
    ctxs := [(1, { tCtx with xlat := { tCtx.xlat with root := 0x010000000000 } })] }

theorem test_hyp_BuffersAndWalks :
    wantsB (tFifoAt (tPop 0) (tFifo 1)) 0 (fun _ f => decide (0 < f.filled)) = true ∧
    wantsB (tFifoAt (tPop 0) (tFifo 0)) 0 (fun _ f => decide (f.filled = 0)) = true ∧
    wantsB (tFifoAt (tPop 1) (tFifo 1)) 1 (fun b f => decide (0 < f.free) && !runWaited (tFifoAt (tPop 1) (tFifo 1)) b) = true ∧
    wantsB (tFifoAt (tPop 1) (tFifo 2)) 1 (fun _ f => decide (f.free = 0)) = true ∧
    runB tPushing (fun x _ r => (slotWanted tPushing x r).any (fun b => (fifoOf tPushing b).any (fun f => decide (0 < f.free)) &&
      slotTurn tPushing x b 2) && okB (beginCheck tPushing x r) (fun o => o.isNone) && indexReady r) = true ∧
    runB (tPushFull 2) (fun x _ r => (slotWanted (tPushFull 2) x r).any (fun b => (fifoOf (tPushFull 2) b).any (fun f => f.free == 0)) &&
      okB (beginCheck (tPushFull 2) x r) (fun o => o.isNone) && indexReady r && !r.waiting) = true ∧
    ((cellBank (tFifoAt (tPop 0) { tFifo 0 with free := 1, slots := [(2, none), (0, none)] }) 50 0).any (fun b =>
      (fifoOf (tFifoAt (tPop 0) { tFifo 0 with free := 1, slots := [(2, none), (0, none)] }) b).any (fun f => (fifoNext f).isSome))) = true ∧
    (field (0x1000 : W) 56 8 == 0 && (tlbHit tWalk (lowDie (diesOf tWalk 1)) 1 0x1000).isNone &&
      errB (walk tWalk (lowDie (diesOf tWalk 1)) 1 0x1000) (fun _ => true)) = true ∧
    ((tlbHit tMapped (lowDie (diesOf tMapped 1)) 1 0x1000).isNone && okB (walk tMapped (lowDie (diesOf tMapped 1)) 1 0x1000) (fun _ => true)) =
      true := by
  and_intros <;> decide +kernel

/-- A term whose two lines have come, bound to channel 2. -/
def tTerm (latch : W) : Sys2Proof.Machine.Term := ⟨0x10001, latch, some (2, 0, 0, lMGMT), [], Sig.zero⟩

theorem test_hyp_EngineSetsRun :
    esetB (tEng Channel.reset (tTerm 0x10001) Counter.reset) (fun x => x.terms[5]?.any (fun t => t.mask != 0 && t.latch &&& t.mask == t.mask &&
      t.bound == some (2, 0, 0, lMGMT) && t.fired == []) && hasRoom x 2) = true ∧
    esetB (tEng { Channel.reset with queue := List.replicate 4 (tStart tTmpl) } (tTerm 0x10001) Counter.reset) (fun x => !hasRoom x 2) = true ∧
    esetB (tEng Channel.reset (tTerm 1) ⟨5, 5, 0, false, true, Sig.zero⟩) (fun x => x.counters[0]?.any (fun c => c.due) &&
      (List.range 16).all (fun k => x.counters[k]?.any (fun d => decide ((d.src = 16 → d.thresh = 0) ∧ (k ≠ 0 → d.due = false)))) &&
      x.terms[5]?.any (fun t => t.mask &&& w64 (pow2 16) != 0 && t.fired == [] && (t.latch ||| w64 (pow2 16)) &&& t.mask == t.mask)) = true ∧
    esetB (tEng Channel.reset (tTerm 0) ⟨5, 5, 0, false, true, Sig.zero⟩) (fun x => x.terms[5]?.any (fun t =>
      t.mask &&& w64 (pow2 16) != 0 && t.fired == [] && (t.latch ||| w64 (pow2 16)) &&& t.mask != t.mask)) = true ∧
    (let s := tEng { Channel.reset with queue := [tStart tTmpl] } Term.reset Counter.reset
     esetB s (fun x => x.channels[2]?.any (fun c => c.cur.isNone && okB (indexOf s x (tStart tTmpl) []) (fun e =>
       !copyHeld s x (tStart tTmpl) e.1)) && (destFifo s x (stepped (tmplOf tTmpl) 0).2).isNone)) = true ∧
    (let s := tEng { Channel.reset with cur := some (tRun tTmpl []) } Term.reset Counter.reset
     runB s (fun x c r => indexReady r && (slotWanted s x r).isNone && sectorReady s 0 2 r 0 && (runSectors r)[0]?.any (fun sec =>
       okB (performSector s 0 2 0 x r c.pts sec) (fun _ => true)))) = true ∧
    (let s := tEng { Channel.reset with cur := some (tRun tTmpl []) } Term.reset Counter.reset
     runB s (fun x c r => !(tmplOf r.start.tmpl).unpack && r.slot.isNone && (runSectors r)[0]?.any (fun sec => match sec with
       | .puts ps => okB (foldPuts s x r (tmplOf r.start.tmpl) none false ps ⟨[], 0, 0, []⟩) (fun a => match runsGo a.bytes with
          | [(va, bs)] =>
             let s1 := chanMerges { s with mem := (loadEvent s.mem (sourceTs s x r c.pts ps) a.spans).2 } 0 2 a.spans
             okB (engLoc s1 x r.start .store (w64 va) bs.length) (fun l => match l.loc with
               | .mem y => (locMeta s1 x.crew.asid (.mem y) bs.length).isNone
               | _ => false)
          | _ => false)
       | _ => false))) = true ∧
    Quiet (tEng { Channel.reset with cur := some (tRun tTmpl []) } Term.reset Counter.reset) 1 ∧
    (let s := tEng { Channel.reset with cur := some (tRun tTmpl [0]) } Term.reset Counter.reset
     runB s (fun x _ r => sectorsDone r && (slotWanted s x r).isNone && s.fl.ops.isEmpty && (tmplOf r.start.tmpl).rlog == 0 && !r.recSent &&
       r.fault.isNone)) = true ∧
    (let s := tEng { Channel.reset with cur := some { tRun tTmpl [0] with fault := some (0, 4, 0, 0x100) } } Term.reset Counter.reset
     runB s (fun x _ r => sectorsDone r && (slotWanted s x r).isNone && r.fault == some (0, 4, 0, 0x100))) = true := by
  exact ⟨by decide +kernel, by decide +kernel, by decide +kernel, by decide +kernel, by decide +kernel, by decide +kernel,
    by decide +kernel, by intro c hc; cases hc; decide +kernel, by decide +kernel, by decide +kernel⟩


/-- A step of the collective at a level. -/
def tStep (level : Nat) (sent : Bool) : CollRun :=
  { step := 5, level := level, v := [0x3F800000], dq := [0x3F800000], sent := sent, flags := 0, maxlag := 0, writes := [], image := [],
    fault := none, sentState := false, born := 0 }

/-- A machine whose collective runs a step, with payloads kept; its level's port is up. -/
def tCollAt (r : CollRun) (kept : List Payload) : State :=
  { withBuf (withPeer (tWorld [(0, tThread)])) with colls := [(60, { tHeld 5 4 with cur := some r, kept := kept })] }

/-- The payload of rank 1. -/
def tPayload : Payload :=
  { asid := 1, group := 7, level := 0, step := 5, rank := 1, count := 1, type := 11, op := 0, codec := 0, memm1 := 1, vals := [0x40000000],
    sig := Sig.zero, unit := 0 }

/-- The step of the collective, where p holds of it. -/
def stepB (s : State) (p : Coll → CollRun → Bool) : Bool := (aget s.colls 60).any (fun c => c.cur.any (p c))

theorem test_hyp_CollectivesRun :
    (let s := withIn (tCollAt (tStep 0 true) []) [.payload tPayload, .abort 1 7 5]
     s.fl.inbound[0]? == some (.payload tPayload) && s.colls.find? (fun e => forColl e.2 tPayload) == (aget s.colls 60).map (fun c => (60, c)) &&
       stepB s (fun c _ => decide (¬((c.cstep - tPayload.step).toNat < 2 ^ 31 ∧ 15 < (c.cstep - tPayload.step).toNat)))) = true ∧
    (let s := withIn (tWorld []) [.payload tPayload]
     (s.colls.find? (fun e => forColl e.2 tPayload)).isNone && !endedFor s 1 7 5) = true ∧
    (let s := withIn (tCollAt (tStep 0 true) []) [.payload tPayload, .abort 1 7 5]
     s.fl.inbound[1]? == some (.abort 1 7 5) && s.colls.find? (fun e => e.2.asid == 1 && cGroup e.2.tmpl == 7) ==
       (aget s.colls 60).map (fun c => (60, c)) && stepB s (fun _ r => r.step == 5)) = true ∧
    (let s := tCollAt (tStep 0 false) []
     stepB s (fun c r => r.fault.isNone && decide (r.level < cNlev c.tmpl) && !r.sent && okB (collInput s 60 c r) (fun xs =>
       okB (collResid s 60 c r xs) (fun rs =>
         let pay := (encodeLevel (cLev c.tmpl r.level) xs.vals rs.vals).pay
         let ev := loadEvent s.mem rs.pts rs.spans
         let c1 := { c with pts := ev.1, label := rs.sigs.foldl (mergeLabel s) c.label }
         let s0 := collUses (noteForeign { s with mem := ev.2 } s.mem c.asid c.die ev.1 (collUnit s c.die) rs.spans) c
           (if r.level = 0 then [(c.tmpl.getD 0 0, cCount c.tmpl * cSize c.tmpl)] else [])
         let s1 := updColl (if vEf (cLev c.tmpl r.level) then
           collUses s0 c [(c.tmpl.getD 2 0 + w64 (4 * residAt c.tmpl r.level), 4 * cCount c.tmpl)] else s0) 60
           (fun y => { y with pts := c1.pts, label := c1.label })
         (breaking c r).isEmpty && (sendPayload s1 60 (cLev c.tmpl r.level) (payloadOf s1 c1 r pay) (vOthers (cLev c.tmpl r.level))).isSome)))) = true ∧
    (let s := tCollAt (tStep 0 true) [tPayload]
     stepB s (fun c r => r.fault.isNone && decide (r.level < cNlev c.tmpl) && r.sent && (breaking c r).isEmpty && (termsOf c r).isSome &&
       !replays s c.asid)) = true ∧
    (let s := tCollAt (tStep 0 true) [{ tPayload with count := 2 }]
     stepB s (fun c r => r.fault.isNone && !r.sentState && !(breaking c r).isEmpty)) = true ∧
    (let s := tCollAt { tStep 1 false with sentState := true } []
     stepB s (fun c r => r.fault.isNone && r.sentState && decide (cNlev c.tmpl ≤ r.level) && !stateUnacked s 60 c &&
       okB (collResult s 60 c r c.pts) (fun _ => true))) = true ∧
    (let s := { tCollAt (tStep 0 false) [] with colls := [(60, { tHeld 5 4 with cur := some (tStep 0 false), aborted := [5] })] }
     stepB s (fun c r => r.fault.isNone && c.aborted.contains r.step && !r.sentState)) = true ∧
    (let s := tCollAt (tStep 1 false) []
     stepB s (fun c r => r.fault.isNone && (breaking c r).isEmpty && !c.aborted.contains r.step && decide (cNlev c.tmpl ≤ r.level) && !stateUnacked s 60 c &&
       okB (collArea s 60 c r) (fun x => okB (collResult x.1 60 c r x.2) (fun _ => true) && x.1.fl.ops.length == s.fl.ops.length))) = true ∧
    stepB (tCollAt { tStep 1 false with fault := some (0x10, 2) } []) (fun _ r => r.fault == some (0x10, 2)) = true := by
  and_intros <;> decide +kernel

/-- Launch 9 of context 1, where p holds of it. -/
def launchB (s : State) (p : Context → Launch → Bool) : Bool := (aget s.ctxs 1).any (fun c => (aget c.launches 9).any (p c))

/-- A crew of the launch on cluster 1, whose window is rows 8 to 16. -/
def tCrew (threads : List Nat) : CrewState := ⟨0, 1, 1, threads, 0, none, 8, 16, false, false⟩

/-- The launch once it has been placed. -/
def tPlaced (ws : List W) (x : CrewState) : Launch := { tQueued ws with queued := false, crews := [x] }

/-- A SHAPE of the launch on its way, in a world whose launch has one crew. -/
def tShaped (l : Launch) (e : BitVec 32) : State :=
  { withLaunch (tWorld [(0, tThread)]) l with fl := { Flight.empty with shapes := [⟨1, 9, e, 0, Sig.zero⟩] } }

/-- A thread of the launch that has halted. -/
def tHaltedThread : Thread := { tThread with home := { tThread.home with cluster := 1, crew := ⟨1, 9, 0⟩ }, mode := .halted }

/-- The launch, whose only thread has halted. -/
def tDoneLaunch : State := withLaunch (tWorld [(0, tThread), (1, tHaltedThread)]) (tPlaced tLaunch (tCrew [1]))

theorem test_hyp_LaunchesRun :
    (let s := withLaunch (tWorld [(0, tThread)]) (tQueued tLaunch)
     launchB s (fun c l => l.queued && mayLeave s 1 9 l && (choosePlace s 1 9 l).any (fun pl => pl.length == 1) &&
       !(eligibleOf s c.part).any (fun y => ranksAbove s y (1, 9, l) && mayLeave s y.1 y.2.1 y.2.2 &&
         (choosePlace s y.1 y.2.1 y.2.2).isSome))) = true ∧
    (let s := { withLaunch (tWorld [(0, tThread)]) { tQueued tLaunch with telig := some 0 } with cycle := 75000 }
     launchB s (fun _ l => l.queued && l.telig == some 0 && l.target.isNone && decide (ageOf s 1 ≤ s.cycle))) = true ∧
    (let s := tShaped (tQueued tProof) 16
     launchB s (fun _ l => l.queued && !replays s 1 && s.fl.shapes.any (fun m => m.asid == 1 && m.id == 9))) = true ∧
    (∀ e ∈ [(9 : BitVec 32), 8, 1], launchB (tShaped (tPlaced tProof (tCrew [])) e) (fun _ l => !l.queued && l.crews == [tCrew []] &&
      !replays (tShaped (tPlaced tProof (tCrew [])) e) 1) = true) ∧
    launchB tDoneLaunch (fun _ l => launchDone tDoneLaunch 1 9 l && !wProof l.words && wCmben l.words && l.thread == 0) = true := by
  refine ⟨by decide +kernel, by decide +kernel, by decide +kernel, ?_, by decide +kernel⟩
  intro e he
  simp only [List.mem_cons, List.not_mem_nil, or_false] at he
  rcases he with rfl | rfl | rfl <;> decide +kernel


/-! ### Hypotheses of the statements on probes, links, regions and merges -/

/-- Two threads that each wait for the other's work. -/
def tSteals : State :=
  { tWorld [(0, { tThread with mode := .trailing [.steal 1] .next }),
            (1, { tThread with mode := .trailing [.steal 0] .next, home := { tThread.home with slot := 15 } })] with cycle := 37500 }

/-- Probes in flight. -/
def withProbes (s : State) (l : List Probe) : State := { s with fl := { s.fl with probes := l } }

/-- The way around that cycle. -/
def tCycle : List (Site × Nat × W) := [(.here (.thread 0), 8, 1), (.here (.thread 1), 8, 0)]

/-- Two nodes of a kind that wait for each other's tokens. -/
def tRing (kind : Nat) : State :=
  let nd (k : Nat) : Node := tNode (tWord kind 0 2 (some (1, k)) none) [{ tPort k 2 [] with begun := true }, tNoPort, tNoPort]
    (if kind = kMEM then .mem MemState.fresh else .plain)
  { tOp tMap with cells := [(50, tCell [nd 1, nd 0])] }

/-- The way around those. -/
def tRound : List (Site × Nat × W) := [(.here (.node 50 0), 12, 0), (.here (.node 50 1), 12, 1)]

/-- A walk that stands at the edge of ID 1, whose record names its predecessor. -/
def tWalking (prev : W) : State :=
  { withWords (tWorld []) 64 [1 ||| (prev <<< 32), 0, 0, 0, 0, 0, 0, 0] with
    pkg := { Package.reset with etab := [0x010000000000, 0, 0, 0] }, ctxs := [(1, { tCtx with log := { tCtx.log with rbase := 0x100C } })],
    fl := { Flight.empty with walks := [⟨4, 1, 0, 1, 1, [], 0, 0⟩] } }

theorem test_hyp_ProbesAndWalks :
    (probeDue tSteals (.thread 0) = true ∧ probeDue { tSteals with cycle := 10 } (.thread 0) = false) ∧
    ((withProbes tSteals [⟨.here (.thread 0), [(.here (.thread 0), 8, 1)], .here (.thread 1)⟩]).fl.probes[0]?.any (fun p =>
      p.target != p.origin && p.target == .here (.thread 1))) = true ∧
    (let s := withPeer (withProbes tSteals [⟨.here (.thread 0), [], .away 1 7 none⟩])
     okB (route s 1) (fun _ => true) && s.fl.probes[0]?.any (fun p => p.target == .away 1 7 none && p.target != p.origin)) = true ∧
    (cycleHolds tSteals (.here (.thread 0)) tCycle && lowestParty tSteals tCycle == some (.here (.thread 0), 8, 1) &&
      (aget tSteals.threads 0).any (fun th => !th.regs.intrap && !unconfirmed tSteals th.home.crew &&
        (aget tSteals.ctxs (asidOf th)).any (fun c => c.regs.trapvec != 0))) = true ∧
    (cycleHolds (tSteals) (.here (.thread 0)) [(.here (.thread 0), 8, 5)] = false) ∧
    (cycleHolds (tRing kMAP) (.here (.node 50 0)) tRound && lowestParty (tRing kMAP) tRound == some (.here (.node 50 0), 12, 0) &&
      nodeB (tRing kMAP) 50 0 (fun _ nd => nd.word.kind != kMEM && nd.word.outA.isSome)) = true ∧
    (cycleHolds (tRing kMEM) (.here (.node 50 0)) tRound && lowestParty (tRing kMEM) tRound == some (.here (.node 50 0), 12, 0) &&
      nodeB (tRing kMEM) 50 0 (fun _ nd => nd.word.kind == kMEM)) = true ∧
    (∀ prev ∈ [(0 : W), 1], ((tWalking prev).fl.walks[0]?.any (fun w => w.recs.length != 4096 &&
      w.cur.extractLsb' 18 14 == (tWalking prev).pkg.devid && (edgeEntry (tWalking prev) w.cur).any (fun r =>
        (r.getD 0 0).extractLsb' 0 32 == w.cur && decide ((r.getD 0 0).extractLsb' 32 32 = 0 ↔ prev = 0) &&
        decide (¬(field (r.getD 6 0) 32 8 = 14 ∧ w.cur ≠ w.mark ∧ r.getD 4 0 = w.waiter))) &&
      (aget (tWalking prev).ctxs w.asid).any (fun c => ringSize c.log.rbase != 0))) = true) ∧
    ((withIn tSteals [.fetch 1, .probe ⟨.here (.thread 0), [], .here (.thread 1)⟩]).fl.inbound.length = 2) ∧
    (arriveAt (tCollAt (tStep 0 true) []) ⟨.here (.thread 0), [(.here (.coll 9), 16, 7)], .away 1 (1 * 2 ^ 32 + 7) none⟩ ==
      [⟨.here (.thread 0), [(.here (.coll 9), 16, 7)], .here (.coll 60)⟩]) = true ∧
    (∀ e ∈ [(11, 51), (12, 50)], (arriveAt (tLinked []) ⟨.here (.thread 0), [(.here (.node 9 0), e.1, 4)], .away 1 (1 * 2 ^ 32 + 4) none⟩ ==
      [⟨.here (.thread 0), [(.here (.node 9 0), e.1, 4)], .here (.node e.2 0)⟩]) = true) := by
  refine ⟨⟨by decide +kernel, by decide +kernel⟩, by decide +kernel, by decide +kernel, by decide +kernel, by decide +kernel,
    by decide +kernel, by decide +kernel, ?_, by decide +kernel, by decide +kernel, by decide +kernel⟩
  intro e he
  simp only [List.mem_cons, List.not_mem_nil, or_false] at he
  rcases he with rfl | rfl <;> decide +kernel

/-- A FAR port that is up, with a key and a frame in its window. -/
def tFar : LinkPort :=
  { LinkPort.reset with up := true, mode := 2, wlen := 1, keys := [⟨0, [1, 2, 3, 4], 3⟩], window := [⟨5, 7, 64, 16⟩], rxSeq := 9 }

/-- A package whose port 0 it is, with frames that have come, and the load whose frame is in the window. -/
def tLink (p : LinkPort) : State :=
  { tAt (.ld32 t1L 0 0 .none) 0x100 0 0 with
    pkg := { Package.reset with ports := p :: List.replicate 15 LinkPort.reset },
    fl := { Flight.empty with
      frames := [⟨0, true, 0, 3, 9, .fetch 1⟩, ⟨0, false, 0, 3, 9, .fetch 1⟩, ⟨0, true, 0, 3, 8, .fetch 1⟩],
      ops := [⟨7, .threadLoad 0 0, 1, some 0, false, 0x100, List.replicate 4 0, []⟩] } }

theorem test_hyp_LinksAndPorts :
    ((tLink tFar).fl.frames[1]?.any (fun f => !f.ok)) = true ∧
    (∀ k ∈ [0, 2], ((tLink tFar).fl.frames[k]?.any (fun f => f.ok && ((tLink tFar).pkg.ports[f.port]?.any (fun p => p.up && p.mode == 2 &&
      p.keys.any (fun e => e.an == f.an && decide (e.rxPn ≤ f.pn)) && decide (f.seq ≤ p.rxSeq))))) = true) ∧
    ((tLink tFar).pkg.ports[0]?.any (fun p => (p.window.find? (fun g => g.seq == 5)).any (fun f => decide (p.retryMax.toNat ≤ f.resent)) &&
      p.up && causeHolds p 1 && causeHolds p 2)) = true ∧
    ((tLink { tFar with window := [⟨5, 7, 64, 15⟩] }).pkg.ports[0]?.any (fun p => (p.window.find? (fun g => g.seq == 5)).any (fun f =>
      decide (f.resent < p.retryMax.toNat)))) = true ∧
    ((tLink tFar).fl.ops[0]?.any (fun o => o.port == some 0 && o.issuer == .threadLoad 0 0)) = true ∧
    ((tLink { tFar with up := false }).pkg.ports[0]?.any (fun p => !p.up && p.mode == 2 && p.keys != [])) = true ∧
    ((tLink tFar).pkg.ports[0]?.any (fun p => p.mode == 2 && p.waiting == [] && decide (windowUsed p + frameSize [] ≤ p.wlen.toNat * 4096))) = true ∧
    ((tLink { tFar with window := [⟨5, 7, 4096, 0⟩] }).pkg.ports[0]?.any (fun p => p.mode == 2 && p.window != [] &&
      decide (p.wlen.toNat * 4096 < windowUsed p + frameSize []))) = true := by
  and_intros <;> decide +kernel

/-- A region of context 1 on cluster 0. -/
def tRegion (ph : RegionPhase) (rq : List PreemptWhy) (floor : Nat) : Region := ⟨1, 0, ph, rq, floor, 0, 75000, 0, []⟩

/-- The world with that region, its context changed by f. -/
def tRegions (r : Region) (f : Context → Context) : State :=
  { tWorld [(0, tThread)] with regions := [r], ctxs := [(1, f tCtx)] }

/-- Context 2, whose launch needs all 64 clusters of its die; context 1 has a save area and a launch crew's engine set on cluster 0. -/
def tNeeds : State :=
  { tWorld [(0, tThread)] with
    cycle := 100000,
    regions := [tRegion .running [] 0], esets := [(0, EngineSet.fresh ⟨1, 1, 0⟩ 0)], parts := [(0, Partition.fresh 1 12 0xFF)],
    ctxs := [(1, { tCtx with regs := { tCtx.regs with savebase := 0x100000, savelen := 0xFFFFFFF } }),
             (2, { Context.fresh 0 with
               launches := [(9, { tQueued ([0x1000, 0x201] ++ List.replicate 6 0) with telig := some 0, target := some [0] })],
               queues := List.replicate 7 [] ++ [[9]] })] }

/-- Two partitions of two dies each, the first of which asks for the second; their contexts are 1 and 2. -/
def tMerges (f g : Context → Context) (m : MergeRegs) (other : BitVec 4) : State :=
  { tWorld [] with
    cycle := 2000000, esets := [],
    parts := [(0, { Partition.fresh 3 12 0xF with merge := m }), (1, Partition.fresh other 12 0xF0)],
    ctxs := [(1, f tCtx), (2, g (Context.fresh 1))] }

/-- The handshake that has begun. -/
def tStarted : MergeRegs := { MergeRegs.reset with state := 1, go := true, other := 0xC }

/-- A launch that takes every page of 63 of a die's 64 clusters, of which two have a cell of one page each: it fits once one of them has
moved to the other. -/
def tCrowded : State :=
  { tNeeds with
    esets := [(0, EngineSet.fresh ⟨1, 0, 0⟩ 0)],
    cells := [(50, tCell [tMap, tSink 2 1]), (51, { tCell [tMap, tSink 2 1] with crew := ⟨3, 0, 1⟩, cluster := 1 })],
    ctxs := [(1, tCtx), (2, { Context.fresh 0 with
               launches := [(9, { tQueued ([0x1000, 0x41F9] ++ List.replicate 6 0) with telig := some 0, target := some [0] })],
               queues := List.replicate 7 [] ++ [[9]] }), (3, Context.fresh 0)] }

/-- The region that was read out, whose crew's copy has staged a granule, at 0x1200 of the page that the root table maps, from a page that
is missing. -/
def tStaged : State :=
  { withWords (tRegions (tRegion .readOut [] 0) id) 0 [0x010000000001, 0x01000000003F] with
    ctxs := [(1, { tCtx with xlat := { tCtx.xlat with root := 0x010000000000, demand := true, prq := 0x100C } })],
    esets := [(0, { EngineSet.fresh ⟨1, 0, 0⟩ 0 with
      staged := [⟨tStart [0x2000, 0x1200, 0, 0, 0x0010000100100001, 0x82, 0, 0], 2, [0x10000000000], true⟩] })] }

set_option maxRecDepth 8000 in
theorem test_hyp_RegionsMove :
    (let s := { tMerges (fun c => { c with merging := true }) id tStarted 0xC with regions := [tRegion .running [] 0] }
     (regionAt s 1 0).any (fun r => r.phase == .running && !r.requests.contains .merge) && (aget s.ctxs 1).any (mergeTakes s)) = true ∧
    ((aget (tRegions (tRegion .running [] 0) (fun c => { c with stopped := true })).ctxs 1).any (fun c => c.stopped)) = true ∧
    (cellsRested tCrowded 1 0 && moveHelps tCrowded 0 1 0 && (regionAt tCrowded 1 0).any (fun r => r.phase == .running && r.requests == [])) = true ∧
    ((needers (fixTargets tNeeds 0) 0 0).any (fun y => prioCase (fixTargets tNeeds 0) y (tRegion .running [] 0) &&
      (victims (fixTargets tNeeds 0) y 0 (fun z => mayPreempt (fixTargets tNeeds 0) y z && regionFits (fixTargets tNeeds 0) z.asid 0)).contains 1)) =
      true ∧
    ((needers (fixTargets tNeeds 0) 0 0).any (fun y => sliceCase (fixTargets tNeeds 0) y (tRegion .running [] 0) &&
      (victims (fixTargets tNeeds 0) y 0 (fun z => mayPreempt (fixTargets tNeeds 0) y z && regionFits (fixTargets tNeeds 0) z.asid 0)).contains 1) &&
      !haltsNow tNeeds 1 0) = true ∧
    ((regionAt (tRegions (tRegion .running [] 1000) id) 1 0).any (fun r => r.floor != 0 && decide (r.floor ≤ 1000))) = true ∧
    ((regionAt (tRegions (tRegion .running [] 1001) id) 1 0).any (fun r => decide (1000 < r.floor))) = true ∧
    (let s := tRegions (tRegion .running [.save] 0) (fun c => { c with stopped := true })
     (regionAt s 1 0).any (fun r => (aget s.ctxs 1).any (fun c => (r.requests.filter (requestStands s c 1 0)).any (requestDue s r)) &&
       setsFree s r)) = true ∧
    (let s := { tRegions (tRegion .running [.save] 0) (fun c => { c with stopped := true }) with
       regions := [tRegion .running [.save] 0, { tRegion .gated [] 0 with asid := 2 }] }
     (regionAt s 1 0).any (fun r => !setsFree s r)) = true ∧
    ((regionAt (tRegions (tRegion .gated [] 0) id) 1 0).any (fun r => r.phase == .gated) && fitsBack (tRegions (tRegion .gated [] 0) id) 1 0) =
      true ∧
    (fitsRegion (tRegions (tRegion .readOut [] 0) id) 1 0 1 &&
      okB (restage (rehome (tRegions (tRegion .readOut [] 0) id) 1 0 1) 1 1) (fun _ => true)) = true ∧
    (fitsRegion tStaged 1 0 1 && errB (restage (rehome tStaged 1 0 1) 1 1) (fun _ => true)) = true ∧
    (let s := { tNeeds with cells := [(50, tCell [tMap, tSink 2 1])] }
     (aget s.cells 50).any (fun x => cellRuns s x && compacts s ((aget s.ctxs x.crew.asid).elim 0 (fun k => k.part)) (dieOf x.cluster) &&
       decide (x.pages.length ≤ (freePhys s x.cluster x.pages.length).length) && x.movedAt == 0 &&
       okB (restageCell (numberFaults s x.crew.asid x.cluster) x) (fun _ => true) &&
       s.esets.all (fun e => decide (e.2.crew = x.crew → e.2.staged = [])))) = true := by
  and_intros <;> decide +kernel


/-- Partition 0 and the other one, of which p holds. -/
def mergeB (s : State) (p : Partition → Nat × Partition → Bool) : Bool := (aget s.parts 0).any (fun x => (mergeOther s 0 x).any (p x))

/-- The first context has a region, the second none; both have save areas, or only the second. -/
def tAreas (own : Bool) (rs : List Region) : State :=
  let area (c : Context) : Context := { c with regs := { c.regs with savebase := 0x100000, savelen := 0xFFFFFFF } }
  { tMerges (fun c => if own then area c else c) area tStarted 0xC with regions := rs, threads := [(0, tThread)] }

/-- A collective on die 2. -/
def tOtherColl : Coll := { tHeld 0 0 with die := 2 }

/-- A context that is due for everything that is observed. -/
def tObserved : Context :=
  { tCtx with
    pmc := { tCtx.pmc with ctl := 7, sper := 1000, cnt := List.replicate 8 0xFFFFFFFFFFFF },
    log := { tCtx.log with ckctl := 3, period := 1 } }

theorem test_hyp_MergesAndObservation :
    mergeB (tMerges id id { MergeRegs.reset with other := 0xC } 0xC) (fun p e => p.merge.state != 1 && decide (lowDie p.dies < lowDie e.2.dies)) =
      true ∧
    ((aget (tMerges id id { MergeRegs.reset with other := 5 } 0xC).parts 0).any (fun p => p.merge.state != 1 &&
      (mergeOther (tMerges id id { MergeRegs.reset with other := 5 } 0xC) 0 p).isNone)) = true ∧
    (let s := tMerges (fun c => { c with queues := [[9]] }) id tStarted 0xC
     mergeB s (fun p e => p.merge.state == 1 && e.1 == 1 && decide (p.merge.since + p.merge.qwait.toNat ≤ s.cycle) && queuesHold s 0 1)) = true ∧
    (let s := { tMerges id id tStarted 0xC with colls := [(60, tOtherColl)] }
     mergeB s (fun p e => p.merge.state == 1 && !queuesHold s 0 1 && s.colls.any (fun c => (p.dies ||| e.2.dies).getLsbD c.2.die))) = true ∧
    (let s := tAreas false [tRegion .running [] 0]
     mergeB s (fun p e => p.merge.state == 1 && !queuesHold s 0 1 && !s.colls.any (fun c => (p.dies ||| e.2.dies).getLsbD c.2.die) &&
       !(mergeCtxs s 0 1).all (areaHolds s))) = true ∧
    (let s := tAreas true [tRegion .running [] 0]
     mergeB s (fun p e => p.merge.state == 1 && !queuesHold s 0 1 && !s.colls.any (fun c => (p.dies ||| e.2.dies).getLsbD c.2.die) &&
       (mergeCtxs s 0 1).all (areaHolds s) && !(mergeCtxs s 0 1).all (savedAway s))) = true ∧
    (let s := tAreas true [tRegion .readOut [] 0]
     mergeB s (fun p e => p.merge.state == 1 && !queuesHold s 0 1 && !s.colls.any (fun c => (p.dies ||| e.2.dies).getLsbD c.2.die) &&
       (mergeCtxs s 0 1).all (areaHolds s) && (mergeCtxs s 0 1).all (savedAway s))) = true ∧
    (tObserved.pmc.ctl.getLsbD 0 && (List.range 8).all (fun k => tObserved.pmc.cnt.getD k 0 == 0xFFFFFFFFFFFF) &&
      sampleDue (tMerges (fun _ => tObserved) id tStarted 0xC) tObserved.pmc && epochDue (tMerges (fun _ => tObserved) id tStarted 0xC) tObserved.log) =
      true ∧
    (!epochOwes (tMerges id id tStarted 0xC) ⟨1, [7], [(50, 0)], false⟩) = true ∧
    (chanClass (tWorld []) { Channel.reset with cur := some (tRun tTmpl [0]), lastAct := 1000 } == 1 &&
      chanClass (tWorld []) { Channel.reset with cur := some { tRun tTmpl [] with waiting := true } } == 3) = true ∧
    (let c := { tObserved with log := { tObserved.log with replaying := true } }
     c.log.replaying && c.log.replay.isEmpty) = true ∧
    (let s := { tMerges id id tStarted 0xC with cycle := 30, mem := { Memory.reset with hot := [(5, 10, 20)] } }
     aget s.mem.hot 5 = some (10, 20) ∧ (10 : Nat) + 20 ≤ idleTo s 5) := by
  and_intros <;> decide +kernel

/-- A format window of 16 n16 elements kept as n8 at the start of HBM, not enabled (R350). -/
def tWindow (on : Bool) : Window := ⟨0x010000000000, 0, (if on then 0x80000000 else 0) ||| 0⟩

/-- A context whose window is selected. -/
def tFormats (on : Bool) : Context := { tCtx with xlat := { tCtx.xlat with windows := [(0, tWindow on)] } }

theorem test_hyp_RegisterWrites :
    ((aget (tAt (.yield .none) 0 0 0).ctxs 1).isSome = true) ∧
    ((wselWindow (tFormats true).xlat).ctl.getLsbD 31 = true) ∧
    ((partOf (tAt (.yield .none) 0 0 0) 1).any (fun p => (windowFault p 0 { tWindow false with ctl := 0x80000000 }).isSome) = true) ∧
    (tCtx.xlat.bufs[tCtx.xlat.pbsel.toNat]?.isSome = true) ∧
    ((tLink tFar).pkg.ports[(tLink tFar).pkg.psel.toNat]?.any (fun p => p.up && p.mode == 2)) = true ∧
    ((tLink { tFar with wlen := 0 }).pkg.ports[0]?.any (fun p => p.wlen == 0)) = true ∧
    ((farPorts { tLink tFar with pkg := { Package.reset with ports := List.replicate 16 tFar } } 15).length = 15) ∧
    (let s := gatedIn (tAt (.syswr 1 7 .none) 0 0 0)
     pblenSlot s 1 == some (0, 0) && !pblenLeased s 1 && gatedB s (.syswr 1 7 .none)) = true ∧
    (pblenSlot (tAt (.yield .none) 0 0 0) 1).isNone = true ∧
    (pblenLeased { tOp { tMem 0 [.data [some 0x8000]] [] with word := { (tMem 0 [] []).word with mclass := 0 } } with ctxs := [(1, tBufCtx)] } 1) = true ∧
    (let s := tMerges id id { MergeRegs.reset with other := 0xC } 0xC
     (s.parts.find? (fun e => e.1 != 0 && e.2.live && e.2.dies == 0xC)).any (fun e => e.1 == 1 && decide (lowDie 3 < lowDie e.2.dies))) = true ∧
    (sysFault { tMerges id id { MergeRegs.reset with other := 0xC } 0xC with threads := [(0, tThread)] } 0 4 6 0x10C).isNone = true ∧
    ((tLink LinkPort.reset).pkg.ports[0]?.any (fun p => !p.up)) = true ∧
    ((aget (tAt (.yield .none) 0 0 0).threads 0).any (fun th => th.regs.priv == lMGMT && !th.regs.intrap && asidOf th == 1 &&
      (aget (tAt (.yield .none) 0 0 0).ctxs 7).isNone && (aget (withTwo true (tAt (.yield .none) 0 0 0)).ctxs 2).isSome)) = true ∧
    (([(0, 4, 0), (0, 6, 0), (0, 7, 0), (0, 8, 3), (0, 12, 0), (0, 13, 0), (0, 15, 0), (1, 0, 0), (1, 1, 1), (1, 2, 0), (1, 5, 0x3F), (2, 0, 0),
        (0, 1, 5), (0, 2, 5), (0, 5, 5), (0, 9, 0x110), (1, 6, 0x1000), (1, 7, 0x1001), (1, 8, 0), (1, 9, 0), (2, 1, 0), (2, 2, 0),
        (4, 0, 0x100), (4, 3, 0x10000000000), (4, 4, 5), (4, 6, 5), (4, 7, 5), (5, 1, 10), (5, 8, 0x10A), (5, 9, 5), (5, 16, 5), (5, 17, 0xFF),
        (5, 20, 5), (5, 22, 5), (8, 3, 0), (8, 4, 5), (8, 11, 5), (3, 0, 5), (4, 5, 0xFFFFFFFF), (5, 0, 7), (5, 21, 5), (6, 4, 0), (6, 6, 5), (7, 1, 5), (7, 2, 5), (7, 3, 0), (7, 4, 0), (8, 1, 5),
        (8, 10, 0), (9, 0, 2), (9, 1, 2400), (5, 23, 0xFFFFFFFFFFFFFFF7), (5, 24, 5), (5, 30, 5)] : List (BitVec 4 × BitVec 6 × W)).all (fun e =>
      (sysFault (tAt (.yield .none) 0 0 0) 0 e.1 e.2.1 e.2.2).isNone) = true) ∧
    (sysFault (tAt (.yield .none) 0 0 0) 0 9 1 0 ≠ none ∧ sysFault (tAt (.yield .none) 0 0 0) 0 5 18 5 ≠ none) ∧
    ((aget (tAt (.yield .none) 0 0 0).parts 0).any (fun p => p.live && p.barsOpen) && (aget (tAt (.yield .none) 0 0 0).ctxs 1).any
      (fun c => c.part == 0 && !c.saved)) = true := by
  and_intros <;> decide +kernel

theorem test_hyp_PlatformRuns :
    ((barOf (tWorld []) 0).any (fun p => bar2Addr p 0x3E == some 0x1000000003E && (bar2Addr p (2 ^ 40)).isNone)) = true ∧
    ((0x3E : Nat) % 2 ^ 36 + 4 ≤ 2 ^ 36 ∧ locPoisoned (tWorld []) 0 (.mem 0x1000000003E) 4 = false ∧ outsideHeld (tWorld []) = false ∧
      (lineParts 2 0x1000000003E [1, 2, 3, 4]).all (fun q => (locMeta (tWorld []) 0 (.mem q.1) q.2.length).isNone) = true) ∧
    ((tWorld []).parts.any (fun e => e.2.live && e.2.dies.getLsbD 3)) = true ∧
    ((diesOf (tWorld []) 1).getLsbD (dieOf 255) && (haltedResident (tWorld []) 1 255 15).isNone && (freeSlots (tWorld []) 255).contains 15) =
      true ∧
    firmwareOk { Platform.reset with rollback := 1 } = false := by
  refine ⟨by decide +kernel, ⟨by decide, by decide +kernel, by decide +kernel, by decide +kernel⟩, by decide +kernel, by decide +kernel, ?_⟩
  simp [firmwareOk, stageOk, Platform.reset]

theorem test_hyp_StepKeepsMemoryCanonical : Safe State.reset ∧ step State.reset = exec .coldReset { tick State.reset with agenda := [] } :=
  ⟨by unfold Safe; decide, rfl⟩

theorem test_hyp_DecodeAndEncodeAgree : WellFormed (.add ⟨127, .x⟩ ⟨127, .r⟩ .w8 .onFalse) = true ∧
    (encode (.add ⟨127, .x⟩ ⟨127, .r⟩ .w8 .onFalse)).any (fun w => decide (decode w = .ok (.add ⟨127, .x⟩ ⟨127, .r⟩ .w8 .onFalse))) = true := by
  decide

set_option maxRecDepth 4000 in
theorem test_hyp_StepRunsDecodedInstruction :
    (let s := tAt (.add noTarget t1L .w64 .none) 1 2 0
     s.agenda.isEmpty && nextFire (tick s) (tick s).threads == some (0, 0, .add noTarget t1L .w64 .none)) = true ∧
    (let s := { tWorld [(0, { tThread with block := some { loneBlock 0 with slots := [tSlot (.yield .none) none none none] } })] with regions := [] }
     match (tick s).threads with
     | [(0, th)] => th.block.any (fun b => match b.slots with
         | [sl] => th.mode == .ready && threadRuns (tick s) th && sl.phase == .waiting && decide (decode sl.word = .ok (.yield .none)) &&
             portsReady sl (.yield .none)
         | _ => false)
     | _ => false) = true ∧
    (nextFire (tick (tWorld [(0, tThread)])) (tick (tWorld [(0, tThread)])).threads == none &&
      (nextEvent (tick (tWorld [(0, tThread)]))).isSome) = true ∧
    (nextFire (tick (tWorld [])) (tick (tWorld [])).threads == none && (nextEvent (tick (tWorld []))).isNone) = true :=
  ⟨by decide +kernel, by decide +kernel, by decide +kernel, by decide +kernel⟩

/-- Words of the opcode table, ADD to MAX, with their fields filled in (R72 to R78). -/
theorem test_words_1 :
    decode 0x0F044300#32 = .ok (.add ⟨7, .r⟩ ⟨4, .l⟩ .w32 .onFalse) ∧
    decode 0x0F044301#32 = .ok (.sub ⟨7, .r⟩ ⟨4, .l⟩ .w32 .onFalse) ∧
    decode 0x0F044302#32 = .ok (.mul ⟨7, .r⟩ ⟨4, .l⟩ .w32 .onFalse) ∧
    decode 0x0F044B03#32 = .ok (.mulh ⟨7, .r⟩ ⟨4, .l⟩ true .w32 .onFalse) ∧
    decode 0x0F044B04#32 = .ok (.div ⟨7, .r⟩ ⟨4, .l⟩ true .w32 .onFalse) ∧
    decode 0x0F044B05#32 = .ok (.rem ⟨7, .r⟩ ⟨4, .l⟩ true .w32 .onFalse) ∧
    decode 0x0F044306#32 = .ok (.and ⟨7, .r⟩ ⟨4, .l⟩ .w32 .onFalse) ∧
    decode 0x0F044307#32 = .ok (.or ⟨7, .r⟩ ⟨4, .l⟩ .w32 .onFalse) ∧
    decode 0x0F044308#32 = .ok (.xor ⟨7, .r⟩ ⟨4, .l⟩ .w32 .onFalse) ∧
    decode 0x0F044309#32 = .ok (.shl ⟨7, .r⟩ ⟨4, .l⟩ .w32 .onFalse) ∧
    decode 0x0F044B0A#32 = .ok (.shr ⟨7, .r⟩ ⟨4, .l⟩ true .w32 .onFalse) ∧
    decode 0x0F04430B#32 = .ok (.sra ⟨7, .r⟩ ⟨4, .l⟩ .w32 .onFalse) ∧
    decode 0x0F044B0C#32 = .ok (.min ⟨7, .r⟩ ⟨4, .l⟩ true .w32 .onFalse) ∧
    decode 0x0F044B0D#32 = .ok (.max ⟨7, .r⟩ ⟨4, .l⟩ true .w32 .onFalse) :=
  ⟨rfl, rfl, rfl, rfl, rfl, rfl, rfl, rfl, rfl, rfl, rfl, rfl, rfl, rfl⟩

/-- Words of the opcode table, EXT to LEA, with their fields filled in (R72 to R78). -/
theorem test_words_2 :
    decode 0x0F04410E#32 = .ok (.ext ⟨7, .r⟩ ⟨4, .l⟩ .onFalse) ∧
    decode 0x0F04408F#32 = .ok (.ins ⟨7, .r⟩ ⟨4, .l⟩) ∧
    decode 0x08A46910#32 = .ok (.addi ⟨4, .l⟩ 0x1234 .onFalse) ∧
    decode 0x08A46911#32 = .ok (.muli ⟨4, .l⟩ 0x1234 .onFalse) ∧
    decode 0x08A46912#32 = .ok (.andi ⟨4, .l⟩ 0x1234 .onFalse) ∧
    decode 0x08A46913#32 = .ok (.ori ⟨4, .l⟩ 0x1234 .onFalse) ∧
    decode 0x08A46914#32 = .ok (.xori ⟨4, .l⟩ 0x1234 .onFalse) ∧
    decode 0x08805515#32 = .ok (.shli ⟨4, .l⟩ 0x2A .onFalse) ∧
    decode 0x08805516#32 = .ok (.shri ⟨4, .l⟩ 0x2A .onFalse) ∧
    decode 0x08805517#32 = .ok (.srai ⟨4, .l⟩ 0x2A .onFalse) ∧
    decode 0x08A46918#32 = .ok (.movi ⟨4, .l⟩ 0x1234 .onFalse) ∧
    decode 0x08A46919#32 = .ok (.movhi ⟨4, .l⟩ 0x1234 .onFalse) ∧
    decode 0x0F04411A#32 = .ok (.tag ⟨7, .r⟩ ⟨4, .l⟩ .onFalse) ∧
    decode 0x0F04471B#32 = .ok (.lea ⟨7, .r⟩ ⟨4, .l⟩ 3 .onFalse) :=
  ⟨rfl, rfl, rfl, rfl, rfl, rfl, rfl, rfl, rfl, rfl, rfl, rfl, rfl, rfl⟩

/-- Words of the opcode table, CLZ to PNOT, with their fields filled in (R72 to R78). -/
theorem test_words_3 :
    decode 0x0F04431C#32 = .ok (.clz ⟨7, .r⟩ ⟨4, .l⟩ .w32 .onFalse) ∧
    decode 0x0F04431D#32 = .ok (.popc ⟨7, .r⟩ ⟨4, .l⟩ .w32 .onFalse) ∧
    decode 0x0F04411E#32 = .ok (.mov ⟨7, .r⟩ ⟨4, .l⟩ .onFalse) ∧
    decode 0x0F044320#32 = .ok (.cmpeq ⟨7, .r⟩ ⟨4, .l⟩ .w32 .onFalse) ∧
    decode 0x0F044321#32 = .ok (.cmpne ⟨7, .r⟩ ⟨4, .l⟩ .w32 .onFalse) ∧
    decode 0x0F044B22#32 = .ok (.cmplt ⟨7, .r⟩ ⟨4, .l⟩ true .w32 .onFalse) ∧
    decode 0x0F044B23#32 = .ok (.cmple ⟨7, .r⟩ ⟨4, .l⟩ true .w32 .onFalse) ∧
    decode 0x08A46924#32 = .ok (.cmpeqi ⟨4, .l⟩ 0x1234 .onFalse) ∧
    decode 0x08A46925#32 = .ok (.cmpnei ⟨4, .l⟩ 0x1234 .onFalse) ∧
    decode 0x08A46926#32 = .ok (.cmplti ⟨4, .l⟩ 0x1234 .onFalse) ∧
    decode 0x08A46927#32 = .ok (.cmplei ⟨4, .l⟩ 0x1234 .onFalse) ∧
    decode 0x0F044128#32 = .ok (.pand ⟨7, .r⟩ ⟨4, .l⟩ .onFalse) ∧
    decode 0x0F044129#32 = .ok (.por ⟨7, .r⟩ ⟨4, .l⟩ .onFalse) ∧
    decode 0x0F04412A#32 = .ok (.pnot ⟨7, .r⟩ ⟨4, .l⟩ .onFalse) :=
  ⟨rfl, rfl, rfl, rfl, rfl, rfl, rfl, rfl, rfl, rfl, rfl, rfl, rfl, rfl⟩

/-- Words of the opcode table, SEL to STOP, with their fields filled in (R72 to R78). -/
theorem test_words_4 :
    decode 0x0F0440AB#32 = .ok (.sel ⟨7, .r⟩ ⟨4, .l⟩) ∧
    decode 0x0F04432C#32 = .ok (.tst ⟨7, .r⟩ ⟨4, .l⟩ .w32 .onFalse) ∧
    decode 0x08800F30#32 = .ok (.grd ⟨4, .l⟩ 7 .onFalse) ∧
    decode 0x00000F31#32 = .ok (.gwr 7 .onFalse) ∧
    decode 0x08880B32#32 = .ok (.mrd ⟨4, .l⟩ 5 .onFalse) ∧
    decode 0x00080B33#32 = .ok (.mwr 5 .onFalse) ∧
    decode 0x08880A34#32 = .ok (.mwait ⟨4, .l⟩ 5) ∧
    decode 0x08880B35#32 = .ok (.mfull ⟨4, .l⟩ 5 .onFalse) ∧
    decode 0xABCDEB38#32 = .ok (.br 0xABCDE 5 .onFalse) ∧
    decode 0x00000B39#32 = .ok (.brx 5 .onFalse) ∧
    decode 0xABCDEB3A#32 = .ok (.call 0xABCDE 5 .onFalse) ∧
    decode 0x00000B3B#32 = .ok (.callx 5 .onFalse) ∧
    decode 0x00000B3C#32 = .ok (.ret 5 .onFalse) ∧
    decode 0x00000B3D#32 = .ok (.stop 5 .onFalse) :=
  ⟨rfl, rfl, rfl, rfl, rfl, rfl, rfl, rfl, rfl, rfl, rfl, rfl, rfl, rfl⟩

/-- Words of the opcode table, LD8 to AOR, with their fields filled in (R72 to R78). -/
theorem test_words_5 :
    decode 0x08FCDB40#32 = .ok (.ld8 ⟨4, .l⟩ 0x1F3 0x0D .onFalse) ∧
    decode 0x08FCDB41#32 = .ok (.ld16 ⟨4, .l⟩ 0x1F3 0x0D .onFalse) ∧
    decode 0x08FCDB42#32 = .ok (.ld32 ⟨4, .l⟩ 0x1F3 0x0D .onFalse) ∧
    decode 0x08FCDB43#32 = .ok (.ld64 ⟨4, .l⟩ 0x1F3 0x0D .onFalse) ∧
    decode 0x08FCDB44#32 = .ok (.lds8 ⟨4, .l⟩ 0x1F3 0x0D .onFalse) ∧
    decode 0x08FCDB45#32 = .ok (.lds16 ⟨4, .l⟩ 0x1F3 0x0D .onFalse) ∧
    decode 0x08FCDB46#32 = .ok (.lds32 ⟨4, .l⟩ 0x1F3 0x0D .onFalse) ∧
    decode 0x007CDB48#32 = .ok (.st8 0x1F3 0x0D .onFalse) ∧
    decode 0x007CDB49#32 = .ok (.st16 0x1F3 0x0D .onFalse) ∧
    decode 0x007CDB4A#32 = .ok (.st32 0x1F3 0x0D .onFalse) ∧
    decode 0x007CDB4B#32 = .ok (.st64 0x1F3 0x0D .onFalse) ∧
    decode 0x08FCDB50#32 = .ok (.aadd ⟨4, .l⟩ 0x1F3 0x0D .onFalse) ∧
    decode 0x08FCDB51#32 = .ok (.aand ⟨4, .l⟩ 0x1F3 0x0D .onFalse) ∧
    decode 0x08FCDB52#32 = .ok (.aor ⟨4, .l⟩ 0x1F3 0x0D .onFalse) :=
  ⟨rfl, rfl, rfl, rfl, rfl, rfl, rfl, rfl, rfl, rfl, rfl, rfl, rfl, rfl⟩

/-- Words of the opcode table, AXOR to EVX_PULSE, with their fields filled in (R72 to R78). -/
theorem test_words_6 :
    decode 0x08FCDB53#32 = .ok (.axor ⟨4, .l⟩ 0x1F3 0x0D .onFalse) ∧
    decode 0x08FCDB54#32 = .ok (.amin ⟨4, .l⟩ 0x1F3 0x0D .onFalse) ∧
    decode 0x08FCDB55#32 = .ok (.amax ⟨4, .l⟩ 0x1F3 0x0D .onFalse) ∧
    decode 0x08FCDB56#32 = .ok (.aswp ⟨4, .l⟩ 0x1F3 0x0D .onFalse) ∧
    decode 0x08FCDAD7#32 = .ok (.acas ⟨4, .l⟩ 0x1F3 0x0D) ∧
    decode 0x00000158#32 = .ok (.cfg .onFalse) ∧
    decode 0x00000159#32 = .ok (.strm .onFalse) ∧
    decode 0x0000015A#32 = .ok (.drainCell .onFalse) ∧
    decode 0x0000035A#32 = .ok (.drainAll .onFalse) ∧
    decode 0x0000015B#32 = .ok (.tmpl .onFalse) ∧
    decode 0x0000015C#32 = .ok (.evxTerm .onFalse) ∧
    decode 0x0000035C#32 = .ok (.evxCnt .onFalse) ∧
    decode 0x0000055C#32 = .ok (.evxTgt .onFalse) ∧
    decode 0x0000075C#32 = .ok (.evxPulse .onFalse) :=
  ⟨rfl, rfl, rfl, rfl, rfl, rfl, rfl, rfl, rfl, rfl, rfl, rfl, rfl, rfl⟩

/-- Words of the opcode table, PUB to MSEND, with their fields filled in (R72 to R78). -/
theorem test_words_7 :
    decode 0x0000015D#32 = .ok (.pub .onFalse) ∧
    decode 0x0000015E#32 = .ok (.collStart .onFalse) ∧
    decode 0x0000035E#32 = .ok (.collWait .onFalse) ∧
    decode 0x0000055E#32 = .ok (.collEnd .onFalse) ∧
    decode 0x0F04415F#32 = .ok (.waitc ⟨7, .r⟩ ⟨4, .l⟩ .onFalse) ∧
    decode 0x0F044160#32 = .ok (.waite ⟨7, .r⟩ ⟨4, .l⟩ .onFalse) ∧
    decode 0x00044768#32 = .ok (.launch ⟨4, .l⟩ 3 .onFalse) ∧
    decode 0x00000169#32 = .ok (.shape .onFalse) ∧
    decode 0x0F04416A#32 = .ok (.take ⟨7, .r⟩ ⟨4, .l⟩ .onFalse) ∧
    decode 0x0000016B#32 = .ok (.steal .onFalse) ∧
    decode 0x0000016C#32 = .ok (.yield .onFalse) ∧
    decode 0x0000016D#32 = .ok (.cptag .onFalse) ∧
    decode 0x0000016E#32 = .ok (.cpmark .onFalse) ∧
    decode 0x00000B70#32 = .ok (.msend 5 .onFalse) :=
  ⟨rfl, rfl, rfl, rfl, rfl, rfl, rfl, rfl, rfl, rfl, rfl, rfl, rfl, rfl⟩

/-- Words of the opcode table, MSENDW to TRAP, with their fields filled in (R72 to R78). -/
theorem test_words_8 :
    decode 0x00000B71#32 = .ok (.msendw 5 .onFalse) ∧
    decode 0x00000B72#32 = .ok (.mbcast 5 .onFalse) ∧
    decode 0x08900F78#32 = .ok (.sysrd ⟨4, .l⟩ 0 7 .onFalse) ∧
    decode 0x00100F79#32 = .ok (.syswr 0 7 .onFalse) ∧
    decode 0x00000B7A#32 = .ok (.tret 5 .onFalse) ∧
    decode 0x0000017B#32 = .ok (.tlbiAddr .onFalse) ∧
    decode 0x0000037B#32 = .ok (.tlbiAsid .onFalse) ∧
    decode 0x0000057B#32 = .ok (.tlbiAll .onFalse) ∧
    decode 0x0000017C#32 = .ok (.ctxsave .onFalse) ∧
    decode 0x0000017D#32 = .ok (.ctxload .onFalse) ∧
    decode 0x0024697E#32 = .ok (.trap 0x1234 .onFalse) :=
  ⟨rfl, rfl, rfl, rfl, rfl, rfl, rfl, rfl, rfl, rfl, rfl⟩



end Sys2Proof
end

section
namespace Sys2Proof

open Machine

/-! ### Clearing VALID where two threads stand under one handle (R339) -/

/-- The word of SYSWR XLAT.PBLEN. -/
def pblenWord : Word32 := encS 0x79#7 Pm.none.bits (2#2 ++ 1#4 ++ 7#6) 0#9

/-- The thread of `loneThread` with the slot of its word in a phase. -/
def pblenThread (ph : Phase) : Thread :=
  { loneThread pblenWord with block := some { loneBlock pblenWord with slots := [{ loadedSlot pblenWord with phase := ph }] } }

/-- A machine that lists two threads under handle 0: the first, which the handle finds, has its SYSWR still to fire; the second has it at its
gate. -/
def sharedHandle : State :=
  { placeWord State.reset pblenWord with threads := [(0, pblenThread .waiting), (0, pblenThread .gated)] }

/-- The phase of slot k of the thread that a handle finds. -/
def slotPhase (s : State) (t k : Nat) : Option Phase :=
  (aget s.threads t).bind (fun th => th.block.bind (fun b => b.slots[k]?.map (fun sl => sl.phase)))

/-- `pblenSlot` looks at every thread of the list, and answers for the second. -/
theorem pblenSlot_sharedHandle : pblenSlot sharedHandle 1 = some (0, 0) := by decide

/-- No lease is on the selected buffer, which is not valid. -/
theorem pblenLeased_sharedHandle : pblenLeased sharedHandle 1 = false := by decide

/-- The gate is asked for the first thread, whose slot is at no gate: nothing changes. -/
theorem pblenValidClear_sharedHandle : exec (.pblenValidClear 1 0) sharedHandle = .next sharedHandle := rfl

/-- The SYSWR of the first thread, had it been tried, would have fired. -/
theorem slotPhase_syswr_sharedHandle :
    slotPhase (busyAgain (nextOf (execSyswr 1 7 .none sharedHandle) sharedHandle) 0) 0 0 = some .fired := by decide +kernel

/-! ### Where one thread stands under the handle -/

/-- The slot that `pblenSlot` answers is a slot at its gate, in the block of a listed thread of the context. -/
theorem pblenSlot_spec {s : State} {a t k : Nat} (h : pblenSlot s a = some (t, k)) :
    ∃ th b sl, (t, th) ∈ s.threads ∧ asidOf th = a ∧ th.block = some b ∧ b.slots[k]? = some sl ∧ sl.phase = .gated := by
  obtain ⟨⟨t', th⟩, hmem, hth⟩ := List.exists_of_findSome?_eq_some h
  split at hth
  · rename_i ha
    obtain ⟨b, hb, hk⟩ := Option.bind_eq_some_iff.mp hth
    obtain ⟨k', hfind, hpair⟩ := Option.map_eq_some_iff.mp hk
    cases hpair
    have hgate := List.find?_some hfind
    split at hgate
    · rename_i sl hsl
      rw [Bool.and_eq_true, beq_iff_eq] at hgate
      exact ⟨th, b, sl, hmem, ha, hb, hsl, hgate.1⟩
    · cases hgate
  · cases hth

/-- A held gate that is tried again in a thread that runs goes on with its slot's instruction. -/
theorem retryGate_gated {s : State} {t k : Nat} {th : Thread} {b : Block} {sl : Slot} {i : Instr} (go : Instr → State → State)
    (hth : aget s.threads t = some th) (hb : th.block = some b) (hsl : b.slots[k]? = some sl) (hg : sl.phase = .gated)
    (hr : threadRuns s th = true) (hi : slotInstr sl = some i) :
    retryGate s t k go = { busyAgain (go i { s with cur := (t, k) }) t with cur := s.cur } := by
  simp only [retryGate, hth, hb, hsl, hg, hr, hi, and_self, if_true]

/-- Where the handle names one thread only, the SYSWR that waits to clear VALID goes on as it fires (R339). -/
theorem pblenValidClear_goesOn {s u : State} {a t k : Nat} {v : W} {th : Thread} {b : Block} {sl : Slot} {n : BitVec 6} {p : Pm}
    (hone : ∀ x, (t, x) ∈ s.threads → x = th) (hv : v.getLsbD 0 = false) (hlease : pblenLeased s a = false)
    (hslot : pblenSlot s a = some (t, k)) (hth : aget s.threads t = some th) (hb : th.block = some b) (hsl : b.slots[k]? = some sl)
    (hi : slotInstr sl = some (.syswr 1 n p)) (hr : threadRuns s th = true)
    (hu : exec (.syswr 1 n p) { s with cur := (t, k) } = .next u) :
    exec (.pblenValidClear a v) s = .next { busyAgain u t with cur := s.cur } := by
  obtain ⟨x, b', sl', hmem, -, hb', hsl', hg⟩ := pblenSlot_spec hslot
  obtain rfl := hone x hmem
  obtain rfl : b = b' := Option.some.inj (hb.symm.trans hb')
  obtain rfl : sl = sl' := Option.some.inj (hsl.symm.trans hsl')
  have hgo : nextOf (execSyswr 1 n p { s with cur := (t, k) }) { s with cur := (t, k) } = u := by
    rw [show execSyswr 1 n p { s with cur := (t, k) } = .next u from hu]; rfl
  show execPblenValidClear a v s = _
  simp only [execPblenValidClear, hv, hlease, hslot, Bool.or_self, Bool.false_eq_true, if_false,
    retryGate_gated _ hth hb hsl hg hr hi, hgo]

/-- Refutes O54: its clause on PBLEN_VALID_CLEAR with a SYSWR at its gate fails in a state that lists two threads under one handle, the
first with the SYSWR not yet at the gate. The statement is of every `State`, and no hypothesis of it excludes such a list, which no machine
is meant to hold; `pblenValidClear_goesOn` is that clause with the hypothesis that does. -/
theorem not_registerWrites : ¬ Obligations.RegisterWrites := by
  unfold Obligations.RegisterWrites
  intro h
  obtain ⟨hctx, -⟩ := h
  obtain ⟨-, -, -, hgoes, -⟩ := hctx sharedHandle 1 (Context.fresh 0) 0 rfl
  have hfires : exec (.pblenValidClear 1 0) sharedHandle =
      .next { busyAgain (nextOf (execSyswr 1 7 .none sharedHandle) sharedHandle) 0 with cur := sharedHandle.cur } :=
    hgoes 0 0 (pblenThread .waiting) _ _ 7 .none _ rfl pblenLeased_sharedHandle pblenSlot_sharedHandle rfl rfl rfl rfl rfl rfl
  rw [pblenValidClear_sharedHandle] at hfires
  have hphase := congrArg (fun u => slotPhase u 0 0) (Host.Outcome.next.inj hfires)
  have hwaits : slotPhase sharedHandle 0 0 = some .waiting := rfl
  exact absurd (hwaits.symm.trans (hphase.trans slotPhase_syswr_sharedHandle)) (by decide)

end Sys2Proof
end

section
namespace Sys2Proof

open Machine

/-! ### What the device's own writes leave alone -/

/-- u is s but for memory, what the contexts count and log, the package and what is in flight: every unit and every region is as it was. -/
def KeepsUnits (s u : State) : Prop :=
  ∃ m c n p f, u = { s with mem := m, ctxs := c, nextId := n, pkg := p, fl := f }

theorem KeepsUnits.refl (s : State) : KeepsUnits s s := ⟨_, _, _, _, _, rfl⟩

theorem KeepsUnits.trans {s u v : State} (h : KeepsUnits s u) (g : KeepsUnits u v) : KeepsUnits s v := by
  obtain ⟨_, _, _, _, _, rfl⟩ := h
  obtain ⟨_, _, _, _, _, rfl⟩ := g
  exact ⟨_, _, _, _, _, rfl⟩

theorem KeepsUnits.foldl {α : Type} {f : State → α → State} (h : ∀ s x, KeepsUnits s (f s x)) (l : List α) (s : State) :
    KeepsUnits s (l.foldl f s) :=
  List.foldlRecOn l f (.refl s) (fun _ hs x _ => hs.trans (h _ x))

theorem KeepsUnits.cycle {s u : State} (h : KeepsUnits s u) : u.cycle = s.cycle := by
  obtain ⟨_, _, _, _, _, rfl⟩ := h
  rfl

theorem KeepsUnits.agenda {s u : State} (h : KeepsUnits s u) : u.agenda = s.agenda := by
  obtain ⟨_, _, _, _, _, rfl⟩ := h
  rfl

theorem KeepsUnits.threads {s u : State} (h : KeepsUnits s u) : u.threads = s.threads := by
  obtain ⟨_, _, _, _, _, rfl⟩ := h
  rfl

theorem keepsUnits_updCtx (s : State) (a : Nat) (f : Context → Context) : KeepsUnits s (updCtx s a f) := by
  unfold updCtx
  split
  · exact ⟨_, _, _, _, _, rfl⟩
  · exact .refl s

theorem keepsUnits_sendWrite (s : State) (w : MbWrite) : KeepsUnits s (sendWrite s w) := ⟨_, _, _, _, _, rfl⟩

theorem keepsUnits_devPut (s : State) (a p : Nat) (bs : List Byte) : KeepsUnits s (devPut s a p bs) := by
  unfold devPut
  split <;> exact ⟨_, _, _, _, _, rfl⟩

theorem keepsUnits_devView {s u : State} {a : Nat} {l : Loc} {bs : List Byte} (h : devView s a l bs = some u) : KeepsUnits s u := by
  unfold devView at h
  split at h
  · cases h
    exact ⟨_, _, _, _, _, rfl⟩
  · split at h
    · cases h
    · cases h
      exact ⟨_, _, _, _, _, rfl⟩

theorem keepsUnits_sendOp (s : State) (i : Issuer) (ix : Nat) (port : Option Nat) (w : Bool) (a : W) (bs : List Byte) :
    KeepsUnits s (sendOp s i ix port w a bs) := ⟨_, _, _, _, _, rfl⟩

theorem keepsUnits_fillTlb (s : State) (w : Who) (va : W) : KeepsUnits s (fillTlb s w va) := by
  unfold fillTlb
  split
  · exact .refl s
  · exact ⟨_, _, _, _, _, rfl⟩

theorem keepsUnits_fillPages (w : Who) (fuel : Nat) :
    ∀ (s : State) (va : W) (n : Nat), KeepsUnits s (fillPages s w fuel va n) := by
  induction fuel with
  | zero => exact fun s _ _ => .refl s
  | succ fuel ih =>
    intro s va n
    unfold fillPages
    split
    · exact .refl s
    · exact (keepsUnits_fillTlb s w va).trans (ih _ _ _)

theorem keepsUnits_putPieces {a : Nat} (ps : List (Resolved × Nat)) :
    ∀ {s u : State} {bs : List Byte}, putPieces s a ps bs = some u → KeepsUnits s u := by
  induction ps with
  | nil =>
    intro s u bs h
    cases h
    exact .refl s
  | cons p rest ih =>
    intro s u bs h
    simp only [putPieces] at h
    split at h
    · exact (keepsUnits_devPut ..).trans (ih h)
    · split at h
      · rename_i hview
        exact (keepsUnits_devView hview).trans (ih h)
      · cases h
    · split at h
      · exact (keepsUnits_sendOp ..).trans (ih h)
      · cases h
    · exact (keepsUnits_sendOp ..).trans (ih h)
    · cases h

/-- A write of the device at a virtual address. -/
theorem keepsUnits_vaPut {s u : State} {a die : Nat} {va : W} {bs : List Byte} (h : vaPut s a die va bs = some u) : KeepsUnits s u := by
  simp only [vaPut] at h
  split at h
  · cases h
  · exact (keepsUnits_fillPages ..).trans (keepsUnits_putPieces _ h)

theorem keepsUnits_placeRecord {s : State} {a die size wr rd : Nat} {base : W} {ws : List W} {r : State × Nat}
    (h : placeRecord s a die base size wr rd ws = some r) : KeepsUnits s r.1 := by
  unfold placeRecord at h
  extract_lets l off tail at h
  split at h
  · cases h
  · rename_i padded _
    have hpadded : ∀ s1, padded = some s1 → KeepsUnits s s1 := by
      intro s1 hpad
      unfold padded at hpad
      split at hpad
      · cases hpad
        exact .refl s
      · exact keepsUnits_vaPut hpad
    cases hs1 : padded with
    | none => simp [hs1] at h
    | some s1 =>
      cases hs2 : vaPut s1 a die (base + w64 ((wr + tail) % size)) (wordBytes ws) with
      | none => simp [hs1, hs2] at h
      | some s2 =>
        obtain rfl : (s2, wr + tail + l) = r := by simpa [hs1, hs2] using h
        exact (hpadded s1 hs1).trans (keepsUnits_vaPut hs2)

theorem keepsUnits_sampleRec (s : State) (a die kind : Nat) (body : List W) : KeepsUnits s (sampleRec s a die kind body) := by
  simp only [sampleRec]
  split
  · exact .refl s
  · split
    · rename_i hrec
      exact (keepsUnits_placeRecord hrec).trans (keepsUnits_updCtx ..)
    · exact keepsUnits_updCtx ..

/-! ### Counters (R387, R388) -/

theorem keepsUnits_counterWraps (s : State) (a die k : Nat) : KeepsUnits s (counterWraps s a die k) := by
  simp only [counterWraps]
  split
  · exact .refl s
  · split
    · exact (keepsUnits_updCtx ..).trans (keepsUnits_sampleRec ..)
    · exact keepsUnits_updCtx ..

theorem keepsUnits_counterAdd (s : State) (a die k n : Nat) : KeepsUnits s (counterAdd s a die k n) := by
  simp only [counterAdd]
  split
  · exact .refl s
  · refine KeepsUnits.trans ?_ (keepsUnits_updCtx ..)
    split
    · exact .refl s
    · exact keepsUnits_counterWraps ..

theorem keepsUnits_pmcAdd (s : State) (a die event n : Nat) : KeepsUnits s (pmcAdd s a die event n) := by
  unfold pmcAdd
  split
  · exact .refl s
  · split
    · exact .refl s
    · refine .foldl (fun st k => ?_) _ _
      split
      · exact keepsUnits_counterAdd ..
      · exact .refl st

theorem keepsUnits_countCtx (s : State) (a : Nat) : KeepsUnits s (countCtx s a) :=
  .foldl (fun _ _ => keepsUnits_pmcAdd ..) _ _

/-- The counts of a cycle, before they reach the nodes. -/
theorem keepsUnits_countCtxs (l : List (Nat × Context)) (s : State) :
    KeepsUnits s (l.foldl (fun st e => if e.2.pmc.ctl.getLsbD 0 then countCtx st e.1 else st) s) := by
  refine .foldl (fun st e => ?_) l s
  split
  · exact keepsUnits_countCtx st e.1
  · exact .refl st

/-! ### What passes with every cycle (R20, R384) -/

@[simp] theorem tick_cycle (s : State) : (tick s).cycle = s.cycle + 1 :=
  congrArg (· + 1) (keepsUnits_countCtxs s.ctxs s).cycle

@[simp] theorem tick_agenda (s : State) : (tick s).agenda = s.agenda := (keepsUnits_countCtxs s.ctxs s).agenda

/-! ### Which instruction of a block in flight fires (R74, R123) -/

/-- A slot that fires stands ready in its block, and its word decodes to the instruction. -/
theorem slotFires_spec {b : Block} {k : Nat} {i : Instr} (h : slotFires b k = some i) :
    ∃ sl, b.slots[k]? = some sl ∧ (sl.phase = .waiting ∨ sl.phase = .ordered) ∧ decode sl.word = .ok i := by
  unfold slotFires at h
  split at h
  · rename_i hready
    obtain ⟨sl, hsl⟩ : ∃ sl, b.slots[k]? = some sl := by
      cases hsl : b.slots[k]? with
      | none => simp [hsl] at h
      | some sl => exact ⟨sl, rfl⟩
    have hinstr : slotInstr sl = some i := by simpa [hsl] using h
    have hphase : sl.phase = .waiting ∨ sl.phase = .ordered := by
      simp only [slotReady, hsl, hinstr, Bool.and_eq_true, Bool.or_eq_true, beq_iff_eq] at hready
      exact hready.2.imp_right And.left
    have hdecode : decode sl.word = .ok i := by
      unfold slotInstr at hinstr
      split at hinstr
      · cases hinstr
        assumption
      · cases hinstr
    exact ⟨sl, hsl, hphase, hdecode⟩
  · cases h

/-- A waiting slot whose operands have arrived fires the instruction of its word. -/
theorem slotFires_waiting {b : Block} {k : Nat} {sl : Slot} {i : Instr} (hsl : b.slots[k]? = some sl) (hw : sl.phase = .waiting)
    (hd : decode sl.word = .ok i) (hp : portsReady sl i = true) : slotFires b k = some i := by
  have hi : slotInstr sl = some i := by simp [slotInstr, hd]
  simp [slotFires, slotReady, hsl, hi, hp, hw]

theorem firstSlot_fires {b : Block} {f : Instr → Bool} {j : Nat} {i : Instr} (n : Nat) :
    ∀ k, firstSlot b f n k = some (j, i) → slotFires b j = some i := by
  induction n with
  | zero => exact fun k h => by cases h
  | succ n ih =>
    intro k h
    unfold firstSlot at h
    split at h
    · split at h
      · cases h
        assumption
      · exact ih _ h
    · exact ih _ h

theorem nextSlot_fires {b : Block} {k : Nat} {i : Instr} (h : nextSlot b = some (k, i)) : slotFires b k = some i := by
  unfold nextSlot at h
  split at h
  · rename_i hfirst
    rw [h] at hfirst
    exact firstSlot_fires _ _ hfirst
  · exact firstSlot_fires _ _ h

/-- The only slot of a block, where it fires, is the one that fires next, be it a load or not. -/
theorem nextSlot_only {b : Block} {sl : Slot} {i : Instr} (hs : b.slots = [sl]) (h : slotFires b 0 = some i) :
    nextSlot b = some (0, i) := by
  cases hload : isLoad i <;> simp [nextSlot, firstSlot, hs, h, hload]

/-- The instruction that fires next stands ready in the block of a listed thread that runs. -/
theorem nextFire_spec {s : State} {t k : Nat} {i : Instr} {l : List (Nat × Thread)} (h : nextFire s l = some (t, k, i)) :
    ∃ th b, (t, th) ∈ l ∧ th.block = some b ∧ th.mode = .ready ∧ threadRuns s th = true ∧ slotFires b k = some i := by
  induction l with
  | nil => cases h
  | cons e rest ih =>
    have later : nextFire s rest = some (t, k, i) → ∃ th b, (t, th) ∈ e :: rest ∧ th.block = some b ∧ th.mode = .ready ∧
        threadRuns s th = true ∧ slotFires b k = some i := by
      intro hrest
      obtain ⟨th, b, hmem, hth⟩ := ih hrest
      exact ⟨th, b, .tail _ hmem, hth⟩
    unfold nextFire at h
    split at h
    · split at h
      · split at h
        · rename_i hnext
          cases h
          exact ⟨_, _, .head _, by assumption, by assumption, by assumption, nextSlot_fires hnext⟩
        · exact later h
      · exact later h
    · exact later h

/-- The only listed thread, where it runs, fires the slot that its block fires next. -/
theorem nextFire_only {s : State} {t k : Nat} {th : Thread} {b : Block} {i : Instr} (hb : th.block = some b) (hm : th.mode = .ready)
    (hr : threadRuns s th = true) (hs : nextSlot b = some (k, i)) : nextFire s [(t, th)] = some (t, k, i) := by
  simp [nextFire, hb, hm, hr, hs]

/-! ### The step, by what is due (R20, log 1) -/

theorem step_agenda {s : State} {i : Instr} {rest : List Instr} (h : s.agenda = i :: rest) :
    step s = exec i { tick s with agenda := rest } := by
  simp [step, h]

theorem step_fires {s : State} {t k : Nat} {i : Instr} (h : s.agenda = []) (hf : nextFire (tick s) (tick s).threads = some (t, k, i)) :
    step s = exec i { tick s with cur := (t, k) } := by
  simp [step, h, hf]

theorem step_unit {s : State} {i : Instr} (h : s.agenda = []) (hf : nextFire (tick s) (tick s).threads = none)
    (he : nextEvent (tick s) = some i) : step s = exec i (tick s) := by
  simp [step, h, hf, he]

theorem step_idle {s : State} (h : s.agenda = []) (hf : nextFire (tick s) (tick s).threads = none)
    (he : nextEvent (tick s) = none) : step s = .next (tick s) := by
  simp [step, h, hf, he]

/-- Settles O59: a case of `step` for each thing that may be due, and `nextFire_spec` for what fires. -/
theorem stepRunsDecodedInstruction : Obligations.StepRunsDecodedInstruction := by
  unfold Obligations.StepRunsDecodedInstruction
  intro s
  refine ⟨tick_cycle s, tick_agenda s, fun i rest => step_agenda, fun hempty => ⟨?fires, ?only, ?unit, step_idle hempty⟩⟩
  case fires =>
    intro t k i hf
    obtain ⟨th, b, hmem, hb, hm, hr, hfires⟩ := nextFire_spec hf
    obtain ⟨sl, hsl, hphase, hdecode⟩ := slotFires_spec hfires
    exact ⟨step_fires hempty hf, th, b, sl, hmem, hb, hm, hr, hsl, hphase, hdecode⟩
  case only =>
    intro t th b sl i hthreads hb hm hr hslots hw hd hp
    have hfires : slotFires b 0 = some i := slotFires_waiting (by simp [hslots]) hw hd hp
    exact step_fires hempty (hthreads ▸ nextFire_only hb hm hr (nextSlot_only hslots hfires))
  case unit => exact fun hf i he => step_unit hempty hf he

end Sys2Proof
end

section
namespace Sys2Proof

open Machine

/-! ### What a gate leaves alone (R357, R358, R369) -/

theorem keepsUnits_nextSeq (s : State) (a : Nat) : KeepsUnits s (nextSeq s a).2 := by
  unfold nextSeq
  split
  · exact keepsUnits_updCtx ..
  · exact .refl s

theorem keepsUnits_logTrap (s : State) (a die : Nat) (ws : List W) : KeepsUnits s (logTrap s a die ws) := by
  simp only [logTrap]
  split
  · exact .refl s
  · refine KeepsUnits.trans ?_ (keepsUnits_updCtx ..)
    split
    · exact .refl s
    · split
      · rename_i hput
        exact keepsUnits_vaPut hput
      · exact .refl s

theorem keepsUnits_newEdge (s : State) (die : Nat) (waiter producer : W) (kind : Nat) (pred : BitVec 32) (path waitcyc pts : Nat)
    (tag : BitVec 32) (rflags : BitVec 8) :
    KeepsUnits s (newEdge s die waiter producer kind pred path waitcyc pts tag rflags).1 :=
  KeepsUnits.trans ⟨_, _, _, _, _, rfl⟩ (keepsUnits_devPut ..)

/-- Handles other than t find the same threads in u as in s. -/
structure SparesOthers (t : Nat) (s u : State) : Prop where
  others : ∀ k, k ≠ t → aget u.threads k = aget s.threads k

theorem SparesOthers.of_threads {t : Nat} {s u : State} (h : u.threads = s.threads) : SparesOthers t s u :=
  ⟨fun _ _ => by rw [h]⟩

theorem SparesOthers.refl (t : Nat) (s : State) : SparesOthers t s s := .of_threads rfl

theorem KeepsUnits.sparesOthers {s u : State} (h : KeepsUnits s u) (t : Nat) : SparesOthers t s u := .of_threads h.threads

theorem SparesOthers.trans {t : Nat} {s u v : State} (h : SparesOthers t s u) (g : SparesOthers t u v) : SparesOthers t s v :=
  ⟨fun k hk => (g.others k hk).trans (h.others k hk)⟩

theorem sparesOthers_updThread (s : State) (t : Nat) (f : Thread → Thread) : SparesOthers t s (updThread s t f) :=
  ⟨fun _ hk => updThread_ne s t f hk⟩

theorem sparesOthers_endWaitThread (s : State) (t : Nat) (g : Sig) (kind : Nat) (producer : W) (waited : Nat) :
    SparesOthers t s (endWaitThread s t g kind producer waited) := by
  simp only [endWaitThread]
  split
  · exact .refl t s
  · exact ((keepsUnits_newEdge ..).sparesOthers t).trans (sparesOthers_updThread ..)

theorem sparesOthers_refuseThieves (s : State) (t : Nat) : SparesOthers t s (refuseThieves s t) := by
  unfold refuseThieves
  split
  · exact .refl t s
  · exact ((KeepsUnits.foldl (fun _ _ => ⟨_, _, _, _, _, rfl⟩) _ s).sparesOthers t).trans (sparesOthers_updThread ..)

theorem sparesOthers_endThread (s : State) (t : Nat) (m : Mode) : SparesOthers t s (endThread s t m) := by
  simp only [endThread]
  split
  · exact .refl t s
  · split
    · exact sparesOthers_updThread ..
    · have hbarrier (st : State) : SparesOthers t st (drainBarrier st t) := .of_threads rfl
      exact ((sparesOthers_updThread ..).trans (hbarrier _)).trans ((keepsUnits_updCtx ..).sparesOthers t)

theorem sparesOthers_haltThread (s : State) (t : Nat) : SparesOthers t s (haltThread s t) :=
  (sparesOthers_refuseThieves s t).trans (sparesOthers_endThread _ t .halted)

theorem sparesOthers_trapSeq (s : State) (t : Nat) (th : Thread) : SparesOthers t s (trapSeq s t th).2 := by
  unfold trapSeq
  split
  · exact sparesOthers_updThread ..
  · exact (keepsUnits_nextSeq ..).sparesOthers t

theorem sparesOthers_takeTrap (s : State) (t : Nat) (tr : TrapReq) (pc : W) : SparesOthers t s (takeTrap s t tr pc) := by
  simp only [takeTrap]
  split
  · exact .refl t s
  · split
    · exact .refl t s
    · rename_i th _ _ _ _
      refine (sparesOthers_trapSeq s t th).trans ?_
      split
      · refine .trans ?_ ((sparesOthers_updThread ..).trans (sparesOthers_endThread ..))
        split
        · exact ((keepsUnits_logTrap ..).trans (keepsUnits_sendWrite ..)).sparesOthers t
        · exact (keepsUnits_logTrap ..).sparesOthers t
      · exact sparesOthers_updThread ..

/-- A thread goes on after its trailing waits, halts, or takes the trap of TRAP: no other thread changes (R114, R125, R347). -/
theorem sparesOthers_afterWaits (s : State) (t : Nat) (a : AfterWait) : SparesOthers t s (afterWaits s t a) := by
  have hready : SparesOthers t s (resumeBusy (updThread s t (fun th => { th with mode := .ready })) t) :=
    (sparesOthers_updThread ..).trans (sparesOthers_updThread ..)
  cases a with
  | next => exact hready
  | halt => exact hready.trans (sparesOthers_haltThread ..)
  | soft k v pc => exact hready.trans (sparesOthers_takeTrap ..)

theorem sparesOthers_endTrail (s : State) (t : Nat) (w : Waiting) : SparesOthers t s (endTrail s t w) := by
  unfold endTrail
  split
  · exact .refl t s
  · split
    · split
      · exact sparesOthers_afterWaits ..
      · exact sparesOthers_updThread ..
    · exact .refl t s

theorem sparesOthers_drainFirst (s : State) (t : Nat) : SparesOthers t s (drainFirst s t) := by
  simp only [drainFirst, execDrainComplete, nextOf]
  split
  · exact .refl t s
  · split
    · split
      · exact .refl t s
      · unfold endTrailEdge
        split
        · exact .refl t s
        · split
          · exact (sparesOthers_endWaitThread ..).trans (sparesOthers_endTrail ..)
          · exact .refl t s
    · exact .refl t s

theorem sparesOthers_abandon (s : State) (t : Nat) : SparesOthers t s (abandon s t) := by
  have hops (f : Flight) : SparesOthers t s { s with fl := f } := .of_threads rfl
  simp only [abandon]
  split
  · exact hops _
  · split
    · exact ((hops _).trans (sparesOthers_updThread ..)).trans ((keepsUnits_pmcAdd ..).sparesOthers t)
    · exact hops _

theorem sparesOthers_numberBlock (s : State) (t : Nat) (th : Thread) : SparesOthers t s (numberBlock s t th) := by
  simp only [numberBlock]
  split
  · exact ((keepsUnits_nextSeq ..).sparesOthers t).trans (sparesOthers_updThread ..)
  · exact .refl t s

/-- A thread at the gate: no other thread changes. -/
theorem sparesOthers_gateThread (s : State) (t : Nat) : SparesOthers t s (gateThread s t) := by
  simp only [gateThread]
  split
  · exact sparesOthers_drainFirst s t
  · refine ((sparesOthers_drainFirst s t).trans ?_).trans (sparesOthers_updThread ..)
    split
    · exact (sparesOthers_numberBlock ..).trans (sparesOthers_abandon ..)
    · exact .refl t _

/-- The gate of threads other than t leaves what t finds. -/
theorem aget_gateThreads {t : Nat} (l : List (Nat × Thread)) (s : State) (h : ∀ e ∈ l, e.1 ≠ t) :
    aget (l.foldl (fun st e => gateThread st e.1) s).threads t = aget s.threads t :=
  List.foldlRecOn l _ (motive := fun st => aget st.threads t = aget s.threads t) rfl
    (fun st hst e he => ((sparesOthers_gateThread st e.1).others t (h e he).symm).trans hst)

theorem numberFault_threads (e : Nat) (s : State) (ch : Nat) : (numberFault e s ch).threads = s.threads := by
  have hrun : ∀ (st : State) f, (updRun st e ch f).threads = st.threads := fun st f => updChan_threads ..
  simp only [numberFault]
  split
  · split <;> split <;> simp [hrun, (keepsUnits_nextSeq ..).threads]
  · rfl

theorem numberFaults_threads (s : State) (a cl : Nat) : (numberFaults s a cl).threads = s.threads :=
  List.foldlRecOn _ _ (motive := fun (u : State) => u.threads = s.threads) rfl (fun _ hu (e : Nat × EngineSet) _ =>
    List.foldlRecOn _ _ (motive := fun (v : State) => v.threads = s.threads) hu (fun v hv ch _ => (numberFault_threads e.1 v ch).trans hv))

theorem gateRegion_keeps {s : State} {a cl t : Nat} (h : ∀ e ∈ regionThreads s a cl, e.1 ≠ t) :
    aget (gateRegion s a cl).threads t = aget s.threads t := by
  have hregion : regionThreads (numberFaults s a cl) a cl = regionThreads s a cl := by
    simp only [regionThreads, numberFaults_threads]
  show aget ((regionThreads (numberFaults s a cl) a cl).foldl (fun st e => gateThread st e.1) (numberFaults s a cl)).threads t = _
  rw [hregion, aget_gateThreads _ _ h, numberFaults_threads]

/-- A thread outside a region, where its handle names it alone, stays as it is at the region's gate (R357). -/
theorem regionGate_keeps_outside {s u : State} {a cl t : Nat} {th : Thread} (hone : ∀ x, (t, x) ∈ s.threads → x = th)
    (hth : aget s.threads t = some th) (hout : asidOf th ≠ a ∨ th.home.cluster ≠ cl) (hu : exec (.regionGate a cl) s = .next u) :
    aget u.threads t = some th := by
  have houtside : ∀ e ∈ regionThreads s a cl, e.1 ≠ t := by
    rintro ⟨k, x⟩ hx rfl
    simp only [regionThreads, List.mem_filter, Bool.and_eq_true, beq_iff_eq] at hx
    obtain ⟨hmem, hasid, hcluster⟩ := hx
    obtain rfl := hone x hmem
    exact hout.elim (· hasid) (· hcluster)
  change execRegionGate a cl s = _ at hu
  simp only [execRegionGate, Host.Outcome.next.injEq] at hu
  subst hu
  rw [← hth]
  split
  · split
    · split
      · exact gateRegion_keeps houtside
      · exact gateRegion_keeps (s := updRegion s a cl _) houtside
    · split <;> rfl
  · rfl

/-! ### A gate where two threads stand under one handle (R357) -/

/-- A thread at MWAIT on cluster 0, of a context. -/
def waitingOf (a : Nat) : Thread := { Thread.fresh ⟨0, 0, ⟨a, 0, 0⟩, 0, 0, 0xFF, 0xFF, false⟩ 0 lSUPER 0 with mode := .mwait }

/-- A machine that lists two threads under handle 0: the first, which the handle finds, is of context 2; the second is of context 1, whose
region on cluster 0 is asked to go by a save. -/
def sharedGate : State :=
  { State.reset with
    threads := [(0, waitingOf 2), (0, waitingOf 1)], ctxs := [(1, { Context.fresh 0 with stopped := true })],
    regions := [⟨1, 0, .running, [.save], 0, 0, 0, 0, []⟩] }

/-- The mode of the thread that a handle finds. -/
def modeOf (s : State) (t : Nat) : Option Mode := (aget s.threads t).map (fun th => th.mode)

/-- The gate of the region of context 1 ends the MWAIT of the thread of context 2, which the handle of its own thread finds. -/
theorem modeOf_regionGate_sharedGate : modeOf (nextOf (exec (.regionGate 1 0) sharedGate) sharedGate) 0 = some .ready := by
  decide +kernel

/-- Refutes O52: its clause on REGION_GATE says that a thread of another context stays as it is, which fails in a state that lists such a
thread and a thread of the region under one handle. The statement is of every `State`, and no hypothesis of it excludes such a list, which
no machine is meant to hold; `regionGate_keeps_outside` is that part of the clause with the hypothesis that does. -/
theorem not_regionsMove : ¬ Obligations.RegionsMove := by
  unfold Obligations.RegionsMove
  intro h
  obtain ⟨hregion, -⟩ := h
  obtain ⟨-, -, -, -, hgate, -⟩ := hregion sharedGate 1 0 ⟨1, 0, .running, [.save], 0, 0, 0, 0, []⟩
    { Context.fresh 0 with stopped := true } rfl rfl
  obtain ⟨hgated, -⟩ := hgate [.save] rfl rfl
  obtain ⟨u, hu, -, hthreads⟩ := hgated rfl rfl
  obtain ⟨-, hstays⟩ := hthreads 0 (waitingOf 2) rfl
  have hwaits : modeOf u 0 = some .mwait := by
    simp only [modeOf, hstays (.inl (by decide))]
    rfl
  have hready : modeOf u 0 = some .ready := by
    have := modeOf_regionGate_sharedGate
    rwa [hu] at this
  exact absurd (hwaits.symm.trans hready) (by decide)

/-- The same machine with each thread under a handle of its own. -/
def ownGate : State := { sharedGate with threads := [(0, waitingOf 2), (1, waitingOf 1)] }

/-- There the thread of context 2 waits on, and the gate ends the MWAIT of the thread of the region alone. -/
theorem regionGate_ownGate : ∃ u, exec (.regionGate 1 0) ownGate = .next u ∧ aget u.threads 0 = some (waitingOf 2) ∧
    modeOf u 1 = some .ready := by
  have hready : modeOf (nextOf (exec (.regionGate 1 0) ownGate) ownGate) 1 = some .ready := by decide +kernel
  refine ⟨_, rfl, regionGate_keeps_outside (s := ownGate) (a := 1) (cl := 0) ?_ rfl (.inl (by decide)) rfl, hready⟩
  intro x hx
  simpa [ownGate] using hx

end Sys2Proof
end

section
namespace Sys2Proof

open Machine

/-! ### Nodes of a cell, and what they keep -/

theorem modAt_eq_modify {α : Type} (l : List α) (k : Nat) (f : α → α) : modAt l k f = l.modify k f := by
  unfold modAt
  split
  · rename_i x hx
    rw [List.modify_eq_set_getElem?, hx]
    rfl
  · rename_i hx
    rw [List.modify_eq_set_getElem?, hx]
    rfl

theorem setNode_same {x : Cell} {n : Nat} {nd : Node} (f : Node → Node) (hn : x.nodes[n]? = some nd) :
    (setNode x n f).nodes[n]? = some (f nd) := by
  simp [setNode, modAt_eq_modify, hn]

theorem setNode_ne {x : Cell} {n m : Nat} (f : Node → Node) (h : m ≠ n) : (setNode x n f).nodes[m]? = x.nodes[m]? := by
  simp [setNode, modAt_eq_modify, Ne.symm h]

theorem setNode_setNode (x : Cell) (n : Nat) (f g : Node → Node) :
    setNode (setNode x n f) n g = setNode x n (fun z => g (f z)) := by
  simp only [setNode, modAt_eq_modify, List.modify_modify_eq]
  rfl

/-- y is x but for its nodes, each of which has the same g as before. -/
def KeepsNodes {α : Type} (g : Node → α) (x y : Cell) : Prop := ∃ l, y = { x with nodes := l } ∧ l.map g = x.nodes.map g

section
variable {α : Type} {g : Node → α}

theorem KeepsNodes.refl (x : Cell) : KeepsNodes g x x := ⟨_, rfl, rfl⟩

theorem KeepsNodes.trans {x y z : Cell} (h : KeepsNodes g x y) (k : KeepsNodes g y z) : KeepsNodes g x z := by
  obtain ⟨l, rfl, hl⟩ := h
  obtain ⟨l', rfl, hl'⟩ := k
  exact ⟨l', rfl, hl'.trans hl⟩

theorem keepsNodes_setNode (x : Cell) (n : Nat) {f : Node → Node} (hf : ∀ z, g (f z) = g z) : KeepsNodes g x (setNode x n f) := by
  refine ⟨_, rfl, List.ext_getElem? fun i => ?_⟩
  simp only [modAt_eq_modify, List.getElem?_map, List.getElem?_modify, Option.map_eq_map, Option.map_map]
  congr 1
  funext z
  simp only [Function.comp_apply]
  split
  · exact hf z
  · rfl

theorem keepsNodes_sendA (x : Cell) (n : Nat) (t : Token) (hg : ∀ (z : Node) (a : List Token), g { z with pendA := a } = g z) :
    KeepsNodes g x (sendA x n t) :=
  keepsNodes_setNode x n (fun z => by split; exacts [rfl, hg z _])

theorem keepsNodes_sendB (x : Cell) (n : Nat) (t : Token) (hg : ∀ (z : Node) (b : List Token), g { z with pendB := b } = g z) :
    KeepsNodes g x (sendB x n t) :=
  keepsNodes_setNode x n (fun z => by split; exacts [rfl, hg z _])

theorem keepsNodes_sendTo (x : Cell) (tg : Option (Nat × Nat)) (t : Token)
    (hg : ∀ (z : Node) (ps : List Port), g { z with ports := ps } = g z) : KeepsNodes g x (sendTo x tg t) := by
  unfold sendTo
  split
  · exact .refl x
  · exact keepsNodes_setNode x _ (fun z => hg z _)

end

/-! ### What waits at a port of a cell -/

/-- The tokens that wait at port p of node m of a cell. -/
def cellQueue (x : Cell) (m p : Nat) : List Token := (x.nodes[m]?).elim [] (fun nd => (nd.port p).q)

theorem queueAt_eq {s : State} {c : Nat} {x : Cell} (h : aget s.cells c = some x) (m p : Nat) : queueAt s c m p = cellQueue x m p := by
  simp only [queueAt, nodeOf, h, cellQueue]

theorem cellQueue_congr {x y : Cell} {m : Nat} (h : y.nodes[m]? = x.nodes[m]?) (p : Nat) : cellQueue y m p = cellQueue x m p := by
  simp only [cellQueue, h]

theorem cellQueue_noteFire (s : State) (x : Cell) (n m p : Nat) : cellQueue (noteFire s x n) m p = cellQueue x m p := by
  by_cases h : m = n
  · subst h
    cases hn : x.nodes[m]? with
    | none => simp [cellQueue, noteFire, setNode, modAt, hn]
    | some nd => simp only [cellQueue, noteFire, setNode_same _ hn, hn]; rfl
  · exact cellQueue_congr (setNode_ne _ h) p

theorem setPort_port_same {nd : Node} {k : Nat} {pt : Port} (f : Port → Port) (h : nd.ports[k]? = some pt) :
    (setPort nd k f).port k = f pt := by
  simp [setPort, Node.port, modAt_eq_modify, h]

theorem setPort_port_ne (nd : Node) {k j : Nat} (f : Port → Port) (h : j ≠ k) : (setPort nd k f).port j = nd.port j := by
  simp [setPort, Node.port, modAt_eq_modify, Ne.symm h]

/-- A POISON, a SLUICE or a SNAP: no link changes it, and an adapter that holds no elements lets it through (R229). -/
def isMarker (t : Token) : Bool := t.isPoison || t.isSluice || t.isSnap

theorem onLink_marker (nd : Node) {t : Token} (h : isMarker t = true) : onLink nd t = [t] := by
  cases t with
  | poison | sluice | snap => rfl
  | data | scale | len | fin | done => cases h

/-- Port p of node m takes tokens as they come: no store reorders them, and nothing waits before its adapter. -/
def StraightPort (x : Cell) (m p : Nat) : Prop :=
  ∃ md pt, x.nodes[m]? = some md ∧ md.ports[p]? = some pt ∧ pt.store = none ∧ pt.link = [] ∧ pt.rest = []

theorem StraightPort.congr {x y : Cell} {m p : Nat} (hs : StraightPort x m p) (h : y.nodes[m]? = x.nodes[m]?) : StraightPort y m p := by
  unfold StraightPort
  rwa [h]

theorem pushPort_marker {pt : Port} {t : Token} (ht : isMarker t = true) (hstore : pt.store = none) (hlink : pt.link = [])
    (hrest : pt.rest = []) : (pushPort pt t).q = pt.q ++ [t] := by
  cases t with
  | poison q => simp [pushPort, pump, adaptStep, hstore, hlink]
  | sluice sid g => simp [pushPort, pump, adaptStep, hstore, hlink, hrest]
  | snap e => simp [pushPort, pump, adaptStep, hstore, hlink]
  | data | scale | len | fin | done => cases ht

theorem cellQueue_sendTo_same {x : Cell} {m p : Nat} {t : Token} (hs : StraightPort x m p) (ht : isMarker t = true) :
    cellQueue (sendTo x (some (p + 1, m)) t) m p = cellQueue x m p ++ [t] := by
  obtain ⟨md, pt, hmd, hpt, hstore, hlink, hrest⟩ := hs
  have hport : md.port p = pt := by simp [Node.port, hpt]
  simp only [cellQueue, sendTo, setNode_same _ hmd, hmd, Option.elim_some, Nat.add_sub_cancel, setPort_port_same _ hpt, hport,
    pushPort_marker ht hstore hlink hrest]

theorem cellQueue_sendTo_other {x : Cell} {m p : Nat} {tg : Option (Nat × Nat)} (t : Token)
    (h : ∀ b, tg = some b → b.2 ≠ m ∨ b.1 - 1 ≠ p) : cellQueue (sendTo x tg t) m p = cellQueue x m p := by
  cases tg with
  | none => rfl
  | some b =>
    obtain ⟨j, k⟩ := b
    by_cases hk : m = k
    · subst hk
      have hj : p ≠ j - 1 := ((h _ rfl).resolve_left (fun hne => hne rfl)).symm
      cases hm : x.nodes[m]? with
      | none => simp [cellQueue, sendTo, setNode, modAt, hm]
      | some md => simp only [cellQueue, sendTo, setNode_same _ hm, hm, Option.elim_some, setPort_port_ne _ _ hj]
    · exact cellQueue_congr (setNode_ne _ hk) p

theorem roomAt_congr {x y : Cell} {m : Nat} (h : y.nodes[m]? = x.nodes[m]?) (p : Nat) :
    roomAt y (some (p, m)) = roomAt x (some (p, m)) := by
  simp only [roomAt, h]

/-! ### What a node forms, and what leaves it (R152) -/

/-- What leaves an output of the tokens that its node has formed for it. -/
def leaving (x : Cell) (tg : Option (Nat × Nat)) (pend : List Token) : Option Token := if roomAt x tg then pend.head? else none

/-- A token onto a target, where there is one. -/
def sendSome (x : Cell) (tg : Option (Nat × Nat)) (o : Option Token) : Cell := o.elim x (sendTo x tg)

/-- A node without the tokens that leave it. -/
def dropSent (a b : Bool) (nd : Node) : Node :=
  { nd with pendA := if a then nd.pendA.drop 1 else nd.pendA, pendB := if b then nd.pendB.drop 1 else nd.pendB }

theorem emitPend_eq {x : Cell} {n : Nat} {nd : Node} (hn : x.nodes[n]? = some nd) :
    emitPend x n = sendSome (sendSome
      (setNode x n (dropSent (leaving x nd.word.outA nd.pendA).isSome (leaving x nd.word.outB nd.pendB).isSome))
      nd.word.outA (leaving x nd.word.outA nd.pendA)) nd.word.outB (leaving x nd.word.outB nd.pendB) := by
  simp only [emitPend, hn, leaving]
  generalize (if roomAt x nd.word.outA = true then nd.pendA.head? else none) = goA
  generalize (if roomAt x nd.word.outB = true then nd.pendB.head? else none) = goB
  cases goA <;> cases goB <;> rfl

theorem keepsNodes_sendSome {α : Type} {g : Node → α} (x : Cell) (tg : Option (Nat × Nat)) (o : Option Token)
    (hg : ∀ (z : Node) (ps : List Port), g { z with ports := ps } = g z) : KeepsNodes g x (sendSome x tg o) := by
  cases o with
  | none => exact .refl x
  | some t => exact keepsNodes_sendTo x tg t hg

theorem cellQueue_sendSome_other {x : Cell} {m p : Nat} {tg : Option (Nat × Nat)} (o : Option Token)
    (h : ∀ b, tg = some b → b.2 ≠ m ∨ b.1 - 1 ≠ p) : cellQueue (sendSome x tg o) m p = cellQueue x m p := by
  cases o with
  | none => rfl
  | some t => exact cellQueue_sendTo_other t h

/-- What leaves a node changes its ports and what it has formed, and nothing else of any node. -/
theorem keepsNodes_emitPend {α : Type} {g : Node → α} (x : Cell) (n : Nat)
    (hg : ∀ (z : Node) (ps : List Port) (a b : List Token), g { z with ports := ps, pendA := a, pendB := b } = g z) :
    KeepsNodes g x (emitPend x n) := by
  cases hn : x.nodes[n]? with
  | none =>
    simp only [emitPend, hn]
    exact .refl x
  | some nd =>
    rw [emitPend_eq hn]
    have hports (z : Node) (ps : List Port) : g { z with ports := ps } = g z := hg z ps z.pendA z.pendB
    exact ((keepsNodes_setNode x n (fun z => hg z z.ports _ _)).trans (keepsNodes_sendSome _ _ _ hports)).trans
      (keepsNodes_sendSome _ _ _ hports)

/-- y is x but for node n, which has the word of nd, and has formed a for OUTA and b for OUTB. -/
structure Forms (x y : Cell) (n : Nat) (nd : Node) (a b : List Token) : Prop where
  others : ∀ k, k ≠ n → y.nodes[k]? = x.nodes[k]?
  node : ∃ z, y.nodes[n]? = some z ∧ z.word = nd.word ∧ z.pendA = a ∧ z.pendB = b

/-- What a node forms for an output as it sends t there. -/
def onOutput (tg : Option (Nat × Nat)) (t : Token) : List Token := if tg.isNone then [] else [t]

section
variable {x y : Cell} {n m p : Nat} {nd : Node} {a b : List Token} {t : Token}

/-- A node that waits to send nothing has formed nothing. -/
theorem forms_of_sentAll (hn : x.nodes[n]? = some nd) (h : nd.sentAll = true) : Forms x x n nd [] [] := by
  simp only [Node.sentAll, Bool.and_eq_true, List.isEmpty_iff] at h
  exact ⟨fun _ _ => rfl, nd, hn, rfl, h⟩

theorem Forms.setNode (h : Forms x y n nd a b) {f : Node → Node}
    (hf : ∀ z, (f z).word = z.word ∧ (f z).pendA = z.pendA ∧ (f z).pendB = z.pendB) : Forms x (setNode y n f) n nd a b := by
  obtain ⟨z, hz, hw, ha, hb⟩ := h.node
  obtain ⟨hfw, hfa, hfb⟩ := hf z
  exact ⟨fun k hk => (setNode_ne f hk).trans (h.others k hk), f z, setNode_same f hz, hfw.trans hw, hfa.trans ha, hfb.trans hb⟩

theorem Forms.sendA (h : Forms x y n nd [] b) (ht : isMarker t = true) : Forms x (sendA y n t) n nd (onOutput nd.word.outA t) b := by
  obtain ⟨z, hz, hw, ha, hb⟩ := h.node
  refine ⟨fun k hk => (setNode_ne _ hk).trans (h.others k hk), _, setNode_same _ hz, ?_⟩
  simp only [onOutput, ← hw, ha, onLink_marker z ht, List.nil_append]
  split <;> exact ⟨rfl, by simp [ha], hb⟩

theorem Forms.sendB (h : Forms x y n nd a []) (ht : isMarker t = true) : Forms x (sendB y n t) n nd a (onOutput nd.word.outB t) := by
  obtain ⟨z, hz, hw, ha, hb⟩ := h.node
  refine ⟨fun k hk => (setNode_ne _ hk).trans (h.others k hk), _, setNode_same _ hz, ?_⟩
  simp only [onOutput, ← hw, hb, onLink_marker z ht, List.nil_append]
  split <;> exact ⟨rfl, ha, by simp [hb]⟩

theorem Forms.sendBoth (h : Forms x y n nd [] []) (ht : isMarker t = true) :
    Forms x (sendBoth y n t) n nd (onOutput nd.word.outA t) (onOutput nd.word.outB t) := (h.sendA ht).sendB ht

/-- A marker that a node has formed for OUTA reaches the port that OUTA leads to. -/
theorem Forms.emits_outA (h : Forms x y n nd (onOutput nd.word.outA t) b) (ht : isMarker t = true) (hs : StraightPort x m p)
    (hout : nd.word.outA = some (p + 1, m)) (hm : m ≠ n) (halone : ∀ b, nd.word.outB = some b → b.2 ≠ m ∨ b.1 - 1 ≠ p)
    (hroom : roomAt x nd.word.outA = true) : cellQueue (emitPend y n) m p = cellQueue x m p ++ [t] := by
  obtain ⟨z, hz, hw, ha, -⟩ := h.node
  have hleaves : leaving y z.word.outA z.pendA = some t := by
    rw [hout] at hroom
    simp [leaving, hw, hout, roomAt_congr (h.others m hm), hroom, ha, onOutput]
  have hthere (f : Node → Node) : (Machine.setNode y n f).nodes[m]? = x.nodes[m]? := (setNode_ne f hm).trans (h.others m hm)
  rw [emitPend_eq hz, cellQueue_sendSome_other _ (hw ▸ halone), hleaves, hw, hout]
  exact (cellQueue_sendTo_same (hs.congr (hthere _)) ht).trans (by rw [cellQueue_congr (hthere _)])

/-- A marker that a node has formed for OUTB alone reaches the port that OUTB leads to. -/
theorem Forms.emits_outB (h : Forms x y n nd [] (onOutput nd.word.outB t)) (ht : isMarker t = true) (hs : StraightPort x m p)
    (hout : nd.word.outB = some (p + 1, m)) (hm : m ≠ n) (hroom : roomAt x nd.word.outB = true) :
    cellQueue (emitPend y n) m p = cellQueue x m p ++ [t] := by
  obtain ⟨z, hz, hw, ha, hb⟩ := h.node
  have hstays : leaving y z.word.outA z.pendA = none := by simp [leaving, ha]
  have hleaves : leaving y z.word.outB z.pendB = some t := by
    rw [hout] at hroom
    simp [leaving, hw, hout, roomAt_congr (h.others m hm), hroom, hb, onOutput]
  have hthere (f : Node → Node) : (Machine.setNode y n f).nodes[m]? = x.nodes[m]? := (setNode_ne f hm).trans (h.others m hm)
  rw [emitPend_eq hz, hstays, hleaves, hw, hout]
  exact (cellQueue_sendTo_same (hs.congr (hthere _)) ht).trans (by rw [cellQueue_congr (hthere _)])

end

/-! ### The nodes of the statements -/

theorem roomAll_iff {x : Cell} {n : Nat} {nd : Node} (hn : x.nodes[n]? = some nd) :
    roomAll x n = true ↔ roomAt x nd.word.outA = true ∧ roomAt x nd.word.outB = true := by
  simp [roomAll, targetsOf, hn]

theorem Sends.nodeAt {s : State} {c n m p : Nat} {x : Cell} {nd : Node} (h : Sends s c n x nd m p) : NodeAt s c n x nd :=
  ⟨h.cell, h.runs, h.node⟩

theorem Sends.forms {s : State} {c n m p : Nat} {x : Cell} {nd : Node} (h : Sends s c n x nd m p) : Forms x x n nd [] [] :=
  forms_of_sentAll h.node h.formed

/-- Where a node sends on OUTA, a marker that it has formed there is the last of what waits at the port that OUTA leads to. -/
theorem Sends.emits {s : State} {c n m p : Nat} {x y : Cell} {nd : Node} {b : List Token} {t : Token} (h : Sends s c n x nd m p)
    (hroom : roomAll x n = true) (ht : isMarker t = true) (hf : Forms x y n nd (onOutput nd.word.outA t) b) :
    cellQueue (emitPend y n) m p = queueAt s c m p ++ [t] := by
  obtain ⟨md, pt, hmd, hpt, hstore, hlink, hrest, -⟩ := h.straight
  rw [queueAt_eq h.cell]
  refine hf.emits_outA ht ⟨md, pt, hmd, hpt, hstore, hlink, hrest⟩ h.out h.other (fun b hb => ?_) ((roomAll_iff h.node).mp hroom).1
  obtain hne | ⟨hp, hpos⟩ := h.alone b hb
  · exact .inl hne
  · exact .inr (by omega)

/-- The same for OUTB. -/
theorem SendsB.emits {s : State} {c n m p : Nat} {x y : Cell} {nd : Node} {t : Token} (h : SendsB s c n x nd m p)
    (hroom : roomAt x nd.word.outB = true) (ht : isMarker t = true) (hf : Forms x y n nd [] (onOutput nd.word.outB t)) :
    cellQueue (emitPend y n) m p = queueAt s c m p ++ [t] := by
  rw [queueAt_eq h.cell]
  exact hf.emits_outB ht h.straight h.out h.other hroom

end Sys2Proof
end
section
namespace Sys2Proof

open Machine

/-! ### What the records of a node and the tokens of a LINKOUT leave alone -/

theorem KeepsUnits.cells {s u : State} (h : KeepsUnits s u) : u.cells = s.cells := by
  obtain ⟨_, _, _, _, _, rfl⟩ := h
  rfl

theorem keepsUnits_logRec (s : State) (a die e kind : Nat) (body : List W) : KeepsUnits s (logRec s a die e kind body) := by
  simp only [logRec]
  split
  · exact .refl s
  · split
    · rename_i hrec
      exact (keepsUnits_placeRecord hrec).trans (keepsUnits_updCtx ..)
    · exact keepsUnits_updCtx ..

theorem keepsUnits_noteLate (s : State) (c n : Nat) (nd nd1 : Node) : KeepsUnits s (noteLate s c n nd nd1) := by
  unfold noteLate
  split
  · exact .refl s
  · refine .foldl (fun st e => ?_) _ s
    split
    · split
      · exact keepsUnits_logRec ..
      · exact .refl st
    · exact .refl st

theorem keepsUnits_noteBreak (s : State) (c n lo hi : Nat) : KeepsUnits s (noteBreak s c n lo hi) := by
  unfold noteBreak
  split
  · exact .refl s
  · split
    · refine .foldl (fun st k => ?_) _ s
      simp only
      split
      · exact (keepsUnits_sampleRec ..).trans (keepsUnits_sampleRec ..)
      · exact keepsUnits_sampleRec ..
    · exact .refl s

theorem keepsUnits_linkSend (s : State) (c n : Nat) (nd : Node) (t : Token) : KeepsUnits s (linkSend s c n nd t) := by
  simp only [linkSend]
  split
  · exact .refl s
  · split
    · exact ⟨_, _, _, _, _, rfl⟩
    · split
      · exact .refl s
      · exact ⟨_, _, _, _, _, rfl⟩

/-- What a LINKOUT sends over its channel, and another node does not. -/
theorem keepsUnits_ifLinkout (s : State) (c n : Nat) (nd : Node) (t : Token) :
    KeepsUnits s (if isLinkout nd then linkSend s c n nd t else s) := by
  split
  · exact keepsUnits_linkSend s c n nd t
  · exact .refl s

theorem keepsUnits_snapRegion (s : State) (e c n : Nat) : KeepsUnits s (snapRegion s e c n) := by
  unfold snapRegion
  split
  · exact .refl s
  · split
    · refine KeepsUnits.trans ?_ (keepsUnits_updCtx ..)
      unfold regionRec
      split
      · split
        · exact (keepsUnits_logRec ..).trans (keepsUnits_updCtx ..)
        · exact .refl s
      · exact .refl s
    · exact .refl s

/-- Whether a crew is unconfirmed depends on its launch alone (R289). -/
theorem unconfirmed_congr {s u : State} (h : ∀ a id, launchOf u a id = launchOf s a id) (k : CrewId) :
    unconfirmed u k = unconfirmed s k := by
  simp only [unconfirmed, crewStateOf, h]

theorem linkSend_ctxs (s : State) (c n : Nat) (nd : Node) (t : Token) : (linkSend s c n nd t).ctxs = s.ctxs := by
  simp only [linkSend]
  split
  · rfl
  · split
    · rfl
    · split <;> rfl

theorem unconfirmed_ifLinkout (s : State) (c n : Nat) (nd : Node) (t : Token) (k : CrewId) :
    unconfirmed (if isLinkout nd then linkSend s c n nd t else s) k = unconfirmed s k := by
  refine unconfirmed_congr (fun a id => ?_) k
  split
  · simp only [launchOf, linkSend_ctxs]
  · rfl

/-! ### POISON at a node (R157, R175) -/

/-- A step of a node in which a token comes to wait at a port of its cell. -/
theorem queueAt_nodeEvent {s : State} {c n m p : Nat} {x : Cell} {nd : Node} {ok : NodeWord → Bool} {f : Cell → Node → Cell} {t : Token}
    (hat : NodeAt s c n x nd) (hok : ok nd.word = true) (hformed : nd.sentAll = true)
    (hq : cellQueue (emitPend (f x nd) n) m p = queueAt s c m p ++ [t]) :
    queueAt (nodeEvent s c n ok f) c m p = queueAt s c m p ++ [t] := by
  obtain ⟨hcell, hruns, hnode⟩ := hat
  have hmoved : emitPend (f x nd) n ≠ x := by
    intro heq
    rw [heq, queueAt_eq hcell] at hq
    simp at hq
  have hkeeps : KeepsUnits { s with cells := aset s.cells c (noteFire s (emitPend (f x nd) n) n) } (nodeEvent s c n ok f) := by
    simp only [nodeEvent, nodeEventWhen, hcell, hnode, hruns, hok, hformed, hmoved, Bool.not_true, Bool.or_self, Bool.false_eq_true,
      if_false, if_true]
    split
    · split
      · exact (keepsUnits_noteLate ..).trans (keepsUnits_noteBreak ..)
      · exact keepsUnits_noteLate ..
    · exact .refl _
  have hcell' : aget (nodeEvent s c n ok f).cells c = some (noteFire s (emitPend (f x nd) n) n) := by
    rw [hkeeps.cells]
    exact aget_aset_same s.cells c _
  rw [queueAt_eq hcell', cellQueue_noteFire, hq]

/-- What a node forms as a POISON passes it: the POISON, on every output, or on OUTB alone at a LOOP. -/
def poisonCell (nd : Node) (k n : Nat) (q : Poison) (x : Cell) : Cell :=
  let y := setNode (noChecks (setNode x n (fun z => popHead z k)) n) n (fun z => { z with st := poisonState nd k })
  if nd.word.kind = kLOOP then sendB y n (.poison q) else sendBoth y n (.poison q)

section
variable {s : State} {c n k m p : Nat} {x : Cell} {nd : Node} {q : Poison}

/-- POISON_FORWARD of a POISON that stands at a port, with credit: the node's cell forms it, and nothing else happens than that it
begins to leave. -/
theorem poisonForward_passes (hat : NodeAt s c n x nd) (hformed : nd.sentAll = true) (hhead : nd.head k = some (.poison q))
    (hfed : (nd.port k).fed = true) (hsink : isSink nd = false) (hdue : (governs nd k && columnsDue nd) = false)
    (hroom : poisonRoom x n nd = true)
    (hq : cellQueue (emitPend (poisonCell nd k n q x) n) m p = queueAt s c m p ++ [.poison q]) :
    ∃ u, exec (.poisonForward c n k) s = .next u ∧ queueAt u c m p = queueAt s c m p ++ [.poison q] := by
  refine ⟨_, rfl, queueAt_nodeEvent hat rfl hformed ?_⟩
  simp only [hhead, hfed, hsink, hdue, hroom, Bool.not_true, Bool.or_self, Bool.false_eq_true, if_false]
  exact hq

/-- Taking the POISON leaves the node's word and what it has formed. -/
theorem forms_poisonTaken (hf : Forms x x n nd [] []) : Forms x (setNode (noChecks (setNode x n (fun z => popHead z k)) n) n
    (fun z => { z with st := poisonState nd k })) n nd [] [] := by
  refine Forms.setNode (Forms.setNode (Forms.setNode hf ?_) ?_) ?_ <;> exact fun _ => ⟨rfl, rfl, rfl⟩

theorem poisonForward_outA (h : Sends s c n x nd m p) (hhead : nd.head k = some (.poison q)) (hfed : (nd.port k).fed = true)
    (hsink : isSink nd = false) (hdue : (governs nd k && columnsDue nd) = false) (hkind : nd.word.kind ≠ kLOOP)
    (hroom : roomAll x n = true) :
    ∃ u, exec (.poisonForward c n k) s = .next u ∧ queueAt u c m p = queueAt s c m p ++ [.poison q] := by
  refine poisonForward_passes h.nodeAt h.formed hhead hfed hsink hdue (by simp only [poisonRoom, hkind, if_false, hroom]) ?_
  simp only [poisonCell, hkind, if_false]
  exact h.emits hroom rfl ((forms_poisonTaken h.forms).sendBoth rfl)

theorem poisonForward_outB (h : SendsB s c n x nd m p) (hhead : nd.head k = some (.poison q)) (hfed : (nd.port k).fed = true)
    (hsink : isSink nd = false) (hdue : (governs nd k && columnsDue nd) = false) (hkind : nd.word.kind = kLOOP)
    (hroom : roomAt x nd.word.outB = true) :
    ∃ u, exec (.poisonForward c n k) s = .next u ∧ queueAt u c m p = queueAt s c m p ++ [.poison q] := by
  refine poisonForward_passes h.toNodeAt h.formed hhead hfed hsink hdue (by simp only [poisonRoom, hkind, if_true, hroom]) ?_
  simp only [poisonCell, hkind, if_true]
  exact h.emits hroom rfl ((forms_poisonTaken (forms_of_sentAll h.node h.formed)).sendB rfl)

end

/-! ### POISON at a sink (R158) -/

/-- The trap record of a POISON is on its way to m15 of the thread that configured the cell, where its crew is confirmed (R158, R349). -/
theorem poisonTrap_writes (s : State) (c : Nat) (x : Cell) (q : Poison) (h : unconfirmed s x.crew = false) :
    ∃ w ∈ (poisonTrap s c x q).fl.writes, w.thread = x.cfg.thread ∧ w.n = 15 ∧
      w.v = trapWord0 q.code q.sub ⟨1, q.node.toNat, q.origin, x.cfg.sntid⟩ false := by
  simp only [poisonTrap, h]
  exact ⟨_, List.mem_append_right _ (List.mem_singleton_self _), rfl, rfl, rfl⟩

/-- The trap of a POISON stops nothing of what its cell is: at most the record is deferred (R289). -/
theorem poisonTrap_cell {s : State} {c : Nat} {x y : Cell} (q : Poison) (h : aget s.cells c = some y) :
    ∃ l, aget (poisonTrap s c x q).cells c = some { y with deferred := l } := by
  have hseq : aget (nextSeq s x.crew.asid).2.cells c = some y := (keepsUnits_nextSeq s x.crew.asid).cells ▸ h
  simp only [poisonTrap]
  split
  · exact ⟨_, by rw [updCell_same, hseq]; rfl⟩
  · refine ⟨y.deferred, ?_⟩
    rw [sendWrite_cells, (keepsUnits_logTrap ..).cells]
    exact hseq

theorem haltCell_eq {s : State} {c : Nat} {x : Cell} (q : Poison) (h : aget s.cells c = some x) :
    haltCell s c q = poisonTrap (updCell s c (fun y => { y with halted := true, sluices := [] })) c x q := by
  simp only [haltCell, h]

theorem haltCell_halts {s : State} {c : Nat} {x : Cell} (q : Poison) (h : aget s.cells c = some x) :
    ∃ y, aget (haltCell s c q).cells c = some y ∧ y.halted = true ∧ y.sluices = [] := by
  rw [haltCell_eq q h]
  obtain ⟨l, hl⟩ := poisonTrap_cell (s := updCell s c (fun y => { y with halted := true, sluices := [] })) (x := x) q
    (by rw [updCell_same, h]; rfl)
  exact ⟨_, hl, rfl, rfl⟩

theorem haltCell_writes {s : State} {c : Nat} {x : Cell} (q : Poison) (h : aget s.cells c = some x) (hc : unconfirmed s x.crew = false) :
    ∃ w ∈ (haltCell s c q).fl.writes, w.thread = x.cfg.thread ∧ w.n = 15 ∧
      w.v = trapWord0 q.code q.sub ⟨1, q.node.toNat, q.origin, x.cfg.sntid⟩ false := by
  rw [haltCell_eq q h]
  refine poisonTrap_writes _ c x q ((unconfirmed_congr (fun a id => ?_) _).trans hc)
  simp only [launchOf, updCell_ctxs]

/-- A sink that is not held, and that, as a LINKOUT, has credit or no way to its peer, accepts the POISON: its cell halts. -/
theorem sinkHalt_accepts {s : State} {c n k : Nat} {x : Cell} {nd : Node} {q : Poison} (hat : NodeAt s c n x nd)
    (hhead : nd.head k = some (.poison q)) (hsink : isSink nd = true) (hheld : linkHeld s x nd = false)
    (hcredit : isLinkout nd = true → (noRoute s nd).isSome = true ∨ linkCredit s c n x nd = true) :
    exec (.sinkHalt c n k) s = .next (haltCell (if isLinkout nd then linkSend (updNode s c n (fun z => popHead z k)) c n nd (.poison q)
      else updNode s c n (fun z => popHead z k)) c q) := by
  obtain ⟨hcell, hruns, hnode⟩ := hat
  have hgoes : (isLinkout nd && (noRoute s nd).isNone && !linkCredit s c n x nd) = false := by
    cases hlink : isLinkout nd with
    | false => rfl
    | true =>
      obtain hlost | hcred := hcredit hlink
      · simp [Option.isNone_eq_false_iff.mpr hlost]
      · simp [hcred]
  change execSinkHalt c n k s = _
  simp only [execSinkHalt, hcell, hnode, hhead, hruns, hsink, hheld, hgoes, Bool.not_true, Bool.or_self, Bool.false_eq_true, if_false]

theorem sinkHalt_spec {s : State} {c n k : Nat} {x : Cell} {nd : Node} {q : Poison} (hat : NodeAt s c n x nd)
    (hhead : nd.head k = some (.poison q)) (hsink : isSink nd = true) (hheld : linkHeld s x nd = false)
    (hcredit : isLinkout nd = true → (noRoute s nd).isSome = true ∨ linkCredit s c n x nd = true) :
    ∃ u, exec (.sinkHalt c n k) s = .next u ∧ (∃ y, aget u.cells c = some y ∧ y.halted = true ∧ y.sluices = []) ∧
      (unconfirmed s x.crew = false → ∃ w ∈ u.fl.writes, w.thread = x.cfg.thread ∧ w.n = 15 ∧
        w.v = trapWord0 q.code q.sub ⟨1, q.node.toNat, q.origin, x.cfg.sntid⟩ false) := by
  have hcell : aget (if isLinkout nd then linkSend (updNode s c n (fun z => popHead z k)) c n nd (.poison q)
      else updNode s c n (fun z => popHead z k)).cells c = some (setNode x n (fun z => popHead z k)) := by
    rw [(keepsUnits_ifLinkout ..).cells, updNode, updCell_same, hat.cell]
    rfl
  have hwrites := haltCell_writes q hcell
  refine ⟨_, sinkHalt_accepts hat hhead hsink hheld hcredit, haltCell_halts q hcell, fun hconf => hwrites ?_⟩
  rw [unconfirmed_ifLinkout]
  refine (unconfirmed_congr (fun a id => ?_) _).trans hconf
  simp only [launchOf, updNode_ctxs]

end Sys2Proof
end
section
namespace Sys2Proof

open Machine

/-! ### The labels of a sluice (R315) -/

/-- y is x but for the label and the pts of its node n. -/
def Relabels (n : Nat) (x y : Cell) : Prop :=
  ∃ f : Node → Node, (∀ z, ∃ l p, f z = { z with label := l, pts := p }) ∧ y = setNode x n f

theorem Relabels.refl (n : Nat) (x : Cell) : Relabels n x x := by
  refine ⟨id, fun z => ⟨z.label, z.pts, rfl⟩, ?_⟩
  simp [setNode, modAt_eq_modify]

theorem Relabels.trans {n : Nat} {x y z : Cell} (h : Relabels n x y) (g : Relabels n y z) : Relabels n x z := by
  obtain ⟨f, hf, rfl⟩ := h
  obtain ⟨f', hf', rfl⟩ := g
  refine ⟨fun w => f' (f w), fun w => ?_, setNode_setNode x n f f'⟩
  obtain ⟨l, p, hw⟩ := hf w
  obtain ⟨l', p', hw'⟩ := hf' (f w)
  exact ⟨l', p', hw'.trans (by rw [hw])⟩

theorem relabels_mergeNode (s : State) (x : Cell) (n : Nat) (g : Sig) : Relabels n x (mergeNode s x n g) :=
  ⟨_, fun z => ⟨_, z.pts, rfl⟩, rfl⟩

theorem Relabels.forms {n : Nat} {x y : Cell} {nd : Node} {a b : List Token} (h : Relabels n x y) (hf : Forms x x n nd a b) :
    Forms x y n nd a b := by
  obtain ⟨f, hlabel, rfl⟩ := h
  refine hf.setNode (fun z => ?_)
  obtain ⟨l, p, hz⟩ := hlabel z
  simp [hz]

theorem Relabels.keepsExc {n : Nat} {x y : Cell} (h : Relabels n x y) : KeepsNodes Node.exc x y := by
  obtain ⟨f, hlabel, rfl⟩ := h
  refine keepsNodes_setNode x n (fun z => ?_)
  obtain ⟨l, p, hz⟩ := hlabel z
  simp [hz]

/-- u has the threads of s, and its cell c is that of s but for the label and the pts of node n. -/
structure RelabelsAt (c n : Nat) (s u : State) : Prop where
  threads : u.threads = s.threads
  cell : ∀ x, aget s.cells c = some x → ∃ y, aget u.cells c = some y ∧ Relabels n x y

theorem RelabelsAt.refl (c n : Nat) (s : State) : RelabelsAt c n s s := ⟨rfl, fun x hx => ⟨x, hx, .refl n x⟩⟩

theorem RelabelsAt.trans {c n : Nat} {s u v : State} (h : RelabelsAt c n s u) (g : RelabelsAt c n u v) : RelabelsAt c n s v := by
  refine ⟨g.threads.trans h.threads, fun x hx => ?_⟩
  obtain ⟨y, hy, hxy⟩ := h.cell x hx
  obtain ⟨z, hz, hyz⟩ := g.cell y hy
  exact ⟨z, hz, hxy.trans hyz⟩

theorem RelabelsAt.foldl {α : Type} {c n : Nat} {f : State → α → State} (h : ∀ s a, RelabelsAt c n s (f s a)) (l : List α) (s : State) :
    RelabelsAt c n s (l.foldl f s) :=
  List.foldlRecOn l f (.refl c n s) (fun _ hs a _ => hs.trans (h _ a))

theorem KeepsUnits.relabelsAt {s u : State} (h : KeepsUnits s u) (c n : Nat) : RelabelsAt c n s u :=
  ⟨h.threads, fun x hx => ⟨x, h.cells ▸ hx, .refl n x⟩⟩

/-- Merging a signal into the label of a node of the cell that stands there. -/
theorem relabelsAt_merge {s : State} {c : Nat} {x : Cell} (n : Nat) (g : Sig) (h : aget s.cells c = some x) :
    RelabelsAt c n s { s with cells := aset s.cells c (mergeNode s x n g) } := by
  refine ⟨rfl, fun z hz => ⟨_, aget_aset_same s.cells c _, ?_⟩⟩
  obtain rfl : x = z := Option.some.inj (h.symm.trans hz)
  exact relabels_mergeNode s x n g

theorem relabelsAt_updNode (s : State) (c n : Nat) {f : Node → Node} (hf : ∀ z, ∃ l p, f z = { z with label := l, pts := p }) :
    RelabelsAt c n s (updNode s c n f) := by
  refine ⟨updNode_threads .., fun x hx => ⟨setNode x n f, ?_, f, hf, rfl⟩⟩
  rw [updNode, updCell_same, hx]
  rfl

theorem relabelsAt_endWaitNode (s : State) (c n : Nat) (g : Sig) (kind : Nat) (producer : W) (waited : Nat) :
    RelabelsAt c n s (endWaitNode s c n g kind producer waited) := by
  simp only [endWaitNode]
  split
  · exact .refl c n s
  · split
    · exact .refl c n s
    · exact ((keepsUnits_newEdge ..).relabelsAt c n).trans (relabelsAt_updNode _ c n (fun z => ⟨_, _, rfl⟩))

theorem relabelsAt_sluiceLabels {s : State} {c : Nat} {x : Cell} (n : Nat) (nd : Node) (h : aget s.cells c = some x) :
    RelabelsAt c n s (sluiceLabels s c x n nd) := by
  simp only [sluiceLabels]
  split
  · exact relabelsAt_merge n _ h
  · refine (RelabelsAt.foldl (fun st k => ?_) _ s).trans (relabelsAt_endWaitNode ..)
    split
    · exact .refl c n st
    · split
      · exact relabelsAt_merge n _ (by assumption)
      · exact .refl c n st

/-! ### Taking tokens from the ports of a node -/

/-- A fold that changes ports alone. -/
theorem foldl_ports {f : Node → Nat → Node} (hf : ∀ z k, ∃ ps, f z k = { z with ports := ps }) (l : List Nat) (z : Node) :
    ∃ ps, l.foldl f z = { z with ports := ps } := by
  refine List.foldlRecOn l f (motive := fun w => ∃ ps, w = { z with ports := ps }) ⟨z.ports, rfl⟩ (fun w hw k _ => ?_)
  obtain ⟨ps, rfl⟩ := hw
  obtain ⟨ps', h⟩ := hf { z with ports := ps } k
  exact ⟨ps', h⟩

theorem foldl_popHead_ports (l : List Nat) (z : Node) : ∃ ps, l.foldl popHead z = { z with ports := ps } :=
  foldl_ports (fun _ _ => ⟨_, rfl⟩) l z

/-! ### A sluice that leaves a node (R159) -/

theorem isLinkout_of_notSink {nd : Node} (h : isSink nd = false) : isLinkout nd = false := by
  have hkind : (nd.word.kind == kMEM) = false := (Bool.or_eq_false_iff.mp h).1
  simp only [isLinkout, hkind, Bool.false_and]

theorem linkGate_of_notSink {nd : Node} (s : State) (c n : Nat) (x : Cell) (h : isSink nd = false) : linkGate s c n x nd = none := by
  simp only [linkGate, isLinkout_of_notSink h, Bool.not_false, if_true]

/-- The identifier of the sluice that a node sends: that of the first port that it reads. -/
def sluiceId (nd : Node) : Nat := (sluiceAt nd ((readsOf nd).headD 0)).1

/-- The cell of a node whose ports have given their sluices. -/
def sluiceTaken (n : Nat) (nd : Node) (y : Cell) : Cell := setNode y n (fun w => (readsOf nd).foldl popHead w)

/-- The sluice that a node sends from there. -/
def sluiceSent (v : State) (n : Nat) (nd : Node) (y : Cell) : Token := .sluice (sluiceId nd) (nodeSig v (sluiceTaken n nd y) n)

/-- The cell of a node that has formed it on every output. -/
def sluiceFormed (v : State) (n : Nat) (nd : Node) (y : Cell) : Cell := sendBoth (sluiceTaken n nd y) n (sluiceSent v n nd y)

/-- The machine once the sluice has begun to leave node n of cell c, which is y in the machine v. -/
def sluiceLeft (v : State) (c n : Nat) (nd : Node) (y : Cell) : State :=
  let u := { v with cells := aset v.cells c (noteFire v (emitPend (sluiceFormed v n nd y) n) n) }
  if isLinkout nd then linkSend u c n nd (sluiceSent v n nd y) else u

section
variable {s : State} {c n : Nat} {x y : Cell} {nd : Node}

theorem sluiceLeft_cell (v : State) (c n : Nat) (nd : Node) (y : Cell) :
    aget (sluiceLeft v c n nd y).cells c = some (noteFire v (emitPend (sluiceFormed v n nd y) n) n) := by
  simp only [sluiceLeft]
  rw [(keepsUnits_ifLinkout ..).cells]
  exact aget_aset_same _ c _

theorem sluiceLeft_threads (v : State) (c n : Nat) (nd : Node) (y : Cell) : (sluiceLeft v c n nd y).threads = v.threads :=
  (keepsUnits_ifLinkout ..).threads

theorem keepsExc_sluiceFormed (v : State) (n : Nat) (nd : Node) (y : Cell) : KeepsNodes Node.exc y (sluiceFormed v n nd y) := by
  have htaken : KeepsNodes Node.exc y (sluiceTaken n nd y) := by
    refine keepsNodes_setNode y n (fun z => ?_)
    obtain ⟨ps, hps⟩ := foldl_popHead_ports (readsOf nd) z
    rw [hps]
  exact htaken.trans ((keepsNodes_sendA _ n _ (fun _ _ => rfl)).trans (keepsNodes_sendB _ n _ (fun _ _ => rfl)))

theorem keepsExc_sluiceLeft (v : State) (n : Nat) (nd : Node) (y : Cell) :
    KeepsNodes Node.exc y (noteFire v (emitPend (sluiceFormed v n nd y) n) n) :=
  ((keepsExc_sluiceFormed v n nd y).trans (keepsNodes_emitPend _ n (fun _ _ _ _ => rfl))).trans (keepsNodes_setNode _ n (fun _ => rfl))

theorem forms_sluiceFormed (v : State) (hf : Forms x y n nd [] []) :
    Forms x (sluiceFormed v n nd y) n nd (onOutput nd.word.outA (sluiceSent v n nd y)) (onOutput nd.word.outB (sluiceSent v n nd y)) := by
  have htaken : Forms x (sluiceTaken n nd y) n nd [] [] := by
    refine hf.setNode (fun z => ?_)
    obtain ⟨ps, hps⟩ := foldl_popHead_ports (readsOf nd) z
    rw [hps]
    exact ⟨rfl, rfl, rfl⟩
  exact htaken.sendBoth rfl

/-- SLUICE_FORWARD of a sluice that is at every port, with credit: the labels merge, the sluice begins to leave, and where the node is a
sink the sluice has reached it (R133). -/
theorem sluiceForward_eq (hat : NodeAt s c n x nd) (hready : sluiceReady nd = true) (hroom : roomAll x n = true)
    (hops : nodeOps s c n = []) (hgate : linkGate s c n x nd = none) (hy : aget (sluiceLabels s c x n nd).cells c = some y) :
    exec (.sluiceForward c n) s = .next (if isSink nd then reachSink (sluiceLeft (sluiceLabels s c x n nd) c n nd y) c n (sluiceId nd)
      else sluiceLeft (sluiceLabels s c x n nd) c n nd y) := by
  obtain ⟨hcell, hruns, hnode⟩ := hat
  change execSluiceForward c n s = _
  simp only [execSluiceForward, hcell, hnode, hruns, hready, hroom, hops, hgate, hy, List.isEmpty_nil, Bool.not_true, Bool.or_self,
    Bool.false_eq_true, if_false, sluiceLeft, sluiceFormed, sluiceSent, sluiceTaken, sluiceId]

end

theorem sluiceForward_passes {s : State} {c n m p : Nat} {x : Cell} {nd : Node} (h : Sends s c n x nd m p) (hready : sluiceReady nd = true)
    (hroom : roomAll x n = true) (hops : nodeOps s c n = []) (hsink : isSink nd = false) :
    ∃ u g, exec (.sluiceForward c n) s = .next u ∧ queueAt u c m p = queueAt s c m p ++ [.sluice (sluiceId nd) g] := by
  obtain ⟨y, hy, hxy⟩ := (relabelsAt_sluiceLabels n nd h.cell).cell x h.cell
  have hu := sluiceForward_eq h.nodeAt hready hroom hops (linkGate_of_notSink s c n x hsink) hy
  rw [hsink, if_neg Bool.false_ne_true] at hu
  refine ⟨_, nodeSig (sluiceLabels s c x n nd) (sluiceTaken n nd y) n, hu, ?_⟩
  rw [queueAt_eq (sluiceLeft_cell ..), cellQueue_noteFire]
  exact h.emits hroom rfl (forms_sluiceFormed _ (hxy.forms h.forms))

/-! ### A sluice that completes (R48, R133) -/

theorem aget_map {α : Type} {f : Nat × α → Nat × α} (hf : ∀ e, (f e).1 = e.1) (l : List (Nat × α)) (k : Nat) :
    aget (l.map f) k = (aget l k).map (fun v => (f (k, v)).2) := by
  induction l with
  | nil => rfl
  | cons e t ih =>
    obtain ⟨j, v⟩ := e
    have hj : f (j, v) = (j, (f (j, v)).2) := Prod.ext (hf _) rfl
    rw [List.map_cons, hj]
    simp only [aget]
    split
    · rename_i hjk
      subst hjk
      rfl
    · exact ih

/-- The end of a sluice ends waits, and leaves the registers of every thread. -/
theorem sluiceDone_threadHas {s : State} {t : Nat} {th : Thread} (c : Nat) {P : ThreadRegs → Prop} (h : aget s.threads t = some th)
    (hP : P th.regs) : threadHas (sluiceDone s c) t (fun z => P z.regs) := by
  simp only [threadHas, sluiceDone]
  rw [aget_map (fun e => by split <;> rfl), h]
  refine ⟨_, rfl, ?_⟩
  dsimp only
  split <;> exact hP

theorem commitFlagsOf_cell {s : State} {c : Nat} {x : Cell} (h : aget s.cells c = some x) :
    aget (commitFlagsOf s c).cells c = some (clearCellFlags x) := by
  simp only [commitFlagsOf, h, updThread_cells, updCell_same, Option.map_some]

theorem commitFlagsOf_thread {s : State} {c : Nat} {x : Cell} {th : Thread} (h : aget s.cells c = some x)
    (hth : aget s.threads x.cfg.thread = some th) :
    aget (commitFlagsOf s c).threads x.cfg.thread = some { th with regs := commitCellFlags th.regs x } := by
  simp only [commitFlagsOf, h, updThread_same, updCell_threads, hth, Option.map_some]

/-- A cell over which its oldest sluice has completed. -/
def sluicedCell (sl : Sluice) (x : Cell) : Cell :=
  { x with sluices := x.sluices.drop 1, drainedAt := max x.drainedAt sl.entered, lastSink := sl.last, drainSig := sl.sig }

theorem sluiceCompletes_cell {s : State} {c : Nat} {x : Cell} (sl : Sluice) (h : aget s.cells c = some x) :
    aget (sluiceCompletes s c sl).cells c = some (clearCellFlags (sluicedCell sl x)) :=
  commitFlagsOf_cell (s := updCell s c (sluicedCell sl)) (by rw [updCell_same, h]; rfl)

theorem sluiceCompletes_thread {s : State} {c : Nat} {x : Cell} {th : Thread} (sl : Sluice) (h : aget s.cells c = some x)
    (hth : aget s.threads x.cfg.thread = some th) :
    threadHas (sluiceCompletes s c sl) x.cfg.thread (fun z => z.regs = commitCellFlags th.regs x) := by
  have hcell : aget (updCell s c (sluicedCell sl)).cells c = some (sluicedCell sl x) := by rw [updCell_same, h]; rfl
  have hthread := commitFlagsOf_thread (th := th) hcell (by rw [updCell_threads]; exact hth)
  exact sluiceDone_threadHas c (P := fun r => r = commitCellFlags th.regs x) hthread rfl

/-- A sink that the only sluice of its cell reaches last: the sluice completes. -/
theorem reachSink_last {s : State} {c n : Nat} {x : Cell} {sl : Sluice} (h : aget s.cells c = some x) (hs : x.sluices = [sl])
    (hleft : sl.left = [n]) :
    reachSink s c n sl.sid = sluiceCompletes (updCell s c (fun y => { y with
      sluices := modAt y.sluices 0 (fun z => sluiceAtSink z n (nodeSig s y n)) })) c (sluiceAtSink sl n (nodeSig s x n)) := by
  have hfound : x.sluices.findIdx? (fun z => z.sid == sl.sid && z.left.contains n) = some 0 := by simp [hs, hleft]
  have hempty : (sluiceAtSink sl n (nodeSig s x n)).left = [] := by simp [sluiceAtSink, hleft]
  simp only [reachSink, h, hfound, updCell_same, Option.map_some]
  simp only [hs, modAt, List.getElem?_cons_zero, List.set_cons_zero, hempty, List.isEmpty_nil, if_true]

/-- That cell as its sluice completes. -/
theorem reachSink_cell {s : State} {c : Nat} {x : Cell} {sl : Sluice} (h : aget s.cells c = some x) (hs : x.sluices = [sl]) (n : Nat) :
    aget (updCell s c (fun y => { y with sluices := modAt y.sluices 0 (fun z => sluiceAtSink z n (nodeSig s y n)) })).cells c =
      some { x with sluices := [sluiceAtSink sl n (nodeSig s x n)] } := by
  rw [updCell_same, h, Option.map_some, hs]
  rfl

/-- What a counter or the flags of a thread are once the nodes of a cell have been committed to it, one after the other. -/
theorem foldl_commitExc_field {α β : Type} {get : ThreadRegs → α} {part : ExcCount → β} {add : α → β → α}
    (h : ∀ r e, get (commitExc r e) = add (get r) (part e)) (l : List Node) (r : ThreadRegs) :
    get ((l.map Node.exc).foldl commitExc r) = (l.map (fun d => part d.exc)).foldl add (get r) := by
  induction l generalizing r with
  | nil => rfl
  | cons d t ih => rw [List.map_cons, List.foldl_cons, ih, h, List.map_cons, List.foldl_cons]

/-- The flags and the counters of registers r' are those of r with what the nodes of a list have added (R45 to R48). -/
structure ExcCommitted (l : List Node) (r r' : ThreadRegs) : Prop where
  gflag : r'.gflag = (l.map (fun d => d.exc.flags)).foldl (fun a b => a ||| b) r.gflag
  nancnt : r'.nancnt = (l.map (fun d => d.exc.nan)).foldl satAdd r.nancnt
  satcnt : r'.satcnt = (l.map (fun d => d.exc.sat)).foldl satAdd r.satcnt
  ofcnt : r'.ofcnt = (l.map (fun d => d.exc.ovf)).foldl satAdd r.ofcnt
  ufcnt : r'.ufcnt = (l.map (fun d => d.exc.unf)).foldl satAdd r.ufcnt

theorem excCommitted (l : List Node) (r : ThreadRegs) : ExcCommitted l r ((l.map (fun d => d.exc)).foldl commitExc r) where
  gflag := foldl_commitExc_field (get := ThreadRegs.gflag) (fun _ _ => rfl) l r
  nancnt := foldl_commitExc_field (get := ThreadRegs.nancnt) (fun _ _ => rfl) l r
  satcnt := foldl_commitExc_field (get := ThreadRegs.satcnt) (fun _ _ => rfl) l r
  ofcnt := foldl_commitExc_field (get := ThreadRegs.ofcnt) (fun _ _ => rfl) l r
  ufcnt := foldl_commitExc_field (get := ThreadRegs.ufcnt) (fun _ _ => rfl) l r

theorem sluiceForward_completes {s : State} {c n : Nat} {x : Cell} {nd : Node} {sl : Sluice} (hat : NodeAt s c n x nd)
    (hready : sluiceReady nd = true) (hroom : roomAll x n = true) (hops : nodeOps s c n = []) (hsink : isSink nd = true)
    (hgate : linkGate s c n x nd = none) (hs : x.sluices = [sl]) (hsid : sl.sid = sluiceId nd) (hleft : sl.left = [n]) :
    ∃ u y, exec (.sluiceForward c n) s = .next u ∧ aget u.cells c = some y ∧ y.sluices = [] ∧ y.lastSink = n ∧
      y.drainedAt = max x.drainedAt sl.entered ∧
      ∀ th, aget s.threads x.cfg.thread = some th →
        threadHas u x.cfg.thread (fun z => z.regs = (x.nodes.map (fun d => d.exc)).foldl commitExc th.regs) := by
  obtain ⟨hthreads, hlabels⟩ := relabelsAt_sluiceLabels n nd hat.cell
  obtain ⟨y, hy, hxy⟩ := hlabels x hat.cell
  obtain ⟨l, hl, hexc⟩ := hxy.keepsExc.trans (keepsExc_sluiceLeft (sluiceLabels s c x n nd) n nd y)
  have hu := sluiceForward_eq hat hready hroom hops hgate hy
  have hcell := (sluiceLeft_cell (sluiceLabels s c x n nd) c n nd y).trans (congrArg some hl)
  have hsame := (sluiceLeft_threads (sluiceLabels s c x n nd) c n nd y).trans hthreads
  generalize sluiceLeft (sluiceLabels s c x n nd) c n nd y = u at hu hcell hsame
  rw [hsink, if_pos rfl, ← hsid, reachSink_last hcell hs hleft] at hu
  have hreached := reachSink_cell (sl := sl) hcell hs n
  refine ⟨_, _, hu, sluiceCompletes_cell _ hreached, rfl, rfl, rfl, fun th hth => ?_⟩
  rw [← hexc]
  exact sluiceCompletes_thread _ hreached (by rw [updCell_threads, hsame]; exact hth)

/-! ### SNAP at a node (R160, R396) -/

/-- A node as a SNAP of epoch e leaves it, before it is sent: taken from the ports that have it, and late at those of a list. -/
def snapTaken (nd : Node) (e : Nat) (late : List (Nat × Nat)) (z : Node) : Node :=
  let w := (readsOf nd).foldl (fun a k => if snapAt a k = some e then popHead a k else a) z
  { w with snap := none, late := w.late ++ late }

theorem snapTaken_eq (nd : Node) (e : Nat) (late : List (Nat × Nat)) (z : Node) :
    ∃ ps, snapTaken nd e late z = { z with ports := ps, snap := none, late := z.late ++ late } := by
  obtain ⟨ps, hps⟩ := foldl_ports (f := fun a k => if snapAt a k = some e then popHead a k else a)
    (fun a k => by split; exacts [⟨_, rfl⟩, ⟨a.ports, rfl⟩]) (readsOf nd) z
  exact ⟨ps, by simp only [snapTaken, hps]⟩

/-- The cell of a node that a SNAP leaves, before the SNAP leaves it. -/
def snapCell (nd : Node) (n e : Nat) (late : List (Nat × Nat)) (x : Cell) : Cell :=
  sendBoth (setNode x n (snapTaken nd e late)) n (.snap e)

theorem snapOut_cell {s : State} {c : Nat} {x : Cell} (n : Nat) (nd : Node) (e : Nat) (late : List (Nat × Nat))
    (h : aget s.cells c = some x) : aget (snapOut s c n nd e late).cells c = some (emitPend (snapCell nd n e late x) n) := by
  simp only [snapOut]
  rw [(keepsUnits_snapRegion ..).cells, (keepsUnits_ifLinkout ..).cells, updCell_same, h]
  rfl

section
variable {s : State} {c n m p : Nat} {x : Cell} {nd : Node}

theorem snapOut_passes (h : Sends s c n x nd m p) (hroom : roomAll x n = true) (e : Nat) (late : List (Nat × Nat)) :
    queueAt (snapOut s c n nd e late) c m p = queueAt s c m p ++ [.snap e] := by
  rw [queueAt_eq (snapOut_cell n nd e late h.cell)]
  refine h.emits hroom rfl ((h.forms.setNode (fun z => ?_)).sendBoth rfl)
  obtain ⟨ps, hz⟩ := snapTaken_eq nd e late z
  simp [hz]

/-- A node that a SNAP has left awaits none, and the ports of the list are late. -/
theorem snapOut_late (hcell : aget s.cells c = some x) (hnode : x.nodes[n]? = some nd) (e : Nat) (late : List (Nat × Nat)) :
    nodeHas (snapOut s c n nd e late) c n (fun y => y.snap = none ∧ y.late = nd.late ++ late) := by
  obtain ⟨l, hl, hkeeps⟩ := ((keepsNodes_sendA (g := fun z => (z.snap, z.late)) (setNode x n (snapTaken nd e late)) n (.snap e)
    (fun _ _ => rfl)).trans (keepsNodes_sendB _ n (.snap e) (fun _ _ => rfl))).trans (keepsNodes_emitPend _ n (fun _ _ _ _ => rfl))
  have hout : nodeOf (snapOut s c n nd e late) c n = l[n]? := by
    simp only [nodeOf, snapOut_cell n nd e late hcell]
    exact congrArg (fun y => y.nodes[n]?) hl
  have hsnap := congrArg (fun k => k[n]?) hkeeps
  obtain ⟨ps, hz⟩ := snapTaken_eq nd e late nd
  simp only [List.getElem?_map, setNode_same _ hnode, hz, Option.map_some, Option.map_eq_some_iff, Prod.mk.injEq] at hsnap
  obtain ⟨y, hy, hnone, hlate⟩ := hsnap
  exact ⟨y, hout.trans hy, hnone, hlate⟩

theorem snapAt_eq_some {e k : Nat} (h : nd.head k = some (.snap e)) : snapAt nd k = some e := by
  simp only [snapAt, h]

theorem snapAt_of_empty {k : Nat} (h : nd.head k = none) : snapAt nd k = none := by
  simp only [snapAt, h]

/-- SNAP_ALIGN at a node that reads one port: the SNAP passes. -/
theorem snapAlign_single {e k : Nat} (h : Sends s c n x nd m p) (hkind : nd.word.kind ≠ kLOOP) (hroom : roomAll x n = true)
    (hlate : nd.late = []) (hgate : linkGate s c n x nd = none) (hreads : readsOf nd = [k]) (hhead : nd.head k = some (.snap e)) :
    exec (.snapAlign c n) s = .next (snapOut s c n nd e []) := by
  have hloop : (nd.word.kind == kLOOP) = false := beq_false_of_ne hkind
  change execSnapAlign c n s = _
  simp [execSnapAlign, h.cell, h.node, h.runs, h.formed, hloop, hroom, hgate, hreads, hlate, snapAt_eq_some hhead]

/-- SNAP_ALIGN at a join whose second port has nothing: the join awaits the SNAP there from now on. -/
theorem snapAlign_awaits {e j k : Nat} (h : NodeFree s c n x nd) (hkind : nd.word.kind ≠ kLOOP) (hroom : roomAll x n = true)
    (hlate : nd.late = []) (hgate : linkGate s c n x nd = none) (hreads : readsOf nd = [j, k]) (hj : nd.head j = some (.snap e))
    (hk : nd.head k = none) (hsnap : nd.snap = none) :
    exec (.snapAlign c n) s = .next (updNode s c n (fun z => { z with snap := some (e, s.cycle, [j]) })) := by
  have hloop : (nd.word.kind == kLOOP) = false := beq_false_of_ne hkind
  change execSnapAlign c n s = _
  simp [execSnapAlign, h.cell, h.node, h.runs, h.formed, hloop, hroom, hgate, hreads, hlate, snapAt_eq_some hj, snapAt_of_empty hk, hk,
    hsnap]

theorem nodeHas_updNode {f : Node → Node} {P : Node → Prop} (hcell : aget s.cells c = some x) (hnode : x.nodes[n]? = some nd)
    (hP : P (f nd)) : nodeHas (updNode s c n f) c n P := by
  refine ⟨f nd, ?_, hP⟩
  simp only [nodeOf, updNode, updCell_same, hcell, Option.map_some]
  exact setNode_same f hnode

/-- SNAP_ALIGN_TIMEOUT once the wait is over: the SNAP leaves, and the ports that lack it are late. -/
theorem snapAlignTimeout_leaves {e since : Nat} {l : List Nat} {cx : Context} (h : Sends s c n x nd m p) (hroom : roomAll x n = true)
    (hcx : aget s.ctxs x.crew.asid = some cx) (hsnap : nd.snap = some (e, since, l)) (hover : since + cx.log.align.toNat ≤ s.cycle) :
    exec (.snapAlignTimeout c n) s =
      .next (snapOut s c n nd e (((readsOf nd).filter (fun k => snapAt nd k != some e)).map (fun k => (k, e)))) := by
  have hwait : decide (s.cycle < since + cx.log.align.toNat) = false := decide_eq_false (Nat.not_lt.mpr hover)
  change execSnapAlignTimeout c n s = _
  simp only [execSnapAlignTimeout, h.cell, h.node, h.runs, h.formed, hcx, hsnap, hroom, hwait, Bool.not_true, Bool.or_self,
    Bool.false_eq_true, if_false]

end

/-- Settles O42: a marker that a node forms for OUTA, or a LOOP for OUTB, comes to wait at the port that the output leads to
(`Sends.emits`, `SendsB.emits`); at a sink the cell halts or its sluice completes; a SNAP is sent on, or is awaited. -/
theorem tokensPass : Obligations.TokensPass := by
  unfold Obligations.TokensPass
  intro s c n x nd m p
  refine ⟨fun k q hhead hfed hsink hdue => ⟨?outA, ?outB⟩, ?halt, fun hready hroom hops => ⟨?passes, ?completes⟩,
    fun e hkind hroom hlate => ⟨?single, ?awaits, ?timeout⟩⟩
  case outA => exact fun h hkind hroom => poisonForward_outA h hhead hfed hsink hdue hkind hroom
  case outB => exact fun h hkind hroom => poisonForward_outB h hhead hfed hsink hdue hkind hroom
  case halt => exact fun k q hat hhead hsink hheld hcredit => sinkHalt_spec hat hhead hsink hheld hcredit
  case passes => exact fun h hsink => sluiceForward_passes h hready hroom hops hsink
  case completes =>
    intro sl hat hsink hgate hs hsid hleft
    obtain ⟨u, y, hu, hy, hsluices, hlast, hdrained, hregs⟩ :=
      sluiceForward_completes hat hready hroom hops hsink hgate hs hsid hleft
    refine ⟨u, y, hu, hy, hsluices, hlast, hdrained, fun th hth => ?_⟩
    obtain ⟨z, hz, hzregs⟩ := hregs th hth
    obtain ⟨hgflag, hnan, hsat, hof, huf⟩ := excCommitted x.nodes th.regs
    exact ⟨z, hz, hzregs, hzregs ▸ hgflag, hzregs ▸ hnan, hzregs ▸ hsat, hzregs ▸ hof, hzregs ▸ huf⟩
  case single =>
    exact fun k h hgate hreads hhead =>
      ⟨_, snapAlign_single h hkind hroom hlate hgate hreads hhead, snapOut_passes h hroom e []⟩
  case awaits =>
    exact fun j k h hgate hreads hj hk hsnap =>
      ⟨_, snapAlign_awaits h hkind hroom hlate hgate hreads hj hk hsnap, nodeHas_updNode h.cell h.node ⟨rfl, rfl⟩⟩
  case timeout =>
    intro cx since l h hcx hsnap hover
    have hleft := snapOut_late h.cell h.node e (((readsOf nd).filter (fun k => snapAt nd k != some e)).map (fun k => (k, e)))
    rw [hlate] at hleft
    exact ⟨_, snapAlignTimeout_leaves h hroom hcx hsnap hover, snapOut_passes h hroom e _, hleft⟩

end Sys2Proof
end

section
namespace Sys2Proof

/-! ### A word is put together again from its fields (R72) -/

theorem encG_fields (w : Word32) : encG (fOp w) (fPm w) (fXop w) (fT0 w) (fTop w) = w := by
  simp only [encG, fOp, fPm, fXop, fT0, fTop]
  iterate 4 rw [BitVec.extractLsb'_append_extractLsb'_eq_extractLsb' (by rfl)]
  exact field_whole w

theorem encI_fields (w : Word32) : encI (fOp w) (fPm w) (fImm14 w) (fTop w) = w := by
  simp only [encI, fOp, fPm, fImm14, fTop]
  iterate 3 rw [BitVec.extractLsb'_append_extractLsb'_eq_extractLsb' (by rfl)]
  exact field_whole w

theorem encM_fields (w : Word32) : encM (fOp w) (fPm w) (fLsid w) (fImm9 w) (fTop w) = w := by
  simp only [encM, fOp, fPm, fLsid, fImm9, fTop]
  iterate 4 rw [BitVec.extractLsb'_append_extractLsb'_eq_extractLsb' (by rfl)]
  exact field_whole w

theorem encB_fields (w : Word32) : encB (fOp w) (fPm w) (fExit w) (fOff w) = w := by
  simp only [encB, fOp, fPm, fExit, fOff]
  iterate 3 rw [BitVec.extractLsb'_append_extractLsb'_eq_extractLsb' (by rfl)]
  exact field_whole w

/-- Format S leaves two bits unused, which must be 0 (R72). -/
theorem encS_fields {w : Word32} (h : fRes w = 0) : encS (fOp w) (fPm w) (fSel w) (fTop w) = w := by
  have hres : (0#2 : BitVec 2) = fRes w := h.symm
  simp only [encS, hres, fOp, fPm, fSel, fRes, fTop]
  iterate 4 rw [BitVec.extractLsb'_append_extractLsb'_eq_extractLsb' (by rfl)]
  exact field_whole w

/-- A vector is its known high part above its low part. -/
theorem append_low {n m : Nat} {x : BitVec (n + m)} {y : BitVec n} (h : x.extractLsb' m n = y) : y ++ x.extractLsb' 0 m = x :=
  h ▸ BitVec.extractLsb'_append_extractLsb'

/-! XOP with a width or a scale shift, with a queue, with a mailbox, and SEL12 of a global register: zeros stand above the field
(R75, R78, R130, R143). -/

theorem xopW_fields {x : BitVec 5} (h : x.extractLsb' 2 3 = 0) : 0#3 ++ x.extractLsb' 0 2 = x := append_low (n := 3) (m := 2) h
theorem xopQ_fields {x : BitVec 5} (h : x.extractLsb' 3 2 = 0) : 0#2 ++ x.extractLsb' 0 3 = x := append_low (n := 2) (m := 3) h
theorem xopM_fields {x : BitVec 5} (h : x.extractLsb' 4 1 = 0) : 0#1 ++ x.extractLsb' 0 4 = x := append_low (n := 1) (m := 4) h
theorem selG_fields {x : BitVec 12} (h : x.extractLsb' 6 6 = 0) : 0#6 ++ x.extractLsb' 0 6 = x := append_low (n := 6) (m := 6) h

/-- XOP of the forms with a signedness and a width (R78). -/
theorem xopSW_fields {x : BitVec 5} (h : x.extractLsb' 3 2 = 0) : 0#2 ++ ofBool (x.getLsbD 2) ++ x.extractLsb' 0 2 = x := by
  have hsign : ofBool (x.getLsbD 2) = x.extractLsb' 2 1 := by
    rw [BitVec.getLsbD_eq_extractLsb']
    generalize x.extractLsb' 2 1 = b
    revert b
    decide
  have hzero : (0#2 : BitVec 2) = x.extractLsb' 3 2 := h.symm
  rw [hsign, hzero]
  iterate 2 rw [BitVec.extractLsb'_append_extractLsb'_eq_extractLsb' (by rfl)]
  exact field_whole x

/-- SEL12 of a system register (R75). -/
theorem selS_fields {x : BitVec 12} (h : x.extractLsb' 10 2 = 2) : 2#2 ++ x.extractLsb' 6 4 ++ x.extractLsb' 0 6 = x := by
  have hspace : (2#2 : BitVec 2) = x.extractLsb' 10 2 := h.symm
  rw [hspace]
  iterate 2 rw [BitVec.extractLsb'_append_extractLsb'_eq_extractLsb' (by rfl)]
  exact field_whole x

/-- SEL12 of a mailbox (R75). -/
theorem selM_fields {x : BitVec 12} (h : x.extractLsb' 4 8 = 0x40#8) : 1#2 ++ 0#6 ++ x.extractLsb' 0 4 = x :=
  append_low (n := 8) (m := 4) h

/-! ### What the readers of operands take (R73, R74, R78) -/

@[simp] theorem Pm.bits_ofBits (b : BitVec 2) : (Pm.ofBits b).bits = b := by revert b; decide
@[simp] theorem Width.bits_ofBits (b : BitVec 2) : (Width.ofBits b).bits = b := by revert b; decide
@[simp] theorem TPort.bits_ofBits (b : BitVec 2) : (TPort.ofBits b).bits = b := by revert b; decide
@[simp] theorem Target.bits_ofBits (b : BitVec 9) : (Target.ofBits b).bits = b := by
  simp only [Target.ofBits, Target.bits, TPort.bits_ofBits]
  exact append_low (n := 7) (m := 2) rfl

section Readers
variable {ε α : Type} {i : Instr} {w : Word32}

/-- A check that stands before a reader has passed. -/
theorem ok_of_check {c : Prop} [Decidable c] {x : Except ε α} {e : ε} {a : α} (h : (if c then x else .error e) = .ok a) :
    c ∧ x = .ok a := by
  by_cases hc : c
  · exact ⟨hc, by simpa [hc] using h⟩
  · simp [hc] at h

/-- The target that a reader has taken has the bits of its field. -/
theorem ok_of_takeTarget {b : BitVec 9} {f : Target → Except Reject Instr} (h : (takeTarget b >>= f) = .ok i) :
    ∃ t, t.ok = true ∧ t.bits = b ∧ f t = .ok i := by
  by_cases hok : (Target.ofBits b).ok = true
  · exact ⟨Target.ofBits b, hok, Target.bits_ofBits b, by simpa [takeTarget, hok, bind, Except.bind] using h⟩
  · simp [takeTarget, hok, bind, Except.bind] at h

/-- PM stands last among the operands: what is read has the bits of its field, and the instruction is formed with it. -/
theorem ok_of_takePm {k : Pm → Instr} (h : (takePm w >>= fun p => pure (k p)) = .ok i) :
    ∃ p : Pm, p.plain = true ∧ p.bits = fPm w ∧ k p = i := by
  by_cases hok : (Pm.ofBits (fPm w)).plain = true
  · exact ⟨Pm.ofBits (fPm w), hok, Pm.bits_ofBits _, by simpa [takePm, hok, bind, Except.bind, pure, Except.pure] using h⟩
  · simp [takePm, hok, bind, Except.bind] at h

/-- A target and then PM. -/
theorem ok_of_targetPm {b : BitVec 9} {k : Target → Pm → Instr}
    (h : (takeTarget b >>= fun t => takePm w >>= fun p => pure (k t p)) = .ok i) :
    ∃ t p, (t.ok && p.plain) = true ∧ t.bits = b ∧ p.bits = fPm w ∧ k t p = i := by
  obtain ⟨t, ht, htb, h⟩ := ok_of_takeTarget h
  obtain ⟨p, hp, hpb, h⟩ := ok_of_takePm h
  exact ⟨t, p, by simp [ht, hp], htb, hpb, h⟩

/-- Both targets of format G and then PM. -/
theorem ok_of_targetsPm {k : Target → Target → Pm → Instr}
    (h : (takeTarget (fT0 w) >>= fun t => takeTarget (fTop w) >>= fun v => takePm w >>= fun p => pure (k v t p)) = .ok i) :
    ∃ v t p, (v.ok && t.ok && p.plain) = true ∧ v.bits = fTop w ∧ t.bits = fT0 w ∧ p.bits = fPm w ∧ k v t p = i := by
  obtain ⟨t, ht, htb, h⟩ := ok_of_takeTarget h
  obtain ⟨v, hv, hvb, h⟩ := ok_of_takeTarget h
  obtain ⟨p, hp, hpb, h⟩ := ok_of_takePm h
  exact ⟨v, t, p, by simp [hv, ht, hp], hvb, htb, hpb, h⟩

end Readers

/-! ### What each scheme reads is well formed, and the word is its word (R72 to R78, R82)

The hypotheses on the constructor k of a scheme say what WellFormed asks of its operands, and in which format encode lays them
out; for every instruction of the scheme they hold by definition. -/

section Schemes
variable {op : BitVec 7} {i : Instr} {w : Word32}

theorem decW_inverts {k : Target → Target → Width → Pm → Instr} (h : decW k w = .ok i)
    (hwf : ∀ v t x p, WellFormed (k v t x p) = (v.ok && t.ok && p.plain))
    (henc : ∀ v t x p, encode (k v t x p) = some (encG op p.bits (0#3 ++ x.bits) t.bits v.bits)) (hop : fOp w = op) :
    WellFormed i = true ∧ encode i = some w := by
  obtain ⟨hx, h⟩ := ok_of_check h
  obtain ⟨v, t, p, hok, hv, ht, hp, rfl⟩ := ok_of_targetsPm h
  exact ⟨(hwf ..).trans hok, by rw [henc, ← hop, hv, ht, hp, Width.bits_ofBits, xopW_fields hx, encG_fields]⟩

theorem decSW_inverts {k : Target → Target → Bool → Width → Pm → Instr} (h : decSW k w = .ok i)
    (hwf : ∀ v t b x p, WellFormed (k v t b x p) = (v.ok && t.ok && p.plain))
    (henc : ∀ v t b x p, encode (k v t b x p) = some (encG op p.bits (0#2 ++ ofBool b ++ x.bits) t.bits v.bits)) (hop : fOp w = op) :
    WellFormed i = true ∧ encode i = some w := by
  obtain ⟨hx, h⟩ := ok_of_check h
  obtain ⟨v, t, p, hok, hv, ht, hp, rfl⟩ := ok_of_targetsPm h
  exact ⟨(hwf ..).trans hok, by rw [henc, ← hop, hv, ht, hp, Width.bits_ofBits, xopSW_fields hx, encG_fields]⟩

theorem decTT_inverts {k : Target → Target → Pm → Instr} (h : decTT k w = .ok i)
    (hwf : ∀ v t p, WellFormed (k v t p) = (v.ok && t.ok && p.plain))
    (henc : ∀ v t p, encode (k v t p) = some (encG op p.bits 0#5 t.bits v.bits)) (hop : fOp w = op) :
    WellFormed i = true ∧ encode i = some w := by
  obtain ⟨hx, h⟩ := ok_of_check h
  obtain ⟨v, t, p, hok, hv, ht, hp, rfl⟩ := ok_of_targetsPm h
  exact ⟨(hwf ..).trans hok, by rw [henc, ← hop, hv, ht, hp, ← show fXop w = 0#5 from hx, encG_fields]⟩

theorem decLea_inverts {k : Target → Target → BitVec 2 → Pm → Instr} (h : decLea k w = .ok i)
    (hwf : ∀ v t c p, WellFormed (k v t c p) = (v.ok && t.ok && p.plain))
    (henc : ∀ v t c p, encode (k v t c p) = some (encG op p.bits (0#3 ++ c) t.bits v.bits)) (hop : fOp w = op) :
    WellFormed i = true ∧ encode i = some w := by
  obtain ⟨hx, h⟩ := ok_of_check h
  obtain ⟨v, t, p, hok, hv, ht, hp, rfl⟩ := ok_of_targetsPm h
  exact ⟨(hwf ..).trans hok, by rw [henc, ← hop, hv, ht, hp, xopW_fields hx, encG_fields]⟩

theorem decThree_inverts {k : Target → Target → Instr} (h : decThree k w = .ok i)
    (hwf : ∀ v t, WellFormed (k v t) = (v.ok && t.ok))
    (henc : ∀ v t, encode (k v t) = some (encG op 1#2 0#5 t.bits v.bits)) (hop : fOp w = op) :
    WellFormed i = true ∧ encode i = some w := by
  obtain ⟨hx, h⟩ := ok_of_check h
  obtain ⟨hp, h⟩ := ok_of_check h
  obtain ⟨t, htok, ht, h⟩ := ok_of_takeTarget h
  obtain ⟨v, hvok, hv, h⟩ := ok_of_takeTarget h
  cases h
  refine ⟨by simp [hwf, htok, hvok], ?_⟩
  rw [henc, ← hop, hv, ht, ← show fPm w = 1#2 from hp, ← show fXop w = 0#5 from hx, encG_fields]

theorem decNoT_inverts {k : Pm → Instr} {x : BitVec 5} (h : decNoT k w = .ok i)
    (hwf : ∀ p, WellFormed (k p) = p.plain)
    (henc : ∀ p, encode (k p) = some (encG op p.bits x 0#9 0#9)) (hop : fOp w = op) (hx : fXop w = x) :
    WellFormed i = true ∧ encode i = some w := by
  obtain ⟨⟨ht, hv⟩, h⟩ := ok_of_check h
  obtain ⟨p, hok, hp, rfl⟩ := ok_of_takePm h
  have hword := encG_fields w
  rw [ht, hv] at hword
  exact ⟨(hwf ..).trans hok, by rw [henc, ← hop, hp, ← hx]; exact congrArg some hword⟩

theorem decXop0_inverts {k : Pm → Instr} (h : decXop0 k w = .ok i)
    (hwf : ∀ p, WellFormed (k p) = p.plain)
    (henc : ∀ p, encode (k p) = some (encG op p.bits 0#5 0#9 0#9)) (hop : fOp w = op) :
    WellFormed i = true ∧ encode i = some w := by
  obtain ⟨hx, h⟩ := ok_of_check h
  exact decNoT_inverts h hwf henc hop hx

theorem decQueue_inverts {k : Target → BitVec 3 → Pm → Instr} (h : decQueue k w = .ok i)
    (hwf : ∀ t q p, WellFormed (k t q p) = (t.ok && p.plain))
    (henc : ∀ t q p, encode (k t q p) = some (encG op p.bits (0#2 ++ q) t.bits 0#9)) (hop : fOp w = op) :
    WellFormed i = true ∧ encode i = some w := by
  obtain ⟨hx, h⟩ := ok_of_check h
  obtain ⟨hv, h⟩ := ok_of_check h
  obtain ⟨t, p, hok, ht, hp, rfl⟩ := ok_of_targetPm h
  exact ⟨(hwf ..).trans hok, by rw [henc, ← hop, ht, hp, xopQ_fields hx, ← show fTop w = 0#9 from hv, encG_fields]⟩

theorem decMsg_inverts {k : BitVec 4 → Pm → Instr} (h : decMsg k w = .ok i)
    (hwf : ∀ n p, WellFormed (k n p) = (p.plain && decide (n.toNat < 15)))
    (henc : ∀ n p, encode (k n p) = some (encG op p.bits (0#1 ++ n) 0#9 0#9)) (hop : fOp w = op) :
    WellFormed i = true ∧ encode i = some w := by
  obtain ⟨⟨hx, hn⟩, h⟩ := ok_of_check h
  exact decNoT_inverts h (fun p => by rw [hwf, decide_eq_true hn, Bool.and_true]) (henc _) hop (xopM_fields hx).symm

theorem decI_inverts {k : Target → BitVec 14 → Pm → Instr} (h : decI k w = .ok i)
    (hwf : ∀ t m p, WellFormed (k t m p) = (t.ok && p.plain))
    (henc : ∀ t m p, encode (k t m p) = some (encI op p.bits m t.bits)) (hop : fOp w = op) :
    WellFormed i = true ∧ encode i = some w := by
  obtain ⟨t, p, hok, ht, hp, rfl⟩ := ok_of_targetPm h
  exact ⟨(hwf ..).trans hok, by rw [henc, ← hop, ht, hp, encI_fields]⟩

theorem decShift_inverts {k : Target → BitVec 14 → Pm → Instr} (h : decShift k w = .ok i)
    (hwf : ∀ t m p, WellFormed (k t m p) = (t.ok && p.plain && shiftImmOk m))
    (henc : ∀ t m p, encode (k t m p) = some (encI op p.bits m t.bits)) (hop : fOp w = op) :
    WellFormed i = true ∧ encode i = some w := by
  obtain ⟨hm, h⟩ := ok_of_check h
  obtain ⟨t, p, hok, ht, hp, rfl⟩ := ok_of_targetPm h
  exact ⟨by rw [hwf, hok, hm]; rfl, by rw [henc, ← hop, ht, hp, encI_fields]⟩

theorem decImm_inverts {k : BitVec 14 → Pm → Instr} (h : decImm k w = .ok i)
    (hwf : ∀ m p, WellFormed (k m p) = p.plain)
    (henc : ∀ m p, encode (k m p) = some (encI op p.bits m 0#9)) (hop : fOp w = op) :
    WellFormed i = true ∧ encode i = some w := by
  obtain ⟨ht, h⟩ := ok_of_check h
  obtain ⟨p, hok, hp, rfl⟩ := ok_of_takePm h
  exact ⟨(hwf ..).trans hok, by rw [henc, ← hop, hp, ← show fTop w = 0#9 from ht, encI_fields]⟩

theorem decM_inverts {k : Target → BitVec 9 → BitVec 5 → Pm → Instr} (h : decM k w = .ok i)
    (hwf : ∀ t m l p, WellFormed (k t m l p) = (t.ok && p.plain))
    (henc : ∀ t m l p, encode (k t m l p) = some (encM op p.bits l m t.bits)) (hop : fOp w = op) :
    WellFormed i = true ∧ encode i = some w := by
  obtain ⟨t, p, hok, ht, hp, rfl⟩ := ok_of_targetPm h
  exact ⟨(hwf ..).trans hok, by rw [henc, ← hop, ht, hp, encM_fields]⟩

theorem decSt_inverts {k : BitVec 9 → BitVec 5 → Pm → Instr} (h : decSt k w = .ok i)
    (hwf : ∀ m l p, WellFormed (k m l p) = p.plain)
    (henc : ∀ m l p, encode (k m l p) = some (encM op p.bits l m 0#9)) (hop : fOp w = op) :
    WellFormed i = true ∧ encode i = some w := by
  obtain ⟨ht, h⟩ := ok_of_check h
  obtain ⟨p, hok, hp, rfl⟩ := ok_of_takePm h
  exact ⟨(hwf ..).trans hok, by rw [henc, ← hop, hp, ← show fTop w = 0#9 from ht, encM_fields]⟩

theorem decCas_inverts {k : Target → BitVec 9 → BitVec 5 → Instr} (h : decCas k w = .ok i)
    (hwf : ∀ t m l, WellFormed (k t m l) = t.ok)
    (henc : ∀ t m l, encode (k t m l) = some (encM op 1#2 l m t.bits)) (hop : fOp w = op) :
    WellFormed i = true ∧ encode i = some w := by
  obtain ⟨hp, h⟩ := ok_of_check h
  obtain ⟨t, hok, ht, h⟩ := ok_of_takeTarget h
  cases h
  exact ⟨(hwf ..).trans hok, by rw [henc, ← hop, ht, ← show fPm w = 1#2 from hp, encM_fields]⟩

theorem decB_inverts {k : BitVec 20 → BitVec 3 → Pm → Instr} (h : decB k w = .ok i)
    (hwf : ∀ f e p, WellFormed (k f e p) = p.plain)
    (henc : ∀ f e p, encode (k f e p) = some (encB op p.bits e f)) (hop : fOp w = op) :
    WellFormed i = true ∧ encode i = some w := by
  obtain ⟨p, hok, hp, rfl⟩ := ok_of_takePm h
  exact ⟨(hwf ..).trans hok, by rw [henc, ← hop, hp, encB_fields]⟩

theorem decB0_inverts {k : BitVec 3 → Pm → Instr} (h : decB0 k w = .ok i)
    (hwf : ∀ e p, WellFormed (k e p) = p.plain)
    (henc : ∀ e p, encode (k e p) = some (encB op p.bits e 0#20)) (hop : fOp w = op) :
    WellFormed i = true ∧ encode i = some w := by
  obtain ⟨hf, h⟩ := ok_of_check h
  obtain ⟨p, hok, hp, rfl⟩ := ok_of_takePm h
  exact ⟨(hwf ..).trans hok, by rw [henc, ← hop, hp, ← show fOff w = 0#20 from hf, encB_fields]⟩

theorem decGR_inverts {k : Target → BitVec 6 → Pm → Instr} (h : decGR k w = .ok i)
    (hwf : ∀ t n p, WellFormed (k t n p) = (t.ok && p.plain))
    (henc : ∀ t n p, encode (k t n p) = some (encS op p.bits (0#6 ++ n) t.bits)) (hop : fOp w = op) :
    WellFormed i = true ∧ encode i = some w := by
  obtain ⟨hr, h⟩ := ok_of_check h
  obtain ⟨hn, h⟩ := ok_of_check h
  obtain ⟨t, p, hok, ht, hp, rfl⟩ := ok_of_targetPm h
  exact ⟨(hwf ..).trans hok, by rw [henc, ← hop, ht, hp, selG_fields hn, encS_fields hr]⟩

theorem decGW_inverts {k : BitVec 6 → Pm → Instr} (h : decGW k w = .ok i)
    (hwf : ∀ n p, WellFormed (k n p) = p.plain)
    (henc : ∀ n p, encode (k n p) = some (encS op p.bits (0#6 ++ n) 0#9)) (hop : fOp w = op) :
    WellFormed i = true ∧ encode i = some w := by
  obtain ⟨hr, h⟩ := ok_of_check h
  obtain ⟨hn, h⟩ := ok_of_check h
  obtain ⟨ht, h⟩ := ok_of_check h
  obtain ⟨p, hok, hp, rfl⟩ := ok_of_takePm h
  exact ⟨(hwf ..).trans hok, by rw [henc, ← hop, hp, selG_fields hn, ← show fTop w = 0#9 from ht, encS_fields hr]⟩

theorem decMR_inverts {k : Target → BitVec 4 → Pm → Instr} (h : decMR k w = .ok i)
    (hwf : ∀ t n p, WellFormed (k t n p) = (t.ok && p.plain))
    (henc : ∀ t n p, encode (k t n p) = some (encS op p.bits (1#2 ++ 0#6 ++ n) t.bits)) (hop : fOp w = op) :
    WellFormed i = true ∧ encode i = some w := by
  obtain ⟨hr, h⟩ := ok_of_check h
  obtain ⟨hn, h⟩ := ok_of_check h
  obtain ⟨t, p, hok, ht, hp, rfl⟩ := ok_of_targetPm h
  exact ⟨(hwf ..).trans hok, by rw [henc, ← hop, ht, hp, selM_fields hn, encS_fields hr]⟩

theorem decMW_inverts {k : BitVec 4 → Pm → Instr} (h : decMW k w = .ok i)
    (hwf : ∀ n p, WellFormed (k n p) = p.plain)
    (henc : ∀ n p, encode (k n p) = some (encS op p.bits (1#2 ++ 0#6 ++ n) 0#9)) (hop : fOp w = op) :
    WellFormed i = true ∧ encode i = some w := by
  obtain ⟨hr, h⟩ := ok_of_check h
  obtain ⟨hn, h⟩ := ok_of_check h
  obtain ⟨ht, h⟩ := ok_of_check h
  obtain ⟨p, hok, hp, rfl⟩ := ok_of_takePm h
  exact ⟨(hwf ..).trans hok, by rw [henc, ← hop, hp, selM_fields hn, ← show fTop w = 0#9 from ht, encS_fields hr]⟩

theorem decMWait_inverts {k : Target → BitVec 4 → Instr} (h : decMWait k w = .ok i)
    (hwf : ∀ t n, WellFormed (k t n) = t.ok)
    (henc : ∀ t n, encode (k t n) = some (encS op 0#2 (1#2 ++ 0#6 ++ n) t.bits)) (hop : fOp w = op) :
    WellFormed i = true ∧ encode i = some w := by
  obtain ⟨hr, h⟩ := ok_of_check h
  obtain ⟨hn, h⟩ := ok_of_check h
  obtain ⟨hp, h⟩ := ok_of_check h
  obtain ⟨t, hok, ht, h⟩ := ok_of_takeTarget h
  cases h
  exact ⟨(hwf ..).trans hok, by rw [henc, ← hop, ht, selM_fields hn, ← show fPm w = 0#2 from hp, encS_fields hr]⟩

theorem decSysR_inverts {k : Target → BitVec 4 → BitVec 6 → Pm → Instr} (h : decSysR k w = .ok i)
    (hwf : ∀ t g n p, WellFormed (k t g n p) = (t.ok && p.plain && sysRegOk g n))
    (henc : ∀ t g n p, encode (k t g n p) = some (encS op p.bits (2#2 ++ g ++ n) t.bits)) (hop : fOp w = op) :
    WellFormed i = true ∧ encode i = some w := by
  obtain ⟨hr, h⟩ := ok_of_check h
  obtain ⟨⟨hn, hg⟩, h⟩ := ok_of_check h
  obtain ⟨t, p, hok, ht, hp, rfl⟩ := ok_of_targetPm h
  exact ⟨by rw [hwf, hok, hg]; rfl, by rw [henc, ← hop, ht, hp, selS_fields hn, encS_fields hr]⟩

theorem decSysW_inverts {k : BitVec 4 → BitVec 6 → Pm → Instr} (h : decSysW k w = .ok i)
    (hwf : ∀ g n p, WellFormed (k g n p) = (p.plain && sysRegOk g n))
    (henc : ∀ g n p, encode (k g n p) = some (encS op p.bits (2#2 ++ g ++ n) 0#9)) (hop : fOp w = op) :
    WellFormed i = true ∧ encode i = some w := by
  obtain ⟨hr, h⟩ := ok_of_check h
  obtain ⟨⟨hn, hg⟩, h⟩ := ok_of_check h
  obtain ⟨ht, h⟩ := ok_of_check h
  obtain ⟨p, hok, hp, rfl⟩ := ok_of_takePm h
  exact ⟨by rw [hwf, hok, hg]; rfl, by rw [henc, ← hop, hp, selS_fields hn, ← show fTop w = 0#9 from ht, encS_fields hr]⟩

end Schemes

/-- What a word decodes to is well formed, and the word is its word (R77, R78, R82). The cases are the rows of `decode` in their
order, each group under the law of its scheme; the rows that read XOP as a second selector come last. -/
theorem decode_inverts {i : Instr} {w : Word32} (h : decode w = .ok i) : WellFormed i = true ∧ encode i = some w := by
  unfold decode at h
  split at h <;> rename_i hop
  case h_1 | h_2 | h_3 | h_7 | h_8 | h_9 | h_10 | h_12 | h_29 | h_30 | h_32 | h_33 | h_44 =>
    exact decW_inverts h (fun _ _ _ _ => rfl) (fun _ _ _ _ => rfl) (BitVec.eq_of_toNat_eq hop)
  case h_4 | h_5 | h_6 | h_11 | h_13 | h_14 | h_34 | h_35 =>
    exact decSW_inverts h (fun _ _ _ _ _ => rfl) (fun _ _ _ _ _ => rfl) (BitVec.eq_of_toNat_eq hop)
  case h_15 | h_27 | h_31 | h_40 | h_41 | h_42 | h_83 | h_84 | h_87 =>
    exact decTT_inverts h (fun _ _ _ => rfl) (fun _ _ _ => rfl) (BitVec.eq_of_toNat_eq hop)
  case h_16 | h_43 =>
    exact decThree_inverts h (fun _ _ => rfl) (fun _ _ => rfl) (BitVec.eq_of_toNat_eq hop)
  case h_17 | h_18 | h_19 | h_20 | h_21 | h_25 | h_26 | h_36 | h_37 | h_38 | h_39 =>
    exact decI_inverts h (fun _ _ _ => rfl) (fun _ _ _ => rfl) (BitVec.eq_of_toNat_eq hop)
  case h_22 | h_23 | h_24 =>
    exact decShift_inverts h (fun _ _ _ => rfl) (fun _ _ _ => rfl) (BitVec.eq_of_toNat_eq hop)
  case h_28 =>
    exact decLea_inverts h (fun _ _ _ _ => rfl) (fun _ _ _ _ => rfl) (BitVec.eq_of_toNat_eq hop)
  case h_45 =>
    exact decGR_inverts h (fun _ _ _ => rfl) (fun _ _ _ => rfl) (BitVec.eq_of_toNat_eq hop)
  case h_46 =>
    exact decGW_inverts h (fun _ _ => rfl) (fun _ _ => rfl) (BitVec.eq_of_toNat_eq hop)
  case h_47 | h_50 =>
    exact decMR_inverts h (fun _ _ _ => rfl) (fun _ _ _ => rfl) (BitVec.eq_of_toNat_eq hop)
  case h_48 =>
    exact decMW_inverts h (fun _ _ => rfl) (fun _ _ => rfl) (BitVec.eq_of_toNat_eq hop)
  case h_49 =>
    exact decMWait_inverts h (fun _ _ => rfl) (fun _ _ => rfl) (BitVec.eq_of_toNat_eq hop)
  case h_51 | h_53 =>
    exact decB_inverts h (fun _ _ _ => rfl) (fun _ _ _ => rfl) (BitVec.eq_of_toNat_eq hop)
  case h_52 | h_54 | h_55 | h_56 | h_97 =>
    exact decB0_inverts h (fun _ _ => rfl) (fun _ _ => rfl) (BitVec.eq_of_toNat_eq hop)
  case h_57 | h_58 | h_59 | h_60 | h_61 | h_62 | h_63 | h_68 | h_69 | h_70 | h_71 | h_72 | h_73 | h_74 =>
    exact decM_inverts h (fun _ _ _ _ => rfl) (fun _ _ _ _ => rfl) (BitVec.eq_of_toNat_eq hop)
  case h_64 | h_65 | h_66 | h_67 =>
    exact decSt_inverts h (fun _ _ _ => rfl) (fun _ _ _ => rfl) (BitVec.eq_of_toNat_eq hop)
  case h_75 =>
    exact decCas_inverts h (fun _ _ _ => rfl) (fun _ _ _ => rfl) (BitVec.eq_of_toNat_eq hop)
  case h_76 | h_77 | h_79 | h_81 | h_86 | h_88 | h_89 | h_90 | h_91 | h_99 | h_100 =>
    exact decXop0_inverts h (fun _ => rfl) (fun _ => rfl) (BitVec.eq_of_toNat_eq hop)
  case h_85 =>
    exact decQueue_inverts h (fun _ _ _ => rfl) (fun _ _ _ => rfl) (BitVec.eq_of_toNat_eq hop)
  case h_92 | h_93 | h_94 =>
    exact decMsg_inverts h (fun _ _ => rfl) (fun _ _ => rfl) (BitVec.eq_of_toNat_eq hop)
  case h_95 =>
    exact decSysR_inverts h (fun _ _ _ _ => rfl) (fun _ _ _ _ => rfl) (BitVec.eq_of_toNat_eq hop)
  case h_96 =>
    exact decSysW_inverts h (fun _ _ _ => rfl) (fun _ _ _ => rfl) (BitVec.eq_of_toNat_eq hop)
  case h_101 =>
    exact decImm_inverts h (fun _ _ => rfl) (fun _ _ => rfl) (BitVec.eq_of_toNat_eq hop)
  case h_78 | h_80 | h_82 | h_98 =>
    split at h <;> rename_i hx
    any_goals exact decNoT_inverts h (fun _ => rfl) (fun _ => rfl) (BitVec.eq_of_toNat_eq hop) (BitVec.eq_of_toNat_eq hx)
    cases h
  case h_102 => cases h

/-! ### Decoding and encoding agree -/

/-- A well-formed instruction is what the decoder reads from its word: the law of each control instruction; a machine step has no
word. -/
theorem decode_encode (i : Instr) : Laws.RoundTrip.Statement i := by
  cases i with
  | add => exact Laws.RoundTrip.add
  | sub => exact Laws.RoundTrip.sub
  | mul => exact Laws.RoundTrip.mul
  | mulh => exact Laws.RoundTrip.mulh
  | div => exact Laws.RoundTrip.div
  | rem => exact Laws.RoundTrip.rem
  | and => exact Laws.RoundTrip.and
  | or => exact Laws.RoundTrip.or
  | xor => exact Laws.RoundTrip.xor
  | shl => exact Laws.RoundTrip.shl
  | shr => exact Laws.RoundTrip.shr
  | sra => exact Laws.RoundTrip.sra
  | min => exact Laws.RoundTrip.min
  | max => exact Laws.RoundTrip.max
  | ext => exact Laws.RoundTrip.ext
  | ins => exact Laws.RoundTrip.ins
  | addi => exact Laws.RoundTrip.addi
  | muli => exact Laws.RoundTrip.muli
  | andi => exact Laws.RoundTrip.andi
  | ori => exact Laws.RoundTrip.ori
  | xori => exact Laws.RoundTrip.xori
  | shli => exact Laws.RoundTrip.shli
  | shri => exact Laws.RoundTrip.shri
  | srai => exact Laws.RoundTrip.srai
  | movi => exact Laws.RoundTrip.movi
  | movhi => exact Laws.RoundTrip.movhi
  | tag => exact Laws.RoundTrip.tag
  | lea => exact Laws.RoundTrip.lea
  | clz => exact Laws.RoundTrip.clz
  | popc => exact Laws.RoundTrip.popc
  | mov => exact Laws.RoundTrip.mov
  | cmpeq => exact Laws.RoundTrip.cmpeq
  | cmpne => exact Laws.RoundTrip.cmpne
  | cmplt => exact Laws.RoundTrip.cmplt
  | cmple => exact Laws.RoundTrip.cmple
  | cmpeqi => exact Laws.RoundTrip.cmpeqi
  | cmpnei => exact Laws.RoundTrip.cmpnei
  | cmplti => exact Laws.RoundTrip.cmplti
  | cmplei => exact Laws.RoundTrip.cmplei
  | pand => exact Laws.RoundTrip.pand
  | por => exact Laws.RoundTrip.por
  | pnot => exact Laws.RoundTrip.pnot
  | sel => exact Laws.RoundTrip.sel
  | tst => exact Laws.RoundTrip.tst
  | grd => exact Laws.RoundTrip.grd
  | gwr => exact Laws.RoundTrip.gwr
  | mrd => exact Laws.RoundTrip.mrd
  | mwr => exact Laws.RoundTrip.mwr
  | mwait => exact Laws.RoundTrip.mwait
  | mfull => exact Laws.RoundTrip.mfull
  | br => exact Laws.RoundTrip.br
  | brx => exact Laws.RoundTrip.brx
  | call => exact Laws.RoundTrip.call
  | callx => exact Laws.RoundTrip.callx
  | ret => exact Laws.RoundTrip.ret
  | stop => exact Laws.RoundTrip.stop
  | ld8 => exact Laws.RoundTrip.ld8
  | ld16 => exact Laws.RoundTrip.ld16
  | ld32 => exact Laws.RoundTrip.ld32
  | ld64 => exact Laws.RoundTrip.ld64
  | lds8 => exact Laws.RoundTrip.lds8
  | lds16 => exact Laws.RoundTrip.lds16
  | lds32 => exact Laws.RoundTrip.lds32
  | st8 => exact Laws.RoundTrip.st8
  | st16 => exact Laws.RoundTrip.st16
  | st32 => exact Laws.RoundTrip.st32
  | st64 => exact Laws.RoundTrip.st64
  | aadd => exact Laws.RoundTrip.aadd
  | aand => exact Laws.RoundTrip.aand
  | aor => exact Laws.RoundTrip.aor
  | axor => exact Laws.RoundTrip.axor
  | amin => exact Laws.RoundTrip.amin
  | amax => exact Laws.RoundTrip.amax
  | aswp => exact Laws.RoundTrip.aswp
  | acas => exact Laws.RoundTrip.acas
  | cfg => exact Laws.RoundTrip.cfg
  | strm => exact Laws.RoundTrip.strm
  | drainCell => exact Laws.RoundTrip.drainCell
  | drainAll => exact Laws.RoundTrip.drainAll
  | tmpl => exact Laws.RoundTrip.tmpl
  | evxTerm => exact Laws.RoundTrip.evxTerm
  | evxCnt => exact Laws.RoundTrip.evxCnt
  | evxTgt => exact Laws.RoundTrip.evxTgt
  | evxPulse => exact Laws.RoundTrip.evxPulse
  | pub => exact Laws.RoundTrip.pub
  | collStart => exact Laws.RoundTrip.collStart
  | collWait => exact Laws.RoundTrip.collWait
  | collEnd => exact Laws.RoundTrip.collEnd
  | waitc => exact Laws.RoundTrip.waitc
  | waite => exact Laws.RoundTrip.waite
  | launch => exact Laws.RoundTrip.launch
  | shape => exact Laws.RoundTrip.shape
  | take => exact Laws.RoundTrip.take
  | steal => exact Laws.RoundTrip.steal
  | yield => exact Laws.RoundTrip.yield
  | cptag => exact Laws.RoundTrip.cptag
  | cpmark => exact Laws.RoundTrip.cpmark
  | msend => exact Laws.RoundTrip.msend
  | msendw => exact Laws.RoundTrip.msendw
  | mbcast => exact Laws.RoundTrip.mbcast
  | sysrd => exact Laws.RoundTrip.sysrd
  | syswr => exact Laws.RoundTrip.syswr
  | tret => exact Laws.RoundTrip.tret
  | tlbiAddr => exact Laws.RoundTrip.tlbiAddr
  | tlbiAsid => exact Laws.RoundTrip.tlbiAsid
  | tlbiAll => exact Laws.RoundTrip.tlbiAll
  | ctxsave => exact Laws.RoundTrip.ctxsave
  | ctxload => exact Laws.RoundTrip.ctxload
  | trap => exact Laws.RoundTrip.trap
  | _ => exact fun _ _ he => nomatch he

/-- Settles O58: `decode_encode` from instructions to words and `decode_inverts` from words to instructions. -/
theorem decodeAndEncodeAgree : Obligations.DecodeAndEncodeAgree := by
  unfold Obligations.DecodeAndEncodeAgree
  exact ⟨fun i w => decode_encode i w, fun _ _ => decode_inverts⟩

/-! ### Words written out from the encoding tables -/

/-- Settles O60: each word is the word of the instruction that it stands for (`decode_encode`); OP 0x7F is not assigned, and the
last word's target of none names slot 1. -/
theorem wordsDecode : Obligations.WordsDecode := by
  unfold Obligations.WordsDecode
  exact ⟨decode_encode _ _ rfl rfl, decode_encode _ _ rfl rfl, decode_encode _ _ rfl rfl, decode_encode _ _ rfl rfl,
    decode_encode _ _ rfl rfl, decode_encode _ _ rfl rfl, decode_encode _ _ rfl rfl, decode_encode _ _ rfl rfl,
    ⟨.unassignedOp, rfl⟩, ⟨.badTarget, rfl⟩⟩

end Sys2Proof
end

section
namespace Sys2Proof

open Machine

/-! ### Predication (R74) -/

/-- Every control instruction is an effect of its own under `fire`, which asks for its operands and its predicate first. -/
theorem exec_control {i : Instr} (s : State) (h : IsControl i) : ∃ f, exec i s = .next (fire s i f) := by
  cases i with
  | add | sub | mul | mulh | div | rem | and | or | xor | shl | shr | sra | min | max | ext | ins | addi | muli | andi | ori |
    xori | shli | shri | srai | movi | movhi | tag | lea | clz | popc | mov | cmpeq | cmpne | cmplt | cmple | cmpeqi | cmpnei |
    cmplti | cmplei | pand | por | pnot | sel | tst | grd | gwr | mrd | mwr | mwait | mfull | br | brx | call | callx | ret |
    stop | ld8 | ld16 | ld32 | ld64 | lds8 | lds16 | lds32 | st8 | st16 | st32 | st64 | aadd | aand | aor | axor | amin | amax |
    aswp | acas | cfg | strm | drainCell | drainAll | tmpl | evxTerm | evxCnt | evxTgt | evxPulse | pub | collStart | collWait |
    collEnd | waitc | waite | launch | shape | take | steal | yield | cptag | cpmark | msend | msendw | mbcast | sysrd | syswr |
    tret | tlbiAddr | tlbiAsid | tlbiAll | ctxsave | ctxload | trap => exact ⟨_, rfl⟩
  | _ => cases h

/-- Settles O8: `fire` holds back every control instruction alike (`fire_not_ready`, `fire_skipped`). -/
theorem predicationHoldsBack : Obligations.PredicationHoldsBack := by
  unfold Obligations.PredicationHoldsBack
  intro i s q hcontrol hq
  obtain ⟨f, hexec⟩ := exec_control s hcontrol
  rw [hexec]
  exact ⟨fun hr => congrArg _ (fire_not_ready f hq hr), fun hr hp => congrArg _ (fire_skipped f hq hr hp)⟩

end Sys2Proof
end

section
namespace Sys2Proof

open Machine

/-! ### CFG (R131) -/

/-- The values that an effect reads at ports L and R, by their names. -/
theorem getD_l (q : Firing) : q.sl.l.getD 0 = atL q := rfl
theorem getD_r (q : Firing) : q.sl.r.getD 0 = atR q := rfl

/-- The header of a CFG that is ready passes, so that the whole block is checked. -/
theorem fireCfg_checks {s : State} {q : Firing} {h : BitVec 128} {bs : List Byte} (hc : CfgReady s q h bs) :
    fireCfg s q = cfgChecks s q (atL q) (atR q) h (cellAt s q.th.home.crew (field (atR q) 0 4)) := by
  obtain ⟨hb, hfetch, rfl⟩ := hc.header
  have hreserved : field (atR q) 40 24 = 0 := by rw [field, hc.reserved]; rfl
  simp only [fireCfg, getD_l, getD_r, hc.aligned, hreserved, hc.drained, hfetch, hc.magic, hc.fit, hc.roles, Nat.ne_of_gt hc.some_,
    Nat.not_lt.mpr hc.pages, ne_eq, not_true_eq_false, Bool.true_eq_false, or_self, Bool.not_true, Bool.false_eq_true, if_false]

/-- A CFG that is ready goes on, with its wait ended and the translations of its fetch kept. -/
theorem fireCfg_done {s : State} {q : Firing} {h : BitVec 128} {bs : List Byte} (hc : CfgReady s q h bs) :
    ∃ u b, fireCfg s q = .done u b ∧ cfgDone s q h bs = afterGate u q b := by
  refine ⟨_, _, ?_, rfl⟩
  rw [fireCfg_checks hc]
  simp only [cfgChecks, hc.graph, hc.checks, hc.free, Bool.not_true, Bool.false_eq_true, if_false]

/-- A CFG that is ready and fires leaves its effect for the commit. -/
theorem execCfg_ready {s : State} {q : Firing} {p : Pm} {h : BitVec 128} {bs : List Byte} (hc : CfgReady s q h bs)
    (hf : Fires s (.cfg p) q) : exec (.cfg p) s = .next (cfgDone s q h bs) := by
  obtain ⟨u, b, hdone, hu⟩ := fireCfg_done hc
  rw [hu]
  exact congrArg _ (fire_done_gate hf hdone)

/-- CFG_GATE_OPEN runs the CFG of the gated slot. -/
theorem cfgGateOpen_gated {s u : State} {q : Firing} {p : Pm} (hg : Gated s (.cfg p) q)
    (hu : exec (.cfg p) (lookAt s q) = .next u) : exec (.cfgGateOpen q.t q.k) s = .next (goesOn s q u) := by
  obtain ⟨-, hth, hb, hsl⟩ := firing_spec hg.fires.1
  have hgo : nextOf (execCfg p (lookAt s q)) (lookAt s q) = u := by rw [show execCfg p (lookAt s q) = .next u from hu]; rfl
  refine congrArg _ ((retryGate_gated (s := s) _ hth hb hsl hg.phase hg.runs hg.instr).trans ?_)
  simp only [← hgo]
  rfl

/-- A block that is not aligned (R238). -/
theorem fireCfg_align {s : State} {q : Firing} (h : (atL q).toNat % 16 ≠ 0) : fireCfg s q = .fault s cALIGN 0 (atL q) :=
  if_pos h

/-- Bits of the descriptor that no field names (R131). -/
theorem fireCfg_badEnc {s : State} {q : Firing} (ha : (atL q).toNat % 16 = 0) (h : (atR q).extractLsb' 40 24 ≠ 0) :
    fireCfg s q = .fault s cCONNECT 7 0 := by
  have hfield : field (atR q) 40 24 ≠ 0 := fun h0 => h (BitVec.eq_of_toNat_eq h0)
  exact (if_neg (not_not.mpr ha)).trans (if_pos hfield)

/-- Settles O17: what `fireCfg` answers in each case, as `fire` and the gate take it. -/
theorem cfgFires : Obligations.CfgFires := by
  unfold Obligations.CfgFires
  intro s q p
  refine ⟨fun h bs => execCfg_ready, fun h bs hc hg => ?gate, fun hf ha => ?align, fun hf ha hr => ?badEnc⟩
  case gate => exact cfgGateOpen_gated hg (execCfg_ready hc hg.fires)
  case align => exact congrArg _ (fire_fault hf (fireCfg_align ha))
  case badEnc => exact congrArg _ (fire_fault hf (fireCfg_badEnc ha hr))

end Sys2Proof
end

section
namespace Sys2Proof

open Machine

/-! ### What a fetch reads does not lie in the threads (R71, R332)

The fetch of a block follows a change of its thread alone (`startThread`), and finds the same bytes. -/

theorem pieces_threads (s : State) (l : List (Nat × Thread)) (w : Who) (k : AccKind) (g fuel : Nat) :
    ∀ (va : W) (n : Nat), pieces { s with threads := l } w k g fuel va n = pieces s w k g fuel va n := by
  induction fuel with
  | zero => exact fun _ _ => rfl
  | succ fuel ih =>
    intro va n
    have hxlate : xlate { s with threads := l } w k va = xlate s w k va := rfl
    simp only [pieces, hxlate, ih]

theorem fetchBytes_threads (s : State) (l : List (Nat × Thread)) (w : Who) (k : AccKind) (va : W) (n : Nat) :
    fetchBytes { s with threads := l } w k va n = fetchBytes s w k va n := by
  have hpieces : piecesOf { s with threads := l } w k va n = piecesOf s w k va n := pieces_threads s l w k _ _ va n
  rw [fetchBytes, hpieces]
  rfl

theorem fetchBlock_threads (s : State) (l : List (Nat × Thread)) (th : Thread) (pc : W) :
    fetchBlock { s with threads := l } th pc = fetchBlock s th pc := by
  have hwho (n : Nat) : whoThread { s with threads := l } th pc n = whoThread s th pc n := rfl
  simp only [fetchBlock, fetchBytes_threads, hwho]

theorem fetchBlock_updThread (s : State) (t : Nat) (f : Thread → Thread) (th : Thread) (pc : W) :
    fetchBlock (updThread s t f) th pc = fetchBlock s th pc := by
  unfold updThread
  split
  · exact fetchBlock_threads ..
  · rfl

/-! ### What the fetch of a block comes to (R67, R71, R82) -/

/-- The block at pc can be read: h is its header, which passes, and bs are its n bytes. -/
structure BlockAt (s : State) (th : Thread) (pc : W) (h : BitVec 128) (n : Nat) (bs : List Byte) : Prop where
  top : pc.extractLsb' 56 8 = 0
  aligned : pc.toNat % 16 = 0
  header : ∃ hb, fetchBytes s (whoThread s th pc 16) .fetch pc 16 = some hb ∧ h = BitVec.ofNat 128 (leVal hb)
  passes : headerOk h = true
  size : n = blockBytes (hdrNcnt h)
  bytes : fetchBytes s (whoThread s th pc n) .fetch pc n = some bs

/-- The words of a block, behind its header. -/
def blockWords (h : BitVec 128) (bs : List Byte) : List Word32 := words32 (hdrNcnt h + 1) (bs.drop 16)

section Fetched
variable {s : State} {th : Thread} {pc : W} {h : BitVec 128} {n : Nat} {bs : List Byte}

/-- A pc outside the addresses that a block can have, or a header that cannot be read. -/
theorem fetchBlock_unreadable (hpc : pc.extractLsb' 56 8 ≠ 0 ∨ fetchBytes s (whoThread s th pc 16) .fetch pc 16 = none) :
    fetchBlock s th pc = .unreadable := by
  unfold fetchBlock
  split
  · rfl
  · rename_i hok
    have hnone := hpc.resolve_left (fun hhigh => hok (.inl (fun h0 => hhigh (BitVec.eq_of_toNat_eq h0))))
    simp only [hnone]

theorem headerOk_magic (hok : headerOk h = true) : h.extractLsb' 0 4 = 1 := by
  simp only [headerOk, Bool.and_eq_true, beq_iff_eq] at hok
  obtain ⟨⟨⟨⟨⟨⟨hmagic, -⟩, -⟩, -⟩, -⟩, -⟩, -⟩ := hok
  exact hmagic

/-- A word that is no instruction is a defect of its slot. -/
theorem fetchBlock_undecodable {k : Nat} (hat : BlockAt s th pc h n bs) (hwords : decodeAll 0 (blockWords h bs) = .error k) :
    fetchBlock s th pc = .bad (.slot k) := by
  obtain ⟨hb, hhdr, rfl⟩ := hat.header
  have hlow : field pc 56 8 = 0 := by rw [field, hat.top]; rfl
  simp only [blockWords] at hwords
  simp only [fetchBlock, hlow, hat.aligned, hhdr, headerOk_magic hat.passes, ← hat.size, hat.bytes, hat.passes, hwords, ne_eq,
    not_true_eq_false, or_self, Bool.not_true, Bool.false_eq_true, if_false]

/-- A block whose words decode, without a defect and with zeros behind its words, is fetched. -/
theorem fetchBlock_block {is : List Instr} (hat : BlockAt s th pc h n bs) (hwords : decodeAll 0 (blockWords h bs) = .ok is)
    (hload : loadFault h is = none) (hpad : ((bs.drop 16).drop (4 * (hdrNcnt h + 1))).all (fun x => x == 0) = true) :
    fetchBlock s th pc = .block (freshBlock pc h (blockWords h bs)) n := by
  obtain ⟨hb, hhdr, rfl⟩ := hat.header
  have hlow : field pc 56 8 = 0 := by rw [field, hat.top]; rfl
  have hzero : ((bs.drop 16).drop (4 * (hdrNcnt (BitVec.ofNat 128 (leVal hb)) + 1))).any (fun x => x != 0) = false := by
    simpa [List.any_eq_false, List.all_eq_true] using hpad
  simp only [blockWords] at hwords
  simp only [fetchBlock, hlow, hat.aligned, hhdr, headerOk_magic hat.passes, ← hat.size, hat.bytes, hat.passes, hwords, hload, hzero,
    ne_eq, not_true_eq_false, or_self, Bool.not_true, Bool.false_eq_true, if_false]
  rfl

end Fetched

/-! ### A trap that a handler takes (R346) -/

/-- The saved pc is the address without its offset in 16 bytes. -/
theorem and_align16 (a : W) : a &&& 0xFFFFFFFFFFFFFFF0#64 = a.extractLsb' 4 60 ++ (0 : BitVec 4) := by
  have hmask : 0xFFFFFFFFFFFFFFF0#64 = BitVec.allOnes 60 ++ 0#4 := by decide
  calc a &&& 0xFFFFFFFFFFFFFFF0#64 = (a.extractLsb' 4 60 ++ a.extractLsb' 0 4) &&& (BitVec.allOnes 60 ++ 0#4) := by
        rw [← hmask, BitVec.extractLsb'_append_extractLsb' (w := 60) (len := 4)]
    _ = a.extractLsb' 4 60 ++ (0 : BitVec 4) := by
        rw [BitVec.and_append, BitVec.and_allOnes, BitVec.and_zero]; rfl

section Trap
variable {s : State} {t : Nat} {th : Thread} {c : Context} (tr : TrapReq) (pc : W)

theorem enterTrap_trapped : { enterTrap th tr pc c.regs.trapvec (seqOf th c) with seq := none } = trapped th c tr pc := by
  simp only [enterTrap, trapped, trapInfo, and_align16]

/-- The number of a trap, and the machine in which it has been given: the number that a gate gave is used up. -/
theorem trapSeq_spec (hth : aget s.threads t = some th) (hc : aget s.ctxs (asidOf th) = some c) :
    (trapSeq s t th).1 = seqOf th c ∧ aget (trapSeq s t th).2.threads t = some { th with seq := none } ∧
      (trapSeq s t th).2.mem = s.mem := by
  unfold trapSeq seqOf
  cases hseq : th.seq with
  | some k => simp [hth]
  | none =>
    have hnone : { th with seq := none } = th := by rw [← hseq]
    simp [nextSeq, hc, hth, hnone]

theorem takeTrap_handled (hth : aget s.threads t = some th) (hc : aget s.ctxs (asidOf th) = some c) (hvec : c.regs.trapvec ≠ 0)
    (hfree : th.regs.intrap = false) :
    aget (takeTrap s t tr pc).threads t = some (trapped th c tr pc) ∧ (takeTrap s t tr pc).mem = s.mem := by
  obtain ⟨hseq, hthread, hmem⟩ := trapSeq_spec hth hc
  have hvec' : (c.regs.trapvec == 0) = false := beq_false_of_ne hvec
  have htaken : takeTrap s t tr pc = updThread (trapSeq s t th).2 t (fun x => enterTrap x tr pc c.regs.trapvec (seqOf th c)) := by
    simp only [takeTrap, hth, hc, hfree, hvec', hseq, Bool.or_self, Bool.false_eq_true, if_false]
  rw [htaken, updThread_same, hthread, updThread_mem, hmem, ← enterTrap_trapped]
  exact ⟨rfl, rfl⟩

/-- A trap of a thread whose crew is confirmed is taken at once. -/
theorem trapOrHold_handled (hth : aget s.threads t = some th) (hc : aget s.ctxs (asidOf th) = some c) (hvec : c.regs.trapvec ≠ 0)
    (hfree : th.regs.intrap = false) (hcrew : unconfirmed s th.home.crew = false) :
    aget (trapOrHold s t tr pc).threads t = some (trapped th c tr pc) ∧ (trapOrHold s t tr pc).mem = s.mem := by
  simp only [trapOrHold, hth, hcrew, Bool.false_eq_true, if_false]
  exact takeTrap_handled tr pc hth hc hvec hfree

end Trap

/-! ### BLOCK_FETCH of a thread that may fetch (R71, R109, R392) -/

theorem unconfirmed_updThread (s : State) (t : Nat) (f : Thread → Thread) (crew : CrewId) :
    unconfirmed (updThread s t f) crew = unconfirmed s crew := by
  unfold updThread
  split <;> rfl

/-- The thread in which no breakpoint is to be passed over any more. -/
def noSkip (th : Thread) : Thread := { th with brkSkip := none }

section BlockFetch
variable {s : State} {t : Nat} {th : Thread} {c : Context}

theorem blockFetch_starts (hth : aget s.threads t = some th) (hc : aget s.ctxs (asidOf th) = some c) (hcan : canFetch s th = true) :
    exec (.blockFetch t) s = .next (startThread s t th c) := by
  change execBlockFetch t s = _
  simp only [execBlockFetch, hth, hc, hcan, if_true]

/-- A block that cannot be read: the trap names the header. -/
theorem startThread_unreadable (hbreak : breakHit c th = none) (hf : fetchBlock s th th.pc = .unreadable) :
    startThread s t th c = trapOrHold (updThread s t noSkip) t ⟨cBLOCKFETCH, 0, 0, true, th.pc⟩ th.pc := by
  simp only [startThread, hbreak, fetchBlock_updThread, hf]
  rfl

/-- A slot with a defect: the trap names the slot. -/
theorem startThread_badSlot {k : Nat} (hbreak : breakHit c th = none) (hf : fetchBlock s th th.pc = .bad (.slot k)) :
    startThread s t th c = trapOrHold (updThread s t noSkip) t ⟨cDECODE, 0, BitVec.ofNat 7 k, false, th.pc⟩ th.pc := by
  simp only [startThread, hbreak, fetchBlock_updThread, hf]
  rfl

/-- A block that is fetched stands in its thread, whose pts follows the fetch; no other thread changes. -/
theorem startThread_block {b : Block} {n : Nat} (hbreak : breakHit c th = none) (hf : fetchBlock s th th.pc = .block b n) :
    ∃ u p, u.threads = (updThread s t noSkip).threads ∧
      startThread s t th c = installBlock (updThread u t (fun x => { x with pts := p })) t b := by
  simp only [startThread, hbreak, fetchBlock_updThread, hf]
  refine ⟨_, _, ?_, rfl⟩
  exact (keepsUnits_fillPages ..).threads

/-- The trap of a fetch that fails, in the thread that no breakpoint stops. -/
theorem fetchTrapped (tr : TrapReq) (hth : aget s.threads t = some th) (hc : aget s.ctxs (asidOf th) = some c)
    (hcrew : unconfirmed s th.home.crew = false) (hvec : c.regs.trapvec ≠ 0) (hfree : th.regs.intrap = false) :
    aget (trapOrHold (updThread s t noSkip) t tr th.pc).threads t = some (trapped (noSkip th) c tr th.pc) ∧
      (trapOrHold (updThread s t noSkip) t tr th.pc).mem = s.mem := by
  have hth' : aget (updThread s t noSkip).threads t = some (noSkip th) := by rw [updThread_same, hth]; rfl
  have hc' : aget (updThread s t noSkip).ctxs (asidOf (noSkip th)) = some c := by rw [updThread_ctxs]; exact hc
  have hcrew' : unconfirmed (updThread s t noSkip) (noSkip th).home.crew = false := (unconfirmed_updThread ..).trans hcrew
  obtain ⟨hthread, hmem⟩ := trapOrHold_handled tr th.pc hth' hc' hvec hfree hcrew'
  exact ⟨hthread, hmem.trans (updThread_mem ..)⟩

end BlockFetch

/-- Settles O24: `fetchBlock` is unreadable, or bad at a slot, and the trap of either is taken at once. -/
theorem badBlocksTrap : Obligations.BadBlocksTrap := by
  unfold Obligations.BadBlocksTrap
  intro s t th c hth hc hcan hbreak hcrew hvec hfree halign
  refine ⟨fun hunread => ?unreadable, fun hb bs k n hn hlow hhdr hok hbytes hwords => ?undecodable⟩
  case unreadable =>
    have hstart := startThread_unreadable (t := t) hbreak (fetchBlock_unreadable hunread)
    exact ⟨_, (blockFetch_starts hth hc hcan).trans (congrArg _ hstart), fetchTrapped _ hth hc hcrew hvec hfree⟩
  case undecodable =>
    have hat : BlockAt s th th.pc (BitVec.ofNat 128 (leVal hb)) n bs := ⟨hlow, halign, ⟨hb, hhdr, rfl⟩, hok, hn, hbytes⟩
    have hstart := startThread_badSlot (t := t) hbreak (fetchBlock_undecodable hat hwords)
    exact ⟨_, (blockFetch_starts hth hc hcan).trans (congrArg _ hstart), fetchTrapped _ hth hc hcrew hvec hfree⟩

/-! ### The block stands in its thread (R109, R125, R126) -/

section NoteStart
variable {s : State} {t y : Nat} {th o : Thread}

/-- The start of a block of t is nothing to a thread that waits for nothing. -/
theorem noteStart_ready (hth : aget s.threads t = some th) (ho : aget s.threads y = some o) (hm : o.mode = .ready) :
    aget (noteStart s t).threads y = some o := by
  simp only [noteStart, hth]
  rw [aget_map (fun e => by split <;> rfl), ho]
  simp only [Option.map_some, hm]

/-- A YIELD waits for t no longer (R148). -/
theorem noteStart_yield {left : List Nat} (hth : aget s.threads t = some th) (ho : aget s.threads y = some o)
    (hm : o.mode = .trailing [.yield left] .next) :
    aget (noteStart s t).threads y = some { o with mode := .trailing [.yield (left.filter (fun z => z != t))] .next } := by
  simp only [noteStart, hth]
  rw [aget_map (fun e => by split <;> rfl), ho]
  simp only [Option.map_some, hm, List.map_cons, List.map_nil, startedWait]

end NoteStart

section MwaitEdge
variable {s : State} {t : Nat} {th : Thread}

/-- The edge of an MWAIT changes the label and the pts of its thread, and no other thread (R150). -/
theorem endWaitThread_thread (g : Sig) (kind : Nat) (producer : W) (waited : Nat) (hth : aget s.threads t = some th) :
    ∃ l p, aget (endWaitThread s t g kind producer waited).threads t = some { th with label := l, pts := p } := by
  simp only [endWaitThread, hth, updThread_same, (keepsUnits_newEdge ..).threads, Option.map_some]
  exact ⟨_, _, rfl⟩

/-- A block with no MWAIT leaves the machine as it is; with one, the thread's wait ends. -/
theorem mwaitEdge_cases (s : State) (t : Nat) (th : Thread) (ns : List (BitVec 4)) (waited : Nat) :
    mwaitEdge s t th ns waited = s ∨
      ∃ g kind producer, mwaitEdge s t th ns waited = endWaitThread s t g kind producer waited := by
  simp only [mwaitEdge]
  split
  · exact .inl rfl
  · split <;> exact .inr ⟨_, _, _, rfl⟩

theorem mwaitEdge_thread (ns : List (BitVec 4)) (waited : Nat) (hth : aget s.threads t = some th) :
    ∃ l p, aget (mwaitEdge s t th ns waited).threads t = some { th with label := l, pts := p } := by
  obtain hsame | ⟨g, kind, producer, hends⟩ := mwaitEdge_cases s t th ns waited
  · rw [hsame]
    exact ⟨th.label, th.pts, hth⟩
  · rw [hends]
    exact endWaitThread_thread g kind producer waited hth

theorem sparesOthers_mwaitEdge (s : State) (t : Nat) (th : Thread) (ns : List (BitVec 4)) (waited : Nat) :
    SparesOthers t s (mwaitEdge s t th ns waited) := by
  obtain hsame | ⟨g, kind, producer, hends⟩ := mwaitEdge_cases s t th ns waited
  · rw [hsame]
    exact .refl t s
  · rw [hends]
    exact sparesOthers_endWaitThread ..

end MwaitEdge

/-- The words that have been decoded are those of the slots (R82). -/
theorem decodeAll_instrs {ws : List Word32} : ∀ {k : Nat} {is : List Instr}, decodeAll k ws = .ok is →
    (ws.map (fun w => (⟨w, none, none, none, .waiting⟩ : Slot))).filterMap slotInstr = is := by
  induction ws with
  | nil => intro k is h; cases h; rfl
  | cons w ws ih =>
    intro k is h
    simp only [decodeAll] at h
    split at h
    · cases h
    · rename_i i hi
      split at h
      · cases h
      · rename_i hrest
        cases h
        simp [slotInstr, hi, ih hrest]

section InstallBlock
variable {s : State} {t : Nat} {th : Thread} {b : Block}

/-- The thread that runs block b from the snapshot that it took in machine v, where its label was l and its pts p. -/
def running (v : State) (t : Nat) (th : Thread) (b : Block) (l : Label) (p : Nat) : Thread :=
  { th with
    mode := .ready, thieves := th.thieves.map (fun e => (e.1, true)), label := l, pts := p,
    block := some (snapshotOf v t { th with block := some b, label := l, pts := p } b) }

/-- Every mailbox that an MWAIT of the block names is full: the block runs, and a YIELD of another thread waits for t no longer. -/
theorem installBlock_runs (hth : aget s.threads t = some th) (hm : th.mode = .ready)
    (hfull : (mwaitSet (b.slots.filterMap slotInstr)).all (fun n => th.mfull.getLsbD n.toNat) = true) :
    (∃ v l p, aget (installBlock s t b).threads t = some (running v t th b l p)) ∧
      ∀ y o left, y ≠ t → aget s.threads y = some o → o.mode = .trailing [.yield left] .next →
        aget (installBlock s t b).threads y =
          some { o with mode := .trailing [.yield (left.filter (fun z => z != t))] .next } := by
  have hth1 : aget (updThread s t (fun th => { th with block := some b })).threads t = some { th with block := some b } := by
    rw [updThread_same, hth]; rfl
  simp only [installBlock, hth1, hfull, if_true, startBlock]
  refine ⟨?_, fun y o left hy ho hyield => ?_⟩
  · obtain ⟨l, p, hedge⟩ := mwaitEdge_thread (mwaitSet (b.slots.filterMap slotInstr)) 0 (noteStart_ready hth1 hth1 hm)
    rw [updThread_same, hedge]
    exact ⟨_, l, p, rfl⟩
  · rw [updThread_ne _ _ _ hy, (sparesOthers_mwaitEdge ..).others y hy]
    exact noteStart_yield hth1 ((updThread_ne _ _ _ hy).trans ho) hyield

/-- An empty mailbox that an MWAIT of the block names holds the block, and no other thread changes. -/
theorem installBlock_waits (hth : aget s.threads t = some th)
    (hempty : (mwaitSet (b.slots.filterMap slotInstr)).all (fun n => th.mfull.getLsbD n.toNat) = false) :
    (∃ l w, aget (installBlock s t b).threads t = some { th with block := some b, mode := .mwait, label := l, waitAt := w }) ∧
      SparesOthers t s (installBlock s t b) := by
  have hth1 : aget (updThread s t (fun th => { th with block := some b })).threads t = some { th with block := some b } := by
    rw [updThread_same, hth]; rfl
  simp only [installBlock, hth1, hempty, Bool.false_eq_true, if_false]
  refine ⟨?_, (sparesOthers_updThread ..).trans ((sparesOthers_updThread ..).trans (sparesOthers_updThread ..))⟩
  rw [updThread_same, beginWait, updThread_same, hth1]
  exact ⟨_, _, rfl⟩

end InstallBlock

/-- Settles O23: the block is fetched (`fetchBlock_block`) and stands in the thread, where it runs or waits. -/
theorem blockFetchStarts : Obligations.BlockFetchStarts := by
  unfold Obligations.BlockFetchStarts
  intro s t th c hb bs h is n hn hth hc hcan hbreak hlow halign hhdr hh hok hbytes hwords hload hpad
  have hat : BlockAt s th th.pc h n bs := ⟨hlow, halign, ⟨hb, hhdr, hh⟩, hok, hn, hbytes⟩
  have hinstrs : (freshBlock th.pc h (blockWords h bs)).slots.filterMap slotInstr = is := decodeAll_instrs hwords
  have hready : th.mode = .ready := by
    simp only [canFetch, fetchReady, Bool.and_eq_true, beq_iff_eq] at hcan
    obtain ⟨⟨⟨⟨hmode, -⟩, -⟩, -⟩, -⟩ := hcan
    exact hmode
  obtain ⟨u, p, hu, hstart⟩ := startThread_block (t := t) hbreak (fetchBlock_block hat hwords hload hpad)
  have hth1 : aget (updThread u t (fun x => { x with pts := p })).threads t = some { noSkip th with pts := p } := by
    rw [updThread_same, hu, updThread_same, hth]; rfl
  have hother (y : Nat) (hy : y ≠ t) : aget (updThread u t (fun x => { x with pts := p })).threads y = aget s.threads y := by
    rw [updThread_ne _ _ _ hy, hu, updThread_ne _ _ _ hy]
  refine ⟨_, (blockFetch_starts hth hc hcan).trans (congrArg _ hstart), ?_⟩
  cases hfull : (mwaitSet is).all (fun n => th.mfull.getLsbD n.toNat) with
  | true =>
    obtain ⟨⟨v, l, q, hruns⟩, hyields⟩ := installBlock_runs hth1 hready (by rw [hinstrs]; exact hfull)
    exact ⟨⟨_, hruns, _, rfl, rfl, rfl, rfl, rfl, rfl, rfl, rfl, rfl, rfl, rfl, rfl, rfl, rfl, rfl, rfl, rfl⟩,
      fun y o left hy ho hyield => ⟨_, hyields y o left hy ((hother y hy).trans ho) hyield, rfl⟩⟩
  | false =>
    obtain ⟨⟨l, w, hwaits⟩, hspares⟩ := installBlock_waits hth1 (by rw [hinstrs]; exact hfull)
    exact ⟨⟨_, hwaits, _, rfl, rfl, rfl, rfl, rfl, rfl, rfl, rfl, rfl, rfl, rfl, rfl⟩,
      fun y o left hy ho hyield => ⟨o, ((hspares.others y hy).trans (hother y hy)).trans ho, hyield⟩⟩

end Sys2Proof
end

section
namespace Sys2Proof

open Machine

/-! ### Global and mailbox registers (R106, R107, R126) -/

/-- What MRD and MWAIT do as they fire: the snapshot's value is delivered, and the clearing of a full mailbox is left for the commit. -/
def readsMail (q : Firing) (t : Target) (m : BitVec 4) : Block :=
  deliver (if q.b.mfull.getLsbD m.toNat then addEff q.b (.mclr m) else q.b) q.k t (snapM q.b m)

theorem execMrd_fires {s : State} {q : Firing} {t : Target} {m : BitVec 4} {p : Pm} (h : Fires s (.mrd t m p) q) :
    exec (.mrd t m p) s = .next (afterFiring s q (readsMail q t m)) := congrArg _ (fire_done h rfl)

theorem execMwait_fires {s : State} {q : Firing} {t : Target} {m : BitVec 4} (h : Fires s (.mwait t m) q) :
    exec (.mwait t m) s = .next (afterFiring s q (readsMail q t m)) := congrArg _ (fire_done h rfl)

/-- Settles O5: what `fire` makes of a delivery, of an effect, and of the PRIV of MWR at m15. -/
theorem registerInstructions : Obligations.RegisterInstructions := by
  unfold Obligations.RegisterInstructions
  intro s q t n m p
  refine ⟨fun h => ?grd, fun h => ?gwr, execMrd_fires, execMwait_fires, fun h => ?mfull, fun h hok => ?mwr, fun h hm hp => ?priv⟩
  case grd => exact congrArg _ (fire_done h rfl)
  case gwr => exact congrArg _ (fireEff_leaves _ h)
  case mfull => exact congrArg _ (fire_done h rfl)
  case mwr => exact congrArg _ (fire_done h (if_neg hok))
  case priv => exact congrArg _ (fire_fault h (if_pos ⟨hm, hp⟩))

/-! ### Branches (R76, R113, R348) -/

/-- The first branch of a block that fires is its choice. -/
theorem choose_first {b : Block} {k : Nat} {c : Choice} (h : b.branches = 0) : choose b k c = chosen b c := if_pos h

/-- A second branch raises DECODE. -/
theorem choose_second {b : Block} {k : Nat} {c : Choice} (h : b.branches ≠ 0) :
    choose b k c = raise { b with branches := b.branches + 1 } k cDECODE 0 b.addr := if_neg h

theorem aligned16_iff {a : W} : aligned16 a = true ↔ a.toNat % 16 = 0 := beq_iff_eq

/-- An effect that chooses c as the first branch of its block. -/
theorem fire_chooses {s u : State} {i : Instr} {q : Firing} {f : Firing → Fired} {b : Block} {c : Choice} (h : Fires s i q)
    (hu : u.threads = s.threads) (hb : b.branches = 0) (hf : f q = .done u (choose b q.k c)) :
    fire s i f = afterFiring u q (chosen b c) := by
  rw [choose_first hb] at hf
  exact fire_done_same h hu hf

/-- Settles O6: `choose` for the branch that fires, after the checks of its target and of the level. -/
theorem branchInstructions : Obligations.BranchInstructions := by
  unfold Obligations.BranchInstructions
  intro s q f e p
  refine ⟨fun h hb => ?br, fun h hb => ?second, fun h hb ha => ?brx, fun h ha => ?brxAlign, fun h hb => ?stop,
    fun h hl hb ha => ?tret, fun h hl ha => ?tretAlign, fun h hl => ?tretPriv⟩
  case br => exact congrArg _ (fire_chooses h rfl hb rfl)
  case second => exact congrArg _ (fire_done h (congrArg _ (choose_second hb)))
  case brx => exact congrArg _ (fire_chooses h rfl hb (if_pos (aligned16_iff.mpr ha)))
  case brxAlign => exact congrArg _ (fire_fault h (if_neg (mt aligned16_iff.mp ha)))
  case stop => exact congrArg _ (fire_chooses h rfl hb rfl)
  case tret => exact congrArg _ (fire_chooses h rfl hb ((if_neg hl).trans (if_pos (aligned16_iff.mpr ha))))
  case tretAlign => exact congrArg _ (fire_fault h ((if_neg hl).trans (if_neg (mt aligned16_iff.mp ha))))
  case tretPriv => exact congrArg _ (fire_fault h (if_pos hl))

/-! ### A call or a return with a spill access (R115) -/

/-- A data fault leaves the machine as it is, but for a unit that a metadata error poisons (R192). -/
theorem dataFault_state (s : State) (asid pts : Nat) (bytes : List Host.Cell) (k : AccessKind) (l : Loc) (size : Nat) (data : W) :
    (dataFault s asid pts bytes k l size data).2 = s ∨ ∃ a, (dataFault s asid pts bytes k l size data).2 = metaError s asid pts a := by
  unfold dataFault
  extract_lets reads writes isAtomic
  cases l with
  | peer | host | aper => exact .inl rfl
  | mem a =>
    simp only
    split_ifs
    · exact .inl rfl
    · exact .inl rfl
    · exact .inr ⟨a, rfl⟩
    · exact .inl rfl
  | view w off =>
    simp only
    split_ifs
    · exact .inl rfl
    · exact .inl rfl
    · exact .inl rfl
    · split
      · exact .inr ⟨_, rfl⟩
      · exact .inl rfl
    · exact .inl rfl

theorem dataFault_threads (s : State) (asid pts : Nat) (bytes : List Host.Cell) (k : AccessKind) (l : Loc) (size : Nat) (data : W) :
    (dataFault s asid pts bytes k l size data).2.threads = s.threads := by
  obtain hsame | ⟨a, hpoison⟩ := dataFault_state s asid pts bytes k l size data
  · rw [hsame]
  · rw [hpoison]
    rfl

theorem useXlate_threads (s : State) (th : Thread) (ea : W) : (useXlate s th ea).threads = s.threads := by
  unfold useXlate
  split
  · exact (keepsUnits_fillTlb ..).threads
  · rfl

/-- A spill access keeps the threads; beside them it may leave a poisoned unit, or the translation that it used (R192, R336). -/
theorem spillAccess_threads (s : State) (q : Firing) (kd : AccessKind) (entry : Nat) (data : W) :
    (spillAccess s q kd entry data).2.threads = s.threads := by
  simp only [spillAccess]
  split
  · rfl
  · split
    · rfl
    · rename_i r _ _
      have hfault := dataFault_threads s (asidOf q.th) q.th.pts (mergedBytes s (asidOf q.th) q.b spillLsid) kd r.loc 8 data
      split
      · rename_i heq
        rwa [heq] at hfault
      · rename_i heq
        rw [heq] at hfault
        exact (useXlate_threads ..).trans hfault

section Spill
variable {s u : State} {q : Firing} {a : Access} (hb : q.b.branches = 0)
include hb

/-- A call with every entry live spills the bottom one, and goes on in the machine that the spill access leaves. -/
theorem execCall_spills {f : BitVec 20} {e : BitVec 3} {p : Pm} (h : Fires s (.call f e p) q) (hfull : 16 ≤ q.th.ras.length)
    (hcan : ¬(q.th.regs.spc = 0xFFFFF ∨ carveBytes q.th.regs ≤ 8 * q.th.regs.spc.toNat ∧ overflowAbsent q.th.regs = true))
    (hspill : spillAccess s q .store q.th.regs.spc.toNat (q.th.ras.headD 0) = (.ok a, u)) :
    exec (.call f e p) s =
      .next (afterFiring u q (chosen { q.b with accs := q.b.accs ++ [a] } (.call (q.b.addr + f.signExtend 64 * 16)))) := by
  obtain ⟨htop, hover⟩ := not_or.mp hcan
  have hthreads : u.threads = s.threads := by
    have := spillAccess_threads s q .store q.th.regs.spc.toNat (q.th.ras.headD 0)
    rwa [hspill] at this
  refine congrArg _ (fire_done_same h hthreads ?_)
  have hroom : ¬ q.th.ras.length < Config.rasDepth := Nat.not_lt.mpr hfull
  simp only [fireCall, hroom, htop, hover, if_false, hspill]
  exact congrArg _ (choose_first hb)

/-- A return with no live entry loads the last that was spilled, and goes on in the machine that the spill access leaves. -/
theorem execRet_spilled {e : BitVec 3} {p : Pm} (h : Fires s (.ret e p) q) (hras : q.th.ras = []) (hspc : q.th.regs.spc ≠ 0)
    (hspill : spillAccess s q (.load false) (q.th.regs.spc.toNat - 1) 0 = (.ok a, u)) (halign : a.value.toNat % 16 = 0) :
    exec (.ret e p) s = .next (afterFiring u q (chosen { q.b with accs := q.b.accs ++ [a] } (.ret a.value true))) := by
  have hthreads : u.threads = s.threads := by
    have := spillAccess_threads s q (.load false) (q.th.regs.spc.toNat - 1) 0
    rwa [hspill] at this
  refine congrArg _ (fire_done_same h hthreads ?_)
  simp only [fireRet, hras, List.getLast?_nil, hspc, if_false, hspill, aligned16_iff.mpr halign, if_true]
  exact congrArg _ (choose_first hb)

end Spill

/-! ### A spill access that walks the tables (R115, R332, R336) -/

/-- The bytes of three page tables in HBM, each of one entry: the root and the next lead on, and the last is a leaf that maps the first
GiB of addresses to the start of HBM. -/
def walkTables : List Host.Cell :=
  cellsPut (cellsPut (cellsPut [] 0x10000001000 (leBytes 8 0x10000002001)) 0x10000002000 (leBytes 8 0x10000003001)) 0x10000003000
    (leBytes 8 0x1000000003F)

/-- A machine whose CALL fires with 16 live return addresses, no carve-out, and an overflow area at 0x2000, whose translation no TLB
holds yet. -/
def walkingCall : State :=
  { tWith (withRas 16 0 0x2000) (.call 1 0 .none) 0 0 0 with
    mem := { Memory.reset with bytes := walkTables }
    ctxs := [(1, { tCtx with xlat := { tCtx.xlat with root := 0x10000001000 } })] }

/-- The call keeps the translation that its spill has walked for. -/
theorem tlb_walkingCall : (nextOf (exec (.call 1 0 .none) walkingCall) walkingCall).mem.tlb ≠ walkingCall.mem.tlb := by decide +kernel

/-- Refutes O7: its clauses on a spill access that succeeds say that nothing of the machine but the block of the thread changes. A spill into
the overflow area that walks the page tables leaves the translation in the TLB (R336), and the machine of the statement, which it names
as s, has none; `execCall_spills` and `execRet_spilled` are those clauses with the machine u that the spill access leaves. -/
theorem not_callsAndReturns : ¬ Obligations.CallsAndReturns := by
  unfold Obligations.CallsAndReturns
  intro h
  obtain ⟨q, hfires, hb, hfull, hcan, hok⟩ : ∃ q, Fires walkingCall (.call 1 0 .none) q ∧ q.b.branches = 0 ∧ 16 ≤ q.th.ras.length ∧
      ¬(q.th.regs.spc = 0xFFFFF ∨ carveBytes q.th.regs ≤ 8 * q.th.regs.spc.toNat ∧ overflowAbsent q.th.regs = true) ∧
      okB (spillAccess walkingCall q .store q.th.regs.spc.toNat (q.th.ras.headD 0)).1 (fun _ => true) = true :=
    firesP (by decide +kernel)
  obtain ⟨hcalls, -⟩ := h walkingCall q 1 0 .none hb
  obtain ⟨-, -, hspills, -⟩ := hcalls _ _ (.inl ⟨rfl, rfl⟩) hfires
  rcases hspill : spillAccess walkingCall q .store q.th.regs.spc.toNat (q.th.ras.headD 0) with ⟨r, u⟩
  rw [hspill] at hok
  cases r with
  | error f => cases hok
  | ok a =>
    obtain ⟨-, -, hexec⟩ := hspills a u hfull hcan hspill
    have htlb := tlb_walkingCall
    rw [hexec] at htlb
    exact htlb rfl

end Sys2Proof
end

section
namespace Sys2Proof

open Machine

/-! ### Operands and results as integers at an operation's width (R99) -/

/-- The value of a vector, signed or natural. -/
def num (sg : Bool) {n : Nat} (x : BitVec n) : Int := if sg then x.toInt else x.toNat

@[simp] theorem num_true {n : Nat} (x : BitVec n) : num true x = x.toInt := rfl
@[simp] theorem num_false {n : Nat} (x : BitVec n) : num false x = x.toNat := rfl

theorem pow2_eq (k : Nat) : pow2 k = 2 ^ k := Nat.one_shiftLeft k

theorem wbits_pos (w : Width) : 0 < wbits w := by cases w <;> decide

theorem wbits_le (w : Width) : wbits w ≤ 64 := by cases w <;> decide

/-- The signed value of a pattern is that of its low bits. -/
theorem sval_eq {n : Nat} (hn : 0 < n) {p : Nat} {x : BitVec n} (hx : x.toNat = p % 2 ^ n) : sval n p = x.toInt := by
  have hhalf : 2 ^ n = 2 * 2 ^ (n - 1) := (mul_pow_sub_one hn.ne' 2).symm
  simp only [sval, pow2_eq, ← hx, BitVec.toInt_eq_toNat_cond]
  split <;> split <;> omega

theorem toNat_low (w : Width) (x : W) : (low w x).toNat = x.toNat % 2 ^ wbits w := BitVec.toNat_setWidth ..

/-- An operand is the value of its low bits. -/
theorem operand_eq (sg : Bool) (w : Width) (x : W) : operand sg w x = num sg (low w x) := by
  cases sg with
  | false => simp only [operand, num_false, toNat_low, pow2_eq]; rfl
  | true => exact sval_eq (wbits_pos w) (toNat_low w x)

/-- A result is narrowed to its width and then extended. -/
theorem extend_eq (sg : Bool) (w : Width) (v : Int) : extend sg w v = widen sg (BitVec.ofInt (wbits w) v) := by
  have hwrap : wrapTo (wbits w) v = (BitVec.ofInt (wbits w) v).toNat := by rw [wrapTo, pow2_eq, BitVec.toNat_ofInt]
  cases sg with
  | false =>
    show BitVec.ofNat 64 (wrapTo (wbits w) v) = (BitVec.ofInt (wbits w) v).setWidth 64
    rw [hwrap, BitVec.ofNat_toNat]
  | true =>
    show BitVec.ofInt 64 (sval (wbits w) (wrapTo (wbits w) v)) = BitVec.ofInt 64 (BitVec.ofInt (wbits w) v).toInt
    rw [hwrap, sval_eq (wbits_pos w) (Nat.mod_eq_of_lt (BitVec.isLt _)).symm]

theorem sgOp_eq (sg : Bool) (w : Width) (f : Int → Int → Int) (l r : W) :
    sgOp sg w f l r = widen sg (BitVec.ofInt (wbits w) (f (num sg (low w l)) (num sg (low w r)))) := by
  rw [sgOp, extend_eq, operand_eq, operand_eq]

theorem natOp_eq (w : Width) (f : Int → Int → Int) (l r : W) :
    natOp w f l r = (BitVec.ofInt (wbits w) (f (low w l).toNat (low w r).toNat)).setWidth 64 := sgOp_eq false w f l r

theorem shiftBy_eq (w : Width) (r : W) : shiftBy w r = (low w r).toNat % wbits w := by rw [shiftBy, pow2_eq, toNat_low]

theorem bitOp_eq (w : Width) (f : W → W → W) (l r : W) : bitOp w f l r = (low w (f l r)).setWidth 64 := by
  rw [bitOp, pow2_eq, ← toNat_low, BitVec.ofNat_toNat]

section Values
variable {n : Nat} (sg : Bool) (a b : BitVec n)

@[simp] theorem ofInt_num : BitVec.ofInt n (num sg a) = a := by
  cases sg with
  | false => rw [num_false, BitVec.ofInt_natCast, BitVec.ofNat_toNat, BitVec.setWidth_eq]
  | true => exact BitVec.ofInt_toInt

theorem num_inj {a b : BitVec n} : num sg a = num sg b ↔ a = b :=
  ⟨fun h => by rw [← ofInt_num sg a, h, ofInt_num], fun h => by rw [h]⟩

theorem less_eq : less sg a b = decide (num sg a < num sg b) := by
  cases sg with
  | false => simp [less, BitVec.ult]
  | true => rfl

/-- The number of twice the width is the same number. -/
theorem doubled_eq : doubled sg a = BitVec.ofInt (2 * n) (num sg a) := by
  cases sg with
  | false => rw [num_false, BitVec.ofInt_natCast, BitVec.ofNat_toNat]; rfl
  | true => rfl

/-- The high half of a number of twice the width. -/
theorem extractLsb'_ofInt_high (v : Int) : (BitVec.ofInt (2 * n) v).extractLsb' n n = BitVec.ofInt n (v / (2 ^ n : Nat)) := by
  have hpos : (0 : Int) < (2 ^ n : Nat) := by exact_mod_cast Nat.two_pow_pos n
  have hsq : ((2 ^ (2 * n) : Nat) : Int) = (2 ^ n : Nat) * (2 ^ n : Nat) := by rw [two_mul, pow_add]; push_cast; rfl
  have hlow : v % ((2 ^ n : Nat) * (2 ^ n : Nat)) / (2 ^ n : Nat) % (2 ^ n : Nat) = v / (2 ^ n : Nat) % (2 ^ n : Nat) := by
    rw [Int.emod_def v, mul_assoc, Int.sub_mul_ediv_left _ _ hpos.ne', Int.sub_mul_emod_self_left]
  apply BitVec.eq_of_toNat_eq
  rw [BitVec.extractLsb'_toNat, BitVec.toNat_ofInt, BitVec.toNat_ofInt, ← hlow, hsq, Nat.shiftRight_eq_div_pow]
  obtain ⟨r, hr⟩ := Int.eq_ofNat_of_zero_le (Int.emod_nonneg v (mul_pos hpos hpos).ne')
  rw [hr]
  rfl

theorem ofInt_mulh : BitVec.ofInt n (num sg a * num sg b / (2 ^ n : Nat)) = (doubled sg a * doubled sg b).extractLsb' n n := by
  rw [doubled_eq, doubled_eq, ← BitVec.ofInt_mul, extractLsb'_ofInt_high]

theorem ofInt_tdiv : BitVec.ofInt n ((num sg a).tdiv (num sg b)) = if sg then a.sdiv b else a.udiv b := by
  cases sg with
  | false =>
    rw [num_false, num_false, ← Int.ofNat_tdiv, BitVec.ofInt_natCast]
    exact BitVec.eq_of_toNat_eq (Nat.mod_eq_of_lt ((Nat.div_le_self ..).trans_lt a.isLt))
  | true => exact BitVec.eq_of_toInt_eq (by rw [BitVec.toInt_ofInt]; exact (BitVec.toInt_sdiv a b).symm)

theorem ofInt_tmod : BitVec.ofInt n ((num sg a).tmod (num sg b)) = if sg then a.srem b else a.umod b := by
  cases sg with
  | false =>
    rw [num_false, num_false, ← Int.ofNat_tmod, BitVec.ofInt_natCast]
    exact BitVec.eq_of_toNat_eq (Nat.mod_eq_of_lt ((Nat.mod_le ..).trans_lt a.isLt))
  | true => rw [num_true, num_true, ← BitVec.toInt_srem, BitVec.ofInt_toInt]; rfl

theorem num_eq_zero : num sg a = 0 ↔ a = 0 := by
  rw [← num_inj sg]
  cases sg <;> simp

/-- The lesser of two numbers is that of the vectors that compares less. -/
theorem ofInt_min : BitVec.ofInt n (min (num sg a) (num sg b)) = if less sg a b then a else b := by
  rw [less_eq]
  split
  · rename_i h
    rw [min_eq_left (le_of_lt (of_decide_eq_true h)), ofInt_num]
  · rename_i h
    rw [min_eq_right (not_lt.mp (fun hlt => h (decide_eq_true hlt))), ofInt_num]

theorem ofInt_max : BitVec.ofInt n (max (num sg a) (num sg b)) = if less sg a b then b else a := by
  rw [less_eq]
  split
  · rename_i h
    rw [max_eq_right (le_of_lt (of_decide_eq_true h)), ofInt_num]
  · rename_i h
    rw [max_eq_left (not_lt.mp (fun hlt => h (decide_eq_true hlt))), ofInt_num]

theorem ofInt_shl (k : Nat) : BitVec.ofInt n (a.toNat * (pow2 k : Nat)) = a <<< k := by
  rw [pow2_eq, ← Int.natCast_mul, BitVec.ofInt_natCast]
  apply BitVec.eq_of_toNat_eq
  rw [BitVec.toNat_ofNat, BitVec.toNat_shiftLeft, Nat.shiftLeft_eq]

theorem ofInt_shr (k : Nat) : BitVec.ofInt n (a.toNat / (pow2 k : Nat)) = a >>> k := by
  rw [pow2_eq, ← Int.natCast_ediv, BitVec.ofInt_natCast]
  apply BitVec.eq_of_toNat_eq
  rw [BitVec.toNat_ofNat, BitVec.toNat_ushiftRight, Nat.shiftRight_eq_div_pow,
    Nat.mod_eq_of_lt ((Nat.div_le_self ..).trans_lt a.isLt)]

theorem ofInt_sra (k : Nat) : BitVec.ofInt n (a.toInt / (pow2 k : Nat)) = a.sshiftRight k := by
  rw [pow2_eq, ← Int.shiftRight_eq_div_pow, ← BitVec.toInt_sshiftRight, BitVec.ofInt_toInt]

end Values

/-! ### Division (R99, R100) -/

section Division
variable (sg : Bool) (w : Width)

/-- The quotient of the least number by −1 is the least number again, as it wraps. -/
theorem ofInt_overflow {n : Nat} (hn : 0 < n) :
    BitVec.ofInt n (-(pow2 (n - 1) : Nat)) = BitVec.ofInt n ((-(pow2 (n - 1) : Nat) : Int).tdiv (-1)) := by
  have hdouble : pow2 (n - 1) + pow2 (n - 1) = 2 ^ n := by rw [pow2_eq, ← two_mul, mul_pow_sub_one hn.ne']
  have hwraps : (-(pow2 (n - 1) : Nat) : Int) % (2 ^ n : Nat) = (pow2 (n - 1) : Nat) % (2 ^ n : Nat) := by
    rw [← Int.add_emod_right, ← hdouble, Nat.cast_add, neg_add_cancel_left]
  apply BitVec.eq_of_toNat_eq
  rw [BitVec.toNat_ofInt, BitVec.toNat_ofInt, Int.tdiv_neg, Int.tdiv_one, neg_neg, hwraps]

/-- One less than the number of values is all ones. -/
theorem ofInt_allOnes (n : Nat) : BitVec.ofInt n ((pow2 n : Nat) - 1) = BitVec.allOnes n := by
  rw [pow2_eq, ← Int.natCast_pred_of_pos (Nat.two_pow_pos n), BitVec.ofInt_natCast]
  apply BitVec.eq_of_toNat_eq
  rw [BitVec.toNat_ofNat, BitVec.toNat_allOnes, Nat.mod_eq_of_lt (Nat.sub_lt (Nat.two_pow_pos n) one_pos)]

theorem valDiv_eq (a b : BitVec (wbits w)) : BitVec.ofInt (wbits w) (valDiv sg w (num sg a) (num sg b)) =
    if b = 0 then BitVec.allOnes (wbits w) else if sg then a.sdiv b else a.udiv b := by
  rw [← ofInt_tdiv]
  simp only [valDiv, num_eq_zero]
  split
  · exact ofInt_allOnes _
  · split
    · rename_i hover
      obtain ⟨-, ha, hb⟩ := hover
      rw [ha, hb]
      exact ofInt_overflow (wbits_pos w)
    · rfl

theorem valRem_eq (a b : BitVec (wbits w)) : BitVec.ofInt (wbits w) (valRem sg w (num sg a) (num sg b)) =
    if b = 0 then a else if sg then a.srem b else a.umod b := by
  rw [← ofInt_tmod]
  simp only [valRem, num_eq_zero]
  split
  · exact ofInt_num sg a
  · split
    · rename_i hover
      obtain ⟨-, ha, hb⟩ := hover
      rw [hb, Int.tmod_neg, Int.tmod_one]
    · rw [Int.tmod_def]

theorem operand_isZero (x : W) : (operand sg w x == 0) = decide (low w x = 0) := by
  rw [operand_eq, Bool.beq_eq_decide_eq, decide_eq_decide, num_eq_zero]

end Division

/-! ### The results of the integer instructions (R99) -/

section Results
variable (sg : Bool) (w : Width) (l r : W)

theorem resAdd_eq : natOp w (fun a b => a + b) l r = (low w l + low w r).setWidth 64 := by
  rw [natOp_eq, BitVec.ofInt_add]
  simp only [← num_false, ofInt_num]

theorem resSub_eq : natOp w (fun a b => a - b) l r = (low w l - low w r).setWidth 64 := by
  rw [natOp_eq, sub_eq_add_neg, BitVec.ofInt_add, BitVec.ofInt_neg, ← BitVec.sub_eq_add_neg]
  simp only [← num_false, ofInt_num]

theorem resMul_eq : natOp w (fun a b => a * b) l r = (low w l * low w r).setWidth 64 := by
  rw [natOp_eq, BitVec.ofInt_mul]
  simp only [← num_false, ofInt_num]

theorem resMulh_eq : sgOp sg w (valMulh w) l r =
    widen sg ((doubled sg (low w l) * doubled sg (low w r)).extractLsb' (wbits w) (wbits w)) := by
  rw [sgOp_eq, valMulh, pow2_eq, ofInt_mulh]

theorem resDiv_eq : sgOp sg w (valDiv sg w) l r =
    widen sg (if low w r = 0 then BitVec.allOnes (wbits w) else if sg then (low w l).sdiv (low w r) else (low w l).udiv (low w r)) := by
  rw [sgOp_eq, valDiv_eq]

theorem resRem_eq : sgOp sg w (valRem sg w) l r =
    widen sg (if low w r = 0 then low w l else if sg then (low w l).srem (low w r) else (low w l).umod (low w r)) := by
  rw [sgOp_eq, valRem_eq]

theorem resAnd_eq : bitOp w (fun a b => a &&& b) l r = (low w l &&& low w r).setWidth 64 := by
  rw [bitOp_eq, low, BitVec.setWidth_and]; rfl

theorem resOr_eq : bitOp w (fun a b => a ||| b) l r = (low w l ||| low w r).setWidth 64 := by
  rw [bitOp_eq, low, BitVec.setWidth_or]; rfl

theorem resXor_eq : bitOp w (fun a b => a ^^^ b) l r = (low w l ^^^ low w r).setWidth 64 := by
  rw [bitOp_eq, low, BitVec.setWidth_xor]; rfl

theorem resShl_eq : resShl w l r = (low w l <<< ((low w r).toNat % wbits w)).setWidth 64 := by
  rw [resShl, extend_eq, operand_eq, num_false, ofInt_shl, shiftBy_eq]; rfl

theorem resShr_eq : resShr sg w l r = widen sg (low w l >>> ((low w r).toNat % wbits w)) := by
  rw [resShr, extend_eq, operand_eq, num_false, ofInt_shr, shiftBy_eq]

theorem resSra_eq : resSra w l r = ((low w l).sshiftRight ((low w r).toNat % wbits w)).signExtend 64 := by
  rw [resSra, extend_eq, operand_eq, num_true, ofInt_sra, shiftBy_eq]; rfl

theorem resMin_eq : sgOp sg w min l r = widen sg (if less sg (low w l) (low w r) then low w l else low w r) := by
  rw [sgOp_eq, ofInt_min]

theorem resMax_eq : sgOp sg w max l r = widen sg (if less sg (low w l) (low w r) then low w r else low w l) := by
  rw [sgOp_eq, ofInt_max]

end Results

/-- A two-operand instruction delivers r, where its function gives r. -/
theorem fireLR_result {s : State} {i : Instr} {q : Firing} {t v : Target} {f : W → W → W} {r : W} (h : Fires s i q)
    (hr : f (atL q) (atR q) = r) :
    (Host.Outcome.next (fireLR s i t v f) : Host.Outcome State Fault Refusal) = .next (delivers s q t v r) := by
  rw [fireLR_delivers f h, hr]

/-- An instruction that divides notes a zero divisor in its block (R100) and delivers its result. -/
theorem fire_divides {s : State} {i : Instr} {q : Firing} {t v : Target} {sg : Bool} {w : Width} {f : Int → Int → Int} {r : W}
    (h : Fires s i q) (hr : sgOp sg w f (atL q) (atR q) = r) :
    (Host.Outcome.next (fire s i (fun q => .done s (deliver2 { q.b with dz := q.b.dz || operand sg w (q.sl.r.getD 0) == 0 } q.k t v
      (sgOp sg w f (q.sl.l.getD 0) (q.sl.r.getD 0))))) : Host.Outcome State Fault Refusal) =
    .next (afterFiring s q (deliver2 { q.b with dz := q.b.dz || decide (low w (atR q) = 0) } q.k t v r)) := by
  rw [← operand_isZero sg w, ← hr]
  exact congrArg _ (fire_done h rfl)

/-- Settles O1: each result as an operation on the low bits of the operands (`extend_eq`, `operand_eq`). -/
theorem integerResults : Obligations.IntegerResults := by
  unfold Obligations.IntegerResults
  intro s q v t sg w p
  exact ⟨fun h => fireLR_result h (resAdd_eq ..), fun h => fireLR_result h (resSub_eq ..), fun h => fireLR_result h (resMul_eq ..),
    fun h => fireLR_result h (resMulh_eq ..), fun h => fire_divides h (resDiv_eq ..), fun h => fire_divides h (resRem_eq ..),
    fun h => fireLR_result h (resAnd_eq ..), fun h => fireLR_result h (resOr_eq ..), fun h => fireLR_result h (resXor_eq ..),
    fun h => fireLR_result h (resShl_eq ..), fun h => fireLR_result h (resShr_eq ..), fun h => fireLR_result h (resSra_eq ..),
    fun h => fireLR_result h (resMin_eq ..), fun h => fireLR_result h (resMax_eq ..)⟩

end Sys2Proof
end

section
namespace Sys2Proof

open Machine

/-! ### Fields of a format G word, whatever its targets (R72) -/

/-- The word of an instruction of format G has the fields that the encoder gave it. -/
theorem encodes_fields {i : Instr} {op : BitVec 7} {pm : BitVec 2} {xop xop' : BitVec 5} {t0 t1 : BitVec 9}
    (h : encode i = some (encG op pm xop t0 t1)) (hx : xop = xop') :
    ∃ x, encode i = some x ∧ x.extractLsb' 0 7 = op ∧ x.extractLsb' 9 5 = xop' ∧ x.extractLsb' 14 9 = t0 ∧ x.extractLsb' 23 9 = t1 ∧
      x.extractLsb' 7 2 = pm :=
  ⟨_, h, fOp_encG .., (fXop_encG ..).trans hx, fT0_encG .., fTop_encG .., fPm_encG ..⟩

/-- XOP with a width or a scale shift: zeros stand above it (R78). -/
theorem xopW_setWidth (c : BitVec 2) : (0#3 ++ c : BitVec 5) = c.setWidth 5 := by revert c; decide

/-- XOP with the signedness above the width (R78). -/
theorem xopSW_setWidth (sg : Bool) (c : BitVec 2) : (0#2 ++ ofBool sg ++ c : BitVec 5) = (ofBool sg ++ c).setWidth 5 := by
  revert sg c; decide

/-! ### Fields of a value that move (R102, R103) -/

theorem w64_field (x : W) (lo n : Nat) : w64 (field x lo n) = (x.extractLsb' lo n).setWidth 64 := BitVec.ofNat_toNat ..

/-- The bits that INS writes: those of its field (R103). -/
def insMask (x : W) : W := BitVec.ofNat 64 (((pow2 (field x 6 6 + 1) - 1) <<< field x 0 6) % pow2 64)

theorem field_pos (x : W) : field x 0 6 = x.toNat % 64 := by rw [field, BitVec.extractLsb'_toNat]; rfl

theorem field_len (x : W) : field x 6 6 = x.toNat / 64 % 64 := by
  rw [field, BitVec.extractLsb'_toNat, Nat.shiftRight_eq_div_pow]

theorem insMask_bit (x : W) {i : Nat} (hi : i < 64) :
    (insMask x).getLsbD i = decide (x.toNat % 64 ≤ i ∧ i ≤ x.toNat % 64 + x.toNat / 64 % 64) := by
  rw [insMask, BitVec.getLsbD_ofNat, pow2_eq, pow2_eq, Nat.testBit_mod_two_pow, Nat.testBit_shiftLeft, Nat.testBit_two_pow_sub_one,
    field_pos, field_len]
  simp only [hi, decide_true, Bool.true_and, ← Bool.decide_and, decide_eq_decide]
  omega

theorem resIns_eq (l r x : W) : resIns l r x = (l &&& ~~~insMask x) ||| (r <<< (x.toNat % 64) &&& insMask x) := by
  rw [← field_pos]; rfl

/-- INS: the field from POS takes the low bits of R, and the others stay (R103). -/
theorem resIns_bit (l r x : W) {i : Nat} (hi : i < 64) : (resIns l r x).getLsbD i =
    if x.toNat % 64 ≤ i ∧ i ≤ x.toNat % 64 + x.toNat / 64 % 64 then r.getLsbD (i - x.toNat % 64) else l.getLsbD i := by
  simp only [resIns_eq, BitVec.getLsbD_or, BitVec.getLsbD_and, BitVec.getLsbD_not, BitVec.getLsbD_shiftLeft, hi, decide_true,
    Bool.true_and, insMask_bit x hi]
  split
  · rename_i hin
    simp [hin]
  · rename_i hout
    simp [hout]

/-! ### Counting bits (R103) -/

/-- The low W bits as a number have the bits of the value. -/
theorem testBit_low (w : Width) (l : W) {i : Nat} (hi : i < wbits w) : (l.toNat % pow2 (wbits w)).testBit i = l.getLsbD i := by
  rw [pow2_eq, Nat.testBit_mod_two_pow, decide_eq_true hi, Bool.true_and]; rfl

/-- CLZ counts the zeros above the highest one bit of the low W bits. -/
theorem resClz_spec (w : Width) (l : W) : ∃ n, n ≤ wbits w ∧ resClz w l = BitVec.ofNat 64 n ∧
    (∀ i, wbits w - n ≤ i → i < wbits w → l.getLsbD i = false) ∧ (n < wbits w → l.getLsbD (wbits w - 1 - n) = true) := by
  refine ⟨_, ?_, rfl, ?_⟩
  · split <;> omega
  · by_cases hzero : l.toNat % pow2 (wbits w) = 0
    · simp only [hzero, if_true, lt_irrefl, false_implies, and_true]
      intro i _ hi
      rw [← testBit_low w l hi, hzero, Nat.zero_testBit]
    · have hlog : Nat.log2 (l.toNat % pow2 (wbits w)) < wbits w :=
        (Nat.log2_lt hzero).mpr (by rw [pow2_eq]; exact Nat.mod_lt _ (Nat.two_pow_pos _))
      simp only [hzero, if_false]
      refine ⟨fun i habove hi => ?_, fun _ => ?_⟩
      · rw [← testBit_low w l hi]
        exact Nat.testBit_lt_two_pow (Nat.lt_log2_self.trans_le (Nat.pow_le_pow_right two_pos (by omega)))
      · rw [show wbits w - 1 - (wbits w - 1 - Nat.log2 (l.toNat % pow2 (wbits w))) = Nat.log2 (l.toNat % pow2 (wbits w)) by omega,
          ← testBit_low w l hlog]
        exact Nat.testBit_log2 hzero

/-- Adding one for each member that satisfies p counts them. -/
theorem foldl_count {α : Type} (p : α → Bool) (l : List α) : ∀ n : Nat,
    l.foldl (fun a k => a + (if p k then 1 else 0)) n = n + (l.filter p).length := by
  induction l with
  | nil => exact fun _ => rfl
  | cons x xs ih =>
    intro n
    rw [List.foldl_cons, ih, List.filter_cons]
    split
    · rw [List.length_cons]; omega
    · rfl

/-- POPC counts the one bits of the low W bits. -/
theorem resPopc_eq (w : Width) (l : W) :
    resPopc w l = BitVec.ofNat 64 ((List.range (wbits w)).filter (fun i => l.getLsbD i)).length := by
  rw [resPopc, foldl_count (fun k => l.getLsbD k), Nat.zero_add]

/-- Settles O2: what each function does to the bits (`resIns_bit`, `resClz_spec`, `resPopc_eq`), and the fields of format G. -/
theorem bitFieldResults : Obligations.BitFieldResults := by
  unfold Obligations.BitFieldResults
  intro s q v t sh w p
  refine ⟨fun h => ?ext, fun h => ?ins, fun h => fireLR_result h rfl, fun h => fireLR_result h rfl, fun h => ?clz,
    fun h => fireLR_result h (resPopc_eq ..), fun h => fireLR_result h rfl, ?words⟩
  case ext => 
    rw [← w64_field, ← w64_field]
    exact congrArg _ (fire_done h rfl)
  case ins =>
    refine ⟨resIns (atL q) (atR q) (atX q), congrArg _ (fire_done h rfl), fun i hi => resIns_bit _ _ _ hi⟩
  case clz =>
    obtain ⟨n, hn, hres, hzeros, hone⟩ := resClz_spec w (atL q)
    exact ⟨n, hn, fireLR_result h hres, hzeros, hone⟩
  case words =>
    simp only [List.forall_mem_cons]
    exact ⟨encodes_fields rfl rfl, encodes_fields rfl (xopW_setWidth sh), encodes_fields rfl (xopW_setWidth _),
      encodes_fields rfl (xopW_setWidth _), encodes_fields rfl rfl, encodes_fields rfl rfl, encodes_fields rfl rfl, fun _ h => by cases h⟩

/-! ### Compares and predicates (R104, R105) -/

/-- 1 for what holds, 0 for what does not. -/
theorem bool64_eq {b : Bool} {c : Prop} [Decidable c] (h : b = true ↔ c) : bool64 b = if c then 1 else 0 := by
  simp only [bool64, h]

/-- 1 for what does not hold, 0 for what does. -/
theorem bool64_not {b : Bool} {c : Prop} [Decidable c] (h : b = true ↔ ¬ c) : bool64 b = if c then 0 else 1 := by
  rw [bool64_eq h, ite_not]

section Compares
variable (sg : Bool) (w : Width) (l r : W)

theorem operand_inj : operand sg w l = operand sg w r ↔ low w l = low w r := by rw [operand_eq, operand_eq, num_inj]

theorem operand_lt : operand sg w l < operand sg w r ↔ less sg (low w l) (low w r) = true := by
  rw [operand_eq, operand_eq, less_eq, decide_eq_true_iff]

/-- The bits that L and R have in common at width W, as TST asks for them. -/
theorem bitOp_and_ne_zero : (bitOp w (fun a b => a &&& b) l r != 0) = true ↔ ¬ low w l &&& low w r = 0 := by
  rw [bne_iff_ne, ne_eq, resAnd_eq, not_iff_not]
  constructor
  · intro h
    have hback := congrArg (BitVec.setWidth (wbits w)) h
    rw [BitVec.setWidth_setWidth_of_le _ (wbits_le w), BitVec.setWidth_eq] at hback
    exact hback.trans (BitVec.setWidth_zero ..)
  · intro h
    rw [h]
    exact BitVec.setWidth_zero ..

end Compares

/-- Settles O3: each compare is one of the low bits of the operands (`operand_inj`, `operand_lt`), and the fields of format G. -/
theorem compareAndSelectResults : Obligations.CompareAndSelectResults := by
  unfold Obligations.CompareAndSelectResults
  intro s q v t sg w p
  refine ⟨fun h => fireLR_result h (bool64_eq ?eq), fun h => fireLR_result h (bool64_not ?ne), fun h => fireLR_result h (bool64_eq ?lt),
    fun h => fireLR_result h (bool64_not ?le), fun h => fireLR_result h (bool64_not ?tst), fun h => fireLR_result h (bool64_eq ?pand),
    fun h => fireLR_result h (bool64_eq ?por), fun h => fireLR_result h (bool64_not ?pnot), fun h => congrArg _ (fire_done h rfl),
    ?words, by decide⟩
  case eq => exact beq_iff_eq.trans (operand_inj ..)
  case ne => exact bne_iff_ne.trans (not_congr (operand_inj ..))
  case lt => exact decide_eq_true_iff.trans (operand_lt ..)
  case le => exact decide_eq_true_iff.trans (not_lt.symm.trans (not_congr (operand_lt ..)))
  case tst => exact bitOp_and_ne_zero ..
  case pand => exact Bool.and_eq_true_iff
  case por => exact Bool.or_eq_true_iff
  case pnot => rw [Bool.not_eq_true', Bool.not_eq_true]
  case words =>
    simp only [List.forall_mem_cons]
    exact ⟨encodes_fields rfl (xopW_setWidth _), encodes_fields rfl (xopW_setWidth _), encodes_fields rfl (xopSW_setWidth ..),
      encodes_fields rfl (xopSW_setWidth ..), encodes_fields rfl (xopW_setWidth _), encodes_fields rfl rfl, encodes_fields rfl rfl,
      encodes_fields rfl rfl, encodes_fields rfl rfl, fun _ h => by cases h⟩

/-! ### Immediates (R101) -/

/-- A one-operand instruction delivers r, where its function gives r. -/
theorem fireL_result {s : State} {i : Instr} {q : Firing} {t : Target} {f : W → W} {r : W} (h : Fires s i q) (hr : f (atL q) = r) :
    (Host.Outcome.next (fireL s i t f) : Host.Outcome State Fault Refusal) = .next (delivers1 s q t r) := by
  rw [fireL_delivers f h, hr]

theorem toInt_simm (im : BitVec 14) : (simm im).toInt = im.toInt := BitVec.toInt_signExtend_of_le (by decide)

/-- MOVHI: the immediate stands below the low 50 bits of L. -/
theorem movhi_eq (l : W) (im : BitVec 14) : (l <<< 14) ||| BitVec.zeroExtend 64 im = l.extractLsb' 0 50 ++ im := by
  apply BitVec.eq_of_getLsbD_eq
  intro i hi
  rw [BitVec.getLsbD_or, BitVec.getLsbD_shiftLeft, BitVec.getLsbD_setWidth, BitVec.getLsbD_append, BitVec.getLsbD_extractLsb']
  split
  · rename_i hlow
    simp [hi, hlow]
  · rename_i hhigh
    simp [hi, hhigh, show i - 14 < 50 by omega, BitVec.getLsbD_of_ge im i (by omega)]

/-- A shift by 64 or more is no instruction. -/
theorem decode_shift_refused {op : BitVec 7} {pm : BitVec 2} {im : BitVec 14} {t0 : BitVec 9} (hop : op = 0x15 ∨ op = 0x16 ∨ op = 0x17)
    (him : 64 ≤ im.toNat) : ∃ r, decode (encI op pm im t0) = .error r := by
  have hbad : ¬ shiftImmOk (fImm14 (encI op pm im t0)) = true := by
    rw [fImm14_encI, shiftImmOk, decide_eq_true_iff]
    exact not_lt.mpr him
  obtain rfl | rfl | rfl := hop
  · exact ⟨.badImmediate, (decode_15 (fOp_encI ..)).trans (if_neg hbad)⟩
  · exact ⟨.badImmediate, (decode_16 (fOp_encI ..)).trans (if_neg hbad)⟩
  · exact ⟨.badImmediate, (decode_17 (fOp_encI ..)).trans (if_neg hbad)⟩

/-- The word of an instruction of format I has the fields that the encoder gave it, and a shift by 64 or more is refused. -/
theorem encodes_immediate {i : Instr} {op : BitVec 7} {pm : BitVec 2} {im : BitVec 14} {t0 : BitVec 9}
    (h : encode i = some (encI op pm im t0)) :
    ∃ x, encode i = some x ∧ x.extractLsb' 0 7 = op ∧ x.extractLsb' 7 2 = pm ∧ x.extractLsb' 9 14 = im ∧ x.extractLsb' 23 9 = t0 ∧
      (op = 0x15 ∨ op = 0x16 ∨ op = 0x17 → 64 ≤ im.toNat → ∃ r, decode x = .error r) :=
  ⟨_, h, fOp_encI .., fPm_encI .., fImm14_encI .., fTop_encI .., decode_shift_refused⟩

/-- Settles O4: each immediate is `simm`, and the fields of format I. -/
theorem immediateResults : Obligations.ImmediateResults := by
  unfold Obligations.ImmediateResults
  intro s q t im p
  refine ⟨fun h => fireL_result h rfl, fun h => fireL_result h rfl, fun h => fireL_result h rfl, fun h => fireL_result h rfl,
    fun h => fireL_result h rfl, fun h _ => fireL_result h rfl, fun h _ => fireL_result h rfl, fun h _ => fireL_result h rfl,
    fun h => fireL_result h rfl, fun h => fireL_result h (movhi_eq ..), fun h => fireL_result h (bool64_eq ?eq),
    fun h => fireL_result h (bool64_not ?ne), fun h => fireL_result h (bool64_eq ?lt), fun h => fireL_result h (bool64_eq ?le), ?words⟩
  case eq => exact beq_iff_eq
  case ne => exact bne_iff_ne
  case lt => rw [← toInt_simm]; exact BitVec.slt_iff_toInt_lt
  case le => rw [← toInt_simm]; exact BitVec.sle_iff_toInt_le
  case words =>
    intro e he
    refine encodes_immediate ?_
    revert e
    simp only [List.forall_mem_cons]
    exact ⟨rfl, rfl, rfl, rfl, rfl, rfl, rfl, rfl, rfl, rfl, rfl, rfl, rfl, rfl, fun _ h => by cases h⟩

end Sys2Proof
end

section
namespace Sys2Proof

open Machine

/-! ### Folds that leave something alone -/

/-- A fold over members that change nothing changes nothing. -/
theorem foldl_fixed_of_mem {α β : Type} {f : β → α → β} {l : List α} (h : ∀ b, ∀ x ∈ l, f b x = b) (b : β) : l.foldl f b = b :=
  List.foldlRecOn l f (motive := fun c => c = b) rfl (fun c hc x hx => (h c x hx).trans hc)

/-- What every step of a fold leaves alone, the fold leaves alone. -/
theorem foldl_keeps {α β γ : Type} {f : β → α → β} (g : β → γ) (h : ∀ b x, g (f b x) = g b) (l : List α) (b : β) :
    g (l.foldl f b) = g b :=
  List.foldlRecOn l f (motive := fun c => g c = g b) rfl (fun c hc x _ => (h c x).trans hc)

/-! ### What the accesses of a block leave alone (R122, R396, R397) -/

theorem keepsUnits_dropOrder (s : State) (a : Nat) : KeepsUnits s (dropOrder s a) := keepsUnits_updCtx ..

theorem keepsUnits_orderLog (s : State) (a die pts kind : Nat) (ws : List W) : KeepsUnits s (orderLog s a die pts kind ws) := by
  simp only [orderLog]
  split
  · exact .refl s
  · split
    · exact (keepsUnits_logRec ..).trans (keepsUnits_updCtx ..)
    · exact .refl s

theorem keepsUnits_orderRec (s : State) (a die pts kind : Nat) (ws : List W) : KeepsUnits s (orderRec s a die pts kind ws) := by
  refine KeepsUnits.trans ?_ (keepsUnits_orderLog ..)
  split
  · exact keepsUnits_dropOrder s a
  · exact .refl s

theorem keepsUnits_noteForeign (s : State) (m : Memory) (a die pts : Nat) (unit : W) (spans : List (Nat × Nat)) :
    KeepsUnits s (noteForeign s m a die pts unit spans) := by
  unfold noteForeign
  split
  · refine .foldl (fun st k => ?_) _ s
    split
    · exact keepsUnits_orderRec ..
    · exact .refl st
  · exact .foldl (fun _ _ => keepsUnits_orderLog ..) _ s

theorem keepsUnits_undoRecs (s : State) (a p n : Nat) : KeepsUnits s (undoRecs s a p n) := by
  unfold undoRecs
  split
  · exact .refl s
  · split
    · refine .foldl (fun st k => ?_) _ s
      split
      · exact .refl st
      · split
        · exact .refl st
        · exact (keepsUnits_logRec ..).trans (keepsUnits_updCtx ..)
    · exact .refl s

theorem sramWritten_threads (s : State) (v : Bool) (a n : Nat) : (sramWritten s v a n).threads = s.threads := by
  unfold sramWritten
  split <;> rfl

theorem putEvent_threads (s : State) (asid ts : Nat) (trk : Option Sig) (packed : Bool) (a : Nat) (bs : List Byte) :
    (putEvent s asid ts trk packed a bs).threads = s.threads := by
  have hwritten : (sramWritten (undoRecs s asid a bs.length) packed a bs.length).threads = s.threads :=
    (sramWritten_threads ..).trans (keepsUnits_undoRecs ..).threads
  cases trk <;> exact hwritten

/-- A write of a local place as an event, or the machine as it is where the write cannot be encoded: the threads stay. -/
theorem locEvent_threads (s : State) (asid ts : Nat) (trk : Option Sig) (packed : Bool) (l : Loc) (bs : List Byte) :
    ((locEvent s asid ts trk packed l bs).getD s).threads = s.threads := by
  have hspans (spans : List (Nat × Nat)) : (spans.foldl (fun st p => undoRecs st asid p.1 p.2) s).threads = s.threads :=
    foldl_keeps State.threads (fun _ _ => (keepsUnits_undoRecs ..).threads) spans s
  have hstamps (spans : List (Nat × Nat)) (u : State) : (spans.foldl (fun st p =>
      { st with mem := (st.mem.unpoison p.1 p.2).stamped ts p.1 p.2 }) u).threads = u.threads :=
    foldl_keeps State.threads (by intros; rfl) spans u
  have htrack (g : Sig) (spans : List (Nat × Nat)) (u : State) :
      (spans.foldl (fun st p => trackLines st g p.1 p.2) u).threads = u.threads :=
    foldl_keeps State.threads (by intros; rfl) spans u
  cases l with
  | mem a => exact putEvent_threads ..
  | view | peer | host | aper =>
    simp only [locEvent]
    split
    · rfl
    · cases trk with
      | none => exact (hstamps _ _).trans (hspans _)
      | some g => exact (htrack g _ _).trans ((hstamps _ _).trans (hspans _))

/-- Thread t is in u as in s but for its label. -/
structure RelabelsThread (t : Nat) (s u : State) : Prop where
  relabels : ∀ x, aget s.threads t = some x → ∃ l, aget u.threads t = some { x with label := l }

theorem RelabelsThread.of_threads {t : Nat} {s u : State} (h : u.threads = s.threads) : RelabelsThread t s u :=
  ⟨fun x hx => ⟨x.label, by rw [h, hx]⟩⟩

theorem RelabelsThread.refl (t : Nat) (s : State) : RelabelsThread t s s := .of_threads rfl

theorem RelabelsThread.trans {t : Nat} {s u v : State} (h : RelabelsThread t s u) (g : RelabelsThread t u v) : RelabelsThread t s v := by
  refine ⟨fun x hx => ?_⟩
  obtain ⟨l, hl⟩ := h.relabels x hx
  exact g.relabels { x with label := l } hl

theorem RelabelsThread.foldl {α : Type} {t : Nat} {f : State → α → State} (h : ∀ s x, RelabelsThread t s (f s x)) (l : List α) (s : State) :
    RelabelsThread t s (l.foldl f s) :=
  List.foldlRecOn l f (.refl t s) (fun _ hs x _ => hs.trans (h _ x))

theorem relabelsThread_mergeThread (s : State) (t : Nat) (g : Sig) : RelabelsThread t s (mergeThread s t g) :=
  ⟨fun x hx => ⟨_, by rw [mergeThread, updThread_same, hx]; rfl⟩⟩

theorem heat_threads (s : State) (a cl p : Nat) : (heat s a cl p).threads = s.threads := by
  unfold heat
  split <;> rfl

/-- An access of a block in its event changes no more of its thread than the label (R316). -/
theorem relabelsThread_performAccess (s : State) (t : Nat) (th : Thread) (ts : Nat) (a : Access) :
    RelabelsThread t s (performAccess s t th ts a) := by
  unfold performAccess
  extract_lets asid trk spans g noted merged write
  have hnoted (m : Memory) : RelabelsThread t s { noted with mem := m } := .of_threads (keepsUnits_noteForeign ..).threads
  have hmerged (st : State) : RelabelsThread t st (merged st) := by
    unfold merged
    split
    · exact .foldl (fun _ _ => relabelsThread_mergeThread ..) _ st
    · exact .refl t st
  have hwritten (st : State) (bs : List Byte) : RelabelsThread t st (write st bs) := .of_threads (locEvent_threads ..)
  split
  · exact (hnoted _).trans (hmerged _)
  · exact hwritten ..
  · have hatomic (bs : List Byte) : RelabelsThread t s (write (merged noted) bs) :=
      ((hnoted noted.mem).trans (hmerged noted)).trans (hwritten ..)
    split
    · exact (hatomic _).trans (.of_threads (heat_threads ..))
    · exact hatomic _

theorem relabelsThread_performAll (s : State) (t : Nat) (th : Thread) (ts : Nat) (b : Block) : RelabelsThread t s (performAll s t th ts b) :=
  (RelabelsThread.foldl (fun _ _ => relabelsThread_performAccess ..) (eventAccs b) s).trans (.of_threads rfl)

end Sys2Proof
end

section
namespace Sys2Proof

open Machine

/-! ### Register effects of a commit (R106, R107, R110, R111) -/

/-- Block b lets its MRD or MWAIT clear mailbox n: no write has landed since the snapshot, and no MWR of the block prevails (R107, R111). -/
def clears (b : Block) (n : BitVec 4) : Bool :=
  !(b.landed.getLsbD n.toNat || b.effs.any (fun e => match e with
    | .mwr m _ => m == n
    | _ => false))

/-- A mailbox that the block writes is not cleared. -/
theorem clears_mwr {b : Block} {n : BitVec 4} {v : W} (h : Eff.mwr n v ∈ b.effs) : clears b n = false := by
  unfold clears
  rw [Bool.not_eq_false', Bool.or_eq_true, List.any_eq_true]
  exact .inr ⟨_, h, beq_self_eq_true n⟩

theorem clears_of_no_mwr {b : Block} {n : BitVec 4} (hlanded : b.landed.getLsbD n.toNat = false) (hno : ∀ v, Eff.mwr n v ∉ b.effs) :
    clears b n = true := by
  unfold clears
  rw [Bool.not_eq_true', Bool.or_eq_false_iff, List.any_eq_false]
  refine ⟨hlanded, fun e he hm => ?_⟩
  cases e with
  | mwr m v => exact hno v (beq_iff_eq.mp hm ▸ he)
  | _ => cases hm

/-- The full bit of mailbox n after the register effects of a block. -/
def fullAfter (b : Block) (l : List (Nat × Eff)) (n : BitVec 4) (old : Bool) : Bool :=
  l.foldl (fun v e => match e.2 with
    | .mwr m _ => if m = n then true else v
    | .mclr m => if m = n ∧ clears b n = true then false else v
    | _ => v) old

/-- Thread y is thread x once the register effects l of block b have been applied. -/
structure WroteRegisters (b : Block) (l : List (Nat × Eff)) (x y : Thread) : Prop where
  rest : ∃ gs ms f g, y = { x with gs := gs, ms := ms, mfull := f, mbSig := g }
  globals : ∀ n : BitVec 6, y.gs.get ⟨n.toNat, n.isLt⟩ = gwrValue l n (x.gs.get ⟨n.toNat, n.isLt⟩)
  mailboxes : ∀ n : BitVec 4, y.ms.get ⟨n.toNat, n.isLt⟩ = mwrValue l n (x.ms.get ⟨n.toNat, n.isLt⟩)
  full : ∀ n : BitVec 4, y.mfull.getLsbD n.toNat = fullAfter b l n (x.mfull.getLsbD n.toNat)

theorem WroteRegisters.nil (b : Block) (x : Thread) : WroteRegisters b [] x x :=
  ⟨⟨x.gs, x.ms, x.mfull, x.mbSig, rfl⟩, fun _ => rfl, fun _ => rfl, fun _ => rfl⟩

/-- The first effect, then the others. -/
theorem WroteRegisters.cons {b : Block} {e : Nat × Eff} {l : List (Nat × Eff)} {x y z : Thread} (h : WroteRegisters b [e] x y)
    (g : WroteRegisters b l y z) : WroteRegisters b (e :: l) x z := by
  obtain ⟨gs, ms, f, m, rfl⟩ := h.rest
  obtain ⟨gs', ms', f', m', rfl⟩ := g.rest
  exact ⟨⟨gs', ms', f', m', rfl⟩, fun n => (g.globals n).trans (congrArg _ (h.globals n)),
    fun n => (g.mailboxes n).trans (congrArg _ (h.mailboxes n)), fun n => (g.full n).trans (congrArg _ (h.full n))⟩

/-- A vector after one of its places has been set. -/
theorem get_set_bitVec {k m : Nat} (v : Vector W m) (i n : BitVec k) (x : W) (hi : i.toNat < m) (hn : n.toNat < m) :
    (v.set i.toNat x hi).get ⟨n.toNat, hn⟩ = if i = n then x else v.get ⟨n.toNat, hn⟩ := by
  simp only [Vector.get_eq_getElem, Vector.getElem_set, BitVec.toNat_eq]

/-- The bit of a mailbox in a word of mailboxes. -/
theorem mailBit_getLsbD (m n : BitVec 4) : (BitVec.ofNat 16 (pow2 m.toNat)).getLsbD n.toNat = decide (m = n) := by
  revert m n; decide

section Step
variable {s : State} {t : Nat} {x : Thread} (k : Nat) (b : Block)

theorem commitEff_gwr (ts : Nat) (n : BitVec 6) (v : W) (hx : aget s.threads t = some x) :
    ∃ y, aget (commitEff s t ts b (.gwr n v)).threads t = some y ∧ WroteRegisters b [(k, .gwr n v)] x y := by
  refine ⟨_, (updThread_same ..).trans (congrArg _ hx), ⟨_, _, _, _, rfl⟩, fun m => ?_,
    fun _ => rfl, fun _ => rfl⟩
  exact get_set_bitVec x.gs n m v n.isLt m.isLt

theorem commitEff_mwr (ts : Nat) (n : BitVec 4) (v : W) (hx : aget s.threads t = some x) :
    ∃ y, aget (commitEff s t ts b (.mwr n v)).threads t = some y ∧ WroteRegisters b [(k, .mwr n v)] x y := by
  refine ⟨_, (updThread_same ..).trans (congrArg _ hx), ⟨_, _, _, _, rfl⟩, fun _ => rfl, fun m => ?_, fun m => ?_⟩
  · exact get_set_bitVec x.ms n m v n.isLt m.isLt
  · show (x.mfull ||| BitVec.ofNat 16 (pow2 n.toNat)).getLsbD m.toNat = if n = m then true else x.mfull.getLsbD m.toNat
    rw [BitVec.getLsbD_or, mailBit_getLsbD]
    split <;> simp [*]

theorem commitEff_mclr (ts : Nat) (n : BitVec 4) (hx : aget s.threads t = some x) :
    ∃ y, aget (commitEff s t ts b (.mclr n)).threads t = some y ∧ WroteRegisters b [(k, .mclr n)] x y := by
  cases hclears : clears b n with
  | false =>
    have hkept : commitEff s t ts b (.mclr n) = s := if_pos (Bool.not_inj (y := true) hclears)
    refine ⟨x, by rw [hkept, hx], ⟨x.gs, x.ms, x.mfull, x.mbSig, rfl⟩, fun _ => rfl, fun _ => rfl, fun m => ?_⟩
    show x.mfull.getLsbD m.toNat = if n = m ∧ clears b m = true then false else x.mfull.getLsbD m.toNat
    rw [if_neg]
    rintro ⟨rfl, hm⟩
    rw [hclears] at hm
    cases hm
  | true =>
    have hcleared : commitEff s t ts b (.mclr n) = updThread s t (fun th => { th with
        mfull := th.mfull &&& ~~~(BitVec.ofNat 16 (pow2 n.toNat)), mbSig := th.mbSig.filter (fun e => e.1 != n.toNat) }) :=
      if_neg (ne_true_of_eq_false (Bool.not_inj (y := false) hclears))
    rw [hcleared]
    refine ⟨_, (updThread_same ..).trans (congrArg _ hx), ⟨_, _, _, _, rfl⟩, fun _ => rfl, fun _ => rfl, fun m => ?_⟩
    show (x.mfull &&& ~~~BitVec.ofNat 16 (pow2 n.toNat)).getLsbD m.toNat =
      if n = m ∧ clears b m = true then false else x.mfull.getLsbD m.toNat
    rw [BitVec.getLsbD_and, BitVec.getLsbD_not, mailBit_getLsbD, decide_eq_true (show m.toNat < 16 from m.isLt)]
    by_cases hm : n = m
    · subst hm
      simp [hclears]
    · simp [hm]

end Step

/-- The register effects of a block, each applied to what the one before left. -/
theorem foldl_commitEff {t ts : Nat} {b : Block} (l : List (Nat × Eff)) (hl : ∀ e ∈ l, registerEff e.2 = true) :
    ∀ {s : State} {x : Thread}, aget s.threads t = some x →
      ∃ y, aget (l.foldl (fun st e => commitEff st t ts b e.2) s).threads t = some y ∧ WroteRegisters b l x y := by
  induction l with
  | nil => exact fun {_ x} hx => ⟨x, hx, .nil b x⟩
  | cons e l ih =>
    intro s x hx
    obtain ⟨y, hy, hfirst⟩ : ∃ y, aget (commitEff s t ts b e.2).threads t = some y ∧ WroteRegisters b [e] x y := by
      have hreg := hl e (.head _)
      obtain ⟨k, eff⟩ := e
      cases eff with
      | gwr n v => exact commitEff_gwr k b ts n v hx
      | mwr n v => exact commitEff_mwr k b ts n v hx
      | mclr n => exact commitEff_mclr k b ts n hx
      | _ => cases hreg
    obtain ⟨z, hz, hrest⟩ := ih (fun e he => hl e (.tail _ he)) hy
    exact ⟨z, hz, hfirst.cons hrest⟩

/-! ### The full bit of a mailbox after a block (R107, R111) -/

section Full
variable {b : Block} {n : BitVec 4} (l : List (Nat × Eff))

/-- Nothing clears the mailbox of an MWR of the block. -/
theorem fullAfter_mwr (hclears : clears b n = false) :
    ∀ old, (old = true ∨ ∃ e ∈ l, ∃ v, e.2 = .mwr n v) → fullAfter b l n old = true := by
  induction l with
  | nil =>
    rintro old (hold | ⟨e, he, -⟩)
    · exact hold
    · cases he
  | cons e l ih =>
    rintro old hfull
    refine ih _ ?_
    obtain hold | ⟨d, hd, v, hv⟩ := hfull
    · left
      obtain ⟨k, eff⟩ := e
      cases eff with
      | mwr m v => exact ite_eq_left_iff.mpr (fun _ => hold)
      | mclr m => exact (if_neg (by simp [hclears])).trans hold
      | _ => exact hold
    · obtain rfl | hd := List.mem_cons.mp hd
      · exact .inl (by simp [hv])
      · exact .inr ⟨d, hd, v, hv⟩

/-- An MRD or MWAIT clears its mailbox where nothing of the block writes it. -/
theorem fullAfter_mclr (hclears : clears b n = true) (hno : ∀ e ∈ l, ∀ v, e.2 ≠ .mwr n v) :
    ∀ old, (old = false ∨ ∃ e ∈ l, e.2 = .mclr n) → fullAfter b l n old = false := by
  induction l with
  | nil =>
    rintro old (hold | ⟨e, he, -⟩)
    · exact hold
    · cases he
  | cons e l ih =>
    rintro old hempty
    refine ih (fun d hd => hno d (.tail _ hd)) _ ?_
    obtain hold | ⟨d, hd, hclr⟩ := hempty
    · left
      have hfirst := hno e (.head _)
      obtain ⟨k, eff⟩ := e
      cases eff with
      | mwr m v => exact (if_neg (fun hm => hfirst v (congrArg (Eff.mwr · v) hm))).trans hold
      | mclr m => exact ite_eq_left_iff.mpr (fun _ => hold)
      | _ => exact hold
    · obtain rfl | hd := List.mem_cons.mp hd
      · exact .inl (by simp [hclr, hclears])
      · exact .inr ⟨d, hd, hclr⟩

/-- A mailbox that no effect names keeps its full bit. -/
theorem fullAfter_other (hno : ∀ e ∈ l, e.2 ≠ .mclr n ∧ ∀ v, e.2 ≠ .mwr n v) (old : Bool) : fullAfter b l n old = old := by
  refine foldl_fixed_of_mem (fun v e he => ?_) old
  obtain ⟨hclr, hmwr⟩ := hno e he
  split
  · rename_i m x heff
    rw [if_neg]
    rintro rfl
    exact hmwr x heff
  · rename_i m heff
    rw [if_neg]
    rintro ⟨rfl, -⟩
    exact hclr heff
  · rfl

end Full

end Sys2Proof
end

section
namespace Sys2Proof

open Machine

/-! ### BLOCK_COMMIT of a block that is complete (R76, R109, R110) -/

theorem blockCommit_completes {s : State} {t : Nat} {th : Thread} {b : Block} (h : Completes s t th b) :
    exec (.blockCommit t) s = .next (finishBlock s t th b) := by
  obtain ⟨hth, hb, hmode, hruns, hcomplete, hholds, hrecorded, -⟩ := h
  change execBlockCommit t s = _
  simp only [execBlockCommit, hth, hb, hmode, hruns, hcomplete, hholds, hrecorded, ne_eq, not_true_eq_false, Bool.true_eq_false,
    Bool.false_eq_true, or_self, if_false]

theorem finishBlock_commits {s : State} {t : Nat} {th : Thread} {b : Block} {c : Choice} (h : Commits s t th b c)
    (hsoft : softOf b = none) : finishBlock s t th b = commitBlock s t th b c := by
  obtain ⟨-, hclean, hfilled, hbranch, hgates⟩ := h
  simp only [finishBlock, hclean, hfilled, hbranch, hgates, hsoft, Option.isSome_none, Bool.false_and, Bool.false_eq_true, if_false]

/-! ### A block whose effects are register effects alone -/

/-- The effects in slot order are effects of the block. -/
theorem mem_slotEffs {b : Block} {e : Nat × Eff} (h : e ∈ slotEffs b) : e.2 ∈ b.effs := by
  obtain ⟨k, -, hk⟩ := List.mem_flatMap.mp h
  exact (List.of_mem_zip (List.mem_of_mem_filter hk)).2

/-- The effects as they are applied are those in slot order, in another order. -/
theorem mem_orderedEffs {b : Block} {e : Nat × Eff} (h : e ∈ orderedEffs b) : e ∈ slotEffs b := by
  obtain h | h := List.mem_append.mp h
  · exact List.mem_of_mem_filter h
  · obtain ⟨l, -, hl⟩ := List.mem_flatMap.mp h
    exact List.mem_of_mem_filter hl

section Registers
variable {b : Block} (hreg : ∀ e ∈ slotEffs b, registerEff e.2 = true)
include hreg

theorem softOf_registers : softOf b = none := by
  refine List.findSome?_eq_none_iff.mpr (fun e he => ?_)
  have := hreg e he
  split
  · rename_i heff
    rw [heff] at this
    cases this
  · rfl

theorem remoteStores_registers : remoteStores b = [] := by
  refine List.flatMap_eq_nil_iff.mpr (fun l _ => List.filterMap_eq_nil_iff.mpr (fun e he => ?_))
  have := hreg e he
  split
  · rename_i heff
    rw [heff] at this
    cases this
  · rfl

/-- Nothing follows the commit event of register effects. -/
theorem afterEvent_registers (s : State) (t ts : Nat) (places : List (Except Flt Target0)) : afterEvent s t ts b places = s := by
  have hstart (st : State) (e : Nat × Eff) (he : e ∈ orderedEffs b) : startEff st t b e = st := by
    have := hreg e (mem_orderedEffs he)
    obtain ⟨k, eff⟩ := e
    cases eff with
    | gwr | mwr | mclr => rfl
    | _ => cases this
  have hpulse (st : State) (e : Nat × Eff) (he : e ∈ slotEffs b) : pulseEff st t e = st := by
    have := hreg e he
    obtain ⟨k, eff⟩ := e
    cases eff with
    | gwr | mwr | mclr => rfl
    | _ => cases this
  have hafter (st : State) (e : Nat × Eff) (he : e ∈ slotEffs b) : afterEff st t ts b e = st := by
    have := hreg e he
    obtain ⟨k, eff⟩ := e
    cases eff with
    | gwr | mwr | mclr => rfl
    | _ => cases this
  simp only [afterEvent, remoteStores_registers hreg, List.zip_nil_left, List.foldl_nil]
  rw [foldl_fixed_of_mem hstart, foldl_fixed_of_mem hpulse, foldl_fixed_of_mem hafter]

/-- What its thread does after the commit. -/
theorem afterOf_registers (c : Choice) : afterOf b c = if (nextBlock c).isNone then .halt else .next := by
  simp only [afterOf, softOf_registers hreg]

/-- The machine after such a commit: the commit event, then the next block or the halt. -/
theorem blockCommit_registers {s : State} {t : Nat} {th : Thread} {c : Choice} (h : Commits s t th b c) :
    exec (.blockCommit t) s = .next (goOn (commitEvent (threadRegions s t) t th b c (eventTs s (asidOf th) th.pts b)) t
      (if (nextBlock c).isNone then .halt else .next)) := by
  rw [blockCommit_completes h.toCompletes, finishBlock_commits h (softOf_registers hreg)]
  simp only [commitBlock, afterEvent_registers hreg, afterOf_registers hreg]

end Registers

/-! ### The thread of a commit -/

theorem threadRegion_threads (s : State) (t e : Nat) : (threadRegion s t e).threads = s.threads := by
  unfold threadRegion
  split
  · rfl
  · simp only [updCtx_threads, (keepsUnits_logRec ..).threads]

theorem threadRegions_threads (s : State) (t : Nat) : (threadRegions s t).threads = s.threads := by
  unfold threadRegions
  split
  · rfl
  · exact foldl_keeps State.threads (fun _ _ => threadRegion_threads ..) _ s

/-- A thread with the flags of its block (R48). -/
def flagged (x : Thread) (b : Block) : Thread := if b.dz then { x with regs := commitTflag x.regs 2 } else x

/-- A thread after the branch of its block (R114, R348). -/
def afterBranch (x : Thread) (b : Block) (c : Choice) : Thread :=
  let y := { rasAfter x b c with pc := (nextBlock c).getD b.addr, block := none, exit := exitOf b, seq := none }
  match c with
  | .tret a => { y with regs := tretRegs y.regs b.regs, brkSkip := some a }
  | _ => y

theorem blockFlags_thread {s : State} {t : Nat} {x : Thread} (b : Block) (hx : aget s.threads t = some x) :
    aget (blockFlags s t b).threads t = some (flagged x b) := by
  unfold blockFlags flagged
  split
  · exact (updThread_same ..).trans (congrArg _ hx)
  · exact hx

theorem branchCommit_thread {s : State} {t : Nat} {x : Thread} (b : Block) (c : Choice) (hx : aget s.threads t = some x) :
    aget (branchCommit s t b c).threads t = some (afterBranch x b c) := by
  refine (updThread_same ..).trans (.trans (congrArg _ hx) ?_)
  cases c <;> rfl

/-- The thread after the commit event: its label and pts have changed, and it has the block's register effects, flags and branch. -/
theorem commitEvent_thread {s : State} {t : Nat} {th : Thread} {b : Block} (c : Choice) (ts : Nat) (hth : aget s.threads t = some th)
    (hreg : ∀ e ∈ slotEffs b, registerEff e.2 = true) :
    ∃ l x, WroteRegisters b (slotEffs b) { th with label := l, pts := ts } x ∧
      aget (commitEvent s t th b c ts).threads t = some (afterBranch (flagged x b) b c) := by
  obtain ⟨l, hperformed⟩ := (relabelsThread_performAll s t th ts b).relabels th hth
  have hpts : aget (updThread (performAll s t th ts b) t (fun x => { x with pts := ts })).threads t =
      some { th with label := l, pts := ts } := (updThread_same ..).trans (congrArg _ hperformed)
  obtain ⟨x, hx, hwrote⟩ := foldl_commitEff (ts := ts) (slotEffs b) hreg hpts
  refine ⟨l, x, hwrote, ?_⟩
  simp only [commitEvent, (keepsUnits_pmcAdd ..).threads]
  exact branchCommit_thread b c (blockFlags_thread b hx)

/-! ### What follows the commit event (R114, R125) -/

theorem goOn_next {s : State} {t : Nat} {x : Thread} (hx : aget s.threads t = some x) (hm : x.mode = .ready) : goOn s t .next = s := by
  simp only [goOn, hx, hm]

theorem goOn_halt {s : State} {t : Nat} {x : Thread} (hx : aget s.threads t = some x) (hm : x.mode = .ready) :
    goOn s t .halt = afterWaits s t .halt := by
  simp only [goOn, hx, hm]

theorem endThread_thread {s : State} {t : Nat} {x : Thread} (m : Mode) (hx : aget s.threads t = some x) :
    ∃ l, aget (endThread s t m).threads t = some { x with mode := m, block := none, label := l } := by
  have hended (f : Thread → Label) : aget (updThread s t (fun y => { y with mode := m, block := none, label := f y })).threads t =
      some { x with mode := m, block := none, label := f x } := (updThread_same ..).trans (congrArg _ hx)
  simp only [endThread, hx]
  split
  · exact ⟨_, hended _⟩
  · simp only [updLaunch, updCtx_threads]
    exact ⟨_, hended _⟩

theorem refuseThieves_thread {s : State} {t : Nat} {x : Thread} (hx : aget s.threads t = some x) :
    aget (refuseThieves s t).threads t = some { x with thieves := [] } := by
  have hrefused : (x.thieves.foldl (fun st e => refuseThief st t e.1 (threadSig s x)) s).threads = s.threads :=
    foldl_keeps State.threads (by intros; rfl) _ s
  simp only [refuseThieves, hx, updThread_same, hrefused, Option.map_some]

/-- A thread that halts by its STOP keeps its registers, its pc and its return-address store. -/
theorem afterWaits_halt_thread {s : State} {t : Nat} {x : Thread} (hx : aget s.threads t = some x) :
    ∃ l, aget (afterWaits s t .halt).threads t = some { x with mode := .halted, block := none, label := l, thieves := [] } := by
  have hready : aget (resumeBusy (updThread s t (fun y => { y with mode := .ready })) t).threads t =
      some { x with mode := .ready, label := { x.label with since := (updThread s t (fun y => { y with mode := .ready })).cycle } } := by
    rw [resumeBusy, updThread_same, updThread_same, hx]
    rfl
  obtain ⟨l, hended⟩ := endThread_thread .halted (refuseThieves_thread hready)
  exact ⟨l, hended⟩

/-- The thread goes on with its next block, or halts, and keeps the registers that the commit left. -/
theorem goOn_thread {s : State} {t : Nat} {x : Thread} (c : Choice) (hx : aget s.threads t = some x) (hm : x.mode = .ready) :
    ∃ m l th', aget (goOn s t (if (nextBlock c).isNone then .halt else .next)).threads t =
      some { x with mode := m, block := if (nextBlock c).isNone then none else x.block, label := l, thieves := th' } ∧
      m = if (nextBlock c).isNone then .halted else .ready := by
  cases hnext : nextBlock c with
  | some a =>
    refine ⟨x.mode, x.label, x.thieves, ?_, hm⟩
    exact (congrArg (fun u : State => aget u.threads t) (goOn_next hx hm)).trans hx
  | none =>
    obtain ⟨l, hhalted⟩ := afterWaits_halt_thread hx
    refine ⟨.halted, l, [], ?_, rfl⟩
    exact (congrArg (fun u : State => aget u.threads t) (goOn_halt hx hm)).trans hhalted

end Sys2Proof
end

section
namespace Sys2Proof

open Machine

/-- A thread after its block's commit (R110, R114): the register effects have made x of it, then come the flags, the branch and the halt. -/
def committed (x : Thread) (b : Block) (c : Choice) (l : Label) (thieves : List (Nat × Bool)) : Thread :=
  { afterBranch (flagged x b) b c with
    mode := if (nextBlock c).isNone then .halted else .ready, block := none, label := l, thieves := thieves }

theorem afterBranch_call_room {x : Thread} (b : Block) (a : W) (h : x.ras.length < 16) : afterBranch x b (.call a) =
    { x with ras := x.ras ++ [returnAddr b], pc := a, block := none, exit := exitOf b, seq := none } := by
  have hpushed : rasAfter x b (.call a) = { x with ras := x.ras ++ [returnAddr b] } := if_pos h
  unfold afterBranch
  rw [hpushed]
  rfl

theorem afterBranch_call_deep {x : Thread} (b : Block) (a : W) (h : ¬ x.ras.length < 16) : afterBranch x b (.call a) =
    { x with
      ras := x.ras.drop 1 ++ [returnAddr b], regs := { x.regs with spc := x.regs.spc + 1 }, pc := a, block := none,
      exit := exitOf b, seq := none } := by
  have hspilled : rasAfter x b (.call a) =
      { x with ras := x.ras.drop 1 ++ [returnAddr b], regs := { x.regs with spc := x.regs.spc + 1 } } := if_neg h
  unfold afterBranch
  rw [hspilled]
  rfl

theorem afterBranch_mode_block (x : Thread) (b : Block) (c : Choice) :
    (afterBranch x b c).mode = x.mode ∧ (afterBranch x b c).block = none := by
  cases c with
  | call a =>
    by_cases hroom : x.ras.length < 16
    · rw [afterBranch_call_room b a hroom]
      exact ⟨rfl, rfl⟩
    · rw [afterBranch_call_deep b a hroom]
      exact ⟨rfl, rfl⟩
  | ret a spilled => cases spilled <;> exact ⟨rfl, rfl⟩
  | _ => exact ⟨rfl, rfl⟩

/-- The flags of a block change TFLAG alone. -/
theorem flagged_rest (x : Thread) (b : Block) : ∃ f, flagged x b = { x with regs := { x.regs with tflag := f } } := by
  unfold flagged
  split
  · exact ⟨_, rfl⟩
  · exact ⟨x.regs.tflag, rfl⟩

theorem flagged_regs (x : Thread) (b : Block) :
    (flagged x b).regs = if b.dz then { x.regs with tflag := x.regs.tflag ||| 2 } else x.regs := by
  unfold flagged
  split <;> rfl

/-- What a commit of register effects leaves of its thread. -/
theorem blockCommit_thread {s : State} {t : Nat} {th : Thread} {b : Block} {c : Choice} (h : Commits s t th b c)
    (hreg : ∀ e ∈ slotEffs b, registerEff e.2 = true) :
    ∃ u l p x l' v, exec (.blockCommit t) s = .next u ∧ WroteRegisters b (slotEffs b) { th with label := l, pts := p } x ∧
      aget u.threads t = some (committed x b c l' v) := by
  obtain ⟨l, x, hwrote, hx⟩ := commitEvent_thread (s := threadRegions s t) c (eventTs s (asidOf th) th.pts b)
    ((congrArg (aget · t) (threadRegions_threads s t)).trans h.thread) hreg
  obtain ⟨hmode, hblock⟩ := afterBranch_mode_block (flagged x b) b c
  have hready : (afterBranch (flagged x b) b c).mode = .ready := by
    obtain ⟨gs, ms, f, g, rfl⟩ := hwrote.rest
    obtain ⟨r, hflagged⟩ := flagged_rest { th with label := l, pts := _, gs := gs, ms := ms, mfull := f, mbSig := g } b
    rw [hmode, hflagged, h.mode]
  obtain ⟨m, l', v, hu, rfl⟩ := goOn_thread c hx hready
  refine ⟨_, l, _, x, l', v, blockCommit_registers hreg h, hwrote, hu.trans ?_⟩
  simp only [committed, hblock, ite_self]

/-- Settles O26: the register effects are applied one after the other, and what follows them leaves those registers alone. -/
theorem commitWritesRegisters : Obligations.CommitWritesRegisters := by
  intro s t th b a h hreg
  obtain ⟨u, l, p, x, l', v, hexec, hwrote, hu⟩ := blockCommit_thread h hreg
  refine ⟨u, hexec, _, hu, rfl, rfl, rfl, ?_⟩
  obtain ⟨⟨gs, ms, f, g, rfl⟩, hglobals, hmailboxes, hfull⟩ := hwrote
  obtain ⟨r, hflagged⟩ := flagged_rest { th with label := l, pts := p, gs := gs, ms := ms, mfull := f, mbSig := g } b
  have hras := congrArg Thread.ras hflagged
  have hgs := congrArg Thread.gs hflagged
  have hms := congrArg Thread.ms hflagged
  have hmfull := congrArg Thread.mfull hflagged
  refine ⟨hras, flagged_regs .., fun n => ?_, fun n => ?_, fun n hmwr => ?_, fun n hmclr hno hlanded => ?_, fun n hno => ?_⟩
  · exact (congrArg (Vector.get · ⟨n.toNat, n.isLt⟩) hgs).trans (hglobals n)
  · exact (congrArg (Vector.get · ⟨n.toNat, n.isLt⟩) hms).trans (hmailboxes n)
  · obtain ⟨e, he, w, hw⟩ := hmwr
    exact (congrArg (BitVec.getLsbD · n.toNat) hmfull).trans ((hfull n).trans
      (fullAfter_mwr _ (clears_mwr (hw ▸ mem_slotEffs he)) _ (.inr ⟨e, he, w, hw⟩)))
  · exact (congrArg (BitVec.getLsbD · n.toNat) hmfull).trans ((hfull n).trans (fullAfter_mclr _ (clears_of_no_mwr hlanded hno)
      (fun e he w hw => hno w (hw ▸ mem_slotEffs he)) _ (.inr hmclr)))
  · exact (congrArg (BitVec.getLsbD · n.toNat) hmfull).trans ((hfull n).trans (fullAfter_other _ hno _))

/-- Settles O27, by cases on the branch. -/
theorem commitBranches : Obligations.CommitBranches := by
  intro s t th b c h hreg
  obtain ⟨u, l, p, x, l', v, hexec, hwrote, hu⟩ := blockCommit_thread h hreg
  refine ⟨u, hexec, _, hu, rfl, ?_⟩
  obtain ⟨gs, ms, f, g, rfl⟩ := hwrote.rest
  obtain ⟨r, hflagged⟩ := flagged_rest { th with label := l, pts := p, gs := gs, ms := ms, mfull := f, mbSig := g } b
  have hras := congrArg Thread.ras hflagged
  have hpriv := congrArg (fun y : Thread => y.regs.priv) hflagged
  have hspc := congrArg (fun y : Thread => y.regs.spc) hflagged
  unfold committed
  generalize flagged { th with label := l, pts := p, gs := gs, ms := ms, mfull := f, mbSig := g } b = y at hras hpriv hspc ⊢
  cases c with
  | jump a => exact ⟨rfl, hras, hpriv, rfl⟩
  | call a =>
    rw [← show y.ras = th.ras from hras]
    by_cases hroom : y.ras.length < 16
    · rw [afterBranch_call_room b a hroom]
      exact ⟨rfl, rfl, hpriv, fun _ => ⟨rfl, hspc⟩, fun hdeep => absurd hroom (Nat.not_lt.mpr hdeep)⟩
    · rw [afterBranch_call_deep b a hroom]
      exact ⟨rfl, rfl, hpriv, fun h => absurd h hroom, fun _ => ⟨rfl, congrArg (· + 1) hspc⟩⟩
  | ret a spilled =>
    cases spilled with
    | true => exact ⟨rfl, rfl, hpriv, hras, congrArg (· - 1) hspc⟩
    | false => exact ⟨rfl, rfl, hpriv, congrArg List.dropLast hras, hspc⟩
  | stop => exact ⟨rfl, hras, hpriv⟩
  | tret a =>
    refine ⟨rfl, rfl, hras, ?_⟩
    by_cases ha : a = 0
    · subst ha
      rfl
    · have hnext : nextBlock (.tret a) = some a := if_neg ha
      rw [if_neg ha]
      refine ⟨?_, congrArg (Option.getD · b.addr) hnext⟩
      simp only [hnext]
      rfl

end Sys2Proof
end

section
namespace Sys2Proof

open Machine

/-! ### A context that keeps no counters and no log (R387, R396) -/

theorem Quiet.of_ctxs {s u : State} {a : Nat} (h : Quiet s a) (hu : u.ctxs = s.ctxs) : Quiet u a := fun c hc => h c (hu ▸ hc)

theorem undoRecs_of_quiet {s : State} {a : Nat} (h : Quiet s a) (p n : Nat) : undoRecs s a p n = s := by
  unfold undoRecs
  cases hc : aget s.ctxs a with
  | none => rfl
  | some c =>
    obtain ⟨-, hckctl, -⟩ := h c hc
    simp only [logging, hckctl, Bool.false_and, Bool.false_eq_true, if_false]

theorem pmcAdd_of_quiet {s : State} {a : Nat} (h : Quiet s a) (die event n : Nat) : pmcAdd s a die event n = s := by
  unfold pmcAdd
  cases hc : aget s.ctxs a with
  | none => rfl
  | some c => exact if_pos (.inr (h c hc).1)

theorem threadRegions_of_quiet {s : State} {t : Nat} {th : Thread} (hth : aget s.threads t = some th) (h : Quiet s (asidOf th)) :
    threadRegions s t = s := by
  unfold threadRegions
  rw [hth, Option.bind_some]
  cases hc : aget s.ctxs (asidOf th) with
  | none => rfl
  | some c =>
    obtain ⟨-, -, hepochs⟩ := h c hc
    simp only [hepochs, List.filter_nil, List.map_nil, List.foldl_nil]

/-! ### The bytes that a list of stores leaves (R110, R120, R122) -/

/-- Memory after the bytes of one store. -/
def putStore (m : List Host.Cell) (a : Access) : List Host.Cell :=
  match a.loc with
  | .mem y => cellsPut m y (leBytes a.size a.data.toNat)
  | _ => m

/-- Memory after the bytes of stores, one after the other. -/
def putStores (l : List Access) (m : List Host.Cell) : List Host.Cell := l.foldl putStore m

theorem leBytes_getElem? (n v k : Nat) (h : k < n) : (leBytes n v)[k]? = some (BitVec.ofNat 8 (v / 256 ^ k)) := by
  induction n generalizing v k with
  | zero => exact absurd h (Nat.not_lt_zero k)
  | succ n ih =>
    cases k with
    | zero => simp [leBytes]
    | succ k => rw [leBytes, List.getElem?_cons_succ, ih _ _ (Nat.lt_of_succ_lt_succ h), Nat.div_div_eq_div_mul, Nat.pow_succ']

theorem cellsTake_getElem? (l : List Host.Cell) (a n k : Nat) (h : k < n) : (cellsTake l a n)[k]? = some (cellsGet l (a + k)) := by
  induction n generalizing a k with
  | zero => exact absurd h (Nat.not_lt_zero k)
  | succ n ih =>
    cases k with
    | zero => rfl
    | succ k => rw [cellsTake, List.getElem?_cons_succ, ih _ _ (Nat.lt_of_succ_lt_succ h), Nat.add_right_comm, Nat.add_assoc]

section Stores
variable {m : List Host.Cell} (hm : cellsWf 0 m = true)
include hm

theorem cellsWf_putStore (a : Access) : cellsWf 0 (putStore m a) = true := by
  unfold putStore
  split
  · exact cellsWf_cellsPut _ _ hm
  · exact hm

theorem cellsGet_putStore_out {a : Access} {x : Nat} (hout : ∀ y, a.loc = .mem y → x < y ∨ y + a.size ≤ x) :
    cellsGet (putStore m a) x = cellsGet m x := by
  unfold putStore
  split
  · rename_i y hloc
    exact cellsGet_cellsPut_out _ hm (by rw [leBytes_length]; exact hout y hloc)
  · rfl

/-- A store leaves the low bytes of its value. -/
theorem cellsGet_putStore_in {a : Access} {y k : Nat} (hloc : a.loc = .mem y) (hk : k < a.size) :
    cellsGet (putStore m a) (y + k) = a.data.extractLsb' (8 * k) 8 := by
  have hput : putStore m a = cellsPut m y (leBytes a.size a.data.toNat) := by simp only [putStore, hloc]
  have hread := cellsTake_getElem? (putStore m a) y a.size k hk
  have hsame := cellsTake_cellsPut_same (a := y) (leBytes a.size a.data.toNat) hm
  rw [leBytes_length, ← hput] at hsame
  rw [hsame, leBytes_getElem? _ _ _ hk, Option.some.injEq] at hread
  rw [← hread, BitVec.extractLsb', Nat.shiftRight_eq_div_pow, Nat.pow_mul]

end Stores

theorem cellsGet_putStores_out {x : Nat} (l : List Access) (hout : ∀ a ∈ l, ∀ y, a.loc = .mem y → x < y ∨ y + a.size ≤ x) :
    ∀ {m : List Host.Cell}, cellsWf 0 m = true → cellsGet (putStores l m) x = cellsGet m x := by
  induction l with
  | nil => exact fun _ => rfl
  | cons a l ih =>
    exact fun hm => (ih (fun a ha => hout a (.tail _ ha)) (cellsWf_putStore hm a)).trans (cellsGet_putStore_out hm (hout a (.head _)))

/-- In stores of rising LSID, those bytes of a store stand that no store of its LSID or a higher one covers. -/
theorem cellsGet_putStores_in {a : Access} {y k : Nat} (hloc : a.loc = .mem y) (hk : k < a.size) (l : List Access)
    (hsorted : l.Pairwise (fun p q => p.lsid ≤ q.lsid)) (ha : a ∈ l)
    (hclear : ∀ a' ∈ l, ∀ y', a'.loc = .mem y' → a' = a ∨ a'.lsid < a.lsid ∨ y' + a'.size ≤ y ∨ y + a.size ≤ y') :
    ∀ {m : List Host.Cell}, cellsWf 0 m = true → cellsGet (putStores l m) (y + k) = a.data.extractLsb' (8 * k) 8 := by
  induction l with
  | nil => cases ha
  | cons p l ih =>
    intro m hm
    obtain ⟨hfirst, hrest⟩ := List.pairwise_cons.mp hsorted
    by_cases hmem : a ∈ l
    · exact ih hrest hmem (fun a' ha' => hclear a' (.tail _ ha')) (cellsWf_putStore hm p)
    · obtain rfl : a = p := (List.mem_cons.mp ha).resolve_right hmem
      refine (cellsGet_putStores_out l (fun a' ha' y' hloc' => ?_) (cellsWf_putStore hm a)).trans (cellsGet_putStore_in hm hloc hk)
      have hlater := hfirst a' ha'
      have hne : a' ≠ a := fun h => hmem (h ▸ ha')
      have hapart := (hclear a' (.tail _ ha') y' hloc').resolve_left hne
      omega

/-! ### The stores of a block in its commit event -/

theorem sortedAccs_sorted (b : Block) : (sortedAccs b).Pairwise (fun p q => p.lsid ≤ q.lsid) := by
  refine List.pairwise_flatMap.mpr ⟨fun l _ => ?_, List.pairwise_lt_range.imp (fun {l l'} hlt p hp q hq => ?_)⟩
  · refine List.pairwise_of_forall_mem_list (fun p hp q hq => ?_)
    have hp := (List.mem_filter.mp hp).2
    have hq := (List.mem_filter.mp hq).2
    rw [beq_iff_eq] at hp hq
    omega
  · have hp := (List.mem_filter.mp hp).2
    have hq := (List.mem_filter.mp hq).2
    rw [beq_iff_eq] at hp hq
    omega

theorem mem_sortedAccs {b : Block} {a : Access} : a ∈ sortedAccs b ↔ a ∈ b.accs ∧ a.lsid ≤ 32 := by
  simp only [sortedAccs, List.mem_flatMap, List.mem_range, List.mem_filter, beq_iff_eq]
  constructor
  · rintro ⟨l, hl, ha, rfl⟩
    exact ⟨ha, Nat.le_of_lt_succ hl⟩
  · rintro ⟨ha, hl⟩
    exact ⟨a.lsid, Nat.lt_succ_of_le hl, ha, rfl⟩

theorem eventAccs_of_local {b : Block} (h : ∀ a ∈ b.accs, ∃ y, a.loc = .mem y) : eventAccs b = sortedAccs b := by
  refine List.filter_eq_self.mpr (fun a ha => ?_)
  obtain ⟨y, hy⟩ := h a (mem_sortedAccs.mp ha).1
  rw [hy]
  rfl

theorem sramWritten_mem_ctxs (s : State) (v : Bool) (a n : Nat) : (sramWritten s v a n).mem = s.mem ∧ (sramWritten s v a n).ctxs = s.ctxs := by
  unfold sramWritten
  split <;> exact ⟨rfl, rfl⟩

theorem putEvent_of_quiet {s : State} {a : Nat} (h : Quiet s a) (ts : Nat) (trk : Option Sig) (packed : Bool) (y : Nat) (bs : List Byte) :
    (putEvent s a ts trk packed y bs).mem.bytes = cellsPut s.mem.bytes y bs ∧ (putEvent s a ts trk packed y bs).ctxs = s.ctxs := by
  obtain ⟨hmem, hctxs⟩ := sramWritten_mem_ctxs s packed y bs.length
  have hbytes : (rawPut (sramWritten s packed y bs.length) y bs).mem.bytes = cellsPut s.mem.bytes y bs := by
    rw [rawPut, hmem, Memory.bytes_unpoison]
  simp only [putEvent, undoRecs_of_quiet h]
  cases trk <;> exact ⟨hbytes, hctxs⟩

theorem performAccess_store {s : State} {t : Nat} {th : Thread} (ts : Nat) {a : Access} {y : Nat} (h : Quiet s (asidOf th))
    (hkind : a.kind = .store) (hloc : a.loc = .mem y) :
    (performAccess s t th ts a).mem.bytes = putStore s.mem.bytes a ∧ (performAccess s t th ts a).ctxs = s.ctxs := by
  simp only [performAccess, hkind, hloc, locEvent, Option.getD_some, putStore]
  exact putEvent_of_quiet h ..

theorem foldl_performAccess_stores {t : Nat} {th : Thread} (ts : Nat) (l : List Access)
    (hl : ∀ a ∈ l, a.kind = .store ∧ ∃ y, a.loc = .mem y) : ∀ {s : State}, Quiet s (asidOf th) →
      (l.foldl (fun st a => performAccess st t th ts a) s).mem.bytes = putStores l s.mem.bytes ∧
      (l.foldl (fun st a => performAccess st t th ts a) s).ctxs = s.ctxs := by
  induction l with
  | nil => exact fun _ => ⟨rfl, rfl⟩
  | cons a l ih =>
    intro s h
    obtain ⟨hkind, y, hloc⟩ := hl a (.head _)
    obtain ⟨hbytes, hctxs⟩ := performAccess_store (t := t) ts h hkind hloc
    obtain ⟨hrest, hrestCtxs⟩ := ih (fun a ha => hl a (.tail _ ha)) (h.of_ctxs hctxs)
    exact ⟨hrest.trans (congrArg (putStores l) hbytes), hrestCtxs.trans hctxs⟩

theorem performAll_stores {s : State} {t : Nat} {th : Thread} {b : Block} (ts : Nat) (h : Quiet s (asidOf th)) (hrecs : b.recs = [])
    (haccs : ∀ a ∈ b.accs, a.kind = .store ∧ ∃ y, a.loc = .mem y) :
    (performAll s t th ts b).mem.bytes = putStores (sortedAccs b) s.mem.bytes ∧ (performAll s t th ts b).ctxs = s.ctxs := by
  simp only [performAll, hrecs, List.flatMap_nil, List.foldl_nil, eventAccs_of_local (fun a ha => (haccs a ha).2)]
  exact foldl_performAccess_stores ts _ (fun a ha => haccs a (mem_sortedAccs.mp ha).1) h

/-! ### What else a commit of register effects does to memory: nothing -/

theorem commitEff_mem_ctxs (s : State) (t ts : Nat) (b : Block) {e : Eff} (he : registerEff e = true) :
    (commitEff s t ts b e).mem = s.mem ∧ (commitEff s t ts b e).ctxs = s.ctxs := by
  cases e with
  | gwr | mwr => exact ⟨updThread_mem .., updThread_ctxs ..⟩
  | mclr n =>
    show (mclear s t b n).mem = s.mem ∧ (mclear s t b n).ctxs = s.ctxs
    unfold mclear
    split
    · exact ⟨rfl, rfl⟩
    · exact ⟨updThread_mem .., updThread_ctxs ..⟩
  | _ => cases he

theorem blockFlags_mem_ctxs (s : State) (t : Nat) (b : Block) : (blockFlags s t b).mem = s.mem ∧ (blockFlags s t b).ctxs = s.ctxs := by
  unfold blockFlags
  split
  · exact ⟨updThread_mem .., updThread_ctxs ..⟩
  · exact ⟨rfl, rfl⟩

theorem endThread_mem (s : State) (t : Nat) (m : Mode) : (endThread s t m).mem = s.mem := by
  unfold endThread
  split
  · rfl
  · extract_lets now s1
    have hs1 : s1.mem = s.mem := updThread_mem ..
    split
    · exact hs1
    · rw [updLaunch_mem]
      exact hs1

theorem refuseThieves_mem (s : State) (t : Nat) : (refuseThieves s t).mem = s.mem := by
  unfold refuseThieves
  split
  · rfl
  · rw [updThread_mem]
    exact foldl_keeps State.mem (by intros; rfl) _ s

theorem afterWaits_mem (s : State) (t : Nat) : (afterWaits s t .next).mem = s.mem ∧ (afterWaits s t .halt).mem = s.mem := by
  simp only [afterWaits, haltThread, endThread_mem, refuseThieves_mem, resumeBusy, updThread_mem, and_self]

theorem goOn_mem (s : State) (t : Nat) {w : AfterWait} (h : w = .next ∨ w = .halt) : (goOn s t w).mem = s.mem := by
  unfold goOn
  split
  · rfl
  · split
    · exact updThread_mem ..
    · rfl
    · obtain rfl | rfl := h
      · exact (afterWaits_mem s t).1
      · exact (afterWaits_mem s t).2

/-- Memory after the commit of a block whose effects are stores and registers. -/
theorem commitEvent_stores {s : State} {t : Nat} {th : Thread} {b : Block} (c : Choice) (ts : Nat) (h : Quiet s (asidOf th))
    (hreg : ∀ e ∈ slotEffs b, registerEff e.2 = true) (hrecs : b.recs = [])
    (haccs : ∀ a ∈ b.accs, a.kind = .store ∧ ∃ y, a.loc = .mem y) :
    (commitEvent s t th b c ts).mem.bytes = putStores (sortedAccs b) s.mem.bytes := by
  obtain ⟨hbytes, hctxs⟩ := performAll_stores (t := t) ts h hrecs haccs
  have hkeeps (u : State) : ((slotEffs b).foldl (fun st e => commitEff st t ts b e.2) u).mem = u.mem ∧
      ((slotEffs b).foldl (fun st e => commitEff st t ts b e.2) u).ctxs = u.ctxs :=
    List.foldlRecOn _ _ (motive := fun v : State => v.mem = u.mem ∧ v.ctxs = u.ctxs) ⟨rfl, rfl⟩ (fun v hv e he => by
      obtain ⟨hmem, hctxs⟩ := commitEff_mem_ctxs v t ts b (hreg e he)
      exact ⟨hmem.trans hv.1, hctxs.trans hv.2⟩)
  simp only [commitEvent, branchCommit]
  rw [pmcAdd_of_quiet (h.of_ctxs ?_)]
  · simp only [updThread_mem, (blockFlags_mem_ctxs ..).1, (hkeeps _).1, hbytes]
  · simp only [updThread_ctxs, (blockFlags_mem_ctxs ..).2, (hkeeps _).2, hctxs]

theorem blockCommit_stores {s : State} {t : Nat} {th : Thread} {b : Block} {c : Choice} (h : Commits s t th b c)
    (hquiet : Quiet s (asidOf th)) (hreg : ∀ e ∈ slotEffs b, registerEff e.2 = true) (hrecs : b.recs = [])
    (haccs : ∀ a ∈ b.accs, a.kind = .store ∧ ∃ y, a.loc = .mem y) :
    ∃ u, exec (.blockCommit t) s = .next u ∧ u.mem.bytes = putStores (sortedAccs b) s.mem.bytes := by
  refine ⟨_, blockCommit_registers hreg h, ?_⟩
  rw [goOn_mem _ _ ?_, threadRegions_of_quiet h.thread hquiet]
  · exact commitEvent_stores c _ hquiet hreg hrecs haccs
  · split
    · exact .inr rfl
    · exact .inl rfl

/-- Settles O28: the stores are put in the order of their LSIDs, and the commit writes nothing else. -/
theorem commitStoresToMemory : Obligations.CommitStoresToMemory := by
  intro s t th b c h hsafe hquiet hreg hrecs haccs
  obtain ⟨u, hexec, hbytes⟩ := blockCommit_stores h hquiet hreg hrecs (fun a ha => ⟨(haccs a ha).1, (haccs a ha).2.2⟩)
  refine ⟨u, hexec, fun x hout => ?_, fun a ha y hloc hclear k hk => ?_⟩
  · rw [Memory.byte, hbytes, cellsGet_putStores_out _ (fun a ha => hout a (mem_sortedAccs.mp ha).1) hsafe]
    rfl
  · rw [Memory.byte, hbytes]
    exact cellsGet_putStores_in hloc hk _ (sortedAccs_sorted b) (mem_sortedAccs.mpr ⟨ha, (haccs a ha).2.1⟩)
      (fun a' ha' => hclear a' (mem_sortedAccs.mp ha').1) hsafe

end Sys2Proof
end

section
namespace Sys2Proof

open Machine

/-! ### What a device write and a counter leave of the contexts (R387, R391) -/

theorem fillTlb_ctxs (s : State) (w : Who) (va : W) : (fillTlb s w va).ctxs = s.ctxs := by
  unfold fillTlb
  split <;> rfl

theorem fillPages_ctxs (w : Who) (fuel : Nat) : ∀ (s : State) (va : W) (n : Nat), (fillPages s w fuel va n).ctxs = s.ctxs := by
  induction fuel with
  | zero => exact fun _ _ _ => rfl
  | succ fuel ih =>
    intro s va n
    unfold fillPages
    split
    · rfl
    · exact (ih _ _ _).trans (fillTlb_ctxs ..)

theorem devView_ctxs {s u : State} {a : Nat} {l : Loc} {bs : List Byte} (h : devView s a l bs = some u) : u.ctxs = s.ctxs := by
  unfold devView at h
  split at h
  · cases h
    rfl
  · split at h
    · cases h
    · cases h
      rfl

theorem putPieces_ctxs {a : Nat} (ps : List (Resolved × Nat)) :
    ∀ {s u : State} {bs : List Byte}, putPieces s a ps bs = some u → u.ctxs = s.ctxs := by
  induction ps with
  | nil =>
    intro s u bs h
    cases h
    rfl
  | cons p rest ih =>
    intro s u bs h
    simp only [putPieces] at h
    split at h
    · exact (ih h).trans (devPut_ctxs ..)
    · split at h
      · rename_i hview
        exact (ih h).trans (devView_ctxs hview)
      · cases h
    · split at h
      · exact (ih h :)
      · cases h
    · exact (ih h :)
    · cases h

theorem vaPut_ctxs {s u : State} {a die : Nat} {va : W} {bs : List Byte} (h : vaPut s a die va bs = some u) : u.ctxs = s.ctxs := by
  simp only [vaPut] at h
  split at h
  · cases h
  · exact (putPieces_ctxs _ h).trans (fillPages_ctxs ..)

theorem placeRecord_ctxs {s : State} {a die size wr rd : Nat} {base : W} {ws : List W} {r : State × Nat}
    (h : placeRecord s a die base size wr rd ws = some r) : r.1.ctxs = s.ctxs := by
  unfold placeRecord at h
  extract_lets l off tail at h
  split at h
  · cases h
  · rename_i padded _
    have hpadded : ∀ s1, padded = some s1 → s1.ctxs = s.ctxs := by
      intro s1 hpad
      unfold padded at hpad
      split at hpad
      · cases hpad
        rfl
      · exact vaPut_ctxs hpad
    cases hs1 : padded with
    | none => simp [hs1] at h
    | some s1 =>
      cases hs2 : vaPut s1 a die (base + w64 ((wr + tail) % size)) (wordBytes ws) with
      | none => simp [hs1, hs2] at h
      | some s2 =>
        obtain rfl : (s2, wr + tail + l) = r := by simpa [hs1, hs2] using h
        exact (vaPut_ctxs hs2).trans (hpadded s1 hs1)

/-- Every context keeps its registers and its launches, whatever becomes of its counters. -/
structure KeepsRegs (s u : State) : Prop where
  keeps : ∀ a c, aget s.ctxs a = some c → ∃ c', aget u.ctxs a = some c' ∧ c'.regs = c.regs ∧ c'.launches = c.launches

theorem KeepsRegs.of_ctxs {s u : State} (h : u.ctxs = s.ctxs) : KeepsRegs s u := ⟨fun _ c hc => ⟨c, by rw [h, hc], rfl, rfl⟩⟩

theorem KeepsRegs.trans {s u v : State} (h : KeepsRegs s u) (g : KeepsRegs u v) : KeepsRegs s v := by
  refine ⟨fun a c hc => ?_⟩
  obtain ⟨c', hc', hregs, hlaunches⟩ := h.keeps a c hc
  obtain ⟨c'', hc'', hregs', hlaunches'⟩ := g.keeps a c' hc'
  exact ⟨c'', hc'', hregs'.trans hregs, hlaunches'.trans hlaunches⟩

theorem KeepsRegs.foldl {α : Type} {f : State → α → State} (h : ∀ s x, KeepsRegs s (f s x)) (l : List α) (s : State) :
    KeepsRegs s (l.foldl f s) :=
  List.foldlRecOn l f (.of_ctxs rfl) (fun _ hs x _ => hs.trans (h _ x))

theorem keepsRegs_updCtx (s : State) (a : Nat) {f : Context → Context} (hf : ∀ c, (f c).regs = c.regs ∧ (f c).launches = c.launches) :
    KeepsRegs s (updCtx s a f) := by
  refine ⟨fun a' c hc => ?_⟩
  by_cases ha : a' = a
  · subst ha
    exact ⟨f c, by rw [updCtx_same, hc]; rfl, hf c⟩
  · exact ⟨c, by rw [updCtx_ne _ _ _ ha, hc], rfl, rfl⟩

theorem keepsRegs_sampleRec (s : State) (a die kind : Nat) (body : List W) : KeepsRegs s (sampleRec s a die kind body) := by
  simp only [sampleRec]
  split
  · exact .of_ctxs rfl
  · split
    · rename_i hrec
      exact (KeepsRegs.of_ctxs (placeRecord_ctxs hrec)).trans (keepsRegs_updCtx _ _ (fun _ => ⟨rfl, rfl⟩))
    · exact keepsRegs_updCtx _ _ (fun _ => ⟨rfl, rfl⟩)

theorem keepsRegs_counterAdd (s : State) (a die k n : Nat) : KeepsRegs s (counterAdd s a die k n) := by
  have hwraps : KeepsRegs s (counterWraps s a die k) := by
    simp only [counterWraps]
    split
    · exact .of_ctxs rfl
    · split
      · refine KeepsRegs.trans ?_ (keepsRegs_sampleRec ..)
        exact keepsRegs_updCtx _ _ (fun _ => ⟨rfl, rfl⟩)
      · exact keepsRegs_updCtx _ _ (fun _ => ⟨rfl, rfl⟩)
  simp only [counterAdd]
  split
  · exact .of_ctxs rfl
  · refine KeepsRegs.trans ?_ (keepsRegs_updCtx _ _ (fun _ => ⟨rfl, rfl⟩))
    split
    · exact .of_ctxs rfl
    · exact hwraps

theorem keepsRegs_pmcAdd (s : State) (a die event n : Nat) : KeepsRegs s (pmcAdd s a die event n) := by
  unfold pmcAdd
  split
  · exact .of_ctxs rfl
  · split
    · exact .of_ctxs rfl
    · refine .foldl (fun st k => ?_) _ _
      split
      · exact keepsRegs_counterAdd ..
      · exact .of_ctxs rfl

/-- The launching thread of a thread is found through its context's launches alone. -/
theorem launcherOf_of_keepsRegs {s u : State} (h : KeepsRegs s u) {x y : Thread} {l : Nat} (hhome : y.home = x.home)
    (hl : launcherOf s x = some l) : launcherOf u y = some l := by
  cases hc : aget s.ctxs (asidOf x) with
  | none => simp [launcherOf, launchOf, hc] at hl
  | some c =>
    obtain ⟨c', hc', -, hlaunches⟩ := h.keeps _ c hc
    have hasid : asidOf y = asidOf x := by rw [asidOf, asidOf, hhome]
    simp only [launcherOf, launchOf, hc] at hl
    simp only [launcherOf, launchOf, hasid, hhome, hc', hlaunches]
    exact hl

/-! ### A block that is given up (R112) -/

/-- What giving up a block does before it is counted. -/
def abandoned (s : State) (t : Nat) : State :=
  updThread { s with fl := { s.fl with ops := s.fl.ops.filter (fun o => match o.issuer with
    | .threadLoad u _ => u != t
    | .threadRec u _ _ => u != t
    | _ => true) } } t (fun x => { x with block := none })

theorem abandoned_ctxs (s : State) (t : Nat) : (abandoned s t).ctxs = s.ctxs := updThread_ctxs ..

section Abandon
variable {s : State} {t : Nat} {th : Thread} (hth : aget s.threads t = some th)
include hth

theorem abandon_counts (hb : th.block.isSome) : abandon s t = pmcAdd (abandoned s t) (asidOf th) (dieOf th.home.cluster) 3 1 := by
  simp only [abandon, hth, hb, if_true]
  rfl

theorem abandoned_thread : aget (abandoned s t).threads t = some { th with block := none } :=
  (updThread_same ..).trans (congrArg _ hth)

theorem abandon_thread (hb : th.block.isSome) : aget (abandon s t).threads t = some { th with block := none } := by
  rw [abandon_counts hth hb, (keepsUnits_pmcAdd ..).threads, abandoned_thread hth]

theorem keepsRegs_abandon (hb : th.block.isSome) : KeepsRegs s (abandon s t) := by
  rw [abandon_counts hth hb]
  exact (KeepsRegs.of_ctxs (s := s) (abandoned_ctxs s t)).trans (keepsRegs_pmcAdd ..)

theorem abandon_of_quiet (hb : th.block.isSome) (h : Quiet s (asidOf th)) : abandon s t = abandoned s t := by
  rw [abandon_counts hth hb, pmcAdd_of_quiet (h.of_ctxs (abandoned_ctxs s t))]

end Abandon

/-! ### A trap (R346) -/

theorem trapSeq_cells_esets (s : State) (t : Nat) (th : Thread) :
    (trapSeq s t th).2.cells = s.cells ∧ (trapSeq s t th).2.esets = s.esets := by
  unfold trapSeq nextSeq
  split
  · exact ⟨updThread_cells .., updThread_esets ..⟩
  · split
    · exact ⟨updCtx_cells .., updCtx_esets ..⟩
    · exact ⟨rfl, rfl⟩

theorem endThread_fl (s : State) (t : Nat) (m : Mode) : (endThread s t m).fl = s.fl := by
  unfold endThread
  split
  · rfl
  · extract_lets now s1
    have hs1 : s1.fl = s.fl := updThread_fl ..
    split
    · exact hs1
    · rw [updLaunch_fl]
      exact hs1

section Trap
variable {s : State} {t : Nat} {th : Thread} {c : Context} (tr : TrapReq) (pc : W)
  (hth : aget s.threads t = some th) (hc : aget s.ctxs (asidOf th) = some c)
include hth hc

/-- A trap that a handler takes leaves the cells and the engine sets alone. -/
theorem takeTrap_cells_esets (hvec : c.regs.trapvec ≠ 0) (hfree : th.regs.intrap = false) :
    (takeTrap s t tr pc).cells = s.cells ∧ (takeTrap s t tr pc).esets = s.esets := by
  obtain ⟨hcells, hesets⟩ := trapSeq_cells_esets s t th
  simp only [takeTrap, hth, hc, hfree, beq_false_of_ne hvec, Bool.or_self, Bool.false_eq_true, if_false, updThread_cells, updThread_esets]
  exact ⟨hcells, hesets⟩

/-- A trap inside a trap, or without a handler, halts the thread and is reported to the launching thread (R346). -/
theorem takeTrap_fallen (hfalls : c.regs.trapvec = 0 ∨ th.regs.intrap = true) :
    (∃ l, aget (takeTrap s t tr pc).threads t = some { th with seq := none, mode := .fallen, block := none, label := l }) ∧
    ∀ l, launcherOf s th = some l → ∃ w ∈ (takeTrap s t tr pc).fl.writes, w.thread = l ∧ w.n = 15 := by
  have hcond : (th.regs.intrap || c.regs.trapvec == 0) = true := by
    rw [Bool.or_eq_true, beq_iff_eq]
    exact hfalls.symm
  obtain ⟨-, hthread, -⟩ := trapSeq_spec hth hc
  simp only [takeTrap, hth, hc, hcond, if_true]
  refine ⟨?_, fun l hl => ?_⟩
  · refine endThread_thread (x := { th with seq := none, block := none }) .fallen 
      ((updThread_same ..).trans (congrArg (Option.map _) (a₂ := some { th with seq := none }) ?_))
    split <;> exact (congrArg (aget · t) (keepsUnits_logTrap ..).threads).trans hthread
  · simp only [endThread_fl, updThread_fl, hl]
    exact ⟨_, List.mem_append_right _ (List.mem_singleton_self _), rfl, rfl⟩

end Trap

/-! ### A block that has raised traps (R112, R124) -/

theorem blockCommit_traps {s : State} {t : Nat} {th : Thread} {b : Block} {tr : TrapReq} (h : Completes s t th b)
    (htr : lowestFault b = some tr) : exec (.blockCommit t) s = .next (takeTrap (abandon s t) t tr b.addr) := by
  rw [blockCommit_completes h]
  simp only [finishBlock, htr, blockTraps, h.confirmed, Bool.false_eq_true, if_false]

/-- Settles O29: giving up the block leaves of the context what the trap reads of it. -/
theorem faultingBlockTraps : Obligations.FaultingBlockTraps := by
  intro s t th b tr c h htr hc
  have hb : th.block.isSome := by rw [h.block, Option.isSome_some]
  have hthread := abandon_thread h.thread hb
  obtain ⟨c', hc', hregs, -⟩ := (keepsRegs_abandon h.thread hb).keeps _ c hc
  refine ⟨fun hvec hfree => ⟨_, blockCommit_traps h htr, ?_, fun hquiet => ?_⟩,
    fun hfalls => ⟨_, blockCommit_traps h htr, ?_, fun l hl => ?_⟩⟩
  · rw [(takeTrap_handled tr b.addr hthread hc' (hregs ▸ hvec) hfree).1]
    simp only [trapped, seqOf, hregs]
  · obtain ⟨-, hmem⟩ := takeTrap_handled tr b.addr hthread hc' (hregs ▸ hvec) hfree
    obtain ⟨hcells, hesets⟩ := takeTrap_cells_esets tr b.addr hthread hc' (hregs ▸ hvec) hfree
    have habandon := abandon_of_quiet h.thread hb hquiet
    refine ⟨hmem.trans ?_, hcells.trans ?_, hesets.trans ?_⟩
    · rw [habandon]
      exact updThread_mem ..
    · rw [habandon]
      exact updThread_cells ..
    · rw [habandon]
      exact updThread_esets ..
  · obtain ⟨⟨l, hfallen⟩, -⟩ := takeTrap_fallen tr b.addr hthread hc' (hregs ▸ hfalls)
    exact ⟨_, hfallen, rfl, rfl, rfl, rfl, rfl, rfl⟩
  · obtain ⟨-, hwrites⟩ := takeTrap_fallen tr b.addr hthread hc' (hregs ▸ hfalls)
    exact hwrites l (launcherOf_of_keepsRegs (keepsRegs_abandon h.thread hb) rfl hl)

end Sys2Proof
end

section
namespace Sys2Proof

open Machine

/-! ### The parts of a host write (R255) -/

theorem lineParts_nil (n a : Nat) : lineParts n a [] = [] := by cases n <;> rfl

theorem lineParts_cons (n a : Nat) {bs : List Byte} (h : bs ≠ []) :
    lineParts (n + 1) a bs = (a, bs.take (64 - a % 64)) :: lineParts n (a + (64 - a % 64)) (bs.drop (64 - a % 64)) := by
  cases bs with
  | nil => exact absurd rfl h
  | cons b t => rfl

theorem cellsPut_append (bs cs : List Byte) : ∀ (m : List Host.Cell) (a : Nat),
    cellsPut m a (bs ++ cs) = cellsPut (cellsPut m a bs) (a + bs.length) cs := by
  induction bs with
  | nil => exact fun _ _ => rfl
  | cons b t ih =>
    intro m a
    rw [List.cons_append, cellsPut, ih, List.length_cons, Nat.add_comm t.length, ← Nat.add_assoc]
    rfl

/-- Every byte of a write reads back. -/
theorem cellsGet_cellsPut_in {m : List Host.Cell} (hm : cellsWf 0 m = true) (a : Nat) (bs : List Byte) {k : Nat} (hk : k < bs.length) :
    cellsGet (cellsPut m a bs) (a + k) = bs.getD k 0 := by
  have hread := cellsTake_getElem? (cellsPut m a bs) a bs.length k hk
  rw [cellsTake_cellsPut_same bs hm] at hread
  rw [List.getD_eq_getElem?_getD, hread, Option.getD_some]

/-- Within a stack, the next offset of BAR2 is the next address. -/
theorem bar2Addr_add {p : Partition} {off a j : Nat} (h : bar2Addr p off = some a) (hj : off % 2 ^ 36 + j < 2 ^ 36) :
    bar2Addr p (off + j) = some (a + j) := by
  have hstack : (off + j) / 2 ^ 36 = off / 2 ^ 36 := by omega
  have hplace : (off + j) % 2 ^ 36 = off % 2 ^ 36 + j := by omega
  unfold bar2Addr at h ⊢
  rw [hstack, hplace]
  generalize (stacksOf p.hbm)[off / 2 ^ 36]? = o at h ⊢
  cases o with
  | none => cases h
  | some k =>
    cases h
    simp only [Nat.add_assoc]

theorem bar2Addr_line {p : Partition} {off a : Nat} (h : bar2Addr p off = some a) : a % 64 = off % 64 := by
  unfold bar2Addr at h
  split at h
  · cases h
    omega
  · cases h

/-! ### A write of the host while nothing takes notes of it (R255, R397, R398) -/

/-- No context counts, logs or replays. -/
structure TakesOutside (s : State) : Prop where
  quiet : ∀ a, Quiet s a
  free : outsideHeld s = false

theorem TakesOutside.of_ctxs {s u : State} (h : TakesOutside s) (hu : u.ctxs = s.ctxs) : TakesOutside u := by
  refine ⟨fun a => (h.quiet a).of_ctxs hu, .trans ?_ h.free⟩
  simp only [outsideHeld, replays, hu]

theorem TakesOutside.orderRec {s : State} (h : TakesOutside s) {a : Nat} (ha : replays s a = false) (die pts kind : Nat) (ws : List W) :
    Machine.orderRec s a die pts kind ws = s := by
  unfold Machine.orderRec orderLog
  simp only [ha, Bool.false_and, Bool.false_eq_true, if_false]
  cases hc : aget s.ctxs a with
  | none => rfl
  | some c =>
    obtain ⟨-, hckctl, -⟩ := h.quiet a c hc
    simp only [hckctl, Bool.false_eq_true, if_false]

theorem TakesOutside.outsideOrder {s : State} (h : TakesOutside s) (ts : Nat) (ws : List W) : Machine.outsideOrder s ts ws = s := by
  refine List.foldlRecOn s.ctxs _ (motive := fun u => u = s) rfl (fun u hu e he => ?_)
  subst hu
  exact h.orderRec (Bool.eq_false_iff.mpr (List.any_eq_false.mp h.free e he)) ..

/-- Memory holds the bytes m, and nothing that a later write of the host depends on has changed. -/
structure WroteBytes (s u : State) (m : List Host.Cell) : Prop where
  bytes : u.mem.bytes = m
  metaErr : u.mem.metaErr = s.mem.metaErr
  ctxs : u.ctxs = s.ctxs
  threads : u.threads = s.threads

theorem outsideWrite_wrote {s : State} (h : TakesOutside s) (f a : Nat) (bs : List Byte) (hmeta : locMeta s 0 (.mem a) bs.length = none) :
    WroteBytes s (outsideWrite s (.host f) 0 (.mem a) bs) (cellsPut s.mem.bytes a bs) := by
  unfold outsideWrite
  rw [hmeta]
  extract_lets pts spans ts m put g track m' s1
  have hbytes : s1.mem.bytes = cellsPut s.mem.bytes a bs := congrArg (cellsPut · a bs) (Memory.bytes_unpoison ..)
  have hmetaErr : s1.mem.metaErr = s.mem.metaErr := by
    show (s.mem.unpoison a bs.length).metaErr = s.mem.metaErr
    unfold Memory.unpoison
    split <;> rfl
  rw [TakesOutside.outsideOrder (s := s1) (h.of_ctxs rfl)]
  exact ⟨hbytes, hmetaErr, rfl, rfl⟩

theorem locMeta_congr {s u : State} (h : u.mem.metaErr = s.mem.metaErr) (a n : Nat) : locMeta u 0 (.mem a) n = locMeta s 0 (.mem a) n := by
  simp only [locMeta, locSpans, metaFails, h]

/-- One part of a write of BAR2. -/
def putPart (p : Partition) (f : Nat) (st : State) (q : Nat × List Byte) : State :=
  (bar2Addr p q.1).elim st (fun a => outsideWrite st (.host f) 0 (.mem a) q.2)

/-- The part of a write behind its first line begins in the same stack, where there is one. -/
theorem bar2Addr_nextLine {p : Partition} {off a : Nat} {bs : List Byte} (h : bar2Addr p off = some a)
    (hstack : off % 2 ^ 36 + bs.length ≤ 2 ^ 36) (hrest : bs.drop (64 - off % 64) ≠ []) :
    bar2Addr p (off + (64 - off % 64)) = some (a + (64 - off % 64)) ∧
      (off + (64 - off % 64)) % 2 ^ 36 + (bs.drop (64 - off % 64)).length ≤ 2 ^ 36 := by
  have hlong : 64 - off % 64 < bs.length := Nat.not_le.mp (fun hle => hrest (List.drop_eq_nil_of_le hle))
  refine ⟨bar2Addr_add h (by omega), ?_⟩
  rw [List.length_drop]
  omega

/-- Every part of a write within one stack has an address. -/
theorem bar2Addr_lineParts {p : Partition} (n : Nat) : ∀ {off a : Nat} {bs : List Byte}, bar2Addr p off = some a →
    off % 2 ^ 36 + bs.length ≤ 2 ^ 36 → ∀ q ∈ lineParts n off bs, (bar2Addr p q.1).isNone = false := by
  induction n with
  | zero => exact fun _ _ q hq => nomatch hq
  | succ n ih =>
    intro off a bs h hstack q hq
    by_cases hbs : bs = []
    · rw [hbs, lineParts_nil] at hq
      cases hq
    · rw [lineParts_cons n off hbs] at hq
      obtain rfl | hq := List.mem_cons.mp hq
      · rw [h, Option.isNone_some]
      · by_cases hrest : bs.drop (64 - off % 64) = []
        · rw [hrest, lineParts_nil] at hq
          cases hq
        · obtain ⟨hnext, hstack'⟩ := bar2Addr_nextLine h hstack hrest
          exact ih hnext hstack' q hq

/-- The parts of a write within one stack put its bytes, one line after the other. -/
theorem putParts_wrote (p : Partition) (f n : Nat) : ∀ {s : State} {off a : Nat} {bs : List Byte}, TakesOutside s →
    bar2Addr p off = some a → off % 2 ^ 36 + bs.length ≤ 2 ^ 36 → off % 64 + bs.length ≤ 64 * n →
    (∀ q ∈ lineParts n a bs, locMeta s 0 (.mem q.1) q.2.length = none) →
    WroteBytes s ((lineParts n off bs).foldl (putPart p f) s) (cellsPut s.mem.bytes a bs) := by
  induction n with
  | zero =>
    intro s off a bs _ _ _ hfuel _
    obtain rfl : bs = [] := List.eq_nil_of_length_eq_zero (by omega)
    exact ⟨rfl, rfl, rfl, rfl⟩
  | succ n ih =>
    intro s off a bs htakes h hstack hfuel hmeta
    by_cases hbs : bs = []
    · subst hbs
      exact ⟨rfl, rfl, rfl, rfl⟩
    · rw [lineParts_cons n a hbs, bar2Addr_line h] at hmeta
      have hfirst := outsideWrite_wrote htakes f a (bs.take (64 - off % 64)) (hmeta _ (.head _))
      have hput : putPart p f s (off, bs.take (64 - off % 64)) = outsideWrite s (.host f) 0 (.mem a) (bs.take (64 - off % 64)) := by
        rw [putPart, h, Option.elim_some]
      rw [lineParts_cons n off hbs, List.foldl_cons, hput]
      by_cases hrest : bs.drop (64 - off % 64) = []
      · have hwhole : bs.take (64 - off % 64) = bs := List.take_of_length_le (List.drop_eq_nil_iff.mp hrest)
        rw [hwhole] at hfirst ⊢
        rw [hrest, lineParts_nil]
        exact hfirst
      · obtain ⟨hnext, hstack'⟩ := bar2Addr_nextLine h hstack hrest
        have hshort : (bs.take (64 - off % 64)).length = 64 - off % 64 := by
          have := mt List.drop_eq_nil_iff.mpr hrest
          rw [List.length_take]
          omega
        have hlater := ih (htakes.of_ctxs hfirst.ctxs) hnext hstack' (by rw [List.length_drop]; omega)
          (fun q hq => (locMeta_congr hfirst.metaErr ..).trans (hmeta q (.tail _ hq)))
        refine ⟨?_, hlater.metaErr.trans hfirst.metaErr, hlater.ctxs.trans hfirst.ctxs, hlater.threads.trans hfirst.threads⟩
        have hjoined := cellsPut_append (bs.take (64 - off % 64)) (bs.drop (64 - off % 64)) s.mem.bytes a
        rw [List.take_append_drop, hshort] at hjoined
        rw [hlater.bytes, hfirst.bytes, hjoined]

/-! ### BAR2 (R255, R399) -/

theorem hostBar2Write_writes {s : State} {f off a : Nat} {p : Partition} {bytes : List Byte} (hbar : barOf s f = some p)
    (ha : bar2Addr p off = some a) (hstack : off % 2 ^ 36 + bytes.length ≤ 2 ^ 36) (htakes : TakesOutside s)
    (hmeta : ∀ q ∈ lineParts (bytes.length / 64 + 2) a bytes, locMeta s 0 (.mem q.1) q.2.length = none) :
    ∃ u, exec (.hostBar2Write f off bytes) s = .next u ∧ WroteBytes s u (cellsPut s.mem.bytes a bytes) := by
  refine ⟨(lineParts (bytes.length / 64 + 2) off bytes).foldl (putPart p f) s, ?_, putParts_wrote p f _ htakes ha hstack (by omega) hmeta⟩
  have hinside : (lineParts (bytes.length / 64 + 2) off bytes).any (fun q => (bar2Addr p q.1).isNone) = false :=
    List.any_eq_false.mpr (fun q hq => ne_true_of_eq_false (bar2Addr_lineParts _ ha hstack q hq))
  change execHostBar2Write f off bytes s = _
  simp only [execHostBar2Write, hbar, hinside, ha, htakes.free, Option.isNone_some, Bool.or_self, Bool.false_eq_true, if_false]
  rfl

theorem cellsTake_length (l : List Host.Cell) (a n : Nat) : (cellsTake l a n).length = n := by
  induction n generalizing a with
  | zero => rfl
  | succ n ih => rw [cellsTake, List.length_cons, ih]

theorem hostBar2Read_reads {s : State} {f off a len : Nat} {p : Partition} (hbar : barOf s f = some p)
    (ha : bar2Addr p off = some a) (hstack : off % 2 ^ 36 + len ≤ 2 ^ 36) (hclean : locPoisoned s 0 (.mem a) len = false) :
    ∃ u, exec (.hostBar2Read f off len) s = .next u ∧ u.fl.out = s.fl.out ++ [.hostRead f (cellsTake s.mem.bytes a len)] ∧
      u.mem.bytes = s.mem.bytes ∧ u.threads = s.threads := by
  have hfits : len ≤ 2 ^ 36 - off % 2 ^ 36 := by omega
  have hnext : bar2Next p off len = some 0 := if_pos hfits
  refine ⟨sendOut (outsideRead s (.host f) 0 (.mem a) len).2 (.hostRead f (cellsTake s.mem.bytes a len)), ?_, rfl, rfl, rfl⟩
  have hread : (outsideRead s (.host f) 0 (.mem a) len).1 = cellsTake s.mem.bytes a len := if_neg (ne_true_of_eq_false hclean)
  change execHostBar2Read f off len s = _
  simp only [execHostBar2Read, hbar, ha, hnext, min_eq_left hfits, hfits, if_true, hread]

theorem hostBar2_unsupported {s : State} {f off : Nat} {p : Partition} (hbar : barOf s f = some p) (ha : bar2Addr p off = none)
    (len : Nat) (bytes : List Byte) :
    exec (.hostBar2Read f off len) s = .next (sendOut s (.unsupported f)) ∧
      exec (.hostBar2Write f off bytes) s = .next (sendOut s (.unsupported f)) := by
  constructor
  · change execHostBar2Read f off len s = _
    simp only [execHostBar2Read, hbar, ha]
  · change execHostBar2Write f off bytes s = _
    simp only [execHostBar2Write, hbar, ha, Option.isNone_none, Bool.true_or, if_true]

end Sys2Proof
end

section
namespace Sys2Proof

open Machine

/-! ### SPDM (R405) -/

/-- A function that answers is a partition. -/
theorem barOf_part {s : State} {f : Nat} {p : Partition} (hbar : barOf s f = some p) : aget s.parts f = some p := by
  unfold barOf at hbar
  split at hbar
  · split at hbar
    · cases hbar
      assumption
    · cases hbar
  · cases hbar

/-- A responder's answer leaves, and joins the transcript of its function. -/
theorem spdmSays_answers {s : State} {f : Nat} {p : Partition} (hbar : barOf s f = some p) (x : SpdmAnswer) :
    (spdmSays s f x).fl.out = s.fl.out ++ [.spdm f x] ∧ aget (spdmSays s f x).parts f = some { p with spdm := p.spdm ++ [x] } ∧
      (spdmSays s f x).mem = s.mem ∧ (spdmSays s f x).threads = s.threads := by
  have hsays : spdmSays s f x = updPart (sendOut s (.spdm f x)) f (fun p => { p with spdm := p.spdm ++ [x] }) := by
    simp only [spdmSays, onBar, hbar]
  rw [hsays, updPart_same, updPart_fl, updPart_mem, updPart_threads]
  exact ⟨rfl, congrArg _ (barOf_part hbar), rfl, rfl⟩

/-! ### Power (R406) -/

theorem budget_eq (p : PwrRegs) : budget p =
    min ((if p.mode = 0 then 2400 else if p.mode = 1 then 1800 else 1200) / (if p.throt then 2 else 1)) p.cap.toNat := by
  unfold budget
  split
  · rename_i hnormal
    simp only [if_pos (show p.mode = 0 from hnormal)]
  · rename_i heco
    simp only [if_neg (show ¬ p.mode = 0 from heco ▸ by decide), if_pos (show p.mode = 1 from heco)]
  · rename_i hnormal heco
    simp only [if_neg (show ¬ p.mode = 0 from hnormal), if_neg (show ¬ p.mode = 1 from heco)]

/-! ### Machine checks (R407) -/

theorem machineCheck_records (s : State) {kind die : Nat} (pa : W) (asid : Nat) (hlow : 1 ≤ kind) (hhigh : kind ≤ 4) :
    exec (.machineCheck kind die pa asid) s =
      .next { checkRec s kind die pa asid with mem := checkHits s.mem kind pa.toNat } := by
  change execMachineCheck kind die pa asid s = _
  simp only [execMachineCheck, if_neg (show ¬ kind = 0 by omega), if_neg (show ¬ 4 < kind by omega)]

theorem checkHits_bytes (m : Memory) (kind pa : Nat) : (checkHits m kind pa).bytes = m.bytes := by
  unfold checkHits
  split <;> rfl

/-- A metadata entry that cannot be fetched. -/
theorem checkHits_metaErr (m : Memory) (pa : Nat) : pa / 512 ∈ (checkHits m 1 pa).metaErr := List.mem_dedup.mpr (.head _)

/-- A poisoned line. -/
theorem checkHits_badLines (m : Memory) {kind : Nat} (pa : Nat) (h : kind = 2 ∨ kind = 3) : pa / 64 ∈ (checkHits m kind pa).badLines := by
  obtain rfl | rfl := h <;> exact List.mem_dedup.mpr (.head _)

theorem checkRec_checks (s : State) (kind : Nat) {die : Nat} (pa : W) (asid : Nat) (hdie : die < 4) :
    (checkRec s kind die pa asid).pkg.checks = s.pkg.checks ++ [[w64 (kind + 256 * die), pa, w64 (asid % 4096), w64 s.cycle]] := by
  simp only [checkRec, Nat.mod_eq_of_lt hdie]

theorem checkRec_signals {s : State} {e : Nat × Partition} (he : e ∈ s.parts) (kind : Nat) {die : Nat} (pa : W) (asid : Nat)
    (hlive : e.2.live = true) (hdie : e.2.dies.getLsbD die = true) : Outbound.msix e.1 2 ∈ (checkRec s kind die pa asid).fl.out := by
  refine List.mem_append_right _ (List.mem_map.mpr ⟨e, List.mem_filter.mpr ⟨he, ?_⟩, rfl⟩)
  rw [hlive, hdie, Bool.and_self]

/-! ### Resident threads (R114, R325) -/

/-- Global register k + 1 of a thread, set where gs has a value for it. -/
def setGlobal (gs : List W) (x : Thread) (k : Nat) : Thread :=
  match gs[k]? with
  | some v => { x with gs := x.gs.set! (k + 1) v }
  | none => x

/-- The global registers gs, the first of them in g1, and those of th where gs ends: what stands in them after the first n are set. -/
theorem foldl_setGlobals (gs : List W) (th : Thread) (n : Nat) (hn : n ≤ 63) :
    ∃ g : Vector W 64, (List.range n).foldl (setGlobal gs) th = { th with gs := g } ∧
      ∀ i (hi : i < 64), g[i] = if 0 < i ∧ i ≤ n then gs.getD (i - 1) th.gs[i] else th.gs[i] := by
  induction n with
  | zero => exact ⟨th.gs, rfl, fun i hi => (if_neg (by omega)).symm⟩
  | succ n ih =>
    obtain ⟨g, hg, hget⟩ := ih (Nat.le_of_succ_le hn)
    rw [List.range_succ, List.foldl_append, hg, List.foldl_cons, List.foldl_nil, setGlobal]
    cases hv : gs[n]? with
    | none =>
      refine ⟨g, rfl, fun i hi => ?_⟩
      rw [hget i hi]
      by_cases hlast : i = n + 1
      · subst hlast
        rw [if_neg (by omega), if_pos (by omega), List.getD_eq_getElem?_getD, Nat.add_sub_cancel, hv, Option.getD_none]
      · simp only [show (0 < i ∧ i ≤ n) ↔ (0 < i ∧ i ≤ n + 1) by omega]
    | some v =>
      refine ⟨g.set! (n + 1) v, rfl, fun i hi => ?_⟩
      by_cases hlast : i = n + 1
      · subst hlast
        rw [if_pos (by omega), List.getD_eq_getElem?_getD, Nat.add_sub_cancel, hv, Option.getD_some]
        simp
      · rw [Vector.set!_eq_setIfInBounds, Vector.getElem_setIfInBounds_ne hi (Ne.symm hlast), hget i hi]
        simp only [show (0 < i ∧ i ≤ n) ↔ (0 < i ∧ i ≤ n + 1) by omega]

theorem withGs_gs (th : Thread) (gs : List W) : ∃ g : Vector W 64, withGs th gs = { th with gs := g } ∧
    g[0] = th.gs[0] ∧ ∀ k : Fin 64, 0 < k.val → g[k.val] = gs.getD (k.val - 1) th.gs[k.val] := by
  obtain ⟨g, hg, hget⟩ := foldl_setGlobals gs th 63 (Nat.le_refl _)
  exact ⟨g, hg, (hget 0 (by decide)).trans (if_neg (by decide)), fun k hk => (hget k.val k.isLt).trans (if_pos ⟨hk, by omega⟩)⟩

/-- What a thread is that starts outside any launch. -/
structure StartsAt (x : Thread) (a cl slot : Nat) (entry : W) (priv : BitVec 2) (gs : List W) : Prop where
  pc : x.pc = entry.extractLsb' 4 60 ++ (0 : BitVec 4)
  mode : x.mode = .ready
  block : x.block = none
  priv : x.regs.priv = priv
  asid : asidOf x = a
  cluster : x.home.cluster = cl
  slot : x.home.slot = slot
  mfull : x.mfull = 0
  ras : x.ras = []
  zero : x.gs[0] = 0
  globals : ∀ k : Fin 64, 0 < k.val → x.gs[k.val] = gs.getD (k.val - 1) 0

theorem needRegion_rest (s : State) (a cl : Nat) : ∃ r, needRegion s a cl = { s with regions := r } := by
  unfold needRegion
  extract_lets slice
  split <;> exact ⟨_, rfl⟩

theorem residentSet_rest (s : State) (a cl : Nat) :
    ∃ n es, (residentSet s a cl).2 = { s with nextId := n, esets := es } ∧ s.nextId ≤ n := by
  unfold residentSet
  extract_lets crew
  split
  · exact ⟨_, _, rfl, Nat.le_refl _⟩
  · exact ⟨_, _, rfl, Nat.le_succ _⟩

/-- Starting a thread changes the handles, the engine sets and the regions beside it, and nothing else. -/
theorem startResident_starts (s : State) (t a cl slot : Nat) (entry : W) (priv : BitVec 2) (gs : List W) (disp : Bool) :
    ∃ x r n es, startResident s t a cl slot entry priv gs disp =
        { s with regions := r, nextId := n, esets := es, threads := aset s.threads t x } ∧
      StartsAt x a cl slot entry priv gs ∧ s.nextId ≤ n := by
  obtain ⟨r, hr⟩ := needRegion_rest s a cl
  obtain ⟨n, es, hes, hn⟩ := residentSet_rest { s with regions := r } a cl
  obtain ⟨g, hg, hzero, hglobals⟩ := withGs_gs (Thread.fresh ⟨cl, slot, ⟨a, 0, cl⟩,
    (residentSet { s with regions := r } a cl).1, 0, 0xFF, 0xFF, disp⟩ (entry &&& 0xFFFFFFFFFFFFFFF0#64) priv 3) gs
  simp only [startResident, hr, hg, hes]
  refine ⟨_, r, n, es, rfl, ⟨and_align16 entry, rfl, rfl, rfl, rfl, rfl, rfl, rfl, rfl, ?_, fun k hk => ?_⟩, hn⟩
  · exact hzero.trans (Vector.getElem_replicate (by decide))
  · exact (hglobals k hk).trans (congrArg (gs.getD (k.val - 1)) (Vector.getElem_replicate k.isLt))

theorem managementThreadStart_starts {s : State} {a cl slot : Nat} {c : Context} (entry : W) (level : Level) (gs : List W)
    (hc : aget s.ctxs a = some c) (hdie : (diesOf s a).getLsbD (dieOf cl) = true) (hcl : cl < 256) (hslot : slot < 16)
    (hresident : haltedResident s a cl slot = none) (hfree : (freeSlots s cl).contains slot = true) :
    exec (.managementThreadStart a entry level cl slot gs) s =
      .next (startResident { s with nextId := s.nextId + 1 } s.nextId a cl slot entry (levelBits level) gs false) := by
  change execManagementThreadStart a entry level cl slot gs s = _
  simp only [execManagementThreadStart, hc, hdie, hresident, hfree, Bool.not_true, decide_eq_false (Nat.not_le.mpr hcl),
    decide_eq_false (Nat.not_le.mpr hslot), Bool.or_self, Bool.false_eq_true, if_false, if_true]

end Sys2Proof
end

section
namespace Sys2Proof

open Machine

/-! ### FAR ports at bring-up (R401, R402) -/

/-- The FAR ports of a list of ports. -/
def farAt (ps : List LinkPort) : List Nat := (List.range 16).filter (fun j => (ps[j]?).any (fun r => r.mode == 2))

/-- No FAR port is without a retry window, and no more than eight of the sixteen are FAR. -/
structure PortsOk (ps : List LinkPort) : Prop where
  sixteen : ps.length ≤ 16
  window : ∀ q ∈ ps, q.mode = 2 → q.wlen ≠ 0
  few : (farAt ps).length ≤ 8

theorem length_filter_eq_range {α : Type} (p : α → Bool) (l : List α) :
    (l.filter p).length = ((List.range l.length).filter (fun j => (l[j]?).any p)).length := by
  induction l with
  | nil => rfl
  | cons a l ih =>
    rw [List.length_cons, List.range_succ_eq_map, List.filter_cons, List.filter_cons, List.filter_map, List.getElem?_cons_zero,
      Option.any_some]
    split
    · rw [List.length_cons, List.length_cons, List.length_map, ih]
      rfl
    · rw [List.length_map, ih]
      rfl

theorem PortsOk.far_le {ps : List LinkPort} (h : PortsOk ps) : (ps.filter (fun q => q.mode == 2)).length ≤ 8 := by
  rw [length_filter_eq_range]
  exact ((List.range_sublist.mpr h.sixteen).filter _).length_le.trans h.few

theorem mem_farAt {ps : List LinkPort} {j : Nat} : j ∈ farAt ps ↔ j < 16 ∧ ∃ r, ps[j]? = some r ∧ r.mode = 2 := by
  simp only [farAt, List.mem_filter, List.mem_range, Option.any_eq_true, beq_iff_eq]

theorem nodup_farAt (ps : List LinkPort) : (farAt ps).Nodup := List.nodup_range.filter _

/-- A port that is not FAR leaves no more FAR ports than there were. -/
theorem farAt_set_near (ps : List LinkPort) (k : Nat) {q : LinkPort} (hq : q.mode ≠ 2) : (farAt (ps.set k q)).length ≤ (farAt ps).length := by
  refine ((nodup_farAt _).subperm (fun j hj => ?_)).length_le
  obtain ⟨hlt, r, hr, hmode⟩ := mem_farAt.mp hj
  refine mem_farAt.mpr ⟨hlt, r, ?_, hmode⟩
  by_cases hk : k = j
  · subst hk
    rw [List.getElem?_set_self'] at hr
    obtain ⟨_, -, rfl⟩ := Option.map_eq_some_iff.mp hr
    exact absurd hmode hq
  · rwa [List.getElem?_set_ne hk] at hr

/-- The FAR ports are the one that is set and those that were FAR beside it. -/
theorem farAt_set_far (s : State) (k : Nat) (q : LinkPort) : (farAt (s.pkg.ports.set k q)).length ≤ (farPorts s k).length + 1 := by
  refine ((nodup_farAt _).subperm (l₂ := k :: farPorts s k) (fun j hj => ?_)).length_le
  obtain ⟨hlt, r, hr, hmode⟩ := mem_farAt.mp hj
  by_cases hk : k = j
  · exact hk ▸ .head _
  · rw [List.getElem?_set_ne hk] at hr
    refine .tail _ (List.mem_filter.mpr ⟨List.mem_range.mpr hlt, ?_⟩)
    rw [hr, Option.any_some, hmode, bne_iff_ne.mpr (Ne.symm hk)]
    rfl

/-- A port as bring-up leaves it. -/
def bootedPort (s : State) (k : Nat) (b : BootPort) (q : LinkPort) : LinkPort :=
  let q1 : LinkPort := { q with wbase := b.wbase &&& frameMask, wlen := b.wlen, keys := if b.sak = [] then q.keys else [⟨0, b.sak, 0⟩] }
  if modeRefused s k q1 b.mode then q1 else { q1 with mode := b.mode }

theorem bootPort_ports (s : State) (k : Nat) (b : BootPort) : (bootPort s k b).pkg.ports = s.pkg.ports.modify k (bootedPort s k b) :=
  modAt_eq_modify ..

/-- Only a port with a retry window becomes FAR, and only where fewer than eight others are. -/
theorem bootedPort_far {s : State} {k : Nat} {b : BootPort} {q : LinkPort} (hnear : q.mode ≠ 2) (hfar : (bootedPort s k b q).mode = 2) :
    (bootedPort s k b q).wlen ≠ 0 ∧ (farPorts s k).length < 8 := by
  unfold bootedPort at hfar ⊢
  extract_lets q1 at hfar
  by_cases hrefused : modeRefused s k q1 b.mode = true
  · rw [if_pos hrefused] at hfar
    exact absurd hfar hnear
  · rw [if_neg hrefused] at hfar ⊢
    replace hfar : b.mode = 2 := hfar
    simp only [modeRefused, hfar, Bool.or_eq_true, Bool.and_eq_true, beq_self_eq_true, true_and, not_or, beq_iff_eq, decide_eq_true_eq] at hrefused
    exact ⟨hrefused.2.1, Nat.not_le.mp hrefused.2.2⟩

theorem portsOk_bootPort {s : State} (h : PortsOk s.pkg.ports) {k : Nat} (hnear : ∀ q, s.pkg.ports[k]? = some q → q.mode ≠ 2) (b : BootPort) :
    PortsOk (bootPort s k b).pkg.ports := by
  rw [bootPort_ports]
  cases hk : s.pkg.ports[k]? with
  | none => rwa [List.modify_eq_self (List.getElem?_eq_none_iff.mp hk)]
  | some q =>
    rw [List.modify_eq_set_getElem?, hk]
    refine ⟨(List.length_set ..).trans_le h.sixteen, fun r hr hmode => ?_, ?_⟩
    · obtain hr | rfl := List.mem_or_eq_of_mem_set hr
      · exact h.window r hr hmode
      · exact (bootedPort_far (hnear q hk) hmode).1
    · by_cases hmode : (bootedPort s k b q).mode = 2
      · exact (farAt_set_far s k _).trans (bootedPort_far (hnear q hk) hmode).2
      · exact (farAt_set_near _ k hmode).trans h.few

theorem portsOk_foldl_bootPort (l : List (BootPort × Nat)) (hl : l.Pairwise (fun x y => x.2 ≠ y.2)) : ∀ {s : State}, PortsOk s.pkg.ports →
    (∀ e ∈ l, ∀ q, s.pkg.ports[e.2]? = some q → q.mode ≠ 2) → PortsOk (l.foldl (fun st e => bootPort st e.2 e.1) s).pkg.ports := by
  induction l with
  | nil => exact fun h _ => h
  | cons e l ih =>
    intro s h hnear
    obtain ⟨hfirst, hrest⟩ := List.pairwise_cons.mp hl
    refine ih hrest (portsOk_bootPort h (hnear e (.head _)) e.1) (fun e' he' q hq => ?_)
    rw [bootPort_ports, List.getElem?_modify_ne _ _ (hfirst e' he')] at hq
    exact hnear e' (.tail _ he') q hq

theorem portsOk_bootPorts {s : State} (hlen : s.pkg.ports.length ≤ 16) (h : ∀ q ∈ s.pkg.ports, q.mode ≠ 2) :
    PortsOk (bootPorts s).pkg.ports := by
  have hstart : PortsOk s.pkg.ports := by
    refine ⟨hlen, fun q hq hmode => absurd hmode (h q hq), ?_⟩
    have hnone : farAt s.pkg.ports = [] := List.eq_nil_iff_forall_not_mem.mpr (fun j hj => by
      obtain ⟨-, r, hr, hmode⟩ := mem_farAt.mp hj
      exact h r (List.mem_of_getElem? hr) hmode)
    rw [hnone]
    decide
  refine portsOk_foldl_bootPort _ (List.pairwise_iff_getElem.mpr (fun i j hi hj hij => ?_)) hstart
    (fun e _ q hq => h q (List.mem_of_getElem? hq))
  simp only [List.getElem_zip, List.getElem_range]
  omega

end Sys2Proof
end

section
namespace Sys2Proof

open Machine

/-! ### The dispatchers at bring-up (R408) -/

/-- Every thread's handle has been given out. -/
def HandlesBelow (s : State) : Prop := ∀ t x, aget s.threads t = some x → t < s.nextId

/-- Partition k is up, and its dispatcher stands at the entry. -/
def DispatcherUp (s : State) (k : Nat) (e : BitVec 4 × BitVec 4 × BitVec 8 × W) : Prop :=
  ∃ p, aget s.parts k = some p ∧ p.dies = e.1 ∧ p.hbm = e.2.2.1 ∧ p.live = true ∧
    ∃ x, aget s.threads p.dispatcher = some x ∧ StartsAt x (k + 1) (lowDie e.1 * 64) 0 e.2.2.2 lSUPER []

/-- Starting a dispatcher gives its partition a thread of a fresh handle, and leaves the package alone. -/
theorem bootDispatcher_starts (s : State) (k : Nat) (dies : BitVec 4) (entry : W) :
    ∃ x, (bootDispatcher s k dies entry).threads = aset s.threads s.nextId x ∧ StartsAt x (k + 1) (lowDie dies * 64) 0 entry lSUPER [] ∧
      s.nextId < (bootDispatcher s k dies entry).nextId ∧
      (bootDispatcher s k dies entry).parts = (updPart s k (fun p => { p with dispatcher := s.nextId })).parts ∧
      (bootDispatcher s k dies entry).pkg = s.pkg := by
  obtain ⟨x, r, n, es, hstart, hx, hn⟩ := startResident_starts
    { s with ctxs := aset s.ctxs (k + 1) { Context.fresh k with xlat := { (Context.fresh k).xlat with root := s.platform.roots.getD k 0 } },
             nextId := s.nextId + 1 } s.nextId (k + 1) (lowDie dies * 64) 0 entry lSUPER [] true
  refine ⟨x, ?_, hx, ?_, ?_, ?_⟩
  all_goals simp only [bootDispatcher, hstart]
  · exact updPart_threads ..
  · rw [updPart_nextId]
    exact hn
  · unfold updPart
    dsimp only
    split <;> rfl
  · exact updPart_pkg ..

/-- The dispatchers of the first n partitions are up, and the other partitions wait for theirs. -/
structure BootedTo (ps : List (BitVec 4 × BitVec 4 × BitVec 8 × W)) (n : Nat) (s : State) : Prop where
  handles : HandlesBelow s
  up : ∀ k < n, ∀ e, ps[k]? = some e → DispatcherUp s k e
  waiting : ∀ k, n ≤ k → ∀ e, ps[k]? = some e → aget s.parts k = some (Partition.fresh e.1 e.2.1 e.2.2.1)

theorem BootedTo.next {ps : List (BitVec 4 × BitVec 4 × BitVec 8 × W)} {n : Nat} {s : State} (h : BootedTo ps n s)
    {e : BitVec 4 × BitVec 4 × BitVec 8 × W} (he : ps[n]? = some e) : BootedTo ps (n + 1) (bootDispatcher s n e.1 e.2.2.2) := by
  obtain ⟨x, hthreads, hx, hnextId, hparts, -⟩ := bootDispatcher_starts s n e.1 e.2.2.2
  refine ⟨fun t y hy => ?_, fun k hk d hd => ?_, fun k hk d hd => ?_⟩
  · by_cases ht : t = s.nextId
    · exact ht ▸ hnextId
    · rw [hthreads, aget_aset_ne _ _ ht] at hy
      exact (h.handles t y hy).trans hnextId
  · unfold DispatcherUp
    rw [hparts, hthreads]
    by_cases hkn : k = n
    · subst hkn
      obtain rfl : e = d := Option.some.inj (he.symm.trans hd)
      rw [updPart_same, h.waiting k (Nat.le_refl k) e he]
      exact ⟨_, rfl, rfl, rfl, rfl, x, aget_aset_same .., hx⟩
    · obtain ⟨p, hp, hdies, hhbm, hlive, y, hy, hstarts⟩ := h.up k (by omega) d hd
      have hother : p.dispatcher ≠ s.nextId := Nat.ne_of_lt (h.handles _ y hy)
      rw [updPart_ne _ _ _ hkn]
      exact ⟨p, hp, hdies, hhbm, hlive, y, (aget_aset_ne _ _ hother).trans hy, hstarts⟩
  · rw [hparts, updPart_ne _ _ _ (by omega)]
    exact h.waiting k (by omega) d hd

/-- The next dispatcher at bring-up, where there is another partition. -/
def bootNext (ps : List (BitVec 4 × BitVec 4 × BitVec 8 × W)) (s : State) (k : Nat) : State :=
  match ps[k]? with
  | some e => bootDispatcher s k e.1 e.2.2.2
  | none => s

theorem bootedTo_foldl_bootNext {ps : List (BitVec 4 × BitVec 4 × BitVec 8 × W)} {s : State} (h : BootedTo ps 0 s) (n : Nat)
    (hn : n ≤ ps.length) : BootedTo ps n ((List.range n).foldl (bootNext ps) s) := by
  induction n with
  | zero => exact h
  | succ n ih =>
    have he : ps[n]? = some ps[n] := List.getElem?_eq_getElem hn
    have hnext : bootNext ps ((List.range n).foldl (bootNext ps) s) n =
        bootDispatcher ((List.range n).foldl (bootNext ps) s) n ps[n].1 ps[n].2.2.2 := by
      unfold bootNext
      rw [he]
    rw [List.range_succ, List.foldl_append, List.foldl_cons, List.foldl_nil, hnext]
    exact (ih (Nat.le_of_succ_le hn)).next he

theorem bootNext_pkg (ps : List (BitVec 4 × BitVec 4 × BitVec 8 × W)) (s : State) (k : Nat) : (bootNext ps s k).pkg = s.pkg := by
  unfold bootNext
  split
  · obtain ⟨-, -, -, -, -, hpkg⟩ := bootDispatcher_starts s k _ _
    exact hpkg
  · rfl

/-- The entry of a list by handle that lists the members of another. -/
theorem aget_filterMap {α β : Type} (o : Nat → Option α) (f : α → β) {k : Nat} {e : α} (he : o k = some e) (l : List Nat) (hk : k ∈ l) :
    aget (l.filterMap (fun j => (o j).map (fun x => (j, f x)))) k = some (f e) := by
  induction l with
  | nil => cases hk
  | cons j l ih =>
    by_cases hj : j = k
    · subst hj
      simp [aget, he]
    · have hrest := ih ((List.mem_cons.mp hk).resolve_left (Ne.symm hj))
      cases ho : o j with
      | none => simpa [ho] using hrest
      | some x => simpa [ho, aget, hj] using hrest

/-! ### COLD_RESET (R404, R408) -/

/-- The image is placed and measured. -/
def imagePlaced (s : State) : State :=
  let p := s.platform
  let s1 := p.image.foldl (fun st e => rawPut st e.1 e.2) s
  { s1 with pkg := { s1.pkg with
    booted := 4, measure := [p.romDigest, Config.sha384 (p.firmware.flatMap (fun g => g.bytes)), Config.sha384 (p.image.flatMap (fun e => e.2)),
      Config.sha384 (p.fusedKey ++ leBytes 8 p.rollback), []] } }

theorem bootImage_eq (s : State) :
    bootImage s = (List.range s.platform.parts.length).foldl (bootNext s.platform.parts) (imagePlaced s) := by
  unfold bootImage bootNext imagePlaced
  rfl

theorem imagePlaced_rest (s : State) : (imagePlaced s).threads = s.threads ∧ (imagePlaced s).parts = s.parts ∧
    (imagePlaced s).pkg.ports = s.pkg.ports ∧ (imagePlaced s).pkg.devid = s.pkg.devid := by
  have hkeeps {γ : Type} (g : State → γ) (hg : ∀ (st : State) (e : Nat × List Byte), g (rawPut st e.1 e.2) = g st) :
      g (s.platform.image.foldl (fun st e => rawPut st e.1 e.2) s) = g s :=
    foldl_keeps g hg s.platform.image s
  exact ⟨hkeeps State.threads (by intros; rfl), hkeeps State.parts (by intros; rfl), hkeeps (fun u => u.pkg.ports) (by intros; rfl),
    hkeeps (fun u => u.pkg.devid) (by intros; rfl)⟩

/-- What bring-up has made of the machine before it starts the dispatchers. -/
theorem bootedTo_start (s : State) : BootedTo s.platform.parts 0 (imagePlaced (bootParts (bootFields (powerOn s)))) := by
  obtain ⟨hthreads, hparts, -, -⟩ := imagePlaced_rest (bootParts (bootFields (powerOn s)))
  refine ⟨fun t x hx => ?_, fun k hk => absurd hk (Nat.not_lt_zero k), fun k _ e he => ?_⟩
  · rw [hthreads] at hx
    cases hx
  · rw [hparts]
    obtain ⟨hk, -⟩ := List.getElem?_eq_some_iff.mp he
    exact aget_filterMap (fun j => s.platform.parts[j]?) (fun e => Partition.fresh e.1 e.2.1 e.2.2.1) he _ (List.mem_range.mpr hk)

theorem bootImage_pkg (s : State) : (bootImage s).pkg = (imagePlaced s).pkg := by
  rw [bootImage_eq]
  exact foldl_keeps State.pkg (bootNext_pkg _) _ _

theorem bootPorts_rest (s : State) : (bootPorts s).threads = s.threads ∧ (bootPorts s).parts = s.parts ∧
    (bootPorts s).pkg.devid = s.pkg.devid :=
  ⟨foldl_keeps State.threads (by intros; rfl) _ s, foldl_keeps State.parts (by intros; rfl) _ s,
    foldl_keeps (fun u => u.pkg.devid) (by intros; rfl) _ s⟩

/-- The machine once bring-up has run through. -/
def broughtUp (s : State) : State := bootPorts (bootImage (bootParts (bootFields (powerOn s))))

theorem coldReset_rejects {s : State} (h : firmwareOk s.platform = false) : exec .coldReset s = .next (powerOn s) := by
  have hplatform : (powerOn s).platform = s.platform := rfl
  change execColdReset s = _
  simp only [execColdReset, hplatform, h, Bool.not_false, if_true]

theorem coldReset_boots {s : State} (h : firmwareOk s.platform = true) :
    exec .coldReset s = .next { broughtUp s with pkg := { (broughtUp s).pkg with booted := 6, devinfo := true } } := by
  have hplatform : (powerOn s).platform = s.platform := rfl
  change execColdReset s = _
  simp only [execColdReset, hplatform, h, Bool.not_true, Bool.false_eq_true, if_false]
  rfl

theorem broughtUp_devid (s : State) : (broughtUp s).pkg.devid = s.platform.devid := by
  obtain ⟨-, -, hdevid⟩ := bootPorts_rest (bootImage (bootParts (bootFields (powerOn s))))
  obtain ⟨-, -, -, hplaced⟩ := imagePlaced_rest (bootParts (bootFields (powerOn s)))
  rw [broughtUp, hdevid, bootImage_pkg, hplaced]
  rfl

theorem portsOk_broughtUp (s : State) : PortsOk (broughtUp s).pkg.ports := by
  obtain ⟨-, -, hports, -⟩ := imagePlaced_rest (bootParts (bootFields (powerOn s)))
  have hbooted : (bootImage (bootParts (bootFields (powerOn s)))).pkg.ports = (bootFields (powerOn s)).pkg.ports := by
    rw [bootImage_pkg, hports]
    rfl
  refine portsOk_bootPorts ?_ (fun q hq => ?_)
  · rw [hbooted]
    exact (List.length_map ..).trans_le ((List.length_zip ..).trans_le (Nat.min_le_left ..))
  rw [hbooted] at hq
  obtain ⟨e, he, rfl⟩ := List.mem_map.mp hq
  have hreset : e.1 = LinkPort.reset := List.eq_of_mem_replicate (List.of_mem_zip he).1
  show e.1.mode ≠ 2
  rw [hreset]
  decide

theorem dispatcherUp_broughtUp (s : State) {k : Nat} {e : BitVec 4 × BitVec 4 × BitVec 8 × W} (he : s.platform.parts[k]? = some e) :
    DispatcherUp (broughtUp s) k e := by
  obtain ⟨hthreads, hparts, -⟩ := bootPorts_rest (bootImage (bootParts (bootFields (powerOn s))))
  have hbooted := bootedTo_foldl_bootNext (bootedTo_start s) s.platform.parts.length (Nat.le_refl _)
  obtain ⟨hk, -⟩ := List.getElem?_eq_some_iff.mp he
  unfold DispatcherUp
  rw [broughtUp, hparts, hthreads, bootImage_eq]
  exact hbooted.up k hk e he

/-! ### The platform (R114, R255, R399, R404 to R408) -/

/-- A thread that starts with no global registers has zeros in them. -/
theorem StartsAt.gs_zero {x : Thread} {a cl slot : Nat} {entry : W} {priv : BitVec 2} (h : StartsAt x a cl slot entry priv []) :
    x.gs = Vector.replicate 64 0 := by
  refine Vector.ext (fun i hi => ?_)
  rw [Vector.getElem_replicate]
  cases i with
  | zero => exact h.zero
  | succ i => exact h.globals ⟨i + 1, hi⟩ (Nat.succ_pos i)

/-- What each SPDM request is answered with. -/
theorem spdm_answers {s : State} {f : Nat} {p : Partition} (hbar : barOf s f = some p) (nonce : List Byte) :
    ∀ e ∈ ([(.getVersion f, .version [(1, 3)]), (.getCapabilities f, .capabilities true true true),
        (.negotiateAlgorithms f, .algorithms "SHA-384" "ECDSA brainpoolP384r1" true),
        (.getDigests f, .digests [(0, Config.sha384 Config.certChain)]), (.getCertificate f, .certificate 0 Config.certChain),
        (.challenge f nonce, .challengeAuth (Config.ecdsaSign (Config.sha384 (p.spdm.flatMap Config.spdmBytes ++ nonce)))),
        (.getMeasurements f, .measurements (([1, 2, 3, 4, 5] : List Nat).zip s.pkg.measure))] : List (Instr × SpdmAnswer)),
      exec e.1 s = .next (spdmSays s f e.2) := by
  have htranscript : transcript s f = p.spdm.flatMap Config.spdmBytes := by rw [transcript, barOf_part hbar, Option.elim_some]
  have hchallenge : exec (.challenge f nonce) s =
      .next (spdmSays s f (.challengeAuth (Config.ecdsaSign (Config.sha384 (p.spdm.flatMap Config.spdmBytes ++ nonce))))) := by
    rw [← htranscript]
    rfl
  simp only [List.forall_mem_cons]
  exact ⟨rfl, rfl, rfl, rfl, rfl, hchallenge, rfl, fun _ h => nomatch h⟩

/-- Settles O55: each clause by the lemma about its operation. -/
theorem platformRuns : Obligations.PlatformRuns := by
  refine ⟨fun s f off p hbar => ⟨fun a ha => ⟨?_, ?_⟩, ?_, ?_⟩, fun s d0 d1 d2 d3 => ⟨_, rfl, rfl, ?_⟩, fun _ _ _ => rfl,
    fun s kind die pa asid => ⟨?_, ?_⟩, ?_, fun s => ?_⟩
  · intro len hstack hclean
    obtain ⟨u, hexec, hout, hmem, hthreads⟩ := hostBar2Read_reads hbar ha hstack hclean
    refine ⟨u, _, hexec, hout, cellsTake_length .., fun k hk => ?_, hmem, hthreads⟩
    rw [List.getD_eq_getElem?_getD, cellsTake_getElem? _ _ _ _ hk]
    rfl
  · intro bytes hstack hheld hmeta hquiet hsafe
    obtain ⟨u, hexec, hwrote⟩ := hostBar2Write_writes hbar ha hstack ⟨hquiet, hheld⟩ hmeta
    refine ⟨u, hexec, fun k hk => ?_, fun x hx => ?_, hwrote.threads⟩
    · rw [Memory.byte, hwrote.bytes, cellsGet_cellsPut_in hsafe a bytes hk]
    · rw [Memory.byte, hwrote.bytes, cellsGet_cellsPut_out _ hsafe hx]
      rfl
  · exact fun len bytes ha => hostBar2_unsupported hbar ha len bytes
  · intro nonce e he
    exact ⟨_, spdm_answers hbar nonce e he, spdmSays_answers hbar e.2⟩
  · simp only [← budget_eq]
    rfl
  · rintro rfl
    rfl
  · intro hlow hhigh hdie
    refine ⟨_, machineCheck_records s pa asid hlow hhigh, checkHits_bytes .., rfl, checkRec_checks s kind pa asid hdie, ?_,
      checkHits_badLines s.mem pa.toNat, fun e he hlive hdies => checkRec_signals he kind pa asid hlive hdies⟩
    rintro rfl
    exact checkHits_metaErr s.mem pa.toNat
  · intro s a c entry level cl slot gs hc hdie hcl hslot hresident hfree
    obtain ⟨x, r, n, es, hstart, hx, -⟩ :=
      startResident_starts { s with nextId := s.nextId + 1 } s.nextId a cl slot entry (levelBits level) gs false
    refine ⟨_, (managementThreadStart_starts entry level gs hc hdie hcl hslot hresident hfree).trans (congrArg _ hstart), rfl, x,
      aget_aset_same .., hx.pc, hx.mode, hx.block, hx.priv, hx.asid, hx.cluster, hx.slot, hx.mfull, hx.ras, hx.zero, hx.globals⟩
  · cases hok : firmwareOk s.platform with
    | false => exact ⟨_, coldReset_rejects hok, fun _ => rfl, fun h => nomatch h⟩
    | true =>
      refine ⟨_, coldReset_boots hok, fun h => (nomatch h), fun _ => ⟨rfl, rfl, broughtUp_devid s, (portsOk_broughtUp s).window,
        (portsOk_broughtUp s).far_le, fun k e he => ?_⟩⟩
      obtain ⟨p, hp, hdies, hhbm, hlive, x, hx, hstarts⟩ := dispatcherUp_broughtUp s he
      exact ⟨p, hp, hdies, hhbm, hlive, x, hx, hstarts.pc, hstarts.priv, hstarts.mode, hstarts.block, hstarts.asid, hstarts.cluster,
        hstarts.slot, hstarts.gs_zero⟩

end Sys2Proof
end

section
namespace Sys2Proof

open Machine

/-! ### DATA on its way to a port (R53, R229) -/

theorem pushPort_data {pt : Port} (l : Lanes) (hstore : pt.store = none) (hlink : pt.link = [])
    (hlanes : pt.elem = tDONE ∨ pt.rep = true ∨ pt.lp = pt.le) : (pushPort pt (.data l)).q = pt.q ++ [.data l] := by
  have hstraight : (pt.elem == tDONE || pt.rep || pt.lp == pt.le) = true := by
    simpa [or_assoc] using hlanes
  simp [pushPort, pump, adaptStep, adaptData, hstore, hlink, hstraight]

/-- Port p of node m takes DATA as it comes: no store reorders it and no adapter regroups it. -/
def TakesData (x : Cell) (m p : Nat) : Prop :=
  ∃ md pt, x.nodes[m]? = some md ∧ md.ports[p]? = some pt ∧ pt.store = none ∧ pt.link = [] ∧
    (pt.elem = tDONE ∨ pt.rep = true ∨ pt.lp = pt.le)

theorem TakesData.congr {x y : Cell} {m p : Nat} (hp : TakesData x m p) (h : y.nodes[m]? = x.nodes[m]?) : TakesData y m p := by
  unfold TakesData
  rwa [h]

theorem cellQueue_sendTo_data {x : Cell} {m p : Nat} (l : Lanes) (hp : TakesData x m p) :
    cellQueue (sendTo x (some (p + 1, m)) (.data l)) m p = cellQueue x m p ++ [.data l] := by
  obtain ⟨md, pt, hmd, hpt, hstore, hlink, hlanes⟩ := hp
  have hport : md.port p = pt := by simp [Node.port, hpt]
  simp only [cellQueue, sendTo, setNode_same _ hmd, hmd, Option.elim_some, Nat.add_sub_cancel, setPort_port_same _ hpt, hport,
    pushPort_data l hstore hlink hlanes]

theorem exists_of_isData {o : Option Token} (h : isData o = true) : ∃ l, o = some (.data l) := by
  unfold isData at h
  split at h
  · exact ⟨_, rfl⟩
  · cases h

/-! ### What a node forms for OUTA, and what of it leaves (R152) -/

/-- y is x but for node n, which has the word of nd and the state st, and has the tokens a to send on OUTA. -/
structure Waits (x y : Cell) (n : Nat) (nd : Node) (a : List Token) (st : NodeState) : Prop where
  others : ∀ k, k ≠ n → y.nodes[k]? = x.nodes[k]?
  node : ∃ z, y.nodes[n]? = some z ∧ z.word = nd.word ∧ z.pendA = a ∧ z.st = st

theorem KeepsNodes.node {α : Type} {g : Node → α} {x y : Cell} {n : Nat} {z : Node} (h : KeepsNodes g x y) (hz : x.nodes[n]? = some z) :
    ∃ w, y.nodes[n]? = some w ∧ g w = g z := by
  obtain ⟨l, rfl, hl⟩ := h
  have hn := congrArg (fun k => k[n]?) hl
  simpa only [List.getElem?_map, hz, Option.map_some, Option.map_eq_some_iff] using hn

section
variable {x y : Cell} {n m p : Nat} {nd : Node} {a : List Token} {st st' : NodeState}

theorem Waits.refl (hn : x.nodes[n]? = some nd) : Waits x x n nd nd.pendA nd.st := ⟨fun _ _ => rfl, nd, hn, rfl, rfl, rfl⟩

theorem Waits.setNode (h : Waits x y n nd a st) {f : Node → Node}
    (hf : ∀ z, (f z).word = z.word ∧ (f z).pendA = z.pendA ∧ (z.st = st → (f z).st = st')) :
    Waits x (Machine.setNode y n f) n nd a st' := by
  obtain ⟨z, hz, hw, ha, hs⟩ := h.node
  obtain ⟨hfw, hfa, hfs⟩ := hf z
  exact ⟨fun k hk => (setNode_ne f hk).trans (h.others k hk), f z, setNode_same f hz, hfw.trans hw, hfa.trans ha, hfs hs⟩

theorem Waits.sendA_data (h : Waits x y n nd a st) (hout : nd.word.outA.isSome = true) (l : Lanes) :
    Waits x (sendA y n (.data l)) n nd (a ++ [.data l]) st := by
  obtain ⟨z, hz, hw, ha, hs⟩ := h.node
  refine ⟨fun k hk => (setNode_ne _ hk).trans (h.others k hk), _, setNode_same _ hz, ?_⟩
  rw [if_neg (by simpa [hw, Option.isNone_iff_eq_none, ← Option.isSome_iff_ne_none] using hout)]
  exact ⟨hw, congrArg (· ++ [Token.data l]) ha, hs⟩

theorem Waits.sendB (h : Waits x y n nd a st) (t : Token) : Waits x (sendB y n t) n nd a st :=
  h.setNode (fun z => by split <;> exact ⟨rfl, rfl, id⟩)

/-- Beats that a node emits join what it has to send. -/
theorem Waits.emitBeats (h : Waits x y n nd a st) (hout : nd.word.outA.isSome = true) (bs : List Lanes) (k : Nat) :
    Waits x (emitBeats y n bs k) n nd (a ++ bs.map Token.data) st := by
  have hbeats : Waits x (bs.foldl (fun c l => sendBoth c n (.data l)) y) n nd (a ++ bs.map Token.data) st := by
    induction bs generalizing y a with
    | nil => simpa using h
    | cons l bs ih =>
      have hboth : Waits x (sendBoth y n (.data l)) n nd (a ++ [.data l]) st := (h.sendA_data hout l).sendB _
      simpa using ih hboth
  exact hbeats.setNode (fun _ => ⟨rfl, rfl, id⟩)

/-- The first token of a node that waits to send DATA reaches the port that OUTA leads to; the others stay. -/
theorem Waits.emitPend (h : Waits x y n nd a st) (hp : TakesData x m p) (hout : nd.word.outA = some (p + 1, m)) (hm : m ≠ n)
    (halone : ∀ b, nd.word.outB = some b → b.2 ≠ m ∨ b.1 - 1 ≠ p) (hroom : roomAt x nd.word.outA = true)
    (hdata : ∀ t, a.head? = some t → isData (some t) = true) :
    cellQueue (emitPend y n) m p = cellQueue x m p ++ a.take 1 ∧
      ∃ z, (emitPend y n).nodes[n]? = some z ∧ z.pendA = a.drop 1 ∧ z.st = st := by
  obtain ⟨z, hz, hw, ha, hs⟩ := h.node
  have hleaves : leaving y z.word.outA z.pendA = a.head? := by
    rw [hout] at hroom
    simp [leaving, hw, hout, roomAt_congr (h.others m hm), hroom, ha]
  rw [emitPend_eq hz, hleaves]
  constructor
  · have hthere (f : Node → Node) : (Machine.setNode y n f).nodes[m]? = x.nodes[m]? := (setNode_ne f hm).trans (h.others m hm)
    rw [cellQueue_sendSome_other _ (hw ▸ halone), hw, hout]
    cases a with
    | nil => simpa [sendSome] using cellQueue_congr (hthere _) p
    | cons t ts =>
      obtain ⟨l, hl⟩ := exists_of_isData (hdata t rfl)
      obtain rfl := Option.some.inj hl
      exact (cellQueue_sendTo_data l (hp.congr (hthere _))).trans (by rw [cellQueue_congr (hthere _)]; rfl)
  · obtain ⟨v, hv, hvs⟩ := (keepsNodes_sendSome (g := fun w => (w.pendA, w.st)) (Machine.setNode y n (dropSent a.head?.isSome
      (leaving y z.word.outB z.pendB).isSome)) z.word.outA a.head? (fun _ _ => rfl)).node (setNode_same _ hz)
    obtain ⟨w, hw, hws⟩ := (keepsNodes_sendSome (g := fun w => (w.pendA, w.st)) _ z.word.outB (leaving y z.word.outB z.pendB)
      (fun _ _ => rfl)).node hv
    obtain ⟨hwa, hwst⟩ := Prod.mk.inj (hws.trans hvs)
    refine ⟨w, hw, hwa.trans ?_, hwst.trans hs⟩
    cases a <;> simp [dropSent, ha]

end

/-! ### A step of a node that sends on OUTA (R152) -/

/-- From s to u node n has begun to send the tokens a on OUTA, which leads to port p of node m; it is left in the state st. -/
def Emits (s u : State) (c n m p : Nat) (a : List Token) (st : NodeState) : Prop :=
  queueAt u c m p = queueAt s c m p ++ a.take 1 ∧ nodeHas u c n (fun y => y.pendA = a.drop 1 ∧ y.st = st)

theorem Emits.sends {s u : State} {c n m p : Nat} {a : List Token} {st : NodeState} (h : Emits s u c n m p a st) :
    sends s u c n m p a := by
  obtain ⟨hq, y, hy, ha, -⟩ := h
  exact ⟨hq, y, hy, ha⟩

theorem LeadsTo.nodeAt {s : State} {c n m p : Nat} {x : Cell} {nd : Node} (h : LeadsTo s c n x nd m p) : NodeAt s c n x nd :=
  ⟨h.cell, h.runs, h.node⟩

theorem LeadsTo.outA_isSome {s : State} {c n m p : Nat} {x : Cell} {nd : Node} (h : LeadsTo s c n x nd m p) :
    nd.word.outA.isSome = true := by
  rw [h.out]
  rfl

/-- The cell after the step of a node: what the step makes of it, once a token of each output has left, and the note that it has fired. -/
theorem nodeEventWhen_cell {s : State} {c n : Nat} {x : Cell} {nd : Node} (ready : Node → Bool) {ok : NodeWord → Bool}
    (f : Cell → Node → Cell) (hat : NodeAt s c n x nd) (hok : ok nd.word = true) :
    ∃ z, aget (nodeEventWhen ready s c n ok f).cells c = some z ∧
      (z = emitPend (if ready nd then f x nd else x) n ∨ z = noteFire s (emitPend (if ready nd then f x nd else x) n) n) := by
  obtain ⟨hcell, hruns, hnode⟩ := hat
  simp only [nodeEventWhen, hcell, hnode, hruns, hok, Bool.not_true, Bool.or_self, Bool.false_eq_true, if_false]
  generalize emitPend (if ready nd then f x nd else x) n = y
  split
  · rename_i hsame
    exact ⟨x, hcell, .inl hsame.symm⟩
  · refine ⟨noteFire s y n, ?_, .inr rfl⟩
    have hset : aget (aset s.cells c (noteFire s y n)) c = some (noteFire s y n) := aget_aset_same s.cells c _
    split
    · split
      · rw [(keepsUnits_noteBreak ..).cells, (keepsUnits_noteLate ..).cells, hset]
      · rw [(keepsUnits_noteLate ..).cells, hset]
    · exact hset

theorem noteFire_node {y : Cell} {n : Nat} {z : Node} (s : State) (hz : y.nodes[n]? = some z) :
    ∃ w, (noteFire s y n).nodes[n]? = some w ∧ w.pendA = z.pendA ∧ w.st = z.st := ⟨_, setNode_same _ hz, rfl, rfl⟩

/-- A step after which a node waits to send DATA on OUTA: the first token leaves. -/
theorem LeadsTo.emits {s : State} {c n m p : Nat} {x : Cell} {nd : Node} {ready : Node → Bool} {ok : NodeWord → Bool}
    {f : Cell → Node → Cell} {a : List Token} {st : NodeState} (h : LeadsTo s c n x nd m p) (hok : ok nd.word = true)
    (hroom : roomAt x nd.word.outA = true) (hdata : ∀ t, a.head? = some t → isData (some t) = true)
    (hw : Waits x (if ready nd then f x nd else x) n nd a st) : Emits s (nodeEventWhen ready s c n ok f) c n m p a st := by
  obtain ⟨md, pt, hmd, hpt, hstore, hlink, -, hlanes⟩ := h.straight
  obtain ⟨hq, y, hy, ha, hs⟩ := hw.emitPend ⟨md, pt, hmd, hpt, hstore, hlink, hlanes⟩ h.out h.other (fun b hb =>
    (h.alone b hb).imp_right (fun hb => by omega)) hroom hdata
  obtain ⟨z, hz, rfl | rfl⟩ := nodeEventWhen_cell ready f h.nodeAt hok
  · exact ⟨by rw [queueAt_eq hz, queueAt_eq h.cell, hq], y, by simp only [nodeOf, hz, hy], ha, hs⟩
  · obtain ⟨w, hw, hwa, hws⟩ := noteFire_node s hy
    exact ⟨by rw [queueAt_eq hz, cellQueue_noteFire, queueAt_eq h.cell, hq], w, by simp only [nodeOf, hz, hw], hwa.trans ha, hws.trans hs⟩

/-! ### What the lockstep ports offer (R154) -/

/-- A beat is offered where every output has credit, and where DATA stands at every port. -/
theorem lockAct_beat {s : State} {x : Cell} {n : Nat} {nd : Node} {ls : List Nat} {sc : Nat → Nat} {fwd : Bool} {xs : List Lanes}
    (h : lockAct s x n nd ls sc fwd = .beat xs) : roomAll x n = true ∧ ∀ k ∈ ls, isData (nd.head k) = true := by
  simp only [lockAct] at h
  repeat' split at h
  any_goals cases h
  exact ⟨by simpa using ‹¬(!roomAll x n) = true›, by simpa using ‹(ls.all fun k => isData (nd.head k)) = true›⟩

/-! ### What any step of a node may do to its cell: it changes the node alone, and adds to what the node has to send on OUTA -/

/-- y is x but for node n, whose word stays and whose tokens for OUTA stay ahead of new ones. -/
structure Appends (n : Nat) (x y : Cell) : Prop where
  others : ∀ k, k ≠ n → y.nodes[k]? = x.nodes[k]?
  node : ∀ z, x.nodes[n]? = some z → ∃ w, y.nodes[n]? = some w ∧ w.word = z.word ∧ z.pendA <+: w.pendA

section
variable {n : Nat} {x y : Cell}

theorem Appends.refl (n : Nat) (x : Cell) : Appends n x x := ⟨fun _ _ => rfl, fun z hz => ⟨z, hz, rfl, List.prefix_refl _⟩⟩

theorem Appends.trans {w : Cell} (h : Appends n x y) (k : Appends n y w) : Appends n x w := by
  refine ⟨fun j hj => (k.others j hj).trans (h.others j hj), fun z hz => ?_⟩
  obtain ⟨z1, hz1, hw1, ha1⟩ := h.node z hz
  obtain ⟨z2, hz2, hw2, ha2⟩ := k.node z1 hz1
  exact ⟨z2, hz2, hw2.trans hw1, ha1.trans ha2⟩

theorem Appends.foldl {α : Type} {f : Cell → α → Cell} (hf : ∀ y e, Appends n y (f y e)) (l : List α) (x : Cell) :
    Appends n x (l.foldl f x) :=
  List.foldlRecOn l f (motive := Appends n x) (.refl n x) (fun y hy e _ => hy.trans (hf y e))

theorem Appends.setNode (h : Appends n x y) {f : Node → Node} (hf : ∀ z, (f z).word = z.word ∧ z.pendA <+: (f z).pendA) :
    Appends n x (Machine.setNode y n f) :=
  h.trans ⟨fun _ hk => setNode_ne f hk, fun z hz => ⟨f z, setNode_same f hz, hf z⟩⟩

/-- A change of a node that leaves its word and what it has to send. -/
theorem Appends.setNode_keep (h : Appends n x y) {f : Node → Node} (hf : ∀ z, (f z).word = z.word ∧ (f z).pendA = z.pendA) :
    Appends n x (Machine.setNode y n f) :=
  h.setNode (fun z => ⟨(hf z).1, (hf z).2 ▸ List.prefix_refl _⟩)

theorem Appends.setPort (h : Appends n x y) (k : Nat) (g : Port → Port) : Appends n x (Machine.setNode y n (fun z => Machine.setPort z k g)) :=
  h.setNode_keep (fun _ => ⟨rfl, rfl⟩)

theorem Appends.popHead (h : Appends n x y) (k : Nat) : Appends n x (Machine.setNode y n (fun z => Machine.popHead z k)) := h.setPort k _

theorem Appends.popPort (h : Appends n x y) (k : Nat) (g : Port → Port) :
    Appends n x (Machine.setNode y n (fun z => Machine.setPort (Machine.popHead z k) k g)) :=
  h.setNode_keep (fun _ => ⟨rfl, rfl⟩)

theorem Appends.sendA (h : Appends n x y) (t : Token) : Appends n x (Machine.sendA y n t) :=
  h.setNode (fun z => by split; exacts [⟨rfl, List.prefix_refl _⟩, ⟨rfl, List.prefix_append _ _⟩])

theorem Appends.sendB (h : Appends n x y) (t : Token) : Appends n x (Machine.sendB y n t) :=
  h.setNode_keep (fun z => by split <;> exact ⟨rfl, rfl⟩)

theorem Appends.sendBoth (h : Appends n x y) (t : Token) : Appends n x (Machine.sendBoth y n t) := (h.sendA t).sendB t

theorem Appends.mergeNode (h : Appends n x y) (s : State) (g : Sig) : Appends n x (Machine.mergeNode s y n g) :=
  h.setNode_keep (fun _ => ⟨rfl, rfl⟩)

theorem Appends.emitPoison (h : Appends n x y) (code sub : BitVec 8) (rec : Nat) : Appends n x (Machine.emitPoison y n code sub rec) := by
  simp only [Machine.emitPoison]
  split
  · exact h
  · split
    · exact (h.setPort 0 _).setNode_keep (fun _ => ⟨rfl, rfl⟩)
    · exact (h.sendBoth _).setNode_keep (fun _ => ⟨rfl, rfl⟩)

theorem Appends.mismatch (h : Appends n x y) (rec : Nat) : Appends n x (Machine.mismatch y n rec) :=
  (h.emitPoison _ _ _).setNode_keep (fun _ => ⟨rfl, rfl⟩)

theorem Appends.endNode (h : Appends n x y) (s : State) (b : Nat) (cnt : Option Nat) : Appends n x (Machine.endNode s y n b cnt) := by
  simp only [Machine.endNode]
  split
  · exact h
  · exact ((h.sendA _).sendB _).setNode_keep (fun _ => ⟨rfl, rfl⟩)

theorem Appends.repPoison (h : Appends n x y) (k rec : Nat) : Appends n x (Machine.repPoison y n k rec) := by
  simp only [Machine.repPoison]
  split
  · exact h
  · split
    · exact h
    · exact (h.setPort k _).emitPoison _ _ _

theorem appends_discardPort {s : State} {k : Nat} (h : discardPort s x n k = some y) : Appends n x y := by
  have hx := Appends.refl n x
  simp only [discardPort] at h
  repeat' split at h
  any_goals cases h
  any_goals exact hx.popHead k
  exact (hx.popPort k _).mergeNode s _

theorem appends_repStep {s : State} {k : Nat} {beat : Bool} (h : repStep s x n k beat = some y) : Appends n x y := by
  have htake := (Appends.refl n x).popPort k
  simp only [repStep] at h
  repeat' split at h
  any_goals cases h
  · exact (htake _).emitPoison _ _ _
  · exact htake _
  · exact (htake _).emitPoison _ _ _
  · exact htake _
  · exact (htake _).repPoison _ _
  · exact ((htake _).mergeNode s _).emitPoison _ _ _
  · exact (htake _).mergeNode s _
  · exact (htake _).emitPoison _ _ _
  · exact (htake _).emitPoison _ _ _

theorem appends_repAct {s : State} {nd : Node} (h : repAct s x n nd = some y) : Appends n x y := by
  obtain ⟨e, -, he⟩ := List.exists_of_findSome?_eq_some h
  exact appends_repStep he

theorem appends_takeLens (nd : Node) (ls : List Nat) (fwd : Bool) : Appends n x (takeLens x n nd ls fwd) := by
  have hx := Appends.refl n x
  simp only [takeLens]
  split
  · exact hx.mismatch _
  · have htaken : Appends n x (Machine.setNode x n (fun z => (ls.filter (fun k => isLen (nd.head k))).foldl (fun y k =>
        setPort (popHead y k) k (fun p => { p with len := some (lenOf (nd.head k)), begun := true })) z)) := by
      refine hx.setNode_keep (fun z => ?_)
      obtain ⟨ps, hps⟩ := foldl_ports (f := fun y k => setPort (popHead y k) k
        (fun p => { p with len := some (lenOf (nd.head k)), begun := true })) (fun _ _ => ⟨_, rfl⟩) (ls.filter (fun k => isLen (nd.head k))) z
      rw [hps]
      exact ⟨rfl, rfl⟩
    split
    · split
      · exact htaken.sendBoth _
      · exact htaken
    · exact htaken

theorem appends_lockAct {s : State} {nd : Node} {ls : List Nat} {sc : Nat → Nat} {fwd : Bool}
    (h : lockAct s x n nd ls sc fwd = .cell y) : Appends n x y := by
  have hx := Appends.refl n x
  simp only [lockAct] at h
  repeat' split at h
  any_goals cases h
  -- the cells of lockAct in its order: the discard after a mismatch and its END, replicate ports, SCALEs, LENs, beats, ENDs
  · obtain ⟨k, -, hk⟩ := List.exists_of_findSome?_eq_some ‹(readsOf nd).findSome? (discardPort s x n) = some _›
    exact appends_discardPort hk
  · exact hx.endNode s _ _
  · exact appends_repAct ‹repAct s x n nd = some _›
  · exact (hx.popHead _).emitPoison _ _ _
  · exact ((hx.popHead _).setPort _ _).sendBoth _
  · exact hx.setPort _ _
  · exact (hx.popHead _).emitPoison _ _ _
  · exact (hx.popHead _).emitPoison _ _ _
  · exact appends_takeLens nd ls fwd
  · exact hx.emitPoison _ _ _
  · exact appends_takeLens nd ls fwd
  · exact hx.emitPoison _ _ _
  · exact (hx.popHead _).emitPoison _ _ _
  · exact (hx.emitPoison _ _ _).setNode_keep (fun _ => ⟨rfl, rfl⟩)
  · exact hx.mismatch _
  · exact hx.mismatch _

theorem appends_lockEnd (s : State) (b : Nat) (nd : Node) (ls : List Nat) : Appends n x (lockEnd s x n b nd ls) := by
  have hx := Appends.refl n x
  simp only [lockEnd]
  split
  · repeat' split
    · exact hx.repPoison _ _
    · exact (hx.setPort _ _).repPoison _ _
    · exact hx
  · refine (Appends.foldl (fun y k => ?_) ls x).endNode s b _
    split
    · exact ((Appends.refl n y).popHead _).mergeNode s _
    · exact .refl n y

theorem appends_emitBeats (h : Appends n x y) (bs : List Lanes) (k : Nat) : Appends n x (emitBeats y n bs k) :=
  (h.trans (Appends.foldl (fun w l => (Appends.refl n w).sendBoth (.data l)) bs y)).setNode_keep (fun _ => ⟨rfl, rfl⟩)

theorem consume_ports (nd : Node) (ls : List Nat) : ∃ ps, consume nd ls = { nd with ports := ps } := by
  obtain ⟨ps, hps⟩ := foldl_ports (f := fun z k => setPort z k takeBeat) (fun _ _ => ⟨_, rfl⟩) ls nd
  simp only [consume, hps, repPorts, List.foldl_map]
  exact foldl_ports (fun z k => by split; exacts [⟨_, rfl⟩, ⟨z.ports, rfl⟩]) _ _

end

end Sys2Proof
end

section
namespace Sys2Proof

open Machine

/-! ### Beats in and out (R152, R155) -/

theorem head_data {bs : List Lanes} {t : Token} (h : (bs.map Token.data).head? = some t) : isData (some t) = true := by
  cases bs with
  | nil => cases h
  | cons l bs =>
    obtain rfl := Option.some.inj h
    rfl

section
variable {s : State} {c n m p : Nat} {x : Cell} {nd : Node} {xs : List Lanes}

theorem waits_of_sentAll (hn : x.nodes[n]? = some nd) (h : nd.sentAll = true) : Waits x x n nd [] nd.st := by
  have hempty : nd.pendA = [] := by simpa using (Bool.and_eq_true_iff.mp h).1
  exact hempty ▸ Waits.refl hn

theorem Waits.consume {y : Cell} {a : List Token} {st : NodeState} (h : Waits x y n nd a st) (ls : List Nat) :
    Waits x (Machine.setNode y n (fun z => Machine.consume z ls)) n nd a st := by
  refine h.setNode (fun z => ?_)
  obtain ⟨ps, hps⟩ := consume_ports z ls
  rw [hps]
  exact ⟨rfl, rfl, id⟩

/-- A step of a node with credit, after which it has beats to send: the first of them leaves. -/
theorem LeadsTo.emits_beats {ok : NodeWord → Bool} {f : Cell → Node → Cell} {bs : List Lanes} {st : NodeState}
    (h : LeadsTo s c n x nd m p) (hformed : nd.sentAll = true) (hok : ok nd.word = true) (hroom : roomAll x n = true)
    (hw : Waits x (f x nd) n nd (bs.map Token.data) st) : Emits s (nodeEvent s c n ok f) c n m p (bs.map Token.data) st :=
  h.emits hok ((roomAll_iff h.node).mp hroom).1 (fun _ ht => head_data ht) (by rwa [if_pos hformed])

/-- A node whose lockstep ports offer a beat, of which its mode makes one beat: that comes to wait where OUTA leads. -/
theorem LeadsTo.lockNode_beat {kind : Nat} {mode : Nat → Bool} {ls : Node → List Nat} {sc : Node → Nat → Nat} {fwd : Bool}
    {go : Cell → Node → List Lanes → Cell} {l : Lanes} {st : NodeState} (h : LeadsTo s c n x nd m p) (hformed : nd.sentAll = true)
    (hkind : nd.word.kind = kind) (hmode : mode nd.word.mode = true) (hact : lockAct s x n nd (ls nd) (sc nd) fwd = .beat xs)
    (hw : Waits x (go x nd xs) n nd [.data l] st) :
    queueAt (lockNode s c n kind mode ls sc fwd go) c m p = queueAt s c m p ++ [.data l] := by
  unfold lockNode
  exact (h.emits_beats (bs := [l]) (st := st) hformed (by simp [hkind, hmode]) (lockAct_beat hact).1 (by simp only [hact]; exact hw)).1

/-- The beats that a node makes of the one that it consumes wait to leave it. -/
theorem waits_beats (h : LeadsTo s c n x nd m p) (hformed : nd.sentAll = true) (ls : List Nat) (bs : List Lanes) (k : Nat) :
    Waits x (emitBeats (setNode x n (fun z => consume z ls)) n bs k) n nd (bs.map Token.data) nd.st :=
  ((waits_of_sentAll h.node hformed).consume ls).emitBeats h.outA_isSome bs k

theorem Waits.countElems {y : Cell} {a : List Token} {st : NodeState} (h : Waits x y n nd a st) (l : List Elem) :
    Waits x (countElems n y l) n nd a st :=
  h.setNode (fun _ => ⟨rfl, rfl, id⟩)

/-! ### MAP, TRANSC and FILTER (R161 to R165, R170) -/

/-- The element results of a MAP, lane by lane: none where an operand has none (R153). -/
def mapElems (nd : Node) (xs : List Lanes) : List (Option Elem) :=
  (List.range (nd.port 0).le).map (fun i =>
    match laneOperand nd (lockPorts nd) xs i 0, laneOperand nd (lockPorts nd) xs i 1, laneOperand nd (lockPorts nd) xs i 2 with
    | some a, some b, some d => some (mapLane nd.word (nd.port 0).elem a b d)
    | _, _, _ => none)

theorem mapBeat_eq (hready : repReady nd = true) (hshort : repShort nd = none) :
    mapBeat x n nd xs = countElems n (emitBeats (setNode x n (fun z => consume z (lockPorts nd))) n
      [(mapElems nd xs).map (Option.map Prod.fst)] (beatPositions (nd.port 0))) ((mapElems nd xs).filterMap id) := by
  simp only [mapBeat, hready, hshort, Bool.not_true, Bool.false_eq_true, if_false]
  rfl

theorem mapElems_lane {i : Nat} (hi : i < (nd.port 0).le) :
    ((mapElems nd xs).map (Option.map Prod.fst)).getD i none = (match laneOperand nd (lockPorts nd) xs i 0,
        laneOperand nd (lockPorts nd) xs i 1, laneOperand nd (lockPorts nd) xs i 2 with
      | some a, some b, some d => some (mapLane nd.word (nd.port 0).elem a b d).1
      | _, _, _ => none) := by
  simp only [mapElems, List.map_map, List.getD_eq_getElem?_getD, List.getElem?_map, List.getElem?_range hi, Option.map_some,
    Option.getD_some, Function.comp_apply]
  generalize laneOperand nd (lockPorts nd) xs i 0 = a
  generalize laneOperand nd (lockPorts nd) xs i 1 = b
  generalize laneOperand nd (lockPorts nd) xs i 2 = d
  cases a <;> cases b <;> cases d <;> rfl

theorem mapFire_sends (h : LeadsTo s c n x nd m p) (hformed : nd.sentAll = true) (hkind : nd.word.kind = kMAP)
    (hact : lockAct s x n nd (lockPorts nd) (scaleFwd nd) true = .beat xs) (hready : repReady nd = true) (hshort : repShort nd = none) :
    ∃ u, exec (.mapFire c n) s = .next u ∧ queueAt u c m p = queueAt s c m p ++ [.data ((mapElems nd xs).map (Option.map Prod.fst))] := by
  refine ⟨_, rfl, h.lockNode_beat hformed hkind rfl hact (st := nd.st) ?_⟩
  rw [mapBeat_eq hready hshort]
  exact (waits_beats h hformed (lockPorts nd) [_] _).countElems _

theorem transcFire_sends (h : LeadsTo s c n x nd m p) (hformed : nd.sentAll = true) (hkind : nd.word.kind = kTRANSC)
    (hact : lockAct s x n nd [0] (scaleFwd nd) true = .beat xs) :
    ∃ u, exec (.transcFire c n) s = .next u ∧ queueAt u c m p = queueAt s c m p ++
      [.data ((xs.headD []).map (Option.map (fun a => (transcLane nd.word (nd.port 0).elem a).1)))] := by
  refine ⟨_, rfl, h.lockNode_beat hformed hkind rfl hact (st := nd.st) ?_⟩
  have hlanes : (xs.headD []).map (Option.map (fun a => (transcLane nd.word (nd.port 0).elem a).1)) =
      ((xs.headD []).map (Option.map (transcLane nd.word (nd.port 0).elem))).map (Option.map Prod.fst) := by
    simp [Function.comp_def]
  rw [hlanes]
  exact (waits_beats h hformed [0] [_] _).countElems _

/-- The lanes of a beat whose predicate has a truth value. -/
def filterLanes (v : Bool) (a b : Lanes) : Lanes :=
  (List.range a.length).map (fun i => match b.getD i none with
    | some q => if (q % 256 != 0) = v then a.getD i none else none
    | none => none)

theorem filterLanes_true_lane {a b : Lanes} {i : Nat} (hi : i < a.length) :
    (filterLanes true a b).getD i none = (match b.getD i none with
      | some q => if q % 256 ≠ 0 then a.getD i none else none
      | none => none) := by
  simp only [filterLanes, List.getD_eq_getElem?_getD, List.getElem?_map, List.getElem?_range hi, Option.map_some, Option.getD_some]
  cases b[i]?.getD none <;> simp

theorem filterFire_sends (h : LeadsTo s c n x nd m p) (hformed : nd.sentAll = true) (hkind : nd.word.kind = kFILTER)
    (hact : lockAct s x n nd [0, 1] (scaleFwd nd) true = .beat xs) :
    ∃ u, exec (.filterFire c n) s = .next u ∧
      queueAt u c m p = queueAt s c m p ++ [.data (filterLanes true (xs.getD 0 []) (xs.getD 1 []))] := by
  refine ⟨_, rfl, h.lockNode_beat hformed hkind rfl hact (st := nd.st) ?_⟩
  refine ((waits_of_sentAll h.node hformed).setNode (fun z => ?_)).sendA_data h.outA_isSome _ |>.sendB _
  obtain ⟨ps, hps⟩ := consume_ports z [0, 1]
  rw [hps]
  exact ⟨rfl, rfl, id⟩

/-! ### CONV (R166 to R169) -/

theorem chunks_single {l : Lanes} (h : 0 < l.length) : chunks l.length l = [l] := by
  simp [chunks, Nat.div_self h]

/-- The element results of a CVT, lane by lane. -/
def cvtElems (nd : Node) (l : Lanes) : List (Option Elem) :=
  (List.range (nd.port 0).le).map (fun i => match l.getD i none with
    | some a => cvtLane nd.word (nd.port 0) ((nd.port 0).pos + i) a
    | none => none)

theorem cvtElems_lane {l : Lanes} {i : Nat} (hi : i < (nd.port 0).le) :
    ((cvtElems nd l).map (Option.map Prod.fst)).getD i none = (match l.getD i none with
      | some a => (cvtLane nd.word (nd.port 0) ((nd.port 0).pos + i) a).map (fun e => e.1)
      | none => none) := by
  simp only [cvtElems, List.map_map, List.getD_eq_getElem?_getD, List.getElem?_map, List.getElem?_range hi, Option.map_some,
    Option.getD_some, Function.comp_apply]
  cases l[i]?.getD none <;> rfl

/-- A beat of CVT with the scales that it needs, where input and output have the same LANES. -/
theorem cvtBeat_eq (hlanes : nd.ord.lanes = (nd.port 0).le) (hpos : 0 < beatPositions (nd.port 0))
    (hscales : ∀ i < beatPositions (nd.port 0), ((xs.headD []).getD i none).isSome = true →
      cvtBlock nd.word = 0 ∨ (scaleAt (nd.port 0) (cvtBlock nd.word) ((nd.port 0).pos + i)).isSome = true) :
    cvtBeat x n nd xs = countElems n (emitBeats (setNode x n (fun z => consume z [0])) n
      [(cvtElems nd (xs.headD [])).map (Option.map Prod.fst)] (beatPositions (nd.port 0))) ((cvtElems nd (xs.headD [])).filterMap id) := by
  have hbare : (List.range (beatPositions (nd.port 0))).find? (fun i => ((xs.headD []).getD i none).isSome && cvtBlock nd.word != 0 &&
      (scaleAt (nd.port 0) (cvtBlock nd.word) ((nd.port 0).pos + i)).isNone) = none := by
    simp only [List.find?_eq_none, List.mem_range, Bool.and_eq_true, bne_iff_ne, ne_eq]
    rintro i hi ⟨⟨hlane, hblock⟩, hnone⟩
    obtain hzero | hsome := hscales i hi hlane
    · exact hblock hzero
    · simp [Option.isNone_iff_eq_none.mp hnone] at hsome
  have hlen : ((cvtElems nd (xs.headD [])).map (Option.map Prod.fst)).length = nd.ord.lanes := by simp [cvtElems, hlanes]
  have hle : 0 < nd.ord.lanes := by
    simp only [Order.lanes, pow2_eq]
    positivity
  have hwhole : (chunks nd.ord.lanes ((cvtElems nd (xs.headD [])).map (Option.map Prod.fst))).take
      ((beatPositions (nd.port 0) + nd.ord.lanes - 1) / nd.ord.lanes) = [(cvtElems nd (xs.headD [])).map (Option.map Prod.fst)] := by
    have hbeats : 1 ≤ (beatPositions (nd.port 0) + nd.ord.lanes - 1) / nd.ord.lanes := Nat.div_pos (by omega) hle
    rw [← hlen, chunks_single (hlen ▸ hle), hlen]
    exact List.take_of_length_le hbeats
  have hbeat : cvtBeat x n nd xs = countElems n (emitBeats (setNode x n (fun z => consume z [0])) n
      ((chunks nd.ord.lanes ((cvtElems nd (xs.headD [])).map (Option.map Prod.fst))).take
        ((beatPositions (nd.port 0) + nd.ord.lanes - 1) / nd.ord.lanes)) (beatPositions (nd.port 0)))
      ((cvtElems nd (xs.headD [])).filterMap id) := by
    simp only [cvtBeat, hbare, Option.isSome_none, Bool.false_and, Bool.false_eq_true, if_false]
    rfl
  rw [hbeat, hwhole]

theorem convCvt_sends (h : LeadsTo s c n x nd m p) (hformed : nd.sentAll = true) (hkind : nd.word.kind = kCONV) (hmode : nd.word.mode = 0)
    (hact : lockAct s x n nd [0] (cvtScale nd) true = .beat xs) (hlanes : nd.ord.lanes = (nd.port 0).le)
    (hpos : 0 < beatPositions (nd.port 0))
    (hscales : ∀ i < beatPositions (nd.port 0), ((xs.headD []).getD i none).isSome = true →
      cvtBlock nd.word = 0 ∨ (scaleAt (nd.port 0) (cvtBlock nd.word) ((nd.port 0).pos + i)).isSome = true) :
    ∃ u, exec (.convCvt c n) s = .next u ∧
      queueAt u c m p = queueAt s c m p ++ [.data ((cvtElems nd (xs.headD [])).map (Option.map Prod.fst))] := by
  refine ⟨_, rfl, (h.emits_beats (bs := [_]) (st := nd.st) hformed (by simp [hkind, hmode]) (lockAct_beat hact).1 ?_).1⟩
  simp only [hact]
  rw [cvtBeat_eq hlanes hpos hscales]
  exact (waits_beats h hformed [0] [_] _).countElems _

theorem Waits.setConv {y : Cell} {a : List Token} {st : NodeState} (h : Waits x y n nd a st) (inp out : Lanes) (warned : Bool) :
    Waits x (Machine.setNode y n (fun z => Machine.setConv z inp out warned)) n nd a (.conv inp out warned) :=
  h.setNode (fun _ => ⟨rfl, rfl, fun _ => rfl⟩)

/-- What a CONV that regroups elements has of them after a beat: those that wait, and those that come out. -/
theorem waits_regroup (h : LeadsTo s c n x nd m p) (hformed : nd.sentAll = true) {f : Lanes → Lanes × Lanes × Option Nat}
    (hf : (f ((convOf nd).1 ++ (xs.headD []).take (beatPositions (nd.port 0)))).2.2 = none) :
    ∃ st, Waits x (regroup x n nd xs f) n nd ((chunks nd.ord.lanes ((convOf nd).2.1 ++
      (f ((convOf nd).1 ++ (xs.headD []).take (beatPositions (nd.port 0)))).2.1)).map Token.data) st := by
  simp only [regroup, hf, convEmit, Bool.false_eq_true, false_and, if_false]
  exact ⟨_, (((waits_of_sentAll h.node hformed).consume [0]).setConv _ _ _).emitBeats h.outA_isSome _ _⟩

/-- A CONV that regroups elements sends every whole beat of those that come out. -/
theorem regroup_sends {ok : NodeWord → Bool} {g : Cell → Node → Cell} {f : Lanes → Lanes × Lanes × Option Nat} {sc : Nat → Nat}
    {fwd : Bool} (h : LeadsTo s c n x nd m p) (hformed : nd.sentAll = true) (hok : ok nd.word = true)
    (hact : lockAct s x n nd [0] sc fwd = .beat xs) (hg : g x nd = regroup x n nd xs f)
    (hf : (f ((convOf nd).1 ++ (xs.headD []).take (beatPositions (nd.port 0)))).2.2 = none) :
    sends s (nodeEvent s c n ok g) c n m p ((chunks nd.ord.lanes ((convOf nd).2.1 ++
      (f ((convOf nd).1 ++ (xs.headD []).take (beatPositions (nd.port 0)))).2.1)).map Token.data) := by
  obtain ⟨st, hw⟩ := waits_regroup h hformed hf
  exact (h.emits_beats hformed hok (lockAct_beat hact).1 (hg ▸ hw)).sends

/-- The tokens that a node has still to send leave one by one (R152). -/
theorem nodeEventWhen_sends_pending {t : Token} {ts : List Token} {ready : Node → Bool} {ok : NodeWord → Bool} {f : Cell → Node → Cell}
    (h : LeadsTo s c n x nd m p) (hok : ok nd.word = true) (hpend : nd.pendA = t :: ts) (hready : ready nd = false)
    (hroom : roomAt x nd.word.outA = true) (hdata : isData (some t) = true) :
    Emits s (nodeEventWhen ready s c n ok f) c n m p (t :: ts) nd.st := by
  refine h.emits hok hroom (fun t' ht => Option.some.inj ht ▸ hdata) ?_
  rw [hready, ← hpend]
  exact Waits.refl h.node


/-! ### TRANSPOSE (R218) -/

theorem Waits.setRow {y : Cell} {a : List Token} {st : NodeState} (h : Waits x y n nd a st) (hst : st = nd.st) (f : RowState → RowState) :
    Waits x (Machine.setRow y n f) n nd a (.row (f (rowOf nd))) := by
  refine h.setNode (fun z => ⟨rfl, rfl, fun hz => ?_⟩)
  have hrow : rowOf z = rowOf nd := by simp only [rowOf, hz, hst]
  rw [hrow]

theorem Appends.setRow {y : Cell} (h : Appends n x y) (f : RowState → RowState) : Appends n x (Machine.setRow y n f) :=
  h.setNode_keep (fun _ => ⟨rfl, rfl⟩)

theorem appends_rowBetween {y : Cell} (h : Appends n x y) : Appends n x (rowBetween y n) := by
  simp only [rowBetween]
  split
  · exact h
  · split
    · exact h.setRow _
    · exact h

/-- What the step of a TRANSPOSE makes of its cell, whatever stands at its port. -/
def transposeCell (s : State) (n : Nat) (x : Cell) (nd : Node) : Cell :=
  rowBetween (match lockAct s x n nd [0] (fun _ => 0) false with
    | .idle => x
    | .cell y => y
    | .fin => lockEnd s x n 0 nd [0]
    | .beat xs =>
      let l := nd.ord.lanes
      let buf := (rowOf nd).buf ++ [xs.headD []]
      let y := setNode x n (fun z => consume z [0])
      if buf.length < l then setRow y n (fun r => { r with buf := buf })
      else emitBeats (setRow y n (fun r => { r with buf := [] })) n ((List.range l).map (blockColumn buf)) (l * l)) n

theorem permTranspose_eq (s : State) (c n : Nat) : exec (.permTranspose c n) s =
    .next (nodeEventWhen transposeReady s c n (fun w => w.kind == kPERM && w.mode == 2) (transposeCell s n)) := rfl

theorem appends_transposeCell (s : State) (n : Nat) (x : Cell) (nd : Node) : Appends n x (transposeCell s n x nd) := by
  have hx := Appends.refl n x
  refine appends_rowBetween ?_
  split
  · exact hx
  · exact appends_lockAct (by assumption)
  · exact appends_lockEnd s 0 nd [0]
  · rename_i xs _
    have htaken : Appends n x (setNode x n (fun z => consume z [0])) := by
      refine hx.setNode_keep (fun z => ?_)
      obtain ⟨ps, hps⟩ := consume_ports z [0]
      rw [hps]
      exact ⟨rfl, rfl⟩
    dsimp only
    split
    · exact htaken.setRow _
    · exact appends_emitBeats (htaken.setRow _) _ _

theorem Appends.waits {y : Cell} (h : Appends n x y) (hn : x.nodes[n]? = some nd) : ∃ more st, Waits x y n nd (nd.pendA ++ more) st := by
  obtain ⟨w, hw, hword, more, hmore⟩ := h.node nd hn
  exact ⟨more, w.st, h.others, w, hw, hword, hmore.symm, rfl⟩


/-- A TRANSPOSE that waits to send a beat sends it, whatever it does with what stands at its port. -/
theorem permTranspose_waits {t : Token} {ts : List Token} (h : LeadsTo s c n x nd m p) (hkind : nd.word.kind = kPERM)
    (hmode : nd.word.mode = 2) (hpend : nd.pendA = t :: ts) (hroom : roomAt x nd.word.outA = true) (hdata : isData (some t) = true) :
    ∃ u more st, exec (.permTranspose c n) s = .next u ∧ Emits s u c n m p (t :: (ts ++ more)) st := by
  have happ : Appends n x (if transposeReady nd then transposeCell s n x nd else x) := by
    split
    · exact appends_transposeCell s n x nd
    · exact .refl n x
  obtain ⟨more, st, hw⟩ := happ.waits h.node
  rw [hpend] at hw
  exact ⟨_, more, st, permTranspose_eq s c n, h.emits (by simp [hkind, hmode]) hroom (fun t' ht => Option.some.inj ht ▸ hdata) hw⟩

/-- A change of a port that keeps a field of it keeps that field of every port. -/
theorem setPort_keeps {α : Type} (π : Port → α) (nd : Node) (k j : Nat) {g : Port → Port} (hg : ∀ q, π (g q) = π q) :
    π ((setPort nd k g).port j) = π (nd.port j) := by
  by_cases hj : j = k
  · subst hj
    cases hp : nd.ports[j]? with
    | none => simp [setPort, Node.port, modAt, hp]
    | some pt => rw [setPort_port_same g hp, hg, Node.port, hp, Option.getD_some]
  · rw [setPort_port_ne nd g hj]

/-- Port 0 after its beat has been taken: it is fed as before, and stands behind the positions of the beat. -/
theorem consume_port (hfed : (nd.port 0).fed = true) :
    ((consume nd [0]).port 0).fed = true ∧ ((consume nd [0]).port 0).pos = (nd.port 0).pos + beatPositions (nd.port 0) := by
  have htaken : ((setPort nd 0 takeBeat).port 0).fed = true ∧
      ((setPort nd 0 takeBeat).port 0).pos = (nd.port 0).pos + beatPositions (nd.port 0) := by
    cases hp : nd.ports[0]? with
    | none => simp [Node.port, hp, Port.idle] at hfed
    | some pt =>
      have hport : nd.port 0 = pt := by simp [Node.port, hp]
      rw [setPort_port_same takeBeat hp, hport]
      exact ⟨hport ▸ hfed, rfl⟩
  simp only [consume, List.foldl_cons, List.foldl_nil]
  refine List.foldlRecOn _ _ (motive := fun z : Node => (z.port 0).fed = true ∧
    (z.port 0).pos = (nd.port 0).pos + beatPositions (nd.port 0)) htaken (fun z ⟨hz, hzpos⟩ e _ => ?_)
  split
  · have hkeeps := setPort_keeps (fun q => (q.fed, q.pos)) z e.1 0 (g := fun q => { q with scalar := none }) (fun _ => rfl)
    obtain ⟨hkfed, hkpos⟩ := Prod.mk.inj hkeeps
    exact ⟨hkfed.trans hz, hkpos.trans hzpos⟩
  · exact ⟨hz, hzpos⟩

theorem zero_mem_readsOf {z : Node} (h : (z.port 0).fed = true) : 0 ∈ readsOf z := by
  simp [readsOf, h]

/-- Within a stream nothing of a row node is cleared. -/
theorem rowBetween_begun {y : Cell} {z : Node} {k : Nat} (hz : y.nodes[n]? = some z) (hk : k ∈ readsOf z) (hpos : 0 < (z.port k).pos) :
    rowBetween y n = y := by
  have hbegun : ((readsOf z).all fun k => (z.port k).pos == 0) = false :=
    List.all_eq_false.mpr ⟨k, hk, by simpa using Nat.ne_of_gt hpos⟩
  simp only [rowBetween, hz, hbegun, Bool.false_and, Bool.false_eq_true, if_false]

/-- A TRANSPOSE in whose buffer a beat of the next block fits beside those that wait to leave takes it (R218). -/
theorem permTranspose_takes {t : Token} {ts : List Token} (h : LeadsTo s c n x nd m p) (hkind : nd.word.kind = kPERM)
    (hmode : nd.word.mode = 2) (hpend : nd.pendA = t :: ts) (hpendB : nd.pendB = []) (hdata : isData (some t) = true)
    (hact : lockAct s x n nd [0] (fun _ => 0) false = .beat xs) (hfed : (nd.port 0).fed = true) (hpos : 0 < beatPositions (nd.port 0))
    (hfits : (rowOf nd).buf.length + ts.length + 1 < nd.ord.lanes) :
    ∃ u, exec (.permTranspose c n) s = .next u ∧
      Emits s u c n m p (t :: ts) (.row { rowOf nd with buf := (rowOf nd).buf ++ [xs.headD []] }) := by
  obtain ⟨hroom, hheads⟩ := lockAct_beat hact
  have hready : transposeReady nd = true := by
    have hroomy : (rowOf nd).buf.length + max nd.pendA.length nd.pendB.length < nd.ord.lanes := by
      simpa [hpend, hpendB, Nat.add_assoc] using hfits
    simp [transposeReady, hheads 0 (List.mem_singleton_self 0), hroomy]
  refine ⟨_, permTranspose_eq s c n, h.emits (by simp [hkind, hmode]) ((roomAll_iff h.node).mp hroom).1
    (fun t' ht => Option.some.inj ht ▸ hdata) ?_⟩
  have hshort : ((rowOf nd).buf ++ [xs.headD []]).length < nd.ord.lanes := by
    simp only [List.length_append, List.length_singleton]
    omega
  have hbetween : transposeCell s n x nd =
      setRow (setNode x n (fun z => consume z [0])) n (fun r => { r with buf := (rowOf nd).buf ++ [xs.headD []] }) := by
    simp only [transposeCell, hact, hshort, if_true]
    obtain ⟨hfed', hpos'⟩ := consume_port hfed
    refine rowBetween_begun (k := 0) (setNode_same _ (setNode_same _ h.node)) (zero_mem_readsOf hfed') ?_
    change 0 < ((consume nd [0]).port 0).pos
    omega
  have hw := ((Waits.refl h.node).consume [0]).setRow rfl (fun r => { r with buf := (rowOf nd).buf ++ [xs.headD []] })
  rw [if_pos hready, hbetween, ← hpend]
  exact hw


/-- A TRANSPOSE that waits to send beats sends the first, and takes a beat of the next block where the two blocks fit (R152, R218). -/
theorem permTranspose_sends {t : Token} {ts : List Token} (h : LeadsTo s c n x nd m p) (hkind : nd.word.kind = kPERM)
    (hmode : nd.word.mode = 2) (hpend : nd.pendA = t :: ts) (hpendB : nd.pendB = []) (hroom : roomAt x nd.word.outA = true)
    (hdata : isData (some t) = true) :
    ∃ u y, exec (.permTranspose c n) s = .next u ∧ queueAt u c m p = queueAt s c m p ++ [t] ∧ nodeOf u c n = some y ∧
      y.pendA.take ts.length = ts ∧
      (∀ ys, lockAct s x n nd [0] (fun _ => 0) false = .beat ys → (nd.port 0).fed = true → 0 < beatPositions (nd.port 0) →
        (rowOf nd).buf.length + ts.length + 1 < nd.ord.lanes →
        y.pendA = ts ∧ (rowOf y).buf = (rowOf nd).buf ++ [ys.headD []]) := by
  obtain ⟨u, more, st, hu, hq, y, hy, hpa, -⟩ := permTranspose_waits h hkind hmode hpend hroom hdata
  refine ⟨u, y, hu, hq, hy, by simp [hpa], fun ys hact hfed hpos hfits => ?_⟩
  obtain ⟨u', hu', -, y', hy', hpa', hst⟩ := permTranspose_takes h hkind hmode hpend hpendB hdata hact hfed hpos hfits
  cases hu.symm.trans hu'
  cases hy.symm.trans hy'
  exact ⟨hpa', by simp only [rowOf, hst]⟩

end

/-- Settles O36: what each mode forms of its beat waits at the node (`Waits`), and the first of it leaves (`LeadsTo.emits`). -/
theorem elementOperators : Obligations.ElementOperators := by
  unfold Obligations.ElementOperators
  intro s c n x nd m p xs h
  refine ⟨?map, ?transc, ?filter, ?cvt, ?regroup, ?waiting, ?transpose⟩
  case map =>
    intro hformed hkind hact hready hshort
    obtain ⟨u, hu, hq⟩ := mapFire_sends h hformed hkind hact hready hshort
    have hlen : ((mapElems nd xs).map (Option.map Prod.fst)).length = (nd.port 0).le := by simp [mapElems]
    exact ⟨u, _, hu, hq, hlen, fun i hi => mapElems_lane (hlen ▸ hi)⟩
  case transc => exact fun hformed hkind hact => transcFire_sends h hformed hkind hact
  case filter =>
    intro hformed hkind hact
    obtain ⟨u, hu, hq⟩ := filterFire_sends h hformed hkind hact
    have hlen : (filterLanes true (xs.getD 0 []) (xs.getD 1 [])).length = (xs.getD 0 []).length := by simp [filterLanes]
    exact ⟨u, _, hu, hq, hlen, fun i hi => filterLanes_true_lane (hlen ▸ hi)⟩
  case cvt =>
    intro hformed hkind hmode hact hlanes hpos hscales
    obtain ⟨u, hu, hq⟩ := convCvt_sends h hformed hkind hmode hact hlanes hpos hscales
    have hlen : ((cvtElems nd (xs.headD [])).map (Option.map Prod.fst)).length = (nd.port 0).le := by simp [cvtElems]
    exact ⟨u, _, hu, hq, hlen, fun i hi => cvtElems_lane (hlen ▸ hi)⟩
  case regroup =>
    intro hformed hkind hact _ ev f hev hf
    obtain ⟨hmode, rfl, hstep⟩ | ⟨hmode, rfl, hstep⟩ | ⟨hmode, rfl, hstep⟩ := hev
    all_goals exact ⟨_, rfl, regroup_sends (f := f) h hformed (by simp [hkind, hmode]) hact (by simp only [hact, hstep]) hf⟩
  case waiting =>
    intro t ts hkind hmode hpend _ hroom hdata
    have hready : nd.sentAll = false := by simp [Node.sentAll, hpend]
    exact ⟨_, rfl, (nodeEventWhen_sends_pending h (by simp [hkind, hmode]) hpend hready hroom hdata).sends⟩
  case transpose => exact fun t ts hkind hmode hpend hpendB hroom hdata => permTranspose_sends h hkind hmode hpend hpendB hroom hdata

end Sys2Proof
end

section
namespace Sys2Proof

open Machine

/-! ### MERGE (R171, R172) -/

section
variable {s : State} {c n m p : Nat} {x : Cell} {nd : Node}

theorem mergeOrdered_sends {a b : Lanes} (h : LeadsTo s c n x nd m p) (hformed : nd.sentAll = true) (hkind : nd.word.kind = kMERGE)
    (hmode : nd.word.mode = 1) (hact : lockAct s x n nd [0, 1] (scaleFwd nd) true = .beat [a, b])
    (hapart : ∀ i < a.length, a.getD i none = none ∨ b.getD i none = none) :
    ∃ u, exec (.mergeOrdered c n) s = .next u ∧ queueAt u c m p = queueAt s c m p ++
      [.data ((List.range a.length).map (fun i => (a.getD i none).or (b.getD i none)))] := by
  have hclash : ∀ i ∈ List.range a.length, ((a.getD i none).isSome && (b.getD i none).isSome) = false := by
    intro i hi
    obtain hnone | hnone := hapart i (List.mem_range.mp hi) <;> simp only [hnone, Option.isSome_none, Bool.false_and, Bool.and_false]
  have hfind : (List.range a.length).find? (fun i => (a.getD i none).isSome && (b.getD i none).isSome) = none :=
    List.find?_eq_none.mpr (fun i hi => by simp only [hclash i hi, Bool.false_eq_true, not_false_eq_true])
  have hlanes : (List.range a.length).map (fun i => if ((a.getD i none).isSome && (b.getD i none).isSome) = true then none
      else (a.getD i none).or (b.getD i none)) = (List.range a.length).map (fun i => (a.getD i none).or (b.getD i none)) :=
    List.map_congr_left (fun i hi => by simp only [hclash i hi, Bool.false_eq_true, if_false])
  refine ⟨_, rfl, h.lockNode_beat (st := nd.st) hformed hkind (by simp [hmode]) hact ?_⟩
  have hw := waits_beats h hformed [0, 1] [(List.range a.length).map (fun i => (a.getD i none).or (b.getD i none))]
    (beatPositions (nd.port 0))
  simp only [List.getD_cons_zero, List.getD_cons_succ, hfind, hlanes]
  exact hw

theorem mergePick_spec {k : Nat} (h : mergePick nd = some k) : k ∈ readsOf nd ∧ mergeServes nd k = true := by
  simp only [mergePick] at h
  split at h
  · split at h
    · rename_i j hj
      split at h
      · cases h
        exact ⟨List.mem_of_find?_eq_some hj, by assumption⟩
      · cases h
    · cases h
  · refine ⟨?_, List.find?_some h⟩
    obtain hk | hk := List.mem_append.mp (List.mem_of_find?_eq_some h) <;> exact List.mem_of_mem_filter hk

/-- What a RROBIN or CONCAT makes of its cell as it serves a beat of port k. -/
def mergeServed (x : Cell) (n : Nat) (nd : Node) (k : Nat) (l : Lanes) : Cell :=
  emitBeats (setNode x n (fun z => { setPort z k takeBeat with st := .merge ((k + 1) % 3) (mergeOf nd).2 })) n [padTo nd.ord.lanes l]
    nd.ord.lanes

/-- A RROBIN or CONCAT that finds nothing but DATA to be served, and whose LEN is out, serves the port that it picks. -/
theorem mergeStep_serves {k : Nat} {l : Lanes} (hroom : roomAll x n = true) (hports : (readsOf nd).findSome? (mergePort s x n nd) = none)
    (hlen : nd.ord.anyRagged = true → (mergeOf nd).2 = true) (hpick : mergePick nd = some k) (hhead : nd.head k = some (.data l)) :
    mergeStep s x n nd = (mergeServed x n nd k l, some k) := by
  obtain ⟨hk, hserves⟩ := mergePick_spec hpick
  have hopen : (nd.port k).ended = false := by simpa [mergeServes] using (Bool.and_eq_true_iff.mp hserves).2
  have hall : ((readsOf nd).all fun k => (nd.port k).ended) = false := List.all_eq_false.mpr ⟨k, hk, by simp [hopen]⟩
  have hsent : (nd.ord.anyRagged && !(mergeOf nd).2) = false := by
    cases hr : nd.ord.anyRagged with
    | false => rfl
    | true => simp [hlen hr]
  simp only [mergeStep, hroom, hports, hall, hsent, hpick, hhead, Bool.not_true, Bool.false_eq_true, if_false, mergeServed]

theorem waits_mergeServed (h : LeadsTo s c n x nd m p) (hformed : nd.sentAll = true) (k : Nat) (l : Lanes) :
    Waits x (mergeServed x n nd k l) n nd [.data (padTo nd.ord.lanes l)] (.merge ((k + 1) % 3) (mergeOf nd).2) := by
  have htaken : Waits x (setNode x n (fun z => { setPort z k takeBeat with st := .merge ((k + 1) % 3) (mergeOf nd).2 })) n nd []
      (.merge ((k + 1) % 3) (mergeOf nd).2) := (waits_of_sentAll h.node hformed).setNode (fun _ => ⟨rfl, rfl, fun _ => rfl⟩)
  exact htaken.emitBeats h.outA_isSome [_] _

/-- A machine with the same cells has the same tokens waiting and the same nodes. -/
theorem Emits.of_cells {u v : State} {a : List Token} {st : NodeState} (h : Emits s u c n m p a st) (hcells : v.cells = u.cells) :
    Emits s v c n m p a st := by
  have hnode (k : Nat) : nodeOf v c k = nodeOf u c k := by simp only [nodeOf, hcells]
  simpa only [Emits, queueAt, nodeHas, hnode] using h

theorem mergeConcat_sends {k : Nat} {l : Lanes} (h : LeadsTo s c n x nd m p) (hformed : nd.sentAll = true) (hkind : nd.word.kind = kMERGE)
    (hmode : nd.word.mode = 2) (hroom : roomAll x n = true) (hstep : mergeStep s x n nd = (mergeServed x n nd k l, some k)) :
    ∃ u, exec (.mergeConcat c n) s = .next u ∧ queueAt u c m p = queueAt s c m p ++ [.data (padTo nd.ord.lanes l)] := by
  refine ⟨_, rfl, (h.emits_beats (bs := [padTo nd.ord.lanes l]) (st := .merge ((k + 1) % 3) (mergeOf nd).2) hformed
    (by simp [hkind, hmode]) hroom ?_).1⟩
  rw [hstep]
  exact waits_mergeServed h hformed k l

/-- Without a replay RROBIN's step is that of its pick. -/
theorem rrobinStep_eq (hrep : replays s x.crew.asid = false) : rrobinStep s c n x nd = mergeStep s x n nd := by
  simp only [rrobinStep, mayCome, hrep, Bool.false_and, Bool.not_false, Bool.true_or, Bool.false_eq_true, if_false, if_true]
  split <;> rfl

/-- The ORDER record of a pick leaves every unit alone (R397). -/
theorem mergeRrobin_cells (s : State) (c n : Nat) : ∃ u, exec (.mergeRrobin c n) s = .next u ∧ u.cells =
    (nodeEvent s c n (fun w => w.kind == kMERGE && w.mode == 0) (fun x nd => (rrobinStep s c n x nd).1)).cells := by
  refine ⟨_, rfl, ?_⟩
  dsimp only
  split
  · split
    · split
      · exact (keepsUnits_orderRec ..).cells
      · rfl
    · rfl
  · rfl

theorem mergeRrobin_sends {k : Nat} {l : Lanes} (h : LeadsTo s c n x nd m p) (hformed : nd.sentAll = true) (hkind : nd.word.kind = kMERGE)
    (hmode : nd.word.mode = 0) (hroom : roomAll x n = true) (hrep : replays s x.crew.asid = false)
    (hstep : mergeStep s x n nd = (mergeServed x n nd k l, some k)) :
    ∃ u, exec (.mergeRrobin c n) s = .next u ∧ queueAt u c m p = queueAt s c m p ++ [.data (padTo nd.ord.lanes l)] ∧
      nodeHas u c n (fun y => (mergeOf y).1 = (k + 1) % 3) := by
  obtain ⟨u, hu, hcells⟩ := mergeRrobin_cells s c n
  have hserves : Emits s u c n m p [.data (padTo nd.ord.lanes l)] (.merge ((k + 1) % 3) (mergeOf nd).2) := by
    refine (h.emits_beats (bs := [_]) hformed (by simp [hkind, hmode]) hroom ?_).of_cells hcells
    rw [rrobinStep_eq hrep, hstep]
    exact waits_mergeServed h hformed k l
  obtain ⟨hq, y, hy, -, hst⟩ := hserves
  exact ⟨u, hu, hq, y, hy, by simp only [mergeOf, hst]⟩

/-! ### LOOP (R173 to R175) -/

/-- A LOOP at whose entry DATA stands, and in whose body nothing does, has no marker to see to. -/
theorem loopMarker_none {l : Lanes} (h0 : nd.head 0 = some (.data l)) (h1 : nd.head 1 = none) : loopMarker s c n x nd = none := by
  simp only [loopMarker, h0, h1]

/-- LOOP_CYCLE where there is no marker to see to: the step of the cell. -/
theorem loopCycle_eq (hat : NodeAt s c n x nd) (hkind : nd.word.kind = kLOOP) (hmarker : loopMarker s c n x nd = none) :
    exec (.loopCycle c n) s = .next (nodeEvent s c n (fun w => w.kind == kLOOP) (fun y d => loopStep s y n d)) := by
  obtain ⟨hcell, hruns, hnode⟩ := hat
  change execLoopCycle c n s = _
  simp only [execLoopCycle, nodeOf, hcell, hnode, hkind, hruns, and_self, if_true, hmarker, ite_self]

/-- An entry that has a continuing lane does not leave. -/
theorem loopExit_continues {y : Cell} {z : Node} {e : LoopEntry} {t : List LoopEntry} {b sl : Bool} (hz : y.nodes[n]? = some z)
    (hst : z.st = .loop (e :: t) b sl) (hcont : e.cont.any id = true) : loopExit y n = y := by
  simp only [loopExit, hz, loopOf, hst, hcont, Bool.true_or, if_true]

theorem loopStep_admits {l : Lanes} (hfail : nd.failing = false) (hloop : loopOf nd = ([], false, false))
    (h0 : nd.head 0 = some (.data l)) (h1 : nd.head 1 = none) (h2 : nd.head 2 = none) (hroom : roomAll x n = true)
    (hlen : lenDue (nd.port 0) = false) (hbeat : beatBad (nd.port 0) l = none) :
    loopStep s x n nd = loopExit (loopAdmit x n nd l) n := by
  have hbody : [1, 2].findSome? (loopBodyBad x n nd) = none := by simp [loopBodyBad, h1, h2]
  have hentry : loopEntryStep s x n nd = some (loopAdmit x n nd l) := by
    have hok : lenBad nd 0 = false := by simp [lenBad, h0, isLen]
    simp [loopEntryStep, hloop, hok, h0, hlen, hbeat, loopCap]
  simp only [loopStep, hfail, hbody, h1, h2, hroom, hentry, Bool.false_eq_true, if_false, if_true]

theorem waits_loopAdmit {l : Lanes} (h : LeadsTo s c n x nd m p) (hformed : nd.sentAll = true) (hloop : loopOf nd = ([], false, false))
    (hlane : l.any Option.isSome = true) :
    Waits x (loopAdmit x n nd l) n nd [.data l] (.loop [⟨l, l.map Option.isSome, 0, 1⟩] false false) := by
  have hany : (l.map Option.isSome).any id = true := by simpa using hlane
  have htaken : Waits x (setNode x n (fun z => setPort z 0 takeBeat)) n nd [] nd.st :=
    (waits_of_sentAll h.node hformed).setNode (fun _ => ⟨rfl, rfl, id⟩)
  have hsent : Waits x (loopSend (setNode x n (fun z => setPort z 0 takeBeat)) n l) n nd [.data l] nd.st :=
    (htaken.sendA_data h.outA_isSome l).setNode (fun _ => ⟨rfl, rfl, id⟩)
  simp only [loopAdmit, hany, hloop, if_true, loopNextSent, List.foldl_nil, List.nil_append, Nat.zero_add]
  exact hsent.setNode (fun _ => ⟨rfl, rfl, fun _ => rfl⟩)

theorem loopCycle_admits {l : Lanes} (h : LeadsTo s c n x nd m p) (hformed : nd.sentAll = true) (hkind : nd.word.kind = kLOOP)
    (hfail : nd.failing = false) (hloop : loopOf nd = ([], false, false)) (h0 : nd.head 0 = some (.data l)) (h1 : nd.head 1 = none)
    (h2 : nd.head 2 = none) (hroom : roomAll x n = true) (hlen : lenDue (nd.port 0) = false) (hbeat : beatBad (nd.port 0) l = none)
    (hlane : l.any Option.isSome = true) :
    ∃ u, exec (.loopCycle c n) s = .next u ∧ queueAt u c m p = queueAt s c m p ++ [.data l] ∧
      nodeHas u c n (fun y => loopOf y = ([⟨l, l.map Option.isSome, 0, 1⟩], false, false)) := by
  have hw := waits_loopAdmit h hformed hloop hlane
  obtain ⟨z, hz, -, -, hst⟩ := hw.node
  have hstays : loopExit (loopAdmit x n nd l) n = loopAdmit x n nd l := loopExit_continues hz hst (by simpa using hlane)
  have hemits : Emits s (nodeEvent s c n (fun w => w.kind == kLOOP) (fun y d => loopStep s y n d)) c n m p [.data l]
      (.loop [⟨l, l.map Option.isSome, 0, 1⟩] false false) := by
    refine h.emits_beats (bs := [l]) hformed (by simp [hkind]) hroom ?_
    rwa [loopStep_admits hfail hloop h0 h1 h2 hroom hlen hbeat, hstays]
  obtain ⟨hq, y, hy, -, hyst⟩ := hemits
  exact ⟨_, loopCycle_eq h.nodeAt hkind (loopMarker_none h0 h1), hq, y, hy, by simp only [loopOf, hyst]⟩

end

/-- Settles O37: the beat that ORDERED merges, that RROBIN and CONCAT serve, or that LOOP admits waits at the node (`Waits`), and
leaves (`LeadsTo.emits`). -/
theorem mergesAndLoops : Obligations.MergesAndLoops := by
  unfold Obligations.MergesAndLoops
  intro s c n x nd m p h
  have hleads := h.toLeadsTo
  refine ⟨?ordered, ?served, ?loop⟩
  case ordered =>
    intro a b hkind hmode hact hapart
    obtain ⟨u, hu, hq⟩ := mergeOrdered_sends hleads h.formed hkind hmode hact hapart
    refine ⟨u, _, hu, hq, by simp, fun i hi => ?_⟩
    have hi' : i < a.length := by simpa using hi
    simp only [List.getD_eq_getElem?_getD, List.getElem?_map, List.getElem?_range hi', Option.map_some, Option.getD_some]
  case served =>
    intro k l hkind hroom hports hlen hpick hhead
    have hstep := mergeStep_serves hroom hports hlen hpick hhead
    exact ⟨fun hmode => mergeConcat_sends hleads h.formed hkind hmode hroom hstep,
      fun hmode hrep => mergeRrobin_sends hleads h.formed hkind hmode hroom hrep hstep⟩
  case loop =>
    exact fun l hkind hfail hloop h0 h1 h2 hroom hlen hbeat hlane =>
      loopCycle_admits hleads h.formed hkind hfail hloop h0 h1 h2 hroom hlen hbeat hlane

end Sys2Proof
end

section
namespace Sys2Proof

open Machine

/-! ### The class of a channel whose copy waits for a page (R263, R384) -/

/-- The class of a channel with a copy: BUSY where a sector of it has performed in this cycle, WAIT where it has begun and waits on FREE
or for a page, else IDLE. -/
theorem chanClass_of_cur (s : State) {k : Channel} {r : CopyRun} (hcur : k.cur = some r) :
    chanClass s k = if r.perf ≠ [] ∧ k.lastAct = s.cycle then 1
      else if r.parked = false ∧ (r.waiting = true ∨ r.stalls ≠ []) then 3 else 0 := by
  simp [chanClass, chanWaits, Channel.busy, hcur]

/-- The clause of O53 on channels, where the copy does not stand in its queue and no sector of it waits for a page. -/
theorem chanClass_of_noStall (s : State) {k : Channel} {r : CopyRun} (hcur : k.cur = some r) (hbegun : r.parked = false)
    (hstalls : r.stalls = []) (hrests : r.perf = [] ∨ k.lastAct ≠ s.cycle) : chanClass s k = if r.waiting then 3 else 0 := by
  rw [chanClass_of_cur s hcur, if_neg (fun h => hrests.elim h.1 (absurd h.2)), hbegun, hstalls]
  simp

/-- A copy that has begun, whose first sector waits for a page. -/
def stalledRun : CopyRun := { CopyRun.fresh ⟨[], 0, 0, 0, Sig.zero, 0⟩ [] [] with stalls := [0] }

/-- A channel that runs it. -/
def stalledChannel : Channel := { Channel.reset with cur := some stalledRun }

/-- Such a channel is in class WAIT, though it does not wait on FREE. -/
theorem chanClass_stalledChannel : chanClass State.reset stalledChannel = 3 := rfl

/-- Refutes O53: its clause on channels calls a channel IDLE whose copy does not wait on FREE, but one whose copy waits for a page is in
class WAIT (R263). `chanClass_of_noStall` is that clause with the hypotheses that exclude such a copy. -/
theorem not_mergesAndObservation : ¬ Obligations.MergesAndObservation := by
  unfold Obligations.MergesAndObservation
  intro h
  obtain ⟨-, -, hchan, -⟩ := h
  obtain ⟨-, hcur⟩ := hchan State.reset stalledChannel
  obtain ⟨-, hidle⟩ := hcur stalledRun rfl
  have hzero : chanClass State.reset stalledChannel = 0 := hidle (.inl rfl)
  exact absurd (chanClass_stalledChannel.symm.trans hzero) (by decide)

end Sys2Proof
end

section
namespace Sys2Proof

open Machine

/-! ### Any token on its way to a port (R53, R229) -/

theorem pushPort_straight {pt : Port} (t : Token) (hstore : pt.store = none) (hlink : pt.link = []) (hrest : pt.rest = [])
    (hlanes : isData (some t) = true → pt.elem = tDONE ∨ pt.rep = true ∨ pt.lp = pt.le) : (pushPort pt t).q = pt.q ++ [t] := by
  cases t with
  | data l => exact pushPort_data l hstore hlink (hlanes rfl)
  | sluice | poison | snap => exact pushPort_marker rfl hstore hlink hrest
  | fin => simp [pushPort, pump, adaptStep, adaptEnd, hstore, hlink, hrest]
  | scale | len | done => simp [pushPort, pump, adaptStep, hstore, hlink, hrest]

/-- Port p of node m takes the token t as it comes. -/
def TakesToken (x : Cell) (m p : Nat) (t : Token) : Prop :=
  ∃ md pt, x.nodes[m]? = some md ∧ md.ports[p]? = some pt ∧ (pushPort pt t).q = pt.q ++ [t]

section
variable {s : State} {x y : Cell} {c n m p : Nat} {nd : Node} {t : Token}

theorem LeadsTo.takes (h : LeadsTo s c n x nd m p) (t : Token) : TakesToken x m p t := by
  obtain ⟨md, pt, hmd, hpt, hstore, hlink, hrest, hlanes⟩ := h.straight
  exact ⟨md, pt, hmd, hpt, pushPort_straight t hstore hlink hrest (fun _ => hlanes)⟩

theorem SendsB.takes (h : SendsB s c n x nd m p) (ht : isData (some t) = false) : TakesToken x m p t := by
  obtain ⟨md, pt, hmd, hpt, hstore, hlink, hrest⟩ := h.straight
  exact ⟨md, pt, hmd, hpt, pushPort_straight t hstore hlink hrest (fun hdata => absurd (ht.symm.trans hdata) Bool.false_ne_true)⟩

theorem TakesToken.congr (h : TakesToken x m p t) (hm : y.nodes[m]? = x.nodes[m]?) : TakesToken y m p t := by
  unfold TakesToken
  rwa [hm]

theorem cellQueue_sendTo_takes (h : TakesToken x m p t) : cellQueue (sendTo x (some (p + 1, m)) t) m p = cellQueue x m p ++ [t] := by
  obtain ⟨md, pt, hmd, hpt, hpush⟩ := h
  have hport : md.port p = pt := by simp [Node.port, hpt]
  simp only [cellQueue, sendTo, setNode_same _ hmd, hmd, Option.elim_some, Nat.add_sub_cancel, setPort_port_same _ hpt, hport, hpush]

/-! ### What leaves a node, and what stays (R152) -/

/-- What a node keeps as tokens leave it: all but its ports and what it has formed. -/
theorem emitPend_node {z : Node} (hz : y.nodes[n]? = some z) :
    ∃ w, (emitPend y n).nodes[n]? = some w ∧ w.st = z.st ∧ w.held = z.held ∧
      w.pendA = (if (leaving y z.word.outA z.pendA).isSome then z.pendA.drop 1 else z.pendA) ∧
      w.pendB = (if (leaving y z.word.outB z.pendB).isSome then z.pendB.drop 1 else z.pendB) := by
  rw [emitPend_eq hz]
  have hsend (c : Cell) (tg : Option (Nat × Nat)) (o : Option Token) :=
    keepsNodes_sendSome (g := fun w => (w.st, w.held, w.pendA, w.pendB)) c tg o (fun _ _ => rfl)
  obtain ⟨w, hw, hkeeps⟩ := ((hsend _ z.word.outA (leaving y z.word.outA z.pendA)).trans
    (hsend _ z.word.outB (leaving y z.word.outB z.pendB))).node (setNode_same (dropSent (leaving y z.word.outA z.pendA).isSome
      (leaving y z.word.outB z.pendB).isSome) hz)
  simp only [Prod.mk.injEq] at hkeeps
  exact ⟨w, hw, hkeeps⟩

theorem emitPend_pages (y : Cell) (n : Nat) : (emitPend y n).pages = y.pages := by
  obtain ⟨l, hl, -⟩ := keepsNodes_emitPend (g := fun _ => ()) y n (fun _ _ _ _ => rfl)
  rw [hl]

/-- A node that sends to other nodes leaves its own ports alone. -/
theorem emitPend_node_apart {z : Node} (hz : y.nodes[n]? = some z) (hA : ∀ b, z.word.outA = some b → b.2 ≠ n)
    (hB : ∀ b, z.word.outB = some b → b.2 ≠ n) : ∃ w, (emitPend y n).nodes[n]? = some w ∧ w.ports = z.ports := by
  have hother (c : Cell) (tg : Option (Nat × Nat)) (o : Option Token) (h : ∀ b, tg = some b → b.2 ≠ n) :
      (sendSome c tg o).nodes[n]? = c.nodes[n]? := by
    cases o with
    | none => rfl
    | some t =>
      cases tg with
      | none => rfl
      | some b => exact setNode_ne _ (h b rfl).symm
  rw [emitPend_eq hz, hother _ _ _ hB, hother _ _ _ hA, setNode_same _ hz]
  exact ⟨_, rfl, rfl⟩

theorem setNode_self {z : Node} {f : Node → Node} (hz : y.nodes[n]? = some z) (hf : f z = z) : setNode y n f = y := by
  have hnodes : modAt y.nodes n f = y.nodes := by
    rw [modAt_eq_modify, List.modify_eq_set_getElem?, hz]
    exact (congrArg (y.nodes.set n) hf).trans (by obtain ⟨hlt, rfl⟩ := List.getElem?_eq_some_iff.mp hz; exact List.set_getElem_self hlt)
  rw [setNode, hnodes]

theorem emitPend_of_sentAll {z : Node} (hz : y.nodes[n]? = some z) (h : z.sentAll = true) : emitPend y n = y := by
  simp only [Node.sentAll, Bool.and_eq_true, List.isEmpty_iff] at h
  obtain ⟨ha, hb⟩ := h
  rw [emitPend_eq hz, leaving, leaving, ha, hb]
  simp only [List.head?_nil, ite_self, Option.isSome_none, sendSome, Option.elim_none]
  exact setNode_self hz rfl

theorem roomAt_of_roomAll (hn : x.nodes[n]? = some nd) (h : roomAll x n = true) : roomAt x nd.word.outA = true ∧ roomAt x nd.word.outB = true :=
  (roomAll_iff hn).mp h

theorem LeadsTo.outB_apart (h : LeadsTo s c n x nd m p) : ∀ b, nd.word.outB = some b → b.2 ≠ m ∨ b.1 - 1 ≠ p :=
  fun b hb => (h.alone b hb).imp_right (fun hb => by omega)

/-- The first token that a node has formed for OUTA reaches the port that OUTA leads to. -/
theorem Waits.leaves {a : List Token} {st : NodeState} (h : Waits x y n nd a st) (ht : ∀ t, a.head? = some t → TakesToken x m p t)
    (hout : nd.word.outA = some (p + 1, m)) (hm : m ≠ n) (halone : ∀ b, nd.word.outB = some b → b.2 ≠ m ∨ b.1 - 1 ≠ p)
    (hroom : roomAt x nd.word.outA = true) :
    cellQueue (Machine.emitPend y n) m p = cellQueue x m p ++ a.take 1 ∧
      ∃ w, (Machine.emitPend y n).nodes[n]? = some w ∧ w.pendA = a.drop 1 ∧ w.st = st := by
  obtain ⟨z, hz, hw, ha, hs⟩ := h.node
  have hleaves : leaving y z.word.outA z.pendA = a.head? := by
    rw [hout] at hroom
    simp [leaving, hw, hout, roomAt_congr (h.others m hm), hroom, ha]
  have hthere (f : Node → Node) : (Machine.setNode y n f).nodes[m]? = x.nodes[m]? := (setNode_ne f hm).trans (h.others m hm)
  constructor
  · rw [emitPend_eq hz, hleaves, cellQueue_sendSome_other _ (hw ▸ halone), hw, hout]
    cases a with
    | nil => simpa [sendSome] using cellQueue_congr (hthere _) p
    | cons t ts => exact (cellQueue_sendTo_takes ((ht t rfl).congr (hthere _))).trans (by rw [cellQueue_congr (hthere _)]; rfl)
  · obtain ⟨w, hnode, hst, -, hpend, -⟩ := emitPend_node hz
    refine ⟨w, hnode, hpend.trans ?_, hst.trans hs⟩
    rw [hleaves, ha]
    cases a <;> rfl

/-- The first token that a node has formed for OUTB alone reaches the port that OUTB leads to. -/
theorem Forms.leaves_outB {b : List Token} (h : Forms x y n nd [] b) (ht : ∀ t, b.head? = some t → TakesToken x m p t)
    (hout : nd.word.outB = some (p + 1, m)) (hm : m ≠ n) (hroom : roomAt x nd.word.outB = true) :
    cellQueue (emitPend y n) m p = cellQueue x m p ++ b.take 1 ∧
      ∃ w, (emitPend y n).nodes[n]? = some w ∧ w.pendB = b.drop 1 := by
  obtain ⟨z, hz, hw, ha, hb⟩ := h.node
  have hstays : leaving y z.word.outA z.pendA = none := by simp [leaving, ha]
  have hleaves : leaving y z.word.outB z.pendB = b.head? := by
    rw [hout] at hroom
    simp [leaving, hw, hout, roomAt_congr (h.others m hm), hroom, hb]
  have hthere (f : Node → Node) : (Machine.setNode y n f).nodes[m]? = x.nodes[m]? := (setNode_ne f hm).trans (h.others m hm)
  constructor
  · rw [emitPend_eq hz, hleaves, hstays, hw, hout]
    cases b with
    | nil => simpa [sendSome] using cellQueue_congr (hthere _) p
    | cons t ts => exact (cellQueue_sendTo_takes ((ht t rfl).congr (hthere _))).trans (by rw [cellQueue_congr (hthere _)]; rfl)
  · obtain ⟨w, hnode, -, -, -, hpend⟩ := emitPend_node hz
    refine ⟨w, hnode, hpend.trans ?_⟩
    rw [hleaves, hb]
    cases b <;> rfl

/-! ### What a node forms as it sends -/

theorem onLink_congr {z : Node} (h : z.word = nd.word) (t : Token) : onLink z t = onLink nd t := by
  cases t <;> simp only [onLink, h]

theorem Waits.sendA {a : List Token} {st : NodeState} (h : Waits x y n nd a st) (hout : nd.word.outA.isSome = true) (t : Token) :
    Waits x (Machine.sendA y n t) n nd (a ++ onLink nd t) st := by
  obtain ⟨z, hz, hw, ha, hs⟩ := h.node
  refine ⟨fun k hk => (setNode_ne _ hk).trans (h.others k hk), _, setNode_same _ hz, ?_⟩
  rw [if_neg (by rw [hw, Option.isNone_eq_false_iff.mpr hout]; decide)]
  exact ⟨hw, by rw [ha, onLink_congr hw], hs⟩

theorem Waits.sendBoth {a : List Token} {st : NodeState} (h : Waits x y n nd a st) (hout : nd.word.outA.isSome = true) (t : Token) :
    Waits x (Machine.sendBoth y n t) n nd (a ++ onLink nd t) st := (h.sendA hout t).sendB t

theorem memOf_congr {z w : Node} (h : z.st = w.st) : memOf z = memOf w := by simp only [memOf, h]

theorem memOf_mem {z : Node} {q : MemState} (h : z.st = .mem q) : memOf z = q := by simp only [memOf, h]

/-- A change of what a MEM or AGEN node keeps, where st stands for q. -/
theorem Waits.setMem {a : List Token} {st : NodeState} {q : MemState} (h : Waits x y n nd a st) (hst : ∀ z : Node, z.st = st → memOf z = q)
    (f : MemState → MemState) : Waits x (Machine.setMem y n f) n nd a (.mem (f q)) :=
  h.setNode (fun z => ⟨rfl, rfl, fun hz => by rw [Node.withMem, hst z hz]⟩)

end

end Sys2Proof
end

section
namespace Sys2Proof

open Machine

/-! ### The end of a step of a MEM or AGEN node (R152, R158, R160, R392) -/

/-- The machine v once the step has left node n of cell c, which was nd and is nd1 in the cell y: the node has fired, and what the step
consumed is noted. -/
def memNoted (v : State) (c n : Nat) (nd nd1 : Node) (y : Cell) : State :=
  let w := noteLate (putCell v c (noteFire v y n)) c n nd nd1
  if (nd.port 0).pos < (nd1.port 0).pos then noteBreak w c n (nd.port 0).pos (nd1.port 0).pos else w

/-- That machine once the node's own POISON has halted its cell. -/
def memHalts (v : State) (c n : Nat) (nd : Node) (q : Poison) : State :=
  haltCell (updNode (if nd.word.kind = kMEM ∧ nd.word.mode = 4 then linkSend v c n nd (.poison q) else v) c n (fun z => popHead z 0)) c q

theorem ownPoison_of_heads {x : Cell} {n : Nat} {nd nd1 : Node} (h : nd1.head 0 = nd.head 0) : ownPoison x n nd nd1 = none := by
  unfold ownPoison
  rw [h]
  split
  · rename_i hhead
    exact if_neg (fun hown => hown.2.2 hhead)
  · rfl

section
variable {s : State} {c n : Nat} {x y : Cell} {nd z nd1 : Node} {ok : NodeWord → Bool} {f : Cell → Node → State}

/-- A step of a MEM or AGEN node none of whose tokens waits to leave it. -/
theorem memEvent_eq (h : NodeFree s c n x nd) (hok : ok nd.word = true) (hy : aget (f x nd).cells c = some y)
    (hnd1 : (emitPend y n).nodes[n]? = some nd1) :
    memEvent s c n ok f = if emitPend y n = x then f x nd
      else (ownPoison x n nd nd1).elim (memNoted (f x nd) c n nd nd1 (emitPend y n))
        (memHalts (memNoted (f x nd) c n nd nd1 (emitPend y n)) c n nd) := by
  obtain ⟨⟨hcell, hruns, hnode⟩, hformed⟩ := h
  simp only [memEvent, hcell, hnode, hruns, hok, hformed, hy, hnd1, Bool.not_true, Bool.or_self, Bool.false_eq_true, if_false, if_true]
  by_cases hx : emitPend y n = x
  · have hsame : nd1 = nd := by simpa [hx, hnode] using hnd1.symm
    subst hsame
    rw [if_pos hx, ownPoison_of_heads rfl]
    simp only [hx, and_true, Nat.lt_irrefl, if_false, if_true]
    split
    · exact ‹f x nd1 = s›.symm
    · rfl
  · rw [if_neg (fun hsame => hx hsame.2), if_neg hx, if_neg hx]
    cases ownPoison x n nd nd1 <;> rfl

/-! ### What the step leaves of its cell -/

/-- w is y but for what a node notes as its step ends, and a halt. -/
structure KeepsSteps (n : Nat) (y w : Cell) : Prop where
  pages : w.pages = y.pages
  others : ∀ k, k ≠ n → w.nodes[k]? = y.nodes[k]?
  node : ∀ z, y.nodes[n]? = some z →
    ∃ z', w.nodes[n]? = some z' ∧ z'.st = z.st ∧ z'.held = z.held ∧ z'.pendA = z.pendA ∧ z'.pendB = z.pendB

theorem KeepsSteps.refl (n : Nat) (y : Cell) : KeepsSteps n y y := ⟨rfl, fun _ _ => rfl, fun z hz => ⟨z, hz, rfl, rfl, rfl, rfl⟩⟩

theorem KeepsSteps.trans {w v : Cell} (h : KeepsSteps n y w) (k : KeepsSteps n w v) : KeepsSteps n y v := by
  refine ⟨k.pages.trans h.pages, fun j hj => (k.others j hj).trans (h.others j hj), fun z hz => ?_⟩
  obtain ⟨z1, hz1, hst1, hheld1, ha1, hb1⟩ := h.node z hz
  obtain ⟨z2, hz2, hst2, hheld2, ha2, hb2⟩ := k.node z1 hz1
  exact ⟨z2, hz2, hst2.trans hst1, hheld2.trans hheld1, ha2.trans ha1, hb2.trans hb1⟩

theorem keepsSteps_setNode (y : Cell) (n : Nat) {g : Node → Node}
    (hg : ∀ z, (g z).st = z.st ∧ (g z).held = z.held ∧ (g z).pendA = z.pendA ∧ (g z).pendB = z.pendB) : KeepsSteps n y (setNode y n g) :=
  ⟨rfl, fun _ hk => setNode_ne g hk, fun z hz => ⟨g z, setNode_same g hz, hg z⟩⟩

theorem memNoted_cell (v : State) (c n : Nat) (nd nd1 : Node) (y : Cell) :
    aget (memNoted v c n nd nd1 y).cells c = some (noteFire v y n) := by
  have hput : aget (putCell v c (noteFire v y n)).cells c = some (noteFire v y n) := aget_aset_same ..
  simp only [memNoted]
  split
  · rwa [(keepsUnits_noteBreak ..).cells, (keepsUnits_noteLate ..).cells]
  · rwa [(keepsUnits_noteLate ..).cells]

theorem haltCell_cell {v : State} {w : Cell} (q : Poison) (h : aget v.cells c = some w) :
    ∃ l, aget (haltCell v c q).cells c = some { w with halted := true, sluices := [], deferred := l } := by
  rw [haltCell_eq q h]
  exact poisonTrap_cell (s := updCell v c (fun y => { y with halted := true, sluices := [] })) q (by rw [updCell_same, h]; rfl)

theorem memHalts_cell {v : State} {w : Cell} (nd : Node) (q : Poison) (h : aget v.cells c = some w) :
    ∃ l, aget (memHalts v c n nd q).cells c =
      some { setNode w n (fun z => popHead z 0) with halted := true, sluices := [], deferred := l } := by
  refine haltCell_cell q ?_
  have hsent : aget (if nd.word.kind = kMEM ∧ nd.word.mode = 4 then linkSend v c n nd (.poison q) else v).cells c = some w := by
    split
    · rw [(keepsUnits_linkSend ..).cells, h]
    · exact h
  rw [updNode, updCell_same, hsent]
  rfl

/-- The cell of a node after its step: as the step made it where nothing has left the node and nothing has changed, else with the first
token of each output gone. -/
theorem memEvent_cell (h : NodeFree s c n x nd) (hok : ok nd.word = true) (hy : aget (f x nd).cells c = some y)
    (hz : y.nodes[n]? = some z) : ∃ w, aget (memEvent s c n ok f).cells c = some w ∧
      (emitPend y n = x ∧ w = y ∨ KeepsSteps n (emitPend y n) w) := by
  obtain ⟨nd1, hnd1, -⟩ := emitPend_node hz
  rw [memEvent_eq h hok hy hnd1]
  split
  · exact ⟨y, hy, .inl ⟨‹_›, rfl⟩⟩
  · have hfire : KeepsSteps n (emitPend y n) (noteFire (f x nd) (emitPend y n) n) := keepsSteps_setNode _ n (fun _ => ⟨rfl, rfl, rfl, rfl⟩)
    have hnoted := memNoted_cell (f x nd) c n nd nd1 (emitPend y n)
    cases ownPoison x n nd nd1 with
    | none => exact ⟨_, hnoted, .inr hfire⟩
    | some q =>
      obtain ⟨l, hl⟩ := memHalts_cell nd q hnoted
      have hpop : KeepsSteps n (noteFire (f x nd) (emitPend y n) n)
          (setNode (noteFire (f x nd) (emitPend y n) n) n (fun z => popHead z 0)) := keepsSteps_setNode _ n (fun _ => ⟨rfl, rfl, rfl, rfl⟩)
      exact ⟨_, hl, .inr (hfire.trans (hpop.trans ⟨rfl, fun _ _ => rfl, fun z hz => ⟨z, hz, rfl, rfl, rfl, rfl⟩⟩))⟩

/-- What the step has made of the node's state stays, whatever leaves it. -/
theorem memEvent_node (h : NodeFree s c n x nd) (hok : ok nd.word = true) (hy : aget (f x nd).cells c = some y)
    (hz : y.nodes[n]? = some z) : nodeHas (memEvent s c n ok f) c n (fun w => w.st = z.st ∧ w.held = z.held) := by
  obtain ⟨w, hw, ⟨-, rfl⟩ | hkeeps⟩ := memEvent_cell h hok hy hz
  · exact ⟨z, by simp only [nodeOf, hw, hz], rfl, rfl⟩
  · obtain ⟨z1, hz1, hst1, hheld1, -⟩ := emitPend_node hz
    obtain ⟨z2, hz2, hst2, hheld2, -⟩ := hkeeps.node z1 hz1
    exact ⟨z2, by simp only [nodeOf, hw, hz2], hst2.trans hst1, hheld2.trans hheld1⟩

theorem memEvent_pages (h : NodeFree s c n x nd) (hok : ok nd.word = true) (hy : aget (f x nd).cells c = some y)
    (hz : y.nodes[n]? = some z) : ∃ w, aget (memEvent s c n ok f).cells c = some w ∧ w.pages = y.pages := by
  obtain ⟨w, hw, ⟨-, rfl⟩ | hkeeps⟩ := memEvent_cell h hok hy hz
  · exact ⟨w, hw, rfl⟩
  · exact ⟨w, hw, hkeeps.pages.trans (emitPend_pages y n)⟩

theorem Sends.nodeFree {m p : Nat} (h : Sends s c n x nd m p) : NodeFree s c n x nd := ⟨h.nodeAt, h.formed⟩

/-- A step that changes its node, or after which the node has tokens to send on OUTA: the first of them comes to wait where OUTA
leads. -/
theorem Sends.memEvent {m p : Nat} {a : List Token} {st : NodeState} (h : Sends s c n x nd m p) (hok : ok nd.word = true)
    (hroom : roomAll x n = true) (hy : aget (f x nd).cells c = some y) (hw : Waits x y n nd a st) (hmoves : a ≠ [] ∨ st ≠ nd.st) :
    Emits s (Machine.memEvent s c n ok f) c n m p a st := by
  obtain ⟨z, hz, -⟩ := hw.node
  obtain ⟨hq, z1, hz1, ha1, hst1⟩ := hw.leaves (fun t _ => h.takes t) h.out h.other h.outB_apart (roomAt_of_roomAll h.node hroom).1
  obtain ⟨w, hcell, ⟨hx, -⟩ | hkeeps⟩ := memEvent_cell h.nodeFree hok hy hz
  · rw [hx] at hq hz1
    obtain rfl : nd = z1 := Option.some.inj (h.node.symm.trans hz1)
    obtain ha | hst := hmoves
    · cases a with
      | nil => exact absurd rfl ha
      | cons t ts => simp at hq
    · exact absurd hst1.symm hst
  · obtain ⟨z2, hz2, hst2, -, ha2, -⟩ := hkeeps.node z1 hz1
    refine ⟨?_, z2, by simp only [nodeOf, hcell, hz2], ha2.trans ha1, hst2.trans hst1⟩
    rw [queueAt_eq hcell, cellQueue_congr (hkeeps.others m h.other), hq, queueAt_eq h.cell]

/-- A step after which the node has tokens to send on OUTB alone: the first of them comes to wait where OUTB leads. -/
theorem SendsB.memEvent {m p : Nat} {b : List Token} (h : SendsB s c n x nd m p) (hok : ok nd.word = true)
    (hroom : roomAll x n = true) (hy : aget (f x nd).cells c = some y) (hw : Forms x y n nd [] b) (hb : b ≠ [])
    (hdata : ∀ t, b.head? = some t → isData (some t) = false) : sendsB s (Machine.memEvent s c n ok f) c n m p b := by
  obtain ⟨z, hz, -⟩ := hw.node
  obtain ⟨hq, z1, hz1, hb1⟩ := hw.leaves_outB (fun t ht => h.takes (hdata t ht)) h.out h.other (roomAt_of_roomAll h.node hroom).2
  obtain ⟨w, hcell, ⟨hx, -⟩ | hkeeps⟩ := memEvent_cell h.toNodeFree hok hy hz
  · rw [hx] at hq
    cases b with
    | nil => exact absurd rfl hb
    | cons t ts => simp at hq
  · obtain ⟨z2, hz2, -, -, -, hb2⟩ := hkeeps.node z1 hz1
    refine ⟨?_, z2, by simp only [nodeOf, hcell, hz2], hb2.trans hb1⟩
    rw [queueAt_eq hcell, cellQueue_congr (hkeeps.others m h.other), hq, queueAt_eq h.cell]

/-! ### A step that takes nothing from the ports of its node -/

theorem noteLate_of_queues (v : State) (c n : Nat) (h : ∀ k, (nd1.port k).q = (nd.port k).q) : noteLate v c n nd nd1 = v := by
  unfold noteLate
  split
  · rfl
  · refine foldl_fixed_of_mem (fun st e _ => ?_) v
    split
    · rw [h, if_neg (Nat.lt_irrefl _)]
    · rfl

/-- Such a step leaves memory and what is in flight as it made them. -/
theorem memEvent_quiet (h : NodeFree s c n x nd) (hok : ok nd.word = true) (hy : aget (f x nd).cells c = some y)
    (hnd1 : (emitPend y n).nodes[n]? = some nd1) (hq : ∀ k, (nd1.port k).q = (nd.port k).q)
    (hpos : (nd1.port 0).pos ≤ (nd.port 0).pos) :
    (memEvent s c n ok f).mem = (f x nd).mem ∧ (memEvent s c n ok f).fl = (f x nd).fl := by
  have hhead : nd1.head 0 = nd.head 0 := by rw [Node.head, Node.head, hq]
  rw [memEvent_eq h hok hy hnd1, ownPoison_of_heads hhead]
  split
  · exact ⟨rfl, rfl⟩
  · simp only [Option.elim_none, memNoted, noteLate_of_queues _ c n hq, if_neg (Nat.not_lt.mpr hpos)]
    exact ⟨rfl, rfl⟩

/-- The same where the step formed no token and left the ports alone. -/
theorem memEvent_still (h : NodeFree s c n x nd) (hok : ok nd.word = true) (hy : aget (f x nd).cells c = some y)
    (hz : y.nodes[n]? = some z) (hsent : z.sentAll = true) (hports : z.ports = nd.ports) :
    (memEvent s c n ok f).mem = (f x nd).mem ∧ (memEvent s c n ok f).fl = (f x nd).fl := by
  have hport (k : Nat) : z.port k = nd.port k := by rw [Node.port, Node.port, hports]
  exact memEvent_quiet h hok hy (nd1 := z) (by rwa [emitPend_of_sentAll hz hsent]) (fun k => by rw [hport]) (by rw [hport])

end

end Sys2Proof
end

section
namespace Sys2Proof

open Machine

/-! ### The run of a circular buffer (R188) -/

section
variable {s u v : State} {c n : Nat} {x y : Cell} {nd z : Node} {b : BankAt} {r : FifoRun}

/-- The run of a bank stands in the pages of its cell. -/
theorem fifoOf_congr (h : (aget u.cells b.cell).map Cell.pages = (aget s.cells b.cell).map Cell.pages) : fifoOf u b = fifoOf s b := by
  unfold fifoOf
  cases hu : aget u.cells b.cell <;> cases hs : aget s.cells b.cell
  case none.none => rfl
  case none.some | some.none => simp [hu, hs] at h
  case some.some => simp only [hu, hs, Option.map_some, Option.some.injEq] at h; simp only [h]

theorem fifoOf_of_cells (h : u.cells = s.cells) : fifoOf u b = fifoOf s b := fifoOf_congr (by rw [h])

theorem fifoOf_updFifo (s : State) (b : BankAt) (g : FifoRun → FifoRun) : fifoOf (updFifo s b g) b = (fifoOf s b).map g := by
  simp only [fifoOf, updFifo, updCell_same]
  cases aget s.cells b.cell with
  | none => rfl
  | some x =>
    simp only [Option.map_some, modAt_eq_modify, List.getElem?_modify_eq, Option.map_eq_map]
    cases x.pages[b.page]? with
    | none => rfl
    | some p =>
      simp only [Option.map_some, List.getElem?_modify_eq, Option.map_eq_map]
      cases p.banks[b.bank]? with
      | none => rfl
      | some k => cases hfifo : k.fifo <;> simp only [Option.map_some, Option.map_none, hfifo]

theorem updNode_cell (f : Node → Node) (hx : aget s.cells c = some x) : aget (updNode s c n f).cells c = some (setNode x n f) := by
  rw [updNode, updCell_same, hx]
  rfl

/-- A change of the run of a bank leaves the nodes of its cell alone. -/
theorem updFifo_cell (g : FifoRun → FifoRun) (hb : b.cell = c) (hx : aget s.cells c = some x) :
    ∃ y, aget (updFifo s b g).cells c = some y ∧ y.nodes = x.nodes := by
  simp only [updFifo, hb, updCell_same, hx, Option.map_some]
  exact ⟨_, rfl, rfl⟩

theorem bankIn_cell {ps : List (Nat × Nat × Page)} {ord : Nat} (hps : ∀ e ∈ ps, e.1 = c) (h : bankIn ps ord = some b) : b.cell = c := by
  unfold bankIn at h
  split at h
  · cases h
  · rename_i hpage
    split at h
    · cases h
      exact hps _ (List.mem_of_getElem? hpage)
    · cases h

/-- The banks of a cell stand in it. -/
theorem cellBank_cell {ord : Nat} (h : cellBank s c ord = some b) : b.cell = c := by
  unfold cellBank at h
  split at h
  · refine bankIn_cell (fun e he => ?_) h
    obtain ⟨k, -, hk⟩ := List.mem_filterMap.mp he
    split at hk <;> cases hk
    rfl
  · cases h

theorem nodeFifo_cell (h : nodeFifo s c nd = some b) : b.cell = c := by
  unfold nodeFifo at h
  split at h
  · exact cellBank_cell h
  · cases h

theorem nodeWants_cell {f : FifoRun} (h : nodeWants s c nd = some (b, f)) : b.cell = c := by
  simp only [nodeWants] at h
  split at h
  · cases h
  · split at h
    · cases h
    · rename_i b' hfifo
      split at h <;> cases h
      exact nodeFifo_cell hfifo

/-! ### A step of a MEM node at its circular buffer (R189) -/

/-- A step of a MEM node leaves the runs of its cell and the state of the node as it made them. -/
theorem memEvent_makes {ok : NodeWord → Bool} {f : Cell → Node → State} (h : NodeFree s c n x nd) (hok : ok nd.word = true)
    (hf : f x nd = v) (hy : aget v.cells c = some y) (hz : y.nodes[n]? = some z) :
    (∀ b, b.cell = c → fifoOf (memEvent s c n ok f) b = fifoOf v b) ∧
      nodeHas (memEvent s c n ok f) c n (fun w => w.st = z.st ∧ w.held = z.held) := by
  subst hf
  obtain ⟨w, hw, hpages⟩ := memEvent_pages h hok hy hz
  refine ⟨fun b hb => fifoOf_congr ?_, memEvent_node h hok hy hz⟩
  rw [hb, hw, hy, Option.map_some, Option.map_some, hpages]

/-- A node that waits for a slot changes nothing but the cycle since which it waits. -/
theorem holdNode_cell (hx : aget s.cells c = some x) (hn : x.nodes[n]? = some nd) :
    ∃ y, aget (holdNode s c n).cells c = some y ∧ y.pages = x.pages ∧
      y.nodes[n]? = some { nd with held := some (nd.held.getD s.cycle) } :=
  ⟨_, updNode_cell _ hx, rfl, setNode_same _ hn⟩

/-- The step of a node that waits for a slot. -/
theorem memEvent_holds {ok : NodeWord → Bool} {f : Cell → Node → State} (h : NodeFree s c n x nd) (hok : ok nd.word = true)
    (hf : f x nd = holdNode s c n) (hb : b.cell = c) (hrun : fifoOf s b = some r) :
    fifoOf (memEvent s c n ok f) b = some r ∧ (memEvent s c n ok f).mem = s.mem ∧
      nodeHas (memEvent s c n ok f) c n (fun y => (memOf y).slot = (memOf nd).slot ∧ y.held = some (nd.held.getD s.cycle)) := by
  obtain ⟨y, hy, hpages, hnode⟩ := holdNode_cell h.cell h.node
  obtain ⟨hfifo, w, hw, hst, hheld⟩ := memEvent_makes h hok hf hy hnode
  refine ⟨(hfifo b hb).trans ((fifoOf_congr (by rw [hb, hy, h.cell, Option.map_some, Option.map_some, hpages])).trans hrun), ?_,
    w, hw, by rw [memOf_congr hst]; rfl, hheld⟩
  obtain ⟨hmem, -⟩ := memEvent_still h hok (hf.symm ▸ hy) hnode h.formed rfl
  exact hmem.trans (hf.symm ▸ updNode_mem ..)

/-- The edge of the wait of a node leaves the pages of its cell and the state of the node. -/
theorem circbufEdge_cell (g : Sig × W) (hx : aget s.cells c = some x) (hn : x.nodes[n]? = some nd) :
    ∃ y z, aget (circbufEdge s c n nd g).cells c = some y ∧ y.pages = x.pages ∧ y.nodes[n]? = some z ∧ z.st = nd.st := by
  unfold circbufEdge
  cases nd.held with
  | none => exact ⟨x, nd, hx, rfl, hn, rfl⟩
  | some t0 =>
    obtain ⟨y, hy, r, hlabel, rfl⟩ := (relabelsAt_endWaitNode s c n g.1 12 g.2 (s.cycle - t0)).cell x hx
    obtain ⟨l, p, hnd⟩ := hlabel nd
    exact ⟨_, _, updNode_cell _ hy, rfl, setNode_same _ (setNode_same r hn), (congrArg Node.st hnd :)⟩

/-- A node takes a slot: the run changes as `take` says, the node as `note` says, and an edge ends its wait. -/
def nodeTakes (s : State) (c n : Nat) (nd : Node) (b : BankAt) (g : Sig × W) (take : FifoRun → FifoRun) (note : Node → Node) : State :=
  updNode (updFifo (circbufEdge s c n nd g) b take) c n note

/-- The step of a node that takes a slot. -/
theorem memEvent_takes {ok : NodeWord → Bool} {f : Cell → Node → State} {g : Sig × W} {take : FifoRun → FifoRun} {note : Node → Node}
    {k : Nat} (h : NodeFree s c n x nd) (hok : ok nd.word = true) (hf : f x nd = nodeTakes s c n nd b g take note)
    (hb : b.cell = c) (hrun : fifoOf s b = some r) (hnote : ∀ w, (note w).st = (w.withMem (fun m => { m with slot := some k })).st) :
    fifoOf (memEvent s c n ok f) b = some (take r) ∧ nodeHas (memEvent s c n ok f) c n (fun w => (memOf w).slot = some k) := by
  obtain ⟨y1, z1, hy1, hpages1, hz1, hst1⟩ := circbufEdge_cell g h.cell h.node
  obtain ⟨y2, hy2, hnodes2⟩ := updFifo_cell take hb hy1
  have hy3 : aget (nodeTakes s c n nd b g take note).cells c = some (setNode y2 n note) := updNode_cell note hy2
  obtain ⟨hfifo, w, hw, hst, -⟩ := memEvent_makes h hok hf hy3 (setNode_same note (hnodes2 ▸ hz1))
  refine ⟨?_, w, hw, ?_⟩
  · calc fifoOf (memEvent s c n ok f) b
      _ = fifoOf (nodeTakes s c n nd b g take note) b := hfifo b hb
      _ = fifoOf (updFifo (circbufEdge s c n nd g) b take) b := fifoOf_congr (by rw [hb, hy3, hy2]; rfl)
      _ = (fifoOf (circbufEdge s c n nd g) b).map take := fifoOf_updFifo ..
      _ = some (take r) := by
        rw [fifoOf_congr (s := s) (by rw [hb, hy1, h.cell, Option.map_some, Option.map_some, hpages1]), hrun, Option.map_some]
  · exact congrArg MemState.slot (memOf_mem (hst.trans (hnote z1)))

end

/-! ### A channel at its circular buffer (R189) -/

theorem KeepsUnits.esets {s u : State} (h : KeepsUnits s u) : u.esets = s.esets := by
  obtain ⟨_, _, _, _, _, rfl⟩ := h
  rfl

section
variable {s : State} {e ch : Nat} {x : EngineSet} {c : Channel} {r : CopyRun} {b : BankAt} {f : FifoRun}

theorem chanOf_updChan (s : State) (e ch : Nat) (g : Channel → Channel) : chanOf (updChan s e ch g) e ch = (chanOf s e ch).map g := by
  simp only [chanOf, updChan, updEset_same]
  cases aget s.esets e with
  | none => rfl
  | some x => simp only [Option.map_some, modAt_eq_modify, List.getElem?_modify_eq, Option.map_eq_map]

/-- A change of the copy of a channel. -/
theorem updRun_chan {g : CopyRun → CopyRun} (hc : chanOf s e ch = some c) (hcur : c.cur = some r) :
    chanOf (updRun s e ch g) e ch = some { c with cur := some (g r) } := by
  rw [updRun, chanOf_updChan, hc, Option.map_some, hcur]

theorem chanOf_congr {u : State} (h : u.esets = s.esets) : chanOf u e ch = chanOf s e ch := by simp only [chanOf, h]

/-- The edge of the wait of a channel changes no cell, and of the channel its label and pts alone. -/
theorem endWaitChan_keeps (g : Sig) (kind : Nat) (producer : W) (waited : Nat) (hc : chanOf s e ch = some c) :
    (endWaitChan s e ch g kind producer waited).cells = s.cells ∧
      ∃ c', chanOf (endWaitChan s e ch g kind producer waited) e ch = some c' ∧ c'.cur = c.cur := by
  cases hx : aget s.esets e with
  | none => simp [chanOf, hx] at hc
  | some x =>
    have hch : x.channels[ch]? = some c := by simpa only [chanOf, hx] using hc
    simp only [endWaitChan, hx, hch, updChan_cells, chanOf_updChan]
    have hedge := keepsUnits_newEdge s (dieOf x.cluster) (chanUnit s x ch) producer kind (chooseWait s (labelOwn c.label) c.label.edge g).1
      (chooseWait s (labelOwn c.label) c.label.edge g).2 waited (max c.pts g.pts) 0 0
    rw [chanOf_congr hedge.esets, hc]
    exact ⟨hedge.cells, _, rfl, rfl⟩

/-- A channel takes slot TAIL. -/
theorem channelTakes_takes (hc : chanOf s e ch = some c) (hcur : c.cur = some r) (hf : fifoOf s b = some f) :
    fifoOf (channelTakes s e ch b) b = some (fifoTake f (.channel e ch)) ∧
      chanOf (channelTakes s e ch b) e ch = some { c with cur := some { r with slot := some f.tail, waiting := false } } := by
  have hthere : chanOf (updFifo s b (fun r => fifoTake r (.channel e ch))) e ch = some c := (chanOf_congr (updCell_esets ..)).trans hc
  simp only [channelTakes, hf]
  refine ⟨?_, updRun_chan hthere hcur⟩
  rw [updRun, fifoOf_of_cells (updChan_cells ..), fifoOf_updFifo, hf]
  rfl

/-- What a channel at a circular buffer does first in its copy: it takes a slot, or waits on FREE. -/
theorem settleBegin_eq (hx : aget s.esets e = some x) (hc : chanOf s e ch = some c) (hcur : c.cur = some r)
    (hwants : slotWanted s x r = some b) (hcheck : beginCheck s x r = .ok none) (hf : fifoOf s b = some f) :
    settleBegin s e ch = if 0 < f.free && slotTurn s x b ch then channelTakes s e ch b
      else updChan (updRun s e ch (fun y => { y with waiting := true })) e ch (fun y => { y with held := some s.cycle }) := by
  simp only [settleBegin, hx, hc, hcur, hwants, hcheck, hf]

/-- A channel that wants a slot of a circular buffer. -/
theorem channelAcquires_eq (hx : aget s.esets e = some x) (hc : chanOf s e ch = some c) (hcur : c.cur = some r)
    (hruns : esetRuns s x = true) (hwants : slotWanted s x r = some b) (hcheck : beginCheck s x r = .ok none)
    (hf : fifoOf s b = some f) (hready : indexReady r = true) :
    channelAcquires s e ch = if r.waiting = false then settleBegin s e ch
      else if f.free = 0 || !slotTurn s x b ch then s
      else updChan (channelTakes (c.held.elim s (fun t0 => endWaitChan s e ch (readerSig s f).1 12 (readerSig s f).2 (s.cycle - t0))) e ch b)
        e ch (fun y => { y with held := none }) := by
  simp only [channelAcquires, hx, hc, hcur, hruns, hwants, hcheck, hf, hready, Bool.not_true, Bool.false_eq_true, if_false,
    Bool.not_eq_true']
  cases c.held <;> rfl

/-- The wait of a channel, once it ends. -/
theorem channelWait_ends (hc : chanOf s e ch = some c) (hcur : c.cur = some r) (g : Sig × W) :
    (c.held.elim s (fun t0 => endWaitChan s e ch g.1 12 g.2 (s.cycle - t0))).cells = s.cells ∧
      ∃ c', chanOf (c.held.elim s (fun t0 => endWaitChan s e ch g.1 12 g.2 (s.cycle - t0))) e ch = some c' ∧ c'.cur = some r := by
  cases c.held with
  | none => exact ⟨rfl, c, hc, hcur⟩
  | some t0 =>
    obtain ⟨hcells, c', hc', hsame⟩ := endWaitChan_keeps g.1 12 g.2 (s.cycle - t0) hc
    exact ⟨hcells, c', hc', hsame.trans hcur⟩

/-- Where a slot is free and it is its turn, a channel takes slot TAIL. -/
theorem channelAcquires_takes (hx : aget s.esets e = some x) (hc : chanOf s e ch = some c) (hcur : c.cur = some r)
    (hruns : esetRuns s x = true) (hwants : slotWanted s x r = some b) (hcheck : beginCheck s x r = .ok none)
    (hf : fifoOf s b = some f) (hready : indexReady r = true) (hfree : 0 < f.free) (hturn : slotTurn s x b ch = true) :
    fifoOf (channelAcquires s e ch) b = some (fifoTake f (.channel e ch)) ∧
      ∃ c', chanOf (channelAcquires s e ch) e ch = some c' ∧ c'.cur = some { r with slot := some f.tail, waiting := false } := by
  rw [channelAcquires_eq hx hc hcur hruns hwants hcheck hf hready]
  split
  · obtain ⟨hfifo, hchan⟩ := channelTakes_takes hc hcur hf
    rw [settleBegin_eq hx hc hcur hwants hcheck hf, decide_eq_true hfree, hturn, Bool.and_self, if_pos rfl]
    exact ⟨hfifo, _, hchan, rfl⟩
  · obtain ⟨hcells, c', hc', hcur'⟩ := channelWait_ends hc hcur (readerSig s f)
    obtain ⟨hfifo, hchan⟩ := channelTakes_takes hc' hcur' ((fifoOf_of_cells hcells).trans hf)
    rw [decide_eq_false hfree.ne', hturn, Bool.not_true, Bool.or_self, if_neg Bool.false_ne_true, fifoOf_of_cells (updChan_cells ..),
      chanOf_updChan, hchan]
    exact ⟨hfifo, _, rfl, rfl⟩

/-- Where none is free, or another's turn comes first, a channel begins to wait on FREE. -/
theorem channelAcquires_waits (hx : aget s.esets e = some x) (hc : chanOf s e ch = some c) (hcur : c.cur = some r)
    (hruns : esetRuns s x = true) (hwants : slotWanted s x r = some b) (hcheck : beginCheck s x r = .ok none)
    (hf : fifoOf s b = some f) (hready : indexReady r = true) (hwaits : r.waiting = false)
    (hheld : f.free = 0 ∨ slotTurn s x b ch = false) :
    fifoOf (channelAcquires s e ch) b = some f ∧ (channelAcquires s e ch).mem = s.mem ∧
      ∃ c', chanOf (channelAcquires s e ch) e ch = some c' ∧ c'.cur = some { r with waiting := true } ∧ c'.held = some s.cycle := by
  have hno : ¬ (decide (0 < f.free) && slotTurn s x b ch) = true := by
    obtain h | h := hheld <;> simp [h]
  rw [channelAcquires_eq hx hc hcur hruns hwants hcheck hf hready, if_pos hwaits, settleBegin_eq hx hc hcur hwants hcheck hf, if_neg hno]
  refine ⟨?_, ?_, ?_⟩
  · rw [fifoOf_of_cells (updChan_cells ..), updRun, fifoOf_of_cells (updChan_cells ..), hf]
  · rw [updChan_mem, updRun, updChan_mem]
  · rw [chanOf_updChan, updRun_chan hc hcur]
    exact ⟨_, rfl, rfl, rfl⟩

end

/-! ### A page walk (R332, R336) -/

section
variable {s : State} {w : Who} {va : W}

theorem walkEvents_eq (m : Memory) (reads : List Nat) : ∃ ls, walkEvents m reads = { m with lines := ls } := by
  refine List.foldlRecOn reads _ (motive := fun e : Memory × Nat => ∃ ls, e.1 = { m with lines := ls }) ⟨m.lines, rfl⟩ (fun e he a _ => ?_)
  obtain ⟨ls, hls⟩ := he
  exact ⟨_, by simp only [hls, Memory.leased]; rfl⟩

/-- A walk writes the cache of translations and that of directory entries, and no byte. -/
theorem fillTlb_walks (h : tlbHit s w.die w.asid va.toNat = none) :
    (fillTlb s w va).mem.bytes = s.mem.bytes ∧ (fillTlb s w va).mem.dirs = (walked s w.die w.asid va.toNat).dirs ++ s.mem.dirs ∧
      (∀ e, walk s w.die w.asid va.toNat = .ok e → e ∈ (fillTlb s w va).mem.tlb) ∧
      (∀ f, walk s w.die w.asid va.toNat = .error f → (fillTlb s w va).mem.tlb = s.mem.tlb) := by
  obtain ⟨ls, hls⟩ := walkEvents_eq s.mem (walked s w.die w.asid va.toNat).reads
  simp only [fillTlb, h, walk, hls]
  refine ⟨trivial, trivial, fun e he => ?_, fun f hf => by rw [hf]⟩
  rw [he]
  exact List.mem_append_left _ (List.mem_cons_self ..)

end

/-- Settles O46: a node or a channel takes a slot of the run, or begins to wait; a walk keeps what it read. -/
theorem buffersAndWalks : Obligations.BuffersAndWalks := by
  unfold Obligations.BuffersAndWalks
  refine ⟨?node, ?takes, ?waits, ?fill, ?walk⟩
  case node =>
    intro s c n x nd b f h hkind hwants hf
    have hcell : b.cell = c := nodeWants_cell hwants
    refine ⟨fun hmode hfilled => ⟨_, rfl, ?_⟩, fun hmode hempty => ⟨_, rfl, ?_⟩, fun hmode hfree hrun => ⟨nodeAcquires s c n, rfl, ?_⟩,
      fun hmode hheld => ⟨nodeAcquires s c n, rfl, ?_⟩⟩
    · exact memEvent_takes h (by simp [hkind, hmode]) (by simp only [hwants, if_neg hfilled.ne']; rfl) hcell hf (by intro; rfl)
    · exact memEvent_holds h (by simp [hkind, hmode]) (by simp only [hwants, if_pos hempty]) hcell hf
    · exact memEvent_takes (take := fun q => fifoTake q (.node c n)) h (by simp [hkind, hmode])
        (by simp only [hwants, decide_eq_false hfree.ne', hrun]; rfl) hcell hf (fun _ => rfl)
    · exact memEvent_holds h (by simp [hkind, hmode]) (by simp only [hwants]; exact if_pos (by simpa using hheld)) hcell hf
  case takes =>
    exact fun s e ch x c r b f hx hc hcur hruns hwants hf hfree hcheck hready hturn => by
      obtain ⟨hfifo, c', hchan⟩ := channelAcquires_takes hx (by simp only [chanOf, hx, hc]) hcur hruns hwants hcheck hf hready hfree hturn
      exact ⟨_, c', rfl, hfifo, hchan⟩
  case waits =>
    exact fun s e ch x c r b f hx hc hcur hruns hwants hf hcheck hready hwaits hheld => by
      obtain ⟨hfifo, hmem, c', hchan⟩ :=
        channelAcquires_waits hx (by simp only [chanOf, hx, hc]) hcur hruns hwants hcheck hf hready hwaits hheld
      exact ⟨_, c', rfl, hfifo, hmem, hchan⟩
  case fill =>
    intro s c k b f j hb hf hj
    refine ⟨updFifo s b (fun y => fifoFill y j), ?_, by rw [fifoOf_updFifo, hf, Option.map_some], updCell_mem ..⟩
    change execFifoSlotFill c k s = _
    simp only [execFifoSlotFill, hb, hf, hj]
  case walk =>
    intro s a va hplain hmiss
    have hexec : exec (.pageWalkComplete a va) s = .next (fillTlb s ⟨a, lSUPER, lowDie (diesOf s a), false⟩ va) := by
      change execPageWalkComplete a va s = _
      rw [execPageWalkComplete, if_neg (not_not_intro hplain)]
    have hkeeps := keepsUnits_fillTlb s ⟨a, lSUPER, lowDie (diesOf s a), false⟩ va
    obtain ⟨hbytes, hdirs, hleaf, hfault⟩ := fillTlb_walks (w := ⟨a, lSUPER, lowDie (diesOf s a), false⟩) hmiss
    exact ⟨fun e he => ⟨_, hexec, hleaf e he, hbytes, hkeeps.threads, hkeeps.cells, hdirs⟩,
      fun f hf => ⟨_, hexec, hfault f hf, hdirs, hbytes, hkeeps.threads, hkeeps.cells⟩⟩

end Sys2Proof
end

section
namespace Sys2Proof

open Machine

/-! ### A store into a view keeps the canonical form of memory (R191) -/

theorem cellsWf_set {l : List Host.Cell} (a : Nat) (v : Byte) (w : cellsWf 0 l = true) : cellsWf 0 (cellsSet l a v) = true :=
  cellsWf_cellsSet v (Nat.zero_le a) w

theorem cellsWf_putStored {l : List Host.Cell} (wd : Window) (i pat : Nat) (w : cellsWf 0 l = true) :
    cellsWf 0 (putStored l wd i pat) = true := by
  unfold putStored
  split <;> exact cellsWf_set _ _ w

theorem cellsWf_foldl_putStored (wd : Window) (at0 pat : Nat → Nat) (ks : List Nat) {l : List Host.Cell} (w : cellsWf 0 l = true) :
    cellsWf 0 (ks.foldl (fun b k => putStored b wd (at0 k) (pat k)) l) = true :=
  List.foldlRecOn ks _ (motive := fun b => cellsWf 0 b = true) w (fun _ hb _ _ => cellsWf_putStored wd _ _ hb)

theorem cellsWf_reEncode {wd : Window} {l m : List Host.Cell} {i0 : Nat} {pats : List Nat} (h : reEncode wd l i0 pats = some m)
    (w : cellsWf 0 l = true) : cellsWf 0 m = true := by
  simp only [reEncode] at h
  split at h
  · cases h
  · split at h <;> cases h
    · exact cellsWf_foldl_putStored wd _ _ _ w
    · exact cellsWf_set _ _ (cellsWf_foldl_putStored wd _ _ _ w)

theorem cellsWf_reEncodeAll (wd : Window) (step fuel : Nat) : ∀ {l m : List Host.Cell} {i0 : Nat} {pats : List Nat},
    reEncodeAll wd step fuel l i0 pats = some m → cellsWf 0 l = true → cellsWf 0 m = true := by
  induction fuel with
  | zero => exact fun h w => Option.some.inj h ▸ w
  | succ fuel ih =>
    intro l m i0 pats h w
    unfold reEncodeAll at h
    split at h
    · exact Option.some.inj h ▸ w
    · split at h
      · cases h
      · rename_i hone
        exact ih h (cellsWf_reEncode hone w)

theorem cellsWf_locPut {s : State} {a : Nat} {loc : Loc} {bs : List Byte} {l m : List Host.Cell} (h : locPut s a l loc bs = some m)
    (w : cellsWf 0 l = true) : cellsWf 0 m = true := by
  unfold locPut at h
  split at h
  · exact Option.some.inj h ▸ cellsWf_cellsPut _ bs w
  · split at h
    · unfold viewStore at h
      extract_lets sz step n pats at h
      split at h
      · cases h
      · split at h
        · cases h
        · exact cellsWf_reEncodeAll _ _ _ h w
    · cases h
  · exact Option.some.inj h ▸ w

/-! ### What the device's own writes leave of memory's form and of what has come in -/

/-- Memory stays canonical, and nothing comes in or is taken. -/
structure KeepsForm (s u : State) : Prop where
  safe : Safe s → Safe u
  inbound : u.fl.inbound = s.fl.inbound

theorem KeepsForm.refl (s : State) : KeepsForm s s := ⟨id, rfl⟩

theorem KeepsForm.trans {s u v : State} (h : KeepsForm s u) (g : KeepsForm u v) : KeepsForm s v :=
  ⟨fun hs => g.safe (h.safe hs), g.inbound.trans h.inbound⟩

theorem KeepsForm.foldl {α : Type} {f : State → α → State} (h : ∀ s x, KeepsForm s (f s x)) (l : List α) (s : State) :
    KeepsForm s (l.foldl f s) :=
  List.foldlRecOn l f (.refl s) (fun _ hs x _ => hs.trans (h _ x))

/-- What changes neither a byte nor what is in flight. -/
theorem KeepsForm.of_eq {s u : State} (hbytes : u.mem.bytes = s.mem.bytes) (hfl : u.fl = s.fl) : KeepsForm s u :=
  ⟨fun h => (congrArg (cellsWf 0) hbytes).trans h, congrArg Flight.inbound hfl⟩

theorem keepsForm_updCtx (s : State) (a : Nat) (f : Context → Context) : KeepsForm s (updCtx s a f) :=
  .of_eq (congrArg Memory.bytes (updCtx_mem s a f)) (updCtx_fl s a f)

theorem keepsForm_updCell (s : State) (c : Nat) (f : Cell → Cell) : KeepsForm s (updCell s c f) :=
  .of_eq (congrArg Memory.bytes (updCell_mem s c f)) (updCell_fl s c f)

theorem keepsForm_sendWrite (s : State) (w : MbWrite) : KeepsForm s (sendWrite s w) := ⟨id, rfl⟩

theorem keepsForm_sendOp (s : State) (i : Issuer) (ix : Nat) (port : Option Nat) (w : Bool) (a : W) (bs : List Byte) :
    KeepsForm s (sendOp s i ix port w a bs) := ⟨id, rfl⟩

theorem keepsForm_devPut (s : State) (a p : Nat) (bs : List Byte) : KeepsForm s (devPut s a p bs) :=
  ⟨devPut_wf a p bs, by unfold devPut; split <;> rfl⟩

theorem keepsForm_devView {s u : State} {a : Nat} {l : Loc} {bs : List Byte} (h : devView s a l bs = some u) : KeepsForm s u := by
  unfold devView at h
  split at h
  · cases h
    exact ⟨id, rfl⟩
  · split at h
    · cases h
    · rename_i hput
      cases h
      exact ⟨cellsWf_locPut hput, rfl⟩

theorem fillTlb_bytes (s : State) (w : Who) (va : W) : (fillTlb s w va).mem.bytes = s.mem.bytes := by
  cases h : tlbHit s w.die w.asid va.toNat with
  | some e => simp only [fillTlb, h]
  | none => exact (fillTlb_walks h).1

theorem fillTlb_fl (s : State) (w : Who) (va : W) : (fillTlb s w va).fl = s.fl := by
  unfold fillTlb
  split <;> rfl

theorem keepsForm_fillTlb (s : State) (w : Who) (va : W) : KeepsForm s (fillTlb s w va) := .of_eq (fillTlb_bytes s w va) (fillTlb_fl s w va)

theorem keepsForm_fillPages (w : Who) (fuel : Nat) : ∀ (s : State) (va : W) (n : Nat), KeepsForm s (fillPages s w fuel va n) := by
  induction fuel with
  | zero => exact fun s _ _ => .refl s
  | succ fuel ih =>
    intro s va n
    unfold fillPages
    split
    · exact .refl s
    · exact (keepsForm_fillTlb s w va).trans (ih _ _ _)

theorem keepsForm_putPieces {a : Nat} (ps : List (Resolved × Nat)) :
    ∀ {s u : State} {bs : List Byte}, putPieces s a ps bs = some u → KeepsForm s u := by
  induction ps with
  | nil =>
    intro s u bs h
    exact Option.some.inj h ▸ .refl s
  | cons p rest ih =>
    intro s u bs h
    simp only [putPieces] at h
    split at h
    case h_1 => exact (keepsForm_devPut ..).trans (ih h)
    case h_2 =>
      split at h
      · rename_i hview
        exact (keepsForm_devView hview).trans (ih h)
      · cases h
    case h_3 =>
      split at h
      · exact (keepsForm_sendOp ..).trans (ih h)
      · cases h
    case h_4 => exact (keepsForm_sendOp ..).trans (ih h)
    case h_5 => cases h

theorem keepsForm_vaPut {s u : State} {a die : Nat} {va : W} {bs : List Byte} (h : vaPut s a die va bs = some u) : KeepsForm s u := by
  simp only [vaPut] at h
  split at h
  · cases h
  · exact (keepsForm_fillPages ..).trans (keepsForm_putPieces _ h)

/-- What a record in a ring is: one write of the device, or two. -/
theorem placeRecord_writes {s : State} {a die size wr rd : Nat} {base : W} {ws : List W} {r : State × Nat}
    (h : placeRecord s a die base size wr rd ws = some r) :
    ∃ s1 va bs, (s1 = s ∨ ∃ va bs, vaPut s a die va bs = some s1) ∧ vaPut s1 a die va bs = some r.1 := by
  unfold placeRecord at h
  extract_lets l off tail at h
  split at h
  · cases h
  · rename_i padded _
    cases hpad : padded with
    | none => simp [hpad] at h
    | some s1 =>
      cases hput : vaPut s1 a die (base + w64 ((wr + tail) % size)) (wordBytes ws) with
      | none => simp [hpad, hput] at h
      | some s2 =>
        obtain rfl : (s2, wr + tail + l) = r := by simpa [hpad, hput] using h
        refine ⟨s1, _, _, ?_, hput⟩
        unfold padded at hpad
        split at hpad
        · exact .inl (Option.some.inj hpad).symm
        · exact .inr ⟨_, _, hpad⟩

theorem keepsForm_placeRecord {s : State} {a die size wr rd : Nat} {base : W} {ws : List W} {r : State × Nat}
    (h : placeRecord s a die base size wr rd ws = some r) : KeepsForm s r.1 := by
  obtain ⟨s1, va, bs, rfl | ⟨va', bs', hpad⟩, hput⟩ := placeRecord_writes h
  · exact keepsForm_vaPut hput
  · exact (keepsForm_vaPut hpad).trans (keepsForm_vaPut hput)

theorem keepsForm_sampleRec (s : State) (a die kind : Nat) (body : List W) : KeepsForm s (sampleRec s a die kind body) := by
  simp only [sampleRec]
  split
  · exact .refl s
  · split
    · rename_i hrec
      exact (keepsForm_placeRecord hrec).trans (keepsForm_updCtx ..)
    · exact keepsForm_updCtx ..

theorem keepsForm_logRec (s : State) (a die e kind : Nat) (body : List W) : KeepsForm s (logRec s a die e kind body) := by
  simp only [logRec]
  split
  · exact .refl s
  · split
    · rename_i hrec
      exact (keepsForm_placeRecord hrec).trans (keepsForm_updCtx ..)
    · exact keepsForm_updCtx ..

theorem keepsForm_orderLog (s : State) (a die pts kind : Nat) (ws : List W) : KeepsForm s (orderLog s a die pts kind ws) := by
  simp only [orderLog]
  split
  · exact .refl s
  · split
    · exact (keepsForm_logRec ..).trans (keepsForm_updCtx ..)
    · exact .refl s

theorem keepsForm_orderRec (s : State) (a die pts kind : Nat) (ws : List W) : KeepsForm s (orderRec s a die pts kind ws) := by
  refine KeepsForm.trans ?_ (keepsForm_orderLog ..)
  split
  · exact keepsForm_updCtx ..
  · exact .refl s

theorem keepsForm_undoRecs (s : State) (a p n : Nat) : KeepsForm s (undoRecs s a p n) := by
  unfold undoRecs
  split
  · exact .refl s
  · split
    · refine .foldl (fun st k => ?_) _ s
      split
      · exact .refl st
      · split
        · exact .refl st
        · exact (keepsForm_logRec ..).trans (keepsForm_updCtx ..)
    · exact .refl s

theorem keepsForm_noteLate (s : State) (c n : Nat) (nd nd1 : Node) : KeepsForm s (noteLate s c n nd nd1) := by
  unfold noteLate
  split
  · exact .refl s
  · refine .foldl (fun st e => ?_) _ s
    split
    · split
      · exact keepsForm_logRec ..
      · exact .refl st
    · exact .refl st

theorem keepsForm_noteBreak (s : State) (c n lo hi : Nat) : KeepsForm s (noteBreak s c n lo hi) := by
  unfold noteBreak
  split
  · exact .refl s
  · split
    · refine .foldl (fun st k => ?_) _ s
      simp only
      split
      · exact (keepsForm_sampleRec ..).trans (keepsForm_sampleRec ..)
      · exact keepsForm_sampleRec ..
    · exact .refl s

theorem keepsForm_nextSeq (s : State) (a : Nat) : KeepsForm s (nextSeq s a).2 := by
  unfold nextSeq
  split
  · exact keepsForm_updCtx ..
  · exact .refl s

theorem keepsForm_logTrap (s : State) (a die : Nat) (ws : List W) : KeepsForm s (logTrap s a die ws) := by
  simp only [logTrap]
  split
  · exact .refl s
  · refine KeepsForm.trans ?_ (keepsForm_updCtx ..)
    split
    · exact .refl s
    · split
      · rename_i hput
        exact keepsForm_vaPut hput
      · exact .refl s

/-! ### The end of a step of a MEM or AGEN node -/

theorem keepsForm_poisonTrap (s : State) (c : Nat) (x : Cell) (q : Poison) : KeepsForm s (poisonTrap s c x q) := by
  simp only [poisonTrap]
  split
  · exact (keepsForm_nextSeq ..).trans (keepsForm_updCell ..)
  · exact (keepsForm_nextSeq ..).trans ((keepsForm_logTrap ..).trans (keepsForm_sendWrite ..))

theorem keepsForm_haltCell (s : State) (c : Nat) (q : Poison) : KeepsForm s (haltCell s c q) := by
  unfold haltCell
  split
  · exact .refl s
  · exact (keepsForm_updCell ..).trans (keepsForm_poisonTrap ..)

theorem keepsForm_memNoted (v : State) (c n : Nat) (nd nd1 : Node) (y : Cell) : KeepsForm v (memNoted v c n nd nd1 y) := by
  have hput : KeepsForm v (putCell v c (noteFire v y n)) := ⟨id, rfl⟩
  have hlate := hput.trans (keepsForm_noteLate (putCell v c (noteFire v y n)) c n nd nd1)
  simp only [memNoted]
  split
  · exact hlate.trans (keepsForm_noteBreak ..)
  · exact hlate

/-- The halt of a cell by a POISON of a node that is no LINKOUT. -/
theorem keepsForm_memHalts (v : State) (c n : Nat) {nd : Node} (q : Poison) (h : nd.word.mode ≠ 4) : KeepsForm v (memHalts v c n nd q) := by
  rw [memHalts, if_neg (fun hout => h hout.2)]
  exact (keepsForm_updCell ..).trans (keepsForm_haltCell ..)

/-- A step of such a node leaves memory in form, and what has come in as the node's own part of the step made it. -/
theorem memEvent_keepsForm {s : State} {c n : Nat} {x y : Cell} {nd z : Node} {ok : NodeWord → Bool} {f : Cell → Node → State}
    (h : NodeFree s c n x nd) (hok : ok nd.word = true) (hmode : nd.word.mode ≠ 4) (hy : aget (f x nd).cells c = some y)
    (hz : y.nodes[n]? = some z) : KeepsForm (f x nd) (memEvent s c n ok f) := by
  obtain ⟨nd1, hnd1, -⟩ := emitPend_node hz
  rw [memEvent_eq h hok hy hnd1]
  split
  · exact .refl _
  · cases ownPoison x n nd nd1 with
    | none => exact keepsForm_memNoted ..
    | some q => exact (keepsForm_memNoted ..).trans (keepsForm_memHalts _ c n q hmode)

end Sys2Proof
end

section
namespace Sys2Proof

open Machine

section
variable {s : State} {c n m p k : Nat} {x y : Cell} {nd : Node} {a : List Token} {st : NodeState}

/-! ### What a LINKIN takes next (R241) -/

/-- A step of a MEM node that changes what the node keeps, and nothing else of its cell. -/
theorem memEvent_withMem {ok : NodeWord → Bool} {f : Cell → Node → State} {v : State} {g : MemState → MemState}
    (h : NodeFree s c n x nd) (hok : ok nd.word = true) (hv : v.cells = s.cells) (hf : f x nd = updNode v c n (fun z => z.withMem g)) :
    (memEvent s c n ok f).fl = v.fl ∧ nodeHas (memEvent s c n ok f) c n (fun w => memOf w = g (memOf nd)) := by
  have hy : aget (f x nd).cells c = some (setNode x n (fun z => z.withMem g)) := hf ▸ updNode_cell _ (hv ▸ h.cell)
  have hz : (setNode x n (fun z => z.withMem g)).nodes[n]? = some (nd.withMem g) := setNode_same _ h.node
  obtain ⟨w, hw, hst, -⟩ := memEvent_node h hok hy hz
  refine ⟨?_, w, hw, memOf_mem hst⟩
  rw [(memEvent_still h hok hy hz h.formed rfl).2, hf, updNode_fl]

/-- What a LINKIN keeps once it has compared the descriptor of its channel with its own. -/
def linkinCompared (x : Cell) (n : Nat) (nd : Node) (ord : BitVec 128) (ty : Nat) (ctrl : Bool) (port : Option Nat) (q : MemState) : MemState :=
  let sub : Option (BitVec 8) := if ord ≠ nd.ord.raw then some 4 else if ty ≠ nd.word.type ∨ ctrl ≠ nd.word.ctrl then some 5 else none
  { q with desc := some (ord, ty, ctrl, port), begun := false,
           broken := if q.broken.any (fun b => b.code == cLINK) then q.broken else sub.map (fun e => poisonOf x n cCONNECT e 0) }

theorem linkinCompared_broken {ord : BitVec 128} {ty : Nat} {ctrl : Bool} {port : Option Nat} {q : MemState} (h : q.broken = none) :
    (linkinCompared x n nd ord ty ctrl port q).broken = if ord ≠ nd.ord.raw then some (poisonOf x n cCONNECT 4 0)
      else if ty ≠ nd.word.type ∨ ctrl ≠ nd.word.ctrl then some (poisonOf x n cCONNECT 5 0) else none := by
  simp only [linkinCompared, h, Option.any_none, Bool.false_eq_true, if_false]
  split
  · rfl
  · split <;> rfl

theorem linkinNext_token {t : Token} {a ch : Nat} {d : BitVec 128 × Nat × Bool × Option Nat} (hreplay : replays s x.crew.asid = false)
    (hhead : chanHead s x.crew.asid (linkChan nd) = some (k, .token a ch t)) (hdesc : (memOf nd).desc = some d) :
    linkinNext s c n x nd = some (takeInbound s k, .token t) := by
  simp [linkinNext, hreplay, hhead, hdesc]

theorem linkinNext_lost {a ch : Nat} (hreplay : replays s x.crew.asid = false)
    (hhead : chanHead s x.crew.asid (linkChan nd) = some (k, .down a ch)) :
    linkinNext s c n x nd = some (takeInbound s k, .lost) := by
  simp [linkinNext, hreplay, hhead]

/-! ### What a LINKIN makes of it (R187, R313) -/

/-- The cell of a LINKIN once it has taken what comes. -/
def linkinMakes (s : State) (x : Cell) (n : Nat) (nd : Node) (e : Came) : Cell :=
  match e, (memOf nd).broken with
  | .lost, _ => linkinLoses s x n (memOf nd)
  | .token t, some q => brokenToken s { x with entered := x.entered + 1 } n (memOf nd) q t
  | .token t, none => linkToken s { x with entered := x.entered + 1 } n t

/-- A LINKIN takes what stands first for its channel, and has the tokens of what it makes of it to send. -/
theorem linkinReceive_emits {e : Came} (h : Sends s c n x nd m p) (hkind : nd.word.kind = kMEM) (hmode : nd.word.mode = 3)
    (hroom : roomAll x n = true) (hsluice : agenSluice s c n x nd = none)
    (hnext : linkinNext s c n x nd = some (takeInbound s k, e)) (hw : Waits x (linkinMakes s x n nd e) n nd a st)
    (hmoves : a ≠ [] ∨ st ≠ nd.st) :
    ∃ u, exec (.linkinReceive c n) s = .next u ∧ u.fl.inbound = dropAt s.fl.inbound k ∧ Emits s u c n m p a st := by
  have hlabelled : Waits x (Machine.setNode (linkinMakes s x n nd e) n
      (fun q => { q with pts := max q.pts (chanPts s x.crew.asid (linkChan nd)) })) n nd a st := hw.setNode (fun _ => ⟨rfl, rfl, id⟩)
  have hok : (nd.word.kind == kMEM && nd.word.mode == 3) = true := by simp [hkind, hmode]
  obtain ⟨z, hz, -⟩ := hlabelled.node
  refine ⟨_, rfl, ?_, h.memEvent hok hroom ?_ hlabelled hmoves⟩
  · refine (memEvent_keepsForm h.nodeFree hok (by omega) ?_ hz).inbound.trans ?_
    all_goals simp only [hsluice, hnext, hroom, Bool.not_true, Bool.false_eq_true, if_false, linkinMakes]
    · exact aget_aset_same ..
    · exact (keepsForm_orderRec ..).inbound
  · simp only [hsluice, hnext, hroom, Bool.not_true, Bool.false_eq_true, if_false, linkinMakes]
    exact aget_aset_same ..

theorem LeadsTo.isSome_outA (h : LeadsTo s c n x nd m p) : nd.word.outA.isSome = true := by rw [h.out, Option.isSome_some]

/-- A node that forms tokens, whatever state it is left in. -/
def Leaves (x y : Cell) (n : Nat) (nd : Node) (a : List Token) : Prop := ∃ st, Waits x y n nd a st

theorem Waits.setNode_leaves (h : Waits x y n nd a st) {f : Node → Node} (hf : ∀ z, (f z).word = z.word ∧ (f z).pendA = z.pendA) :
    Leaves x (Machine.setNode y n f) n nd a := by
  obtain ⟨z, hz, hw, ha, -⟩ := h.node
  exact ⟨(f z).st, fun j hj => (setNode_ne f hj).trans (h.others j hj), f z, setNode_same f hz, (hf z).1.trans hw, (hf z).2.trans ha, rfl⟩

/-- The entry of a token into its cell leaves the nodes alone. -/
theorem waits_enters (hn : x.nodes[n]? = some nd) (hformed : nd.sentAll = true) :
    Waits x { x with entered := x.entered + 1 } n nd [] nd.st := by
  obtain ⟨hothers, hnode⟩ := waits_of_sentAll hn hformed
  exact ⟨hothers, hnode⟩

theorem linkToken_data (h : Sends s c n x nd m p) (l : Lanes) :
    Leaves x (linkToken s { x with entered := x.entered + 1 } n (.data l)) n nd [.data l] :=
  ((waits_enters h.node h.formed).sendBoth h.isSome_outA (.data l)).setNode_leaves (fun _ => ⟨rfl, rfl⟩)

/-- END leaves a LINKIN with the node's own label. -/
theorem linkToken_fin (h : Sends s c n x nd m p) (q : Nat) (g : Sig) :
    ∃ g', Leaves x (linkToken s { x with entered := x.entered + 1 } n (.fin q g)) n nd [.fin q g'] := by
  have hmerged : Waits x (mergeNode s { x with entered := x.entered + 1 } n g) n nd [] nd.st :=
    (waits_enters h.node h.formed).setNode (fun _ => ⟨rfl, rfl, id⟩)
  have hsent := hmerged.sendBoth h.isSome_outA (.fin q (nodeSig s (mergeNode s { x with entered := x.entered + 1 } n g) n))
  have hports := hsent.setNode (st' := nd.st) (f := fun z => setPort z 0 (fun pt => { pt with len := none })) (fun _ => ⟨rfl, rfl, id⟩)
  exact ⟨_, hports.setNode_leaves (fun _ => ⟨rfl, rfl⟩)⟩

/-- A LINKIN with a link that stands sends a token on. -/
theorem linkin_sendsOn {t t' : Token} {a ch : Nat} {d : BitVec 128 × Nat × Bool × Option Nat} (h : Sends s c n x nd m p)
    (hkind : nd.word.kind = kMEM) (hmode : nd.word.mode = 3) (hroom : roomAll x n = true) (hsluice : agenSluice s c n x nd = none)
    (hdesc : (memOf nd).desc = some d) (hstands : (memOf nd).broken = none) (hreplay : replays s x.crew.asid = false)
    (hhead : chanHead s x.crew.asid (linkChan nd) = some (k, .token a ch t))
    (hleaves : Leaves x (linkToken s { x with entered := x.entered + 1 } n t) n nd [t']) :
    ∃ u, exec (.linkinReceive c n) s = .next u ∧ u.fl.inbound = dropAt s.fl.inbound k ∧
      queueAt u c m p = queueAt s c m p ++ [t'] := by
  obtain ⟨st, hw⟩ := hleaves
  obtain ⟨u, hu, hin, hq, -⟩ := linkinReceive_emits h hkind hmode hroom hsluice (linkinNext_token hreplay hhead hdesc)
    (by simpa only [linkinMakes, hstands] using hw) (.inl (List.cons_ne_nil _ _))
  exact ⟨u, hu, hin, hq⟩

/-- The tokens in place of a stream that its port has lost (R313). -/
def lostTokens (s : State) (x : Cell) (n : Nat) (nd : Node) : List Token :=
  if (memOf nd).begun then [.poison (poisonOf x n cLINK 2 (memOf nd).cur), .fin 0 (nodeSig s x n)] else []

theorem linkinLoses_waits (h : Sends s c n x nd m p) (hstands : (memOf nd).broken = none) :
    ∃ q, q.broken = some (poisonOf x n cLINK 2 0) ∧
      Waits x (linkinLoses s x n (memOf nd)) n nd (lostTokens s x n nd) (.mem q) := by
  unfold lostTokens linkinLoses
  cases hbegun : (memOf nd).begun
  case false =>
    refine ⟨{ memOf nd with broken := some (poisonOf x n cLINK 2 0) }, rfl, ?_⟩
    exact (waits_of_sentAll h.node h.formed).setMem (fun _ hz => memOf_congr hz) _
  case true =>
    have hsent := ((waits_enters h.node h.formed).sendBoth h.isSome_outA (.poison (poisonOf x n cLINK 2 (memOf nd).cur))).sendBoth
      h.isSome_outA (.fin 0 (nodeSig s x n))
    simp only [hstands, Option.isNone_none, Bool.and_self, if_true]
    exact ⟨{ { memOf nd with cur := 0 } with broken := some (poisonOf x n cLINK 2 0) }, rfl,
      (hsent.setMem (fun _ hz => memOf_congr hz) _).setMem (fun _ hz => memOf_mem hz) _⟩

/-! ### What a LINKOUT sends (R240, R242) -/

theorem linkGate_none (hout : isLinkout nd = true) (hheld : linkHeld s x nd = false) (hdev : linkDev nd = 0)
    (hroom : linkRoom s x.crew.asid (linkChan nd) = true) : linkGate s c n x nd = none := by
  simp [linkGate, hout, hheld, noRoute, linkCredit, hdev, hroom]

theorem linkSend_here {v : State} {w : Cell} (t : Token) (hw : aget v.cells c = some w) (hdev : linkDev nd = 0) :
    linkSend v c n nd t = { v with fl := { v.fl with inbound := v.fl.inbound ++ [.token w.crew.asid (linkChan nd) t] } } := by
  simp [linkSend, hw, hdev]

/-- The head of a port stands at a port that there is. -/
theorem ports_of_queue {j : Nat} {t : Token} {ts : List Token} (h : (nd.port j).q = t :: ts) : nd.ports[j]? = some (nd.port j) := by
  cases hp : nd.ports[j]? with
  | none => simp [Node.port, hp, Port.idle] at h
  | some pt => simp [Node.port, hp]

/-- A step of a MEM node that takes the only token of its port A and forms none: it leaves what has come in, and the node's ports. -/
theorem memEvent_takesHead {ok : NodeWord → Bool} {f : Cell → Node → State} {z : Node} (h : NodeFree s c n x nd) (hok : ok nd.word = true)
    (hy : aget (f x nd).cells c = some y) (hz : y.nodes[n]? = some z) (hsent : z.sentAll = true) (hempty : (z.port 0).q = [])
    (hfull : (nd.port 0).q ≠ []) :
    (memEvent s c n ok f).fl.inbound = (f x nd).fl.inbound ∧ nodeHas (memEvent s c n ok f) c n (fun w => w.ports = z.ports) := by
  have hsame := emitPend_of_sentAll hz hsent
  have hmoved : y ≠ x := by
    rintro rfl
    exact hfull (Option.some.inj (h.node.symm.trans hz) ▸ hempty)
  have hquiet : ownPoison x n nd z = none := by simp [ownPoison, Node.head, hempty]
  rw [memEvent_eq h hok hy (nd1 := z) (by rwa [hsame]), if_neg (by rwa [hsame]), hquiet, hsame, Option.elim_none]
  have hnode : nodeOf (memNoted (f x nd) c n nd z y) c n = (noteFire (f x nd) y n).nodes[n]? := by simp only [nodeOf, memNoted_cell]
  exact ⟨(keepsForm_memNoted ..).inbound, _, hnode.trans (setNode_same _ hz), rfl⟩

/-- The cell of a LINKOUT whose port A has lost its beat to the channel. -/
def linkoutTaken (x : Cell) (n : Nat) (nd : Node) : Cell :=
  setNode (setNode x n (fun z => { z with pts := max z.pts ((x.nodes[(nd.port 0).src]?).elim 0 (fun q => q.pts)) })) n
    (fun z => setPort z 0 takeBeat)

theorem linkoutTaken_node {t : Token} (hn : x.nodes[n]? = some nd) (hq : (nd.port 0).q = [t]) :
    ∃ z, (linkoutTaken x n nd).nodes[n]? = some z ∧ z.sentAll = nd.sentAll ∧ z.port 0 = takeBeat (nd.port 0) :=
  ⟨_, setNode_same _ (setNode_same _ hn), rfl, setPort_port_same takeBeat (ports_of_queue hq)⟩

end

/-- Settles O44: a LINKIN takes what stands first for its channel, a LINKOUT puts its beat behind what stands there. -/
theorem linkNodes : Obligations.LinkNodes := by
  unfold Obligations.LinkNodes
  intro s c n x nd m p hkind
  refine ⟨?descriptor, ?token, ?lost, ?linkout⟩
  case descriptor =>
    intro k a ch ord ty ctrl port h hmode hstands hhead
    obtain ⟨f, hexec, hf⟩ : ∃ f, exec (.linkinDescriptorReceive c n) s = .next (memEvent s c n (fun w => w.kind == kMEM && w.mode == 3) f) ∧
        f x nd = updNode (takeInbound s k) c n (fun z => z.withMem (linkinCompared x n nd ord ty ctrl port)) :=
      ⟨_, rfl, by rw [hhead]; rfl⟩
    obtain ⟨hfl, w, hw, hkeeps⟩ :=
      memEvent_withMem (ok := fun w => w.kind == kMEM && w.mode == 3) (v := takeInbound s k) h (by simp [hkind, hmode]) rfl hf
    exact ⟨_, hexec, congrArg Flight.inbound hfl, w, hw, by rw [hkeeps]; rfl, by rw [hkeeps, linkinCompared_broken hstands]⟩
  case token =>
    intro k a ch t d h hmode hroom hsluice hdesc hstands hreplay hhead
    constructor
    · rintro l rfl
      exact linkin_sendsOn h hkind hmode hroom hsluice hdesc hstands hreplay hhead (linkToken_data h l)
    · rintro q g rfl
      obtain ⟨g', hleaves⟩ := linkToken_fin h q g
      obtain ⟨u, hu, hrest⟩ := linkin_sendsOn h hkind hmode hroom hsluice hdesc hstands hreplay hhead hleaves
      exact ⟨u, g', hu, hrest⟩
  case lost =>
    intro k a ch h hmode hroom hsluice _ hreplay hhead hstands
    obtain ⟨q, hbroken, hw⟩ := linkinLoses_waits h hstands
    have hmoves : NodeState.mem q ≠ nd.st := by
      intro hst
      rw [memOf_mem hst.symm, hbroken] at hstands
      cases hstands
    obtain ⟨u, hu, hin, hq, w, hw, ha, hst⟩ := linkinReceive_emits h hkind hmode hroom hsluice (linkinNext_lost hreplay hhead) hw (.inr hmoves)
    exact ⟨u, nodeSig s x n, hu, hin, ⟨w, hw, (congrArg MemState.broken (memOf_mem hst)).trans hbroken⟩, hq, w, hw, ha⟩
  case linkout =>
    intro l h hmode hq hheld hdev hroom hbad
    have hout : (nd.word.kind == kMEM && nd.word.mode == 4) = true := by simp [hkind, hmode]
    have hgate : linkGate s c n x nd = none := linkGate_none hout hheld hdev hroom
    obtain ⟨f, hexec, hf⟩ : ∃ f, exec (.linkoutSend c n) s = .next (memEvent s c n (fun w => w.kind == kMEM && w.mode == 4) f) ∧
        f x nd = linkSend (putCell s c (linkoutTaken x n nd)) c n nd (.data l) :=
      ⟨_, rfl, by
        simp only [Node.head, hq, List.head?_cons, hgate, hbad]
        rfl⟩
    have hcell : aget (putCell s c (linkoutTaken x n nd)).cells c = some (linkoutTaken x n nd) := aget_aset_same ..
    obtain ⟨z, hz, hsent, hport⟩ := linkoutTaken_node h.node hq
    obtain ⟨hin, w, hw, hports⟩ := memEvent_takesHead (ok := fun w => w.kind == kMEM && w.mode == 4) (f := f) h hout
      (by rw [hf, (keepsUnits_linkSend ..).cells]; exact hcell) hz (hsent.trans h.formed) (by rw [hport, takeBeat, hq]; rfl) (by rw [hq]; exact List.cons_ne_nil _ _)
    have htaken : w.port 0 = takeBeat (nd.port 0) := by rw [← hport, Node.port, hports, Node.port]
    refine ⟨_, hexec, ?_, w, hw, ?_, ?_⟩
    · rw [hin, hf, linkSend_here _ hcell hdev]
      rfl
    · rw [htaken, takeBeat, hq]
      rfl
    · rw [htaken, takeBeat]

end Sys2Proof
end

section
namespace Sys2Proof

open Machine

/-! ### A context that records nothing (R390, R397) -/

section
variable {s : State} {a : Nat}

theorem orderLog_of_quiet (h : Quiet s a) (die pts kind : Nat) (ws : List W) : orderLog s a die pts kind ws = s := by
  unfold orderLog
  cases hc : aget s.ctxs a with
  | none => rfl
  | some c =>
    obtain ⟨-, hckctl, -⟩ := h c hc
    simp only [hckctl, Bool.false_eq_true, if_false]

theorem Quiet.dropOrder (h : Quiet s a) : Quiet (dropOrder s a) a := by
  intro c hc
  rw [Machine.dropOrder, updCtx_same, Option.map_eq_some_iff] at hc
  obtain ⟨c', hc', rfl⟩ := hc
  exact h c' hc'

theorem orderRec_of_quiet (h : Quiet s a) (die pts kind : Nat) (ws : List W) :
    (orderRec s a die pts kind ws).mem = s.mem ∧ Quiet (orderRec s a die pts kind ws) a := by
  unfold orderRec
  split
  · rw [orderLog_of_quiet h.dropOrder]
    exact ⟨updCtx_mem .., h.dropOrder⟩
  · rw [orderLog_of_quiet h]
    exact ⟨rfl, h⟩

/-- What a read of another context's lines notes leaves memory alone where nothing is recorded. -/
theorem noteForeign_of_quiet (h : Quiet s a) (m : Memory) (die pts : Nat) (unit : W) (spans : List (Nat × Nat)) :
    (noteForeign s m a die pts unit spans).mem = s.mem := by
  unfold noteForeign
  split
  · refine (List.foldlRecOn (spanLines spans) _ (motive := fun u : State => u.mem = s.mem ∧ Quiet u a) ⟨rfl, h⟩ (fun u hu k _ => ?_)).1
    split
    · obtain ⟨hmem, hquiet⟩ := orderRec_of_quiet hu.2 die pts 10 (foreignWords m unit k)
      exact ⟨hmem.trans hu.1, hquiet⟩
    · exact hu
  · exact congrArg State.mem (List.foldl_fixed' (fun _ => orderLog_of_quiet h ..) _)

theorem foldl_fillTlb_bytes (w : W → Who) (vas : List W) (s : State) :
    (vas.foldl (fun q va => fillTlb q (w va) va) s).mem.bytes = s.mem.bytes :=
  List.foldlRecOn vas _ (motive := fun u : State => u.mem.bytes = s.mem.bytes) rfl (fun u hu va _ => (fillTlb_bytes u (w va) va).trans hu)

end

/-! ### The lanes of a beat of addresses (R180) -/

/-- The address of a position: by the strides, or from the table; none outside the actual box. -/
def agenLane (s : State) (c n : Nat) (x : Cell) (nd : Node) (b0 b1 : W) (len : Option (List Nat)) (p : List Nat) : Option Nat :=
  if inActual nd.ord len p = true then
    (if nd.word.mode = 2 then
      (match offTable s c n x nd b1 (p.getD (prmField nd.params 2 0 2) 0) with
       | .ok v => some (agenAddr b0 ((v.1 : Int) + agenSum nd p (some (prmField nd.params 2 0 2))))
       | .error _ => none)
     else some (agenAddr b0 (agenSum nd p none)))
  else none

/-- A fold that puts a lane behind those that there are, and meets no fault. -/
theorem foldl_lanes {f : AgenBeat → Nat → AgenBeat} {g : Nat → Option Nat} (ks : List Nat)
    (hf : ∀ k ∈ ks, ∀ b, (f b k).lanes = b.lanes ++ [g k] ∧ (f b k).bad = b.bad ∧ (f b k).stall = b.stall) (b : AgenBeat) :
    (ks.foldl f b).lanes = b.lanes ++ ks.map g ∧ (ks.foldl f b).bad = b.bad ∧ (ks.foldl f b).stall = b.stall := by
  induction ks generalizing b with
  | nil => exact ⟨(List.append_nil _).symm, rfl, rfl⟩
  | cons k ks ih =>
    obtain ⟨hlanes, hbad, hstall⟩ := hf k (List.mem_cons_self ..) b
    obtain ⟨hlanes', hbad', hstall'⟩ := ih (fun j hj => hf j (List.mem_cons_of_mem _ hj)) (f b k)
    exact ⟨by rw [List.foldl_cons, hlanes', hlanes, List.append_assoc, List.map_cons, List.singleton_append],
      hbad'.trans hbad, hstall'.trans hstall⟩

/-- Where every entry of the table can be read, a beat has the addresses of its positions. -/
theorem agenBeat_lanes (s : State) (c n : Nat) (x : Cell) (nd : Node) (b0 b1 : W) (len : Option (List Nat)) (cur : Nat)
    (cs : List (List Nat)) (htable : nd.word.mode = 2 → ∀ q ∈ cs, ∃ v, offTable s c n x nd b1 (q.getD (prmField nd.params 2 0 2) 0) = .ok v) :
    let b := agenBeat s c n x nd b0 b1 len cur cs
    b.lanes = (List.range cs.length).map (fun i => agenLane s c n x nd b0 b1 len (cs.getD i [])) ∧ b.bad = none ∧ b.stall = none := by
  refine foldl_lanes (List.range cs.length) (fun i hi b => ?_) _
  have hmem : cs.getD i [] ∈ cs := by
    rw [List.getD_eq_getElem _ _ (List.mem_range.mp hi)]
    exact List.getElem_mem _
  unfold agenLane
  cases hin : inActual nd.ord len (cs.getD i [])
  case false => simp only [hin, Bool.not_false, if_true, Bool.false_eq_true, if_false, and_self]
  case true =>
    by_cases hmode : nd.word.mode = 2
    · obtain ⟨v, hv⟩ := htable hmode _ hmem
      simp only [hin, hmode, hv, Bool.not_true, Bool.false_eq_true, if_false, if_true, and_self]
    · simp only [hin, hmode, Bool.not_true, Bool.false_eq_true, if_false, if_true, and_self]

theorem padTo_getD (n i : Nat) (l : Lanes) : (padTo n l).getD i none = l.getD i none := by
  rw [padTo]
  by_cases hi : i < l.length
  · rw [List.getD_append _ _ _ _ hi]
  · have hout : l.length ≤ i := Nat.le_of_not_lt hi
    rw [List.getD_append_right _ _ _ _ hout, List.getD_eq_default _ _ hout]
    by_cases hpad : i - l.length < n - l.length
    · rw [List.getD_replicate _ hpad]
    · exact List.getD_eq_default _ _ (by rw [List.length_replicate]; omega)

theorem range_map_getD (g : Nat → Option Nat) (k i : Nat) : ((List.range k).map g).getD i none = if i < k then g i else none := by
  split
  · rename_i hi
    rw [List.getD_eq_getElem _ _ (by simpa using hi), List.getElem_map, List.getElem_range]
  · exact List.getD_eq_default _ _ (by simpa using ‹¬ i < k›)

/-! ### A step of an AGEN (R180) -/

section
variable {s v : State} {c n m p : Nat} {x y : Cell} {nd : Node} {a : List Token} {st : NodeState} {b0 b1 : W} {len : List Nat} {ts : Nat}
  {rest : List (W × W × List Nat × Nat)}

/-- The order's box, where its lengths come with the stream. -/
def agenLen (nd : Node) (len : List Nat) : Option (List Nat) := if nd.ord.anyRagged then some len else none

/-- An AGEN that has a stream, and no sluice to send first, has the tokens of its step to send. -/
theorem agenEmit_emits (h : Sends s c n x nd m p) (hkind : nd.word.kind = kAGEN) (hroom : roomAll x n = true)
    (hstarts : (memOf nd).starts = (b0, b1, len, ts) :: rest)
    (hsluice : nd.word.mode ≠ 1 → (memOf nd).begun = false → agenSluice s c n x nd = none)
    (hstep : (if nd.word.mode = 1 then agenIndex s c n x nd b0 else agenStep s c n x nd b0 b1 len) = putCell v c y)
    (hw : Waits x y n nd a st) (hmoves : a ≠ [] ∨ st ≠ nd.st) :
    ∃ f, exec (.agenEmit c n) s = .next (memEvent s c n (fun w => w.kind == kAGEN) f) ∧ f x nd = putCell v c y ∧
      Emits s (memEvent s c n (fun w => w.kind == kAGEN) f) c n m p a st := by
  have hfirst : ¬ (nd.word.mode ≠ 1 ∧ (memOf nd).begun = false ∧ (agenSluice s c n x nd).isSome = true) := by
    rintro ⟨hmode, hbegun, hsome⟩
    rw [hsluice hmode hbegun] at hsome
    cases hsome
  obtain ⟨f, hexec, hf⟩ : ∃ f, exec (.agenEmit c n) s = .next (memEvent s c n (fun w => w.kind == kAGEN) f) ∧ f x nd = putCell v c y := by
    refine ⟨_, rfl, ?_⟩
    simp only [hroom, hstarts, if_neg hfirst, Bool.not_true, Bool.false_eq_true, if_false]
    exact hstep
  exact ⟨f, hexec, hf, h.memEvent (by simp [hkind]) hroom (by rw [hf]; exact aget_aset_same ..) hw hmoves⟩

/-- The cell of an AGEN that begins a stream. -/
def agenBegins (x : Cell) (n : Nat) (nd : Node) (l : List Nat) : Cell :=
  let y := setMem x n (fun q => { q with begun := true, cur := 0 })
  if nd.ord.anyRagged then sendBoth y n (.len (l.getD 0 0) (l.getD 1 0) (l.getD 2 0) (l.getD 3 0)) else y

theorem agenBegins_waits (h : Sends s c n x nd m p) (hkind : nd.word.kind = kAGEN) (l : List Nat) :
    Waits x (agenBegins x n nd l) n nd (if nd.ord.anyRagged = true ∧ nd.word.repl = false then
      [.len (l.getD 0 0) (l.getD 1 0) (l.getD 2 0) (l.getD 3 0)] else []) (.mem { memOf nd with begun := true, cur := 0 }) := by
  have hbegun := (waits_of_sentAll h.node h.formed).setMem (fun _ hz => memOf_congr hz) (fun q => { q with begun := true, cur := 0 })
  unfold agenBegins
  cases hragged : nd.ord.anyRagged
  case false => simpa using hbegun
  case true =>
    have hlink : onLink nd (.len (l.getD 0 0) (l.getD 1 0) (l.getD 2 0) (l.getD 3 0)) =
        if nd.word.repl = false then [.len (l.getD 0 0) (l.getD 1 0) (l.getD 2 0) (l.getD 3 0)] else [] := by
      cases hrepl : nd.word.repl <;> simp [onLink, hrepl, hkind, kAGEN]
    have hsent := hbegun.sendBoth h.isSome_outA (.len (l.getD 0 0) (l.getD 1 0) (l.getD 2 0) (l.getD 3 0))
    rw [hlink] at hsent
    simpa using hsent

/-- The cell of an AGEN that ends a stream. -/
def agenEnds (s : State) (x : Cell) (n : Nat) (total : Nat) : Cell :=
  setMem (setNode (sendBoth x n (.fin total (nodeSig s x n))) n (fun z => { z with outPosA := 0, outPosB := 0 })) n (agenDone (nodeSig s x n))

theorem agenEnds_waits (h : Sends s c n x nd m p) (total : Nat) :
    Waits x (agenEnds s x n total) n nd [.fin total (nodeSig s x n)] (.mem (agenDone (nodeSig s x n) (memOf nd))) := by
  have hsent := (waits_of_sentAll h.node h.formed).sendBoth h.isSome_outA (.fin total (nodeSig s x n))
  have hreset := hsent.setNode (st' := nd.st) (f := fun z => { z with outPosA := 0, outPosB := 0 }) (fun _ => ⟨rfl, rfl, id⟩)
  exact hreset.setMem (fun _ hz => memOf_congr hz) _

/-- The cell of an AGEN that sends a beat of addresses, with the labels of the table's lines merged. -/
def agenSends (s : State) (x : Cell) (n : Nat) (nd : Node) (gs : List Sig) (l : Lanes) (k : Nat) : Cell :=
  setMem (emitBeats (setNode (gs.foldl (fun y g => mergeNode s y n g) x) n (fun z => { z with pts := max z.pts (memOf nd).ts })) n [l] k) n
    (fun q => { q with cur := q.cur + k })

theorem Waits.mergeNodes (h : Waits x y n nd a st) (s : State) (gs : List Sig) :
    Waits x (gs.foldl (fun y g => mergeNode s y n g) y) n nd a st :=
  List.foldlRecOn gs _ (motive := fun z => Waits x z n nd a st) h (fun _ hz _ _ => hz.setNode (fun _ => ⟨rfl, rfl, id⟩))

theorem agenSends_waits (h : Sends s c n x nd m p) (gs : List Sig) (l : Lanes) (k : Nat) :
    Waits x (agenSends s x n nd gs l k) n nd [.data l] (.mem { memOf nd with cur := (memOf nd).cur + k }) := by
  have hmerged := (waits_of_sentAll h.node h.formed).mergeNodes s gs
  have hpts := hmerged.setNode (st' := nd.st) (f := fun z => { z with pts := max z.pts (memOf nd).ts }) (fun _ => ⟨rfl, rfl, id⟩)
  exact (hpts.emitBeats h.isSome_outA [l] k).setMem (fun _ hz => memOf_congr hz) _

theorem agenSends_ports (s : State) (nd : Node) (gs : List Sig) (l : Lanes) (k : Nat) :
    KeepsNodes Node.ports x (agenSends s x n nd gs l k) := by
  have hmerged : KeepsNodes Node.ports x (gs.foldl (fun y g => mergeNode s y n g) x) :=
    List.foldlRecOn gs _ (motive := KeepsNodes Node.ports x) (.refl x) (fun _ hz _ _ => hz.trans (keepsNodes_setNode _ n (fun _ => rfl)))
  have hsent (y : Cell) : KeepsNodes Node.ports y (sendBoth y n (.data l)) :=
    (keepsNodes_sendA y n _ (fun _ _ => rfl)).trans (keepsNodes_sendB _ n _ (fun _ _ => rfl))
  have hpts (y : Cell) : KeepsNodes Node.ports y (setNode y n (fun z => { z with pts := max z.pts (memOf nd).ts })) :=
    keepsNodes_setNode y n (fun _ => rfl)
  have hbeat (y : Cell) : KeepsNodes Node.ports y (emitBeats y n [l] k) := (hsent y).trans (keepsNodes_setNode _ n (fun _ => rfl))
  exact hmerged.trans ((hpts _).trans ((hbeat _).trans (keepsNodes_setNode _ n (fun _ => rfl))))

/-- The positions of the next beat of an AGEN. -/
def agenCoords (nd : Node) (len : List Nat) : List (List Nat) :=
  ((coords nd.ord (agenLen nd len)).drop (memOf nd).cur).take nd.ord.lanes

theorem agenStep_begins (hbegun : (memOf nd).begun = false) : agenStep s c n x nd b0 b1 len = putCell s c (agenBegins x n nd len) := by
  simp only [agenStep, hbegun, Bool.not_false, if_true, agenBegins]

theorem agenStep_ends (hbegun : (memOf nd).begun = true) (hend : countOf nd.ord (agenLen nd len) ≤ (memOf nd).cur) :
    agenStep s c n x nd b0 b1 len = putCell s c (agenEnds s x n (countOf nd.ord (agenLen nd len))) := by
  unfold agenLen at hend
  simp only [agenStep, hbegun, Bool.not_true, Bool.false_eq_true, if_false, if_pos hend, agenEnds, agenLen]

/-- The machine once an AGEN has read what a beat needs of its offset table. -/
def agenReads (s : State) (x : Cell) (n : Nat) (nd : Node) (b : AgenBeat) : State :=
  b.vas.foldl (fun q va => fillTlb q (nodeWho s x va 8) va)
    (noteForeign { s with mem := b.spans.foldl (fun q p => q.leased (memOf nd).ts p.1 p.2) s.mem } (withImage s (memOf nd).image).mem
      x.crew.asid (dieOf x.cluster) (memOf nd).ts (nodeUnit s x n) b.spans)

/-- The labels of the tracked lines that a beat has read of its table. -/
def agenSigs (s : State) (nd : Node) (b : AgenBeat) : List Sig :=
  b.spans.flatMap (fun p => trackedSigs (withImage s (memOf nd).image) p.1 p.2)

theorem agenReads_bytes (b : AgenBeat) (h : Quiet s x.crew.asid) : (agenReads s x n nd b).mem.bytes = s.mem.bytes := by
  have hnoted := noteForeign_of_quiet (s := { s with mem := b.spans.foldl (fun q p => q.leased (memOf nd).ts p.1 p.2) s.mem }) h
    (withImage s (memOf nd).image).mem (dieOf x.cluster) (memOf nd).ts (nodeUnit s x n) b.spans
  refine (foldl_fillTlb_bytes ..).trans ((congrArg Memory.bytes hnoted).trans ?_)
  exact List.foldlRecOn b.spans _ (motive := fun q : Memory => q.bytes = s.mem.bytes) rfl (fun _ hq _ _ => hq)

/-- Where the table can be read, the next beat has the addresses of its positions; no byte of memory changes but for what is recorded. -/
theorem agenStep_sends (hbegun : (memOf nd).begun = true) (hmore : (memOf nd).cur < countOf nd.ord (agenLen nd len))
    (htable : nd.word.mode = 2 → ∀ q ∈ agenCoords nd len, ∃ v, offTable s c n x nd b1 (q.getD (prmField nd.params 2 0 2) 0) = .ok v) :
    ∃ v gs, agenStep s c n x nd b0 b1 len = putCell v c (agenSends s x n nd gs (padTo nd.ord.lanes ((List.range (agenCoords nd len).length).map
        (fun i => agenLane s c n x nd b0 b1 (agenLen nd len) ((agenCoords nd len).getD i [])))) (agenCoords nd len).length) ∧
      (Quiet s x.crew.asid → v.mem.bytes = s.mem.bytes) := by
  obtain ⟨hlanes, hbad, hstall⟩ := agenBeat_lanes s c n x nd b0 b1 (agenLen nd len) (memOf nd).cur (agenCoords nd len) htable
  rw [← hlanes]
  refine ⟨agenReads s x n nd (agenBeat s c n x nd b0 b1 (agenLen nd len) (memOf nd).cur (agenCoords nd len)),
    agenSigs s nd (agenBeat s c n x nd b0 b1 (agenLen nd len) (memOf nd).cur (agenCoords nd len)), ?_, agenReads_bytes _⟩
  unfold agenCoords agenLen at hbad hstall
  unfold agenLen at hmore
  simp only [agenStep, hbegun, Bool.not_true, Bool.false_eq_true, if_false, if_neg (Nat.not_le.mpr hmore), hstall, hbad]
  rfl

/-- A step of an AGEN that leaves its ports alone, and sends to other nodes, leaves memory as it made it. -/
theorem memEvent_sentAway {ok : NodeWord → Bool} {f : Cell → Node → State} (h : Sends s c n x nd m p) (hok : ok nd.word = true)
    (hy : aget (f x nd).cells c = some y) (hports : KeepsNodes Node.ports x y) (hw : Waits x y n nd a st)
    (hB : ∀ b, nd.word.outB = some b → b.2 ≠ n) : (memEvent s c n ok f).mem = (f x nd).mem := by
  obtain ⟨z, hz, hsame⟩ := hports.node h.node
  obtain ⟨z', hz', hword, -⟩ := hw.node
  obtain rfl : z = z' := Option.some.inj (hz.symm.trans hz')
  obtain ⟨w, hnode, hkeeps⟩ := emitPend_node_apart hz (fun b hb => by
    rw [hword, h.out] at hb
    exact Option.some.inj hb ▸ h.other) (hword ▸ hB)
  have hport (k : Nat) : w.port k = nd.port k := by rw [Node.port, Node.port, hkeeps, hsame]
  exact (memEvent_quiet h.nodeFree hok hy hnode (fun k => by rw [hport]) (by rw [hport])).1

/-- An INDEX stream multiplies what comes by its stride. -/
theorem agenIndex_beat {xs : List Lanes} (h : Sends s c n x nd m p) (hbeat : lockAct s x n nd [0] (fun _ => 0) true = .beat xs) :
    ∃ y, agenIndex s c n x nd b0 = putCell s c y ∧ Waits x y n nd [.data ((xs.headD []).map (Option.map (fun v =>
      agenAddr b0 (ival (nd.port 0).elem v * sval 64 (prmField nd.params 0 0 64)))))] nd.st := by
  simp only [agenIndex, hbeat]
  exact ⟨_, rfl, ((waits_of_sentAll h.node h.formed).consume [0]).emitBeats h.isSome_outA _ _⟩

end

/-- Settles O40: the next token of each stream of an AGEN, by the step that forms it. -/
theorem addressGenerators : Obligations.AddressGenerators := by
  unfold Obligations.AddressGenerators
  intro s c n x nd m p h hkind hroom b0 b1 len ts rest hstarts
  refine ⟨fun hmode hbegun hsluice => ?begins, fun hmode hbegun hmore => ?beat, fun hmode hbegun hend => ?ends, fun xs hmode hbeat => ?index⟩
  case begins =>
    have hmoves : NodeState.mem { memOf nd with begun := true, cur := 0 } ≠ nd.st := fun hst => by
      rw [memOf_mem hst.symm] at hbegun
      cases hbegun
    obtain ⟨f, hexec, -, hq, y, hy, -, hst⟩ := agenEmit_emits h hkind hroom hstarts (fun _ _ => hsluice)
      ((if_neg hmode).trans (agenStep_begins hbegun)) (agenBegins_waits h hkind len) (.inr hmoves)
    refine ⟨_, hexec, ⟨y, hy, congrArg MemState.begun (memOf_mem hst), congrArg MemState.cur (memOf_mem hst)⟩, hq.trans (congrArg _ ?_)⟩
    split <;> rfl
  case beat =>
    intro cs htable
    obtain ⟨v, gs, hstep, hbytes⟩ := agenStep_sends (b0 := b0) hbegun hmore htable
    obtain ⟨f, hexec, hf, hq, y, hy, -, hst⟩ := agenEmit_emits h hkind hroom hstarts (fun _ hno => absurd (hbegun.symm.trans hno) (by decide))
      ((if_neg hmode).trans hstep) (agenSends_waits h gs _ _) (.inl (List.cons_ne_nil _ _))
    refine ⟨_, _, hexec, hq, ⟨y, hy, congrArg MemState.cur (memOf_mem hst)⟩, fun hquiet hB => ?_, fun i => ?_⟩
    · rw [memEvent_sentAway (ok := fun w => w.kind == kAGEN) h (by simp [hkind]) (by rw [hf]; exact aget_aset_same ..)
        (agenSends_ports s nd gs _ _) (agenSends_waits h gs _ _) hB, hf]
      exact hbytes hquiet
    · rw [padTo_getD, range_map_getD, agenLane, ite_and]
      rfl
  case ends =>
    obtain ⟨f, hexec, -, hq, y, hy, -, hst⟩ := agenEmit_emits h hkind hroom hstarts (fun _ hno => absurd (hbegun.symm.trans hno) (by decide))
      ((if_neg hmode).trans (agenStep_ends hbegun hend)) (agenEnds_waits h _) (.inl (List.cons_ne_nil _ _))
    exact ⟨_, hexec, hq, y, hy, (congrArg MemState.starts (memOf_mem hst)).trans (congrArg (List.drop 1) hstarts),
      congrArg MemState.begun (memOf_mem hst), congrArg MemState.streams (memOf_mem hst)⟩
  case index =>
    obtain ⟨y, hstep, hw⟩ := agenIndex_beat (b0 := b0) h hbeat
    obtain ⟨f, hexec, -, hq, -⟩ := agenEmit_emits h hkind hroom hstarts (fun hno => absurd hmode hno)
      ((if_pos hmode).trans hstep) hw (.inl (List.cons_ne_nil _ _))
    exact ⟨_, hexec, hq⟩

end Sys2Proof
end

section
namespace Sys2Proof

open Machine

section
variable {s u v : State} {c n e i m p : Nat} {x y : Cell} {nd : Node} {b : MemBeat} {r : NodeLoc} {q : MemState}

/-! ### The lane that performs next (R184) -/

theorem LaneAt.memStep (h : LaneAt s c n e x nd b i r) : memStep s c n e x nd = laneStep s c n x nd b (lanesDue nd b) i := by
  obtain ⟨xs, hbeat, rfl⟩ := h.beat
  simp only [Machine.memStep, h.alone, h.begun, h.more, hbeat, beatStep, h.next, h.back, Bool.not_true, Bool.false_eq_true, if_false]

/-- The lane performs its access, here or at another device. -/
theorem LaneAt.laneStep (h : LaneAt s c n e x nd b i r) :
    laneStep s c n x nd b (lanesDue nd b) i =
      if isRemote r.loc then
        (if nd.word.mode = 0 then laneRemote (fillTlb s (nodeWho s x (laneAddr b i) (elemBytes nd.word.type)) (laneAddr b i)) c n x nd i false
          r.loc (List.replicate (elemBytes nd.word.type) 0)
        else laneRemote (fillTlb s (nodeWho s x (laneAddr b i) (elemBytes nd.word.type)) (laneAddr b i)) c n x nd i true r.loc
          (leBytes (elemBytes nd.word.type) ((b.data.getD i none).getD 0)))
      else if nd.word.mode = 0 then laneLoad s c n x nd i (laneAddr b i) r (elemBytes nd.word.type)
      else if nd.word.mode = 1 then laneStore s c n x nd i (laneAddr b i) r (elemBytes nd.word.type) ((b.data.getD i none).getD 0)
      else laneRmw s c n x nd i (laneAddr b i) r (elemBytes nd.word.type) ((b.data.getD i none).getD 0) := by
  have hproven : ¬ (nd.word.mode ≠ 0 ∧ laneProof s x (laneAddr b i) (elemBytes nd.word.type) r = true) := by
    rintro ⟨hmode, hproof⟩
    exact h.proven.elim hmode (fun hno => absurd (hno.symm.trans hproof) (by decide))
  simp only [Machine.laneStep, h.place, h.unheld, if_neg hproven, Bool.false_eq_true, if_false]

/-! ### What a node notes of an access (R184) -/

/-- Node n of y is nd but for its label, its pts and its counts, and with the state st. -/
def Notes (y : Cell) (n : Nat) (nd : Node) (st : NodeState) : Prop :=
  ∃ z, y.nodes[n]? = some z ∧ z.ports = nd.ports ∧ z.pendA = nd.pendA ∧ z.pendB = nd.pendB ∧ z.st = st

theorem notes_refl (hn : x.nodes[n]? = some nd) : Notes x n nd nd.st := ⟨nd, hn, rfl, rfl, rfl, rfl⟩

theorem Notes.congr {st : NodeState} (h : Notes x n nd st) (hy : y.nodes = x.nodes) : Notes y n nd st := by
  unfold Notes
  rwa [hy]

theorem Notes.setNode {st st' : NodeState} (h : Notes y n nd st) {f : Node → Node}
    (hf : ∀ z, (f z).ports = z.ports ∧ (f z).pendA = z.pendA ∧ (f z).pendB = z.pendB ∧ (z.st = st → (f z).st = st')) :
    Notes (Machine.setNode y n f) n nd st' := by
  obtain ⟨z, hz, hports, ha, hb, hst⟩ := h
  obtain ⟨hports', ha', hb', hst'⟩ := hf z
  exact ⟨f z, setNode_same f hz, hports'.trans hports, ha'.trans ha, hb'.trans hb, hst' hst⟩

theorem Notes.laneTracked {st : NodeState} (h : Notes y n nd st) (s : State) (r : NodeLoc) (spans : List (Nat × Nat)) :
    Notes (laneTracked s y n r spans) n nd st := by
  unfold Machine.laneTracked
  split
  · exact List.foldlRecOn _ _ (motive := fun z => Notes z n nd st) h (fun _ hz _ _ => hz.setNode (fun _ => ⟨rfl, rfl, rfl, id⟩))
  · exact h

/-- The lane's element joins what its beat has of values. -/
theorem Notes.laneDone (h : Notes y n nd nd.st) (i : Nat) (w : Option Nat) (ts : Nat) : Notes (laneDone y n i w ts) n nd
    (.mem { memOf nd with out := (memOf nd).out ++ [(i, w)], count := (memOf nd).count + 1 }) :=
  Notes.setNode h (fun z => ⟨rfl, rfl, rfl, fun hz => by simp only [Node.withMem, memOf_congr hz]⟩)

/-- A step of a MEM node that takes nothing from its ports and forms nothing: memory and what is in flight are as it made them. -/
theorem memEvent_notes {ok : NodeWord → Bool} {f : Cell → Node → State} {st : NodeState} (h : NodeFree s c n x nd) (hok : ok nd.word = true)
    (hf : f x nd = v) (hy : aget v.cells c = some y) (hnotes : Notes y n nd st) :
    (memEvent s c n ok f).mem = v.mem ∧ (memEvent s c n ok f).fl = v.fl ∧ nodeHas (memEvent s c n ok f) c n (fun w => w.st = st) := by
  subst hf
  obtain ⟨z, hz, hports, ha, hb, hst⟩ := hnotes
  have hsent : z.sentAll = true := by rw [Node.sentAll, ha, hb]; exact h.formed
  obtain ⟨w, hw, hkeeps, -⟩ := memEvent_node h hok hy hz
  obtain ⟨hmem, hfl⟩ := memEvent_still h hok hy hz hsent hports
  exact ⟨hmem, hfl, w, hw, hkeeps.trans hst⟩

/-! ### A load (R184, R250) -/

theorem foreignWaits_of_lives {a : Nat} (h : replays s a = false) (unit : W) (spans : List (Nat × Nat)) : foreignWaits s a unit spans = false := by
  unfold foreignWaits
  cases hc : aget s.ctxs a with
  | none => rfl
  | some cx =>
    simp only [replays, hc, Bool.and_eq_false_iff, Bool.not_eq_false', List.isEmpty_iff] at h
    obtain h | h := h
    · simp only [h, Bool.false_and]
    · simp [h]

theorem foldl_leased_bytes (t : Nat) (spans : List (Nat × Nat)) (m : Memory) :
    (spans.foldl (fun (q : Memory) (p : Nat × Nat) => q.leased t p.1 p.2) m).bytes = m.bytes :=
  List.foldlRecOn spans _ (motive := fun q : Memory => q.bytes = m.bytes) rfl (fun _ hq _ _ => hq)

theorem Quiet.fillTlb {a : Nat} (h : Quiet s a) (mem : Memory) (w : Who) (va : W) : Quiet (fillTlb { s with mem := mem } w va) a :=
  h.of_ctxs (fillTlb_ctxs { s with mem := mem } w va)

/-- A load that finds its place readable notes the value that stands there for its stream. -/
theorem laneLoad_performs {size : Nat} {va : W} (hn : x.nodes[n]? = some nd)
    (hread : laneReadFault (withImage s (memOf nd).image) x.crew.asid size r.loc = none)
    (hlives : replays s x.crew.asid = false) :
    ∃ v y, laneLoad s c n x nd i va r size = putCell v c y ∧ (Quiet s x.crew.asid → v.mem.bytes = s.mem.bytes) ∧
      Notes y n nd (.mem { memOf nd with
        out := (memOf nd).out ++ [(i, some (leVal (locBytes (withImage s (memOf nd).image) x.crew.asid (withImage s (memOf nd).image).mem.bytes
          r.loc size)))],
        count := (memOf nd).count + 1 }) := by
  simp only [laneLoad, hread, foreignWaits_of_lives hlives, Bool.false_eq_true, if_false]
  refine ⟨_, _, rfl, fun hquiet => ?_, ((notes_refl hn).laneTracked ..).laneDone ..⟩
  rw [noteForeign_of_quiet (hquiet.fillTlb _ _ _), fillTlb_bytes]
  cases (memOf nd).image with
  | some image => exact foldl_leased_bytes (memOf nd).ts _ s.mem
  | none => exact foldl_leased_bytes _ _ s.mem

/-! ### A store (R184, R249) -/

/-- A write of bytes changes nothing of a cell but its pages. -/
theorem putEvent_cell {a ts adr : Nat} {trk : Option Sig} {packed : Bool} {bs : List Byte} (hx : aget s.cells c = some x) :
    ∃ y, aget (putEvent s a ts trk packed adr bs).cells c = some y ∧ y.nodes = x.nodes := by
  have hwritten : ∃ y, aget (sramWritten (undoRecs s a adr bs.length) packed adr bs.length).cells c = some y ∧ y.nodes = x.nodes := by
    unfold sramWritten
    split
    · simp only [updBankOf, (keepsUnits_undoRecs ..).cells]
      rw [aget_map (fun e => by split <;> rfl), hx]
      refine ⟨_, rfl, ?_⟩
      dsimp only
      split <;> rfl
    · exact ⟨x, by rw [(keepsUnits_undoRecs ..).cells, hx], rfl⟩
  unfold putEvent
  cases trk <;> exact hwritten

theorem putEvent_bytes (s : State) (a ts : Nat) (trk : Option Sig) (packed : Bool) (adr : Nat) (bs : List Byte) :
    (putEvent s a ts trk packed adr bs).mem.bytes = cellsPut (undoRecs s a adr bs.length).mem.bytes adr bs := by
  have hbytes : (rawPut (sramWritten (undoRecs s a adr bs.length) packed adr bs.length) adr bs).mem.bytes =
      cellsPut (undoRecs s a adr bs.length).mem.bytes adr bs := by
    rw [rawPut_mem_bytes, (sramWritten_mem_ctxs ..).1]
  unfold putEvent
  cases trk <;> exact hbytes

/-- The number that stands where its bytes have been written. -/
theorem num_of_cellsPut {mem : Memory} {l : List Host.Cell} {adr size w : Nat} (hl : cellsWf 0 l = true)
    (h : mem.bytes = cellsPut l adr (leBytes size w)) : mem.num adr size = w % 256 ^ size := by
  have hback := cellsTake_cellsPut_same (a := adr) (leBytes size w) hl
  rw [leBytes_length] at hback
  rw [Memory.num, h, hback, leVal_leBytes]

theorem byte_of_cellsPut {mem : Memory} {l : List Host.Cell} {adr size w k : Nat} (hl : cellsWf 0 l = true)
    (h : mem.bytes = cellsPut l adr (leBytes size w)) (hk : k < adr ∨ adr + size ≤ k) : mem.byte k = cellsGet l k := by
  rw [Memory.byte, h]
  exact cellsGet_cellsPut_out _ hl (by rwa [leBytes_length])

/-- The write of an element in memory. -/
def laneWritten (s : State) (x : Cell) (n : Nat) (nd : Node) (va : W) (r : NodeLoc) (adr size w : Nat) : State :=
  putEvent s x.crew.asid (locStoreTs s x.crew.asid (max nd.pts (bufTs s x.crew.asid va)) r.loc size)
    (if r.trk then some (nodeSig s x n) else none) false adr (leBytes size w)

theorem laneWrite_mem {va : W} {adr size w : Nat} (hloc : r.loc = .mem adr) (hmeta : locMeta s x.crew.asid r.loc size = none) :
    laneWrite s x n nd va r size w = .ok (laneWritten s x n nd va r adr size w,
      locStoreTs s x.crew.asid (max nd.pts (bufTs s x.crew.asid va)) r.loc size) := by
  simp only [laneWrite, hmeta, laneWritten]
  simp only [hloc, locEvent]

theorem laneWritten_cell (va : W) (adr size w : Nat) (hx : aget s.cells c = some x) :
    ∃ y, aget (laneWritten s x n nd va r adr size w).cells c = some y ∧ y.nodes = x.nodes := putEvent_cell hx

theorem laneWritten_quiet {va : W} {adr size w : Nat} (h : Quiet s x.crew.asid) :
    (laneWritten s x n nd va r adr size w).mem.bytes = cellsPut s.mem.bytes adr (leBytes size w) ∧
      (laneWritten s x n nd va r adr size w).ctxs = s.ctxs := putEvent_of_quiet h ..

/-- A store in memory notes its element. -/
theorem laneStore_performs {va : W} {adr size w : Nat} (hx : aget s.cells c = some x) (hn : x.nodes[n]? = some nd)
    (hloc : r.loc = .mem adr) (hmeta : locMeta s x.crew.asid r.loc size = none) :
    ∃ y, aget (laneStore s c n x nd i va r size w).cells c = some y ∧
      Notes y n nd (.mem { memOf nd with out := (memOf nd).out ++ [(i, none)], count := (memOf nd).count + 1 }) ∧
      (laneStore s c n x nd i va r size w).mem.bytes = (laneWritten s x n nd va r adr size w).mem.bytes := by
  obtain ⟨y, hy, hnodes⟩ := laneWritten_cell (n := n) (nd := nd) (r := r) va adr size w hx
  simp only [laneStore, laneWrite_mem hloc hmeta, updCell_same, (keepsUnits_fillTlb ..).cells, updCell_mem, fillTlb_bytes, hy]
  exact ⟨_, rfl, ((notes_refl hn).congr hnodes).laneDone .., trivial⟩

/-! ### An RMW (R185) -/

theorem heat_keeps (s : State) (a cl adr : Nat) : (heat s a cl adr).mem.bytes = s.mem.bytes ∧ (heat s a cl adr).ctxs = s.ctxs ∧
    (heat s a cl adr).cells = s.cells := by
  unfold heat
  split <;> exact ⟨rfl, rfl, rfl⟩

theorem laneRmw_eq {va : W} {adr size w : Nat} (hloc : r.loc = .mem adr) (hread : laneReadFault s x.crew.asid size r.loc = none)
    (hmeta : locMeta s x.crew.asid r.loc size = none) (hlives : replays s x.crew.asid = false) :
    laneRmw s c n x nd i va r size w =
      let e := rmwNew (nd.word.flags.toNat / 16) nd.word.type (s.mem.num adr size) w
      let ts := locStoreTs s x.crew.asid (max nd.pts (bufTs s x.crew.asid va)) r.loc size
      let sp := locSpans s x.crew.asid r.loc size
      updCell (noteForeign (heat (fillTlb (laneWritten s x n nd va r adr size e.1) (nodeWho s x va size) va) x.crew.asid x.cluster adr)
        s.mem x.crew.asid (dieOf x.cluster) ts (nodeUnit s x n) sp) c (fun z =>
          laneDone (if nd.word.flags.toNat / 16 = 7 then countElems n (laneTracked s z n r sp) [e] else laneTracked s z n r sp) n i
            (some (s.mem.num adr size)) ts) := by
  have hold : leVal (locBytes s x.crew.asid s.mem.bytes r.loc size) = s.mem.num adr size := by rw [hloc]; rfl
  simp only [laneRmw]
  rw [hloc]
  simp only [← hloc, hread, foreignWaits_of_lives hlives, laneWrite_mem hloc hmeta, hold, Bool.false_eq_true, if_false]

/-- An RMW in memory notes the old value, and writes the new one. -/
theorem laneRmw_performs {va : W} {adr size w : Nat} (hx : aget s.cells c = some x) (hn : x.nodes[n]? = some nd)
    (hloc : r.loc = .mem adr) (hread : laneReadFault s x.crew.asid size r.loc = none) (hmeta : locMeta s x.crew.asid r.loc size = none)
    (hlives : replays s x.crew.asid = false) :
    ∃ y, aget (laneRmw s c n x nd i va r size w).cells c = some y ∧
      Notes y n nd (.mem { memOf nd with out := (memOf nd).out ++ [(i, some (s.mem.num adr size))], count := (memOf nd).count + 1 }) ∧
      (Quiet s x.crew.asid → (laneRmw s c n x nd i va r size w).mem.bytes = cellsPut s.mem.bytes adr (leBytes size
        (rmwNew (nd.word.flags.toNat / 16) nd.word.type (s.mem.num adr size) w).1)) := by
  obtain ⟨y, hy, hnodes⟩ := laneWritten_cell (n := n) (nd := nd) (r := r) va adr size
    (rmwNew (nd.word.flags.toNat / 16) nd.word.type (s.mem.num adr size) w).1 hx
  rw [laneRmw_eq hloc hread hmeta hlives, updCell_same, (keepsUnits_noteForeign ..).cells, (heat_keeps ..).2.2, (keepsUnits_fillTlb ..).cells, hy]
  refine ⟨_, rfl, ?_, fun hquiet => ?_⟩
  · have htracked := ((notes_refl hn).congr hnodes).laneTracked s r (locSpans s x.crew.asid r.loc size)
    refine Notes.laneDone ?_ ..
    split
    · exact htracked.setNode (fun _ => ⟨rfl, rfl, rfl, id⟩)
    · exact htracked
  · obtain ⟨hbytes, hctxs⟩ := laneWritten_quiet (n := n) (nd := nd) (r := r) (va := va) (adr := adr) (size := size)
      (w := (rmwNew (nd.word.flags.toNat / 16) nd.word.type (s.mem.num adr size) w).1) hquiet
    rw [updCell_mem, noteForeign_of_quiet (hquiet.of_ctxs ((heat_keeps ..).2.1.trans ((fillTlb_ctxs ..).trans hctxs))), (heat_keeps ..).1,
      fillTlb_bytes, hbytes]

/-! ### An access at another device (R184, R241) -/

theorem route_congr (h : u.pkg = s.pkg) (ix : Nat) : route u ix = route s ix := by simp only [route, h]

theorem fillTlb_pkg (s : State) (w : Who) (va : W) : (fillTlb s w va).pkg = s.pkg := by
  unfold fillTlb
  split <;> rfl

theorem fillTlb_nextId (s : State) (w : Who) (va : W) : (fillTlb s w va).nextId = s.nextId := by
  unfold fillTlb
  split <;> rfl

/-- A load at a peer leaves the node as it is until its reply comes. -/
theorem laneRemote_load {ix pa port : Nat} {w : Who} {va : W} {bs : List Byte} (hloc : r.loc = .peer ix pa) (hroute : route s ix = .ok port) :
    laneRemote (fillTlb s w va) c n x nd i false r.loc bs =
      sendOp (fillTlb s w va) (.nodeLoad c n ((nd.port 0).pos + i)) ix (some port) false (w64 pa) bs := by
  simp only [laneRemote, hloc, route_congr (fillTlb_pkg ..), hroute, Bool.false_eq_true, if_false]

theorem laneRemote_store {ix pa port : Nat} {w : Who} {va : W} {bs : List Byte} (hloc : r.loc = .peer ix pa) (hroute : route s ix = .ok port) :
    laneRemote (fillTlb s w va) c n x nd i true r.loc bs =
      putCell (sendOp (fillTlb s w va) (.nodeStore c n ((nd.port 0).pos + i)) ix (some port) true (w64 pa) bs) c (laneDone x n i none 0) := by
  simp only [laneRemote, hloc, route_congr (fillTlb_pkg ..), hroute, if_true]

end

end Sys2Proof
end

section
namespace Sys2Proof

open Machine

section
variable {s v : State} {c n e i m p : Nat} {x y : Cell} {nd : Node} {b : MemBeat} {r : NodeLoc}

/-! ### The five ways in which a lane performs (R184, R185) -/

/-- A lane that loads an element of this device. -/
theorem LaneAt.loads (h : LaneAt s c n e x nd b i r) (hmode : nd.word.mode = 0) (hhere : isRemote r.loc = false)
    (hread : laneReadFault (withImage s (memOf nd).image) x.crew.asid (elemBytes nd.word.type) r.loc = none)
    (hlives : replays s x.crew.asid = false) :
    ∃ u, exec (.memLoad c n e) s = .next u ∧ (Quiet s x.crew.asid → u.mem.bytes = s.mem.bytes) ∧ nodeHas u c n (fun y =>
      (memOf y).out = (memOf nd).out ++ [(i, some (leVal (locBytes (withImage s (memOf nd).image) x.crew.asid
        (withImage s (memOf nd).image).mem.bytes r.loc (elemBytes nd.word.type))))] ∧
      (memOf y).count = (memOf nd).count + 1) := by
  obtain ⟨v, y, hstep, hbytes, hnotes⟩ := laneLoad_performs (c := c) (i := i) (va := laneAddr b i) h.node hread hlives
  have hf : Machine.memStep s c n e x nd = putCell v c y := by
    rw [h.memStep, h.laneStep, hhere, if_neg Bool.false_ne_true, if_pos hmode, hstep]
  obtain ⟨hmem, -, w, hw, hst⟩ := memEvent_notes (ok := fun w => w.kind == kMEM && w.mode == 0) h.toNodeFree (by simp [h.kind, hmode])
    hf (aget_aset_same ..) hnotes
  exact ⟨_, rfl, fun hquiet => (congrArg Memory.bytes hmem).trans (hbytes hquiet), w, hw,
    congrArg MemState.out (memOf_mem hst), congrArg MemState.count (memOf_mem hst)⟩

/-- A lane that stores an element in memory. -/
theorem LaneAt.stores {a : Nat} (h : LaneAt s c n e x nd b i r) (hmode : nd.word.mode = 1) (hloc : r.loc = .mem a)
    (hmeta : locMeta s x.crew.asid r.loc (elemBytes nd.word.type) = none) :
    ∃ u, exec (.memStore c n e) s = .next u ∧
      nodeHas u c n (fun y => (memOf y).out = (memOf nd).out ++ [(i, none)] ∧ (memOf y).count = (memOf nd).count + 1) ∧
      (Safe s → u.mem.num a (elemBytes nd.word.type) = (b.data.getD i none).getD 0 % 256 ^ elemBytes nd.word.type) ∧
      (Quiet s x.crew.asid → Safe s → ∀ y, y < a ∨ a + elemBytes nd.word.type ≤ y → u.mem.byte y = s.mem.byte y) := by
  obtain ⟨y, hy, hnotes, hbytes⟩ := laneStore_performs (i := i) (va := laneAddr b i) (w := (b.data.getD i none).getD 0)
    h.cell h.node hloc hmeta
  have hhere : isRemote r.loc = false := by rw [hloc]; rfl
  have hf : Machine.memStep s c n e x nd =
      laneStore s c n x nd i (laneAddr b i) r (elemBytes nd.word.type) ((b.data.getD i none).getD 0) := by
    rw [h.memStep, h.laneStep, hhere, if_neg Bool.false_ne_true, if_neg (by omega), if_pos hmode]
  obtain ⟨hmem, -, w, hw, hst⟩ := memEvent_notes (ok := fun w => w.kind == kMEM && w.mode == 1) h.toNodeFree (by simp [h.kind, hmode])
    hf hy hnotes
  have hwritten := (congrArg Memory.bytes hmem).trans hbytes
  refine ⟨_, rfl, ⟨w, hw, congrArg MemState.out (memOf_mem hst), congrArg MemState.count (memOf_mem hst)⟩, fun hsafe => ?_,
    fun hquiet hsafe k hk => ?_⟩
  · exact num_of_cellsPut ((keepsForm_undoRecs ..).safe hsafe) (hwritten.trans (putEvent_bytes ..))
  · exact byte_of_cellsPut hsafe (hwritten.trans (laneWritten_quiet hquiet).1) hk

/-- A lane that modifies an element in memory. -/
theorem LaneAt.modifies {a : Nat} (h : LaneAt s c n e x nd b i r) (hmode : nd.word.mode = 2) (hloc : r.loc = .mem a)
    (hread : laneReadFault s x.crew.asid (elemBytes nd.word.type) r.loc = none)
    (hmeta : locMeta s x.crew.asid r.loc (elemBytes nd.word.type) = none) (hlives : replays s x.crew.asid = false) :
    ∃ u, exec (.memRmw c n e) s = .next u ∧
      nodeHas u c n (fun y => (memOf y).out = (memOf nd).out ++ [(i, some (s.mem.num a (elemBytes nd.word.type)))]) ∧
      (Quiet s x.crew.asid → Safe s → u.mem.num a (elemBytes nd.word.type) = (rmwNew (nd.word.flags.toNat / 16) nd.word.type
        (s.mem.num a (elemBytes nd.word.type)) ((b.data.getD i none).getD 0)).1 % 256 ^ elemBytes nd.word.type) ∧
      (Quiet s x.crew.asid → Safe s → ∀ y, y < a ∨ a + elemBytes nd.word.type ≤ y → u.mem.byte y = s.mem.byte y) := by
  obtain ⟨y, hy, hnotes, hbytes⟩ := laneRmw_performs (i := i) (va := laneAddr b i) (w := (b.data.getD i none).getD 0)
    h.cell h.node hloc hread hmeta hlives
  have hhere : isRemote r.loc = false := by rw [hloc]; rfl
  have hf : Machine.memStep s c n e x nd =
      laneRmw s c n x nd i (laneAddr b i) r (elemBytes nd.word.type) ((b.data.getD i none).getD 0) := by
    rw [h.memStep, h.laneStep, hhere, if_neg Bool.false_ne_true, if_neg (by omega), if_neg (by omega)]
  obtain ⟨hmem, -, w, hw, hst⟩ := memEvent_notes (ok := fun w => w.kind == kMEM && w.mode == 2) h.toNodeFree (by simp [h.kind, hmode])
    hf hy hnotes
  have hwritten (hquiet : Quiet s x.crew.asid) := (congrArg Memory.bytes hmem).trans (hbytes hquiet)
  exact ⟨_, rfl, ⟨w, hw, congrArg MemState.out (memOf_mem hst)⟩, fun hquiet hsafe => num_of_cellsPut hsafe (hwritten hquiet),
    fun hquiet hsafe k hk => byte_of_cellsPut hsafe (hwritten hquiet) hk⟩

/-- A lane that loads an element of a peer sends its request. -/
theorem LaneAt.asksPeer {ix pa port : Nat} (h : LaneAt s c n e x nd b i r) (hmode : nd.word.mode = 0) (hloc : r.loc = .peer ix pa)
    (hroute : route s ix = .ok port) :
    ∃ u, exec (.memLoad c n e) s = .next u ∧ u.mem.bytes = s.mem.bytes ∧ u.fl.ops = s.fl.ops ++
      [⟨s.nextId, .nodeLoad c n ((nd.port 0).pos + i), ix, some port, false, w64 pa, List.replicate (elemBytes nd.word.type) 0, []⟩] := by
  have hf : Machine.memStep s c n e x nd = sendOp (fillTlb s (nodeWho s x (laneAddr b i) (elemBytes nd.word.type)) (laneAddr b i))
      (.nodeLoad c n ((nd.port 0).pos + i)) ix (some port) false (w64 pa) (List.replicate (elemBytes nd.word.type) 0) := by
    rw [h.memStep, h.laneStep, if_pos (by rw [hloc]; rfl), if_pos hmode, laneRemote_load hloc hroute]
  obtain ⟨hmem, hfl, -⟩ := memEvent_notes (ok := fun w => w.kind == kMEM && w.mode == 0) h.toNodeFree (by simp [h.kind, hmode])
    hf (by rw [(keepsUnits_sendOp ..).cells, (keepsUnits_fillTlb ..).cells, h.cell]) (notes_refl h.node)
  exact ⟨_, rfl, (congrArg Memory.bytes hmem).trans (fillTlb_bytes ..), (congrArg Flight.ops hfl).trans (by
    rw [sendOp, sendRuns, fillTlb_fl, fillTlb_nextId])⟩

/-- A lane that stores an element of a peer sends it. -/
theorem LaneAt.storesPeer {ix pa port : Nat} (h : LaneAt s c n e x nd b i r) (hmode : nd.word.mode = 1) (hloc : r.loc = .peer ix pa)
    (hroute : route s ix = .ok port) :
    ∃ u, exec (.memStore c n e) s = .next u ∧ u.mem.bytes = s.mem.bytes ∧ u.fl.ops = s.fl.ops ++
      [⟨s.nextId, .nodeStore c n ((nd.port 0).pos + i), ix, some port, true, w64 pa,
        leBytes (elemBytes nd.word.type) ((b.data.getD i none).getD 0), []⟩] := by
  have hf : Machine.memStep s c n e x nd = putCell (sendOp (fillTlb s (nodeWho s x (laneAddr b i) (elemBytes nd.word.type)) (laneAddr b i))
      (.nodeStore c n ((nd.port 0).pos + i)) ix (some port) true (w64 pa) (leBytes (elemBytes nd.word.type) ((b.data.getD i none).getD 0))) c
      (laneDone x n i none 0) := by
    rw [h.memStep, h.laneStep, if_pos (by rw [hloc]; rfl), if_neg (by omega), laneRemote_store hloc hroute]
  obtain ⟨hmem, hfl, -⟩ := memEvent_notes (ok := fun w => w.kind == kMEM && w.mode == 1) h.toNodeFree (by simp [h.kind, hmode])
    hf (aget_aset_same ..) ((notes_refl h.node).laneDone i none 0)
  exact ⟨_, rfl, (congrArg Memory.bytes hmem).trans (fillTlb_bytes ..), (congrArg Flight.ops hfl).trans (by
    rw [putCell_fl, sendOp, sendRuns, fillTlb_fl, fillTlb_nextId])⟩

/-! ### A beat whose lanes have performed (R186) -/

/-- The lanes that a LOAD or an RMW sends for a beat. -/
def beatLanes (nd : Node) (b : MemBeat) : Lanes :=
  (List.range b.addr.length).map (fun i => match (memOf nd).out.find? (fun e => e.1 == i) with
    | some e => e.2
    | none => if i < b.k then laneHole nd i else none)

theorem beatLanes_performed {w : Option Nat} (h : (memOf nd).out.find? (fun q => q.1 == i) = some (i, w)) (hi : i < b.addr.length) :
    (beatLanes nd b).getD i none = w := by
  rw [beatLanes, range_map_getD, if_pos hi, h]

theorem beatDone_waits (h : Sends s c n x nd m p) (hmode : nd.word.mode ≠ 1) (b : MemBeat) :
    Leaves x (beatDone x n nd b) n nd [.data (beatLanes nd b)] := by
  have htaken := (waits_of_sentAll h.node h.formed).consume (memPorts nd)
  have hempty := htaken.setMem (fun _ hz => memOf_congr hz) (fun q => { q with out := [] })
  simp only [beatDone, if_neg hmode]
  exact (hempty.sendA h.isSome_outA (.data (beatLanes nd b))).setNode_leaves (fun _ => ⟨rfl, rfl⟩)

/-- A MEM node none of whose lanes is left sends what its beat has of values. -/
theorem memStep_beatDone {xs : List Lanes} (hbegun : (memOf nd).begun = true) (halone : memDone s x n nd = none)
    (hmore : (memPorts nd).all (fun k => (nd.port k).ended) = false)
    (hbeat : lockAct s x n nd (memPorts nd) (fun _ => 0) false = .beat xs) (hdue : lanesDue nd (memBeat nd xs) = []) :
    memStep s c n e x nd = putCell s c (beatDone x n nd (memBeat nd xs)) := by
  have hnone : laneNext nd (memBeat nd xs) e = none := by simp only [laneNext, hdue]
  simp only [memStep, halone, hbegun, hmore, hbeat, beatStep, hnone, Bool.not_true, Bool.false_eq_true, if_false]

theorem beat_leaves {xs : List Lanes} (h : Sends s c n x nd m p) (hkind : nd.word.kind = kMEM) (hmode : nd.word.mode ≤ 2)
    (hsends : nd.word.mode ≠ 1) (hbeat : lockAct s x n nd (memPorts nd) (fun _ => 0) false = .beat xs)
    (hf : memStep s c n e x nd = putCell s c (beatDone x n nd (memBeat nd xs))) :
    ∃ u, exec (if nd.word.mode = 0 then .memLoad c n e else .memRmw c n e) s = .next u ∧
      queueAt u c m p = queueAt s c m p ++ [.data (beatLanes nd (memBeat nd xs))] := by
  obtain ⟨st, hw⟩ := beatDone_waits h hsends (memBeat nd xs)
  have hsent (ok : NodeWord → Bool) (hok : ok nd.word = true) :=
    h.memEvent (f := memStep s c n e) hok (lockAct_beat hbeat).1 (by rw [hf]; exact aget_aset_same ..) hw (.inl (List.cons_ne_nil _ _))
  by_cases hload : nd.word.mode = 0
  · rw [if_pos hload]
    exact ⟨_, rfl, (hsent (fun w => w.kind == kMEM && w.mode == 0) (by simp [hkind, hload])).1⟩
  · rw [if_neg hload]
    exact ⟨_, rfl, (hsent (fun w => w.kind == kMEM && w.mode == 2) (by simp [hkind]; omega)).1⟩

end

end Sys2Proof
end

section
namespace Sys2Proof

open Machine

section
variable {s v : State} {c n m p : Nat} {x y : Cell} {nd : Node} {a b : List Token} {st : NodeState} {t : Token}

/-! ### What a node forms, whatever its tokens -/

theorem Waits.congr {w : Cell} (h : Waits x y n nd a st) (hw : w.nodes = y.nodes) : Waits x w n nd a st := by
  obtain ⟨hothers, hnode⟩ := h
  exact ⟨fun k hk => hw ▸ hothers k hk, hw ▸ hnode⟩

theorem Forms.congr {w : Cell} (h : Forms x y n nd a b) (hw : w.nodes = y.nodes) : Forms x w n nd a b := by
  obtain ⟨hothers, hnode⟩ := h
  exact ⟨fun k hk => hw ▸ hothers k hk, hw ▸ hnode⟩

theorem Forms.sendB_any (h : Forms x y n nd a b) (hout : nd.word.outB.isSome = true) (t : Token) :
    Forms x (Machine.sendB y n t) n nd a (b ++ onLink nd t) := by
  obtain ⟨z, hz, hw, ha, hb⟩ := h.node
  refine ⟨fun k hk => (setNode_ne _ hk).trans (h.others k hk), _, setNode_same _ hz, ?_⟩
  rw [if_neg (by rw [hw, Option.isNone_eq_false_iff.mpr hout]; decide)]
  exact ⟨hw, ha, by rw [hb, onLink_congr hw]⟩

/-! ### The end of a stream of a MEM node (R182) -/

/-- What a MEM node keeps behind a stream that has ended. -/
def doneEnds (q : MemState) : MemState :=
  { q with begun := false, streams := q.streams + 1, image := none, slot := none, out := [], count := 0 }

/-- Its ports, those of its elements ready for the next stream. -/
def donePorts (nd z : Node) : List Port :=
  (List.range z.ports.length).map (fun k => if (memPorts nd).contains k then resetPort 0 (z.port k) else z.port k)

/-- A LOAD and an RMW send DONE on OUTB, a STORE on every output. -/
def doneSends (nd : Node) (y : Cell) (n : Nat) (t : Token) : Cell := if nd.word.mode = 1 then sendBoth y n t else sendB y n t

/-- The cell of a MEM node that sends DONE. -/
def doneCell (s : State) (x : Cell) (n : Nat) (nd : Node) : Cell :=
  setNode (doneSends nd (doneSends nd x n (.done (memOf nd).count (nodeSig s x n))) n (.fin 0 (nodeSig s x n))) n
    (fun z => { z.withMem doneEnds with outPosA := 0, outPosB := 0, failing := false, ports := donePorts nd z })

/-- A MEM node whose ports have ended and whose accesses have performed sends DONE. -/
theorem doneEmit_step (hbegun : (memOf nd).begun = true) (hended : (memPorts nd).all (fun k => (nd.port k).ended) = true)
    (hops : nodeOps s c n = []) (hroom : roomAll x n = true) :
    ∃ f, exec (.doneEmit c n) s = .next (memEvent s c n (fun w => w.kind == kMEM && decide (w.mode ≤ 2)) f) ∧
      f x nd = slotEnds (putCell s c (doneCell s x n nd)) c n nd := by
  refine ⟨_, rfl, ?_⟩
  simp only [hbegun, hended, hops, hroom, List.isEmpty_nil, Bool.not_true, Bool.or_self, Bool.false_eq_true, if_false]
  rfl

/-- The slot of the stream is released, or filled: no node changes, and no memory. -/
theorem slotEnds_keeps (nd : Node) (hy : aget v.cells c = some y) :
    (slotEnds v c n nd).mem = v.mem ∧ ∃ w, aget (slotEnds v c n nd).cells c = some w ∧ w.nodes = y.nodes := by
  unfold slotEnds
  split
  · rename_i hfifo _
    exact ⟨updCell_mem .., updFifo_cell _ (nodeFifo_cell hfifo) hy⟩
  · exact ⟨rfl, y, hy, rfl⟩

theorem doneStep_cell (s : State) (c n : Nat) (x : Cell) (nd : Node) :
    (slotEnds (putCell s c (doneCell s x n nd)) c n nd).mem = s.mem ∧
      ∃ y, aget (slotEnds (putCell s c (doneCell s x n nd)) c n nd).cells c = some y ∧ y.nodes = (doneCell s x n nd).nodes :=
  slotEnds_keeps nd (aget_aset_same ..)

theorem keepsNodes_doneSends {α : Type} {g : Node → α} (nd : Node) (y : Cell) (n : Nat) (t : Token)
    (hg : ∀ (z : Node) (a b : List Token), g { z with pendA := a, pendB := b } = g z) : KeepsNodes g y (doneSends nd y n t) := by
  unfold doneSends
  split
  · exact (keepsNodes_sendA y n t (fun z a => hg z a z.pendB)).trans (keepsNodes_sendB _ n t (fun z b => hg z z.pendA b))
  · exact keepsNodes_sendB y n t (fun z b => hg z z.pendA b)

/-- The node behind its stream. -/
theorem doneCell_node (s : State) (hn : x.nodes[n]? = some nd) : ∃ z, (doneCell s x n nd).nodes[n]? = some z ∧ z.word = nd.word ∧
    z.ports = donePorts nd nd ∧ z.st = .mem (doneEnds (memOf nd)) := by
  have hsends (y : Cell) (t : Token) := keepsNodes_doneSends (g := fun z => (z.word, z.ports, z.st)) nd y n t (fun _ _ _ => rfl)
  obtain ⟨w, hw, hkeeps⟩ := ((hsends _ _).trans (hsends _ (.fin 0 (nodeSig s x n)))).node hn
  simp only [Prod.mk.injEq] at hkeeps
  obtain ⟨hword, hports, hst⟩ := hkeeps
  refine ⟨_, setNode_same _ hw, hword, ?_, ?_⟩
  · simp only [donePorts, Node.port, hports]
  · simp only [Node.withMem, memOf_congr hst]

/-- The ports of the next stream: no token is lost, and no position is ahead. -/
theorem donePorts_port {z : Node} (h : z.ports = donePorts nd nd) (k : Nat) :
    (z.port k).q = (nd.port k).q ∧ (z.port k).pos ≤ (nd.port k).pos := by
  by_cases hk : k < nd.ports.length
  · have hz : z.port k = if (memPorts nd).contains k then resetPort 0 (nd.port k) else nd.port k := by
      rw [Node.port, h, donePorts, List.getElem?_map, List.getElem?_range hk, Option.map_some, Option.getD_some]
    rw [hz]
    split
    · exact ⟨rfl, Nat.zero_le _⟩
    · exact ⟨rfl, Nat.le_refl _⟩
  · have hout (w : Node) (hw : w.ports.length = nd.ports.length) : w.port k = Port.idle := by
      rw [Node.port, List.getElem?_eq_none (by omega), Option.getD_none]
    rw [hout z (by rw [h, donePorts, List.length_map, List.length_range]), hout nd rfl]
    exact ⟨rfl, Nat.le_refl _⟩

theorem doneCell_waits (h : Sends s c n x nd m p) (hmode : nd.word.mode = 1) : Waits x (doneCell s x n nd) n nd
    [.done (memOf nd).count (nodeSig s x n), .fin 0 (nodeSig s x n)] (.mem (doneEnds (memOf nd))) := by
  have hsent := ((waits_of_sentAll h.node h.formed).sendBoth h.isSome_outA (.done (memOf nd).count (nodeSig s x n))).sendBoth
    h.isSome_outA (.fin 0 (nodeSig s x n))
  simp only [doneCell, doneSends, if_pos hmode]
  exact hsent.setNode (fun z => ⟨rfl, rfl, fun hz => by simp only [Node.withMem, memOf_congr hz]⟩)

theorem doneCell_forms (h : SendsB s c n x nd m p) (hmode : nd.word.mode ≠ 1) : Forms x (doneCell s x n nd) n nd []
    [.done (memOf nd).count (nodeSig s x n), .fin 0 (nodeSig s x n)] := by
  have hout : nd.word.outB.isSome = true := by rw [h.out, Option.isSome_some]
  have hsent := ((forms_of_sentAll h.node h.formed).sendB_any hout (.done (memOf nd).count (nodeSig s x n))).sendB_any
    hout (.fin 0 (nodeSig s x n))
  simp only [doneCell, doneSends, if_neg hmode]
  exact hsent.setNode (fun _ => ⟨rfl, rfl, rfl⟩)

end

/-- Settles O41: the lane that performs, by the way in which it does; a beat that is complete; the end of a stream. -/
theorem memoryNodes : Obligations.MemoryNodes := by
  unfold Obligations.MemoryNodes
  refine ⟨?lane, ?stream⟩
  case lane =>
    intro s c n e x nd b i r h
    exact ⟨fun hmode hhere hread hlives => h.loads hmode hhere hread hlives, fun a hmode hloc hmeta => h.stores hmode hloc hmeta,
      fun a hmode hloc hread hmeta hlives => h.modifies hmode hloc hread hmeta hlives,
      fun ix pa port hmode hloc hroute => h.asksPeer hmode hloc hroute, fun ix pa port hmode hloc hroute => h.storesPeer hmode hloc hroute⟩
  case stream =>
    intro s c n e x nd m p hkind hmode hbegun
    have hok : (nd.word.kind == kMEM && decide (nd.word.mode ≤ 2)) = true := by simp [hkind, hmode]
    refine ⟨fun xs h hsends halone hmore hbeat hdue => ?beat,
      fun hended hops hroom => ⟨fun h => ?ends, fun h hstore => ?doneA, fun h hsends => ?doneB⟩⟩
    case beat =>
      obtain ⟨u, hu, hq⟩ := beat_leaves (e := e) h hkind hmode hsends hbeat (memStep_beatDone hbegun halone hmore hbeat hdue)
      exact ⟨u, _, hu, hq, by rw [beatLanes, List.length_map, List.length_range], fun i v hfind hi =>
        beatLanes_performed hfind (by rwa [beatLanes, List.length_map, List.length_range] at hi)⟩
    all_goals
      obtain ⟨f, hexec, hf⟩ := doneEmit_step (c := c) hbegun hended hops hroom
      obtain ⟨hmem, y, hy, hnodes⟩ := doneStep_cell s c n x nd
      rw [← hf] at hmem hy
    case ends =>
      obtain ⟨z, hz, hword, hports, hst⟩ := doneCell_node s h.node
      rw [← hnodes] at hz
      obtain ⟨w, hw, hkeeps, -⟩ := memEvent_node h (ok := fun w => w.kind == kMEM && decide (w.mode ≤ 2)) hok hy hz
      have hkept := memOf_mem (hkeeps.trans hst)
      refine ⟨_, hexec, fun haway => ?_, w, hw, congrArg MemState.begun hkept, congrArg MemState.streams hkept,
        congrArg MemState.slot hkept, congrArg MemState.image hkept⟩
      obtain ⟨z1, hz1, hsame⟩ := emitPend_node_apart hz (fun b hb => haway b (.inl (hword ▸ hb))) (fun b hb => haway b (.inr (hword ▸ hb)))
      have hport := donePorts_port (hsame.trans hports)
      exact (memEvent_quiet h (ok := fun w => w.kind == kMEM && decide (w.mode ≤ 2)) hok hy hz1 (fun k => (hport k).1) (hport 0).2).1.trans hmem
    case doneA =>
      exact ⟨_, hexec, (h.memEvent hok hroom hy ((doneCell_waits h hstore).congr hnodes) (.inl (List.cons_ne_nil _ _))).sends⟩
    case doneB =>
      refine ⟨_, hexec, h.memEvent hok hroom hy ((doneCell_forms h hsends).congr hnodes) (List.cons_ne_nil _ _) (fun t ht => ?_)⟩
      obtain rfl := Option.some.inj ht
      rfl

end Sys2Proof
end
